-- ==== Sys2Proof/Word.lean ====
section
/-! DEFINITION. Words of the machine: the fixed widths that the spec treats as bits. -/

namespace Sys2Proof

/-- A byte of memory, of a register or of a frame. -/
abbrev Byte := BitVec 8
/-- A 16-bit value: a G16 or BF16 code, a half word. -/
abbrev Half := BitVec 16
/-- A 32-bit value: an FP32 code, a CC instruction, a counter of software. -/
abbrev Word := BitVec 32
/-- A 64-bit value: a CC register, a scratchpad word. -/
abbrev Long := BitVec 64

end Sys2Proof
end

