-- ==== Sys2Proof/Syntax.lean ====
section
/-! DEFINITION. The commands of the block: one constructor per row of spec/opcode_table.json, in the table's order. -/

namespace Sys2Proof

/-- An operand with the scratchpad words, by address, in which the code finds an error while the command runs, and whether the error cannot
be corrected (R81). -/
abbrev Met (α : Type) := α × List (Nat × Bool)

/-- An operand with the scratchpad words, by number in the bench's window, that the failure makes unreadable (R83, R535). -/
abbrev Losing (α : Type) := α × List Nat

/-- The name of a shard in a frame: TENSOR_ID and the four SHARD coordinates (R273, R277). -/
abbrev ShardName := Nat × List Nat

/-- A record of the in-site reduction, broadcast and tally traffic as it arrives: the fields of its 64 B header (R277)
and its payload. -/
structure Rec where
  /-- TENSOR_ID. -/
  tensor : Nat
  /-- SHARD: four shard indices. -/
  shard : List Nat
  /-- EPOCH. -/
  epoch : Nat
  /-- STEP. -/
  step : Nat
  /-- CHUNK. -/
  chunk : Nat
  /-- KIND. -/
  kind : Nat
  /-- FLAGS. -/
  flags : Nat
  /-- LEVEL. -/
  level : Nat
  /-- NODE. -/
  node : Nat
  /-- COUNT. -/
  count : Nat
  /-- SENDER. -/
  sender : Nat
  /-- ZEROED. -/
  zeroed : Nat
  /-- VERSION. -/
  version : Nat
  /-- STAMP. -/
  stamp : Nat
  /-- TALLY. -/
  tally : Nat
  /-- GBLOCKS. -/
  gblocks : Nat
  /-- The payload. -/
  data : List Byte
deriving DecidableEq, Repr


/-- Every field of a record lies in the width that its header gives it (R277). -/
def Rec.wf (r : Rec) : Bool :=
  decide (r.tensor < 2 ^ 32 ∧ r.shard.length = 4 ∧ (∀ x ∈ r.shard, x < 65536) ∧ r.epoch < 2 ^ 32 ∧ r.step < 2 ^ 32 ∧ r.chunk < 65536
    ∧ r.flags < 256 ∧ r.level < 256 ∧ r.node < 65536 ∧ r.count < 65536 ∧ r.sender < 65536 ∧ r.zeroed < 2 ^ 32 ∧ r.version < 2 ^ 32
    ∧ r.stamp < 2 ^ 64 ∧ r.tally < 2 ^ 64 ∧ r.gblocks < 65536)


/-- What the governor reads in a tick (R600). -/
structure GovIn where
  /-- Input voltage, mV. -/
  vin : Nat
  /-- Input current, mA, 1 ms mean. -/
  iin : Nat
  /-- Input power, W, 1 ms mean. -/
  pin : Nat
  /-- Core-rail current of the module, A, 1 ms mean. -/
  core : Nat
  /-- Hot spots of F0 to F3, °C. -/
  face : List Nat
  /-- Weighbridge hot spot, °C. -/
  wb : Nat
  /-- Stack temperatures, °C. -/
  stackTemps : List Nat
  /-- Cold-plate inlet, °C. -/
  plate : Nat
deriving DecidableEq, Repr

/-- Readings of the sizes that the module has sensors for. -/
def GovIn.wf (g : GovIn) : Bool := decide (g.face.length = 4 ∧ g.stackTemps.length = 9)

/-- What a board port finds in training and qualification (R421, R428, R429). -/
structure PortFind where
  /-- Signal was seen. -/
  signal : Bool
  /-- SLOT_ID received. -/
  slot : Nat
  /-- Training succeeds. -/
  trains : Bool
  /-- Bit errors of lanes 0 to 17 over the window. -/
  errs : List Nat
  /-- Lanes with a 5,440-bit block of more than 10 bad symbols. -/
  burst : List Nat
deriving DecidableEq, Repr

/-- What host memory brings to a command of Psiam: the bytes of its parameter buffer, how many bytes of its buffers pass before a
PCIe error stops the transfer, if one does, and whether the write of its completion fails (R457, R459, R462). -/
structure HostIo where
  /-- The parameter buffer, IN_LEN bytes. -/
  buf : List Byte
  /-- Bytes that pass before a failure of the buffer transfer; none: no failure. -/
  fail : Option Nat
  /-- The write of the completion fails. -/
  cqFails : Bool
deriving DecidableEq, Repr

/-- A 2 KiB block of a checkpoint as a STOCKPILE frame carries it, with its block state and poison flags (R261, R558). -/
structure CkptBlock where
  /-- Checkpoint offset, a multiple of 2,048. -/
  off : Nat
  /-- Block state: 0 PLAIN, 1 to 31 sectors CODED, 255 RAW. -/
  code : Nat
  /-- Lines of the block whose poison flag is set. -/
  poison : List Nat
  /-- Stored bytes: 64 for each sector of a coded block, else 2,048. -/
  data : List Byte
deriving DecidableEq, Repr

/-- A block of a size that its state calls for. -/
def CkptBlock.wf (b : CkptBlock) : Bool :=
  decide (b.off % 2048 = 0 ∧ (∀ n ∈ b.poison, n < 32) ∧ (b.code < 32 ∨ b.code = 255)
    ∧ b.data.length = if b.code = 0 ∨ b.code = 255 then 2048 else 64 * b.code)

/-- What the buddy answers to a request of this module (R442, R502). -/
structure BuddyAns where
  /-- Its stockpile serves another module. -/
  taken : Bool
  /-- Size of its stockpile, GiB. -/
  gib : Nat
  /-- COMPLETE checkpoints it holds for this module: JOB_TAG, BUILD_ID, STEP and bytes. -/
  held : List (Nat × Nat × Nat × Nat)
deriving DecidableEq, Repr

/-- The commands of the TM-9 as a block. An operand is what the command brings from outside the module: an address,
bytes of a request or a frame, a reading, or the outcome of a physical test. -/
inductive Instr where
  /-- PERST_DEASSERT (R516): Deassertion of PERST# makes the module read SLOT_ID, clear every processor's code memory and bring up its PCIe link. -/
  | perstDeassert (slot : Nat)
  /-- PERST_ASSERT (R614): Assertion of PERST# applies a fundamental reset, and is ignored during an orderly power-down. -/
  | perstAssert (writing : Bool)
  /-- INPUT_AUX_START (R622): The input stays above 58 V for 10 ms, so the auxiliary domain starts and PMBus begins to answer. -/
  | inputAuxStart (mv : Nat)
  /-- INPUT_AUX_STOP (R622): The input falls below 55 V, so the auxiliary domain stops and the fault latch is lost. -/
  | inputAuxStop (mv : Nat)
  /-- PWR_EN_RISE (R622): PWR_EN rises, and conversion starts or waits until its conditions hold. -/
  | pwrEnRise
  /-- CONVERSION_START (R622): Once input, fault latch and cold-plate conditions hold, the 88 phases come up and PGOOD is released. -/
  | conversionStart (mv plate : Nat)
  /-- PWR_EN_FALL (R622): Orderly power-down: benches stop, the wear bins and logbook state are written, conversion stops and PGOOD falls. -/
  | pwrEnFall
  /-- PWR_EN_LOW_RELEASE (R622): After PWR_EN has been low for 10 ms, FAULT# and THERMTRIP# are released. -/
  | pwrEnLowRelease
  /-- RAIL_OUT_OF_REGULATION (R622): A main rail leaves regulation, and PGOOD falls within 10 us. -/
  | railOutOfRegulation
  /-- INPUT_OUT_OF_RANGE (R593): The input lies in 60-64 V or 78-82 V for more than 1 ms, so the governor limits input current. -/
  | inputOutOfRange (mv : Nat)
  /-- INPUT_FAULT_STOP (R593): The input lies outside 60-82 V for 10 ms, so conversion stops and FAULT# is latched. -/
  | inputFaultStop (mv : Nat)
  /-- THERMTRIP (R605): A hot-spot sensor reaches 110 C, so THERMTRIP# is asserted and conversion stops in hardware. -/
  | thermtrip (temp : Nat)
  /-- REG_PHASE_FAULT (R594): A stage-1 phase reports a fault and is turned off, and a spare phase replaces it. -/
  | regPhaseFault (phase : Nat)
  /-- GOVERNOR_TICK (R600): Every 50 us the governor reads its inputs, evaluates every limit and applies the throttle k, the set point and the boost account. -/
  | governorTick (g : GovIn)
  /-- CORE_CURRENT_TRIP (R598): Core current crosses 1,400 A at V_LO with k of 1 or less, so hardware sets k to 2 within one group. -/
  | coreCurrentTrip
  /-- DROOP_DETECT (R597): A droop detector sees the core rail 30 mV low and skips core pulses of that face until the rail recovers. -/
  | droopDetect (face : Nat)
  /-- CLOCK_REF_LOST (R599): The reference stops, so the root PLL enters holdover and the event is raised. -/
  | clockRefLost
  /-- REFCLK_RETURN (R599): The reference returns, and the PLL relocks without a phase step. -/
  | refclkReturn
  /-- WEAR_BIN_HOUR (R603): Each powered hour the governor writes its V_HI time bins into the logbook state. -/
  | wearBinHour
  /-- COOLANT_INLET_RANGE (R626): The cold-plate inlet reading stays outside 15-40 C for 10 s, and the event is raised at most once per minute. -/
  | coolantInletRange (temp : Nat)
  /-- JTAG_BYPASS (R618): The TAP BYPASS instruction is loaded. -/
  | jtagBypass
  /-- JTAG_IDCODE (R618): The TAP IDCODE instruction is loaded and returns the identity code. -/
  | jtagIdcode
  /-- JTAG_SAMPLE_PRELOAD (R618): The TAP SAMPLE/PRELOAD instruction is loaded. -/
  | jtagSamplePreload (lands cells : Nat)
  /-- JTAG_EXTEST (R618): EXTEST drives the sideband boundary cells while PERST# is low, and acts as BYPASS otherwise. -/
  | jtagExtest (cells : Nat)
  /-- JTAG_PRIVATE_SCAN (R416): A private internal-scan instruction first clears every secret, then takes effect and stops the processors. -/
  | jtagPrivateScan
  /-- CLEAR_FAULTS (R606): PMBus CLEAR_FAULTS clears status bits whose cause has ended. -/
  | clearFaults
  /-- STATUS_WORD (R606): PMBus read of the status word. -/
  | statusWord
  /-- STATUS_INPUT (R606): PMBus read of the input status. -/
  | statusInput
  /-- STATUS_TEMPERATURE (R606): PMBus read of the temperature status. -/
  | statusTemperature
  /-- READ_VIN (R606): PMBus read of the input voltage. -/
  | readVin
  /-- READ_IIN (R606): PMBus read of the input current. -/
  | readIin
  /-- READ_TEMPERATURE_1 (R606): PMBus read of the hottest face hot spot. -/
  | readTemperature1
  /-- READ_TEMPERATURE_2 (R606): PMBus read of the weighbridge hot spot. -/
  | readTemperature2
  /-- READ_TEMPERATURE_3 (R606): PMBus read of the hottest stack. -/
  | readTemperature3
  /-- READ_PIN (R606): PMBus read of the input power. -/
  | readPin
  /-- PMBUS_REVISION (R606): PMBus read of the revision, 0x33. -/
  | pmbusRevision
  /-- MFR_ID (R606): PMBus block read of the manufacturer identity. -/
  | mfrId
  /-- MFR_MODEL (R606): PMBus block read of the model. -/
  | mfrModel
  /-- MFR_POWER_CAP (R606): PMBus read or write of the power cap; a write outside 1,000-2,500 W is NACKed. -/
  | mfrPowerCap (write : Option Nat)
  /-- MFR_GOV_STATE (R607): PMBus read of the governor state. -/
  | mfrGovState
  /-- MFR_WEAR (R606): PMBus read of the wear account. -/
  | mfrWear
  /-- MFR_STACK_TEMPS (R606): PMBus block read of the stack temperatures. -/
  | mfrStackTemps
  /-- MFR_PHASES (R606): PMBus read of the phase counts. -/
  | mfrPhases
  /-- MFR_BOOST_EN (R606): PMBus read or write of the boost enable. -/
  | mfrBoostEn (write : Option Nat)
  /-- PMBUS_UNSUPPORTED (R606): An unsupported PMBus command is NACKed and recorded in STATUS_CML. -/
  | pmbusUnsupported (code : Nat)
  /-- REGISTER_WRITE (R7): A write to a BAR0 or BAR2 register that has no row of its own, including accesses of the wrong size. -/
  | registerWrite (func bar off size val : Nat)
  /-- ERR_SUMMARY_W1C (R449): A W1C write to ERR_SUMMARY clears bits, which set again while their condition holds. -/
  | errSummaryW1c (val : Nat)
  /-- CMDQ_DOORBELL_WRITE (R455): A host write of PI to CMDQn_DB sets PENDING. -/
  | cmdqDoorbellWrite (func ring pi : Nat)
  /-- RING_ENABLE_WRITE (R454): A write of ENABLE to CMDQn_CFG or EVQ_CFG resets the indices, or discards unstarted commands. -/
  | ringEnableWrite (func which val : Nat)
  /-- CQ_HEAD_WRITE (R456): A host write of CQn_HEAD frees completion space, and held completions are written. -/
  | cqHeadWrite (func ring head : Nat)
  /-- EVQ_HEAD_WRITE (R462): A host write of EVQ_HEAD frees event space. -/
  | evqHeadWrite (func head : Nat) (fails : Bool)
  /-- EVQ_LOST_W1C (R453): A W1C write clears the dropped-event count of EVQ_LOST. -/
  | evqLostW1c (func val : Nat)
  /-- APERTURE_WRITE (R464): A write of APERTURE rebases the BAR4 window for later requests. -/
  | apertureWrite (func val : Nat)
  /-- BAR4_READ (R465): A host BAR4 read is checked and reaches device memory, or is refused with all ones. -/
  | bar4Read (func off : Nat) (len : Met Nat)
  /-- BAR4_WRITE (R465): A posted host BAR4 write is checked and written, compressed where the page requires it. -/
  | bar4Write (func off : Nat) (data : Met (List Byte))
  /-- MP_RING_SERVICE (R455): The MP serves a ring whose PENDING is set: it reads PI, clears PENDING and fetches descriptors. -/
  | mpRingService (func ring : Nat) (descs : List (List Byte)) (fails : Bool)
  /-- MSIX_COAL_TIMER (R463): COAL_TIME passes since the first uncounted entry, so an MSI-X interrupt is raised. -/
  | msixCoalTimer (func queue : Nat)
  /-- MP_SWITCHED (R537): The MP lockstep pair disagrees, so the standby pair takes over and started commands abort. -/
  | mpSwitched (writing : Bool)
  /-- PART_RESET_REFUSAL_RECEIVE (R471): A sender receives a PART_RESET control frame and keeps its frame for resending. -/
  | partResetRefusalReceive (dst tag type : Nat) (body : List Byte)
  /-- PART_RESET_FRAME_RETRY (R471): Every 10 us a sender resends a frame that was refused by a partition reset. -/
  | partResetFrameRetry
  /-- JOB_CLOSED_RECEIVE (R471): A JOB_CLOSED control frame arrives, and the sender breaks its board conveyors of that job. -/
  | jobClosedReceive (src tag : Nat)
  /-- PSM_IDENTIFY (R481): Returns the interface and firmware identity. -/
  | psmIdentify (func ring : Nat) (io : HostIo)
  /-- PSM_PART_CONFIG (R482): Replaces a partition's rows, VF, contexts and key slots. -/
  | psmPartConfig (func ring : Nat) (io : HostIo)
  /-- PSM_PAGE_ASSIGN (R484): Assigns pages to a partition. -/
  | psmPageAssign (func ring : Nat) (io : HostIo)
  /-- PSM_PAGE_RELEASE (R485): Releases and zeroes pages. -/
  | psmPageRelease (func ring : Nat) (io : HostIo)
  /-- PSM_MASTER_THAW (R469): Thaws a frozen master. -/
  | psmMasterThaw (func ring : Nat) (io : HostIo)
  /-- PSM_PARTITION_RESET (R470): Stops, closes and zeroes a partition's jobs, keys and bench state. -/
  | psmPartitionReset (func ring : Nat) (io : HostIo)
  /-- PSM_PATH_SET (R500): Replaces site-port path entries, the peer table and the EtherType. -/
  | psmPathSet (func ring : Nat) (io : HostIo)
  /-- PATH_REMOVE_DONE (R500): The long part of a path change ends once no flow remains on a removed port. -/
  | pathRemoveDone
  /-- PSM_JOB_OPEN (R490): Opens a primary or filler job in a context. -/
  | psmJobOpen (func ring : Nat) (io : HostIo)
  /-- PSM_WORKINGS_LOAD (R492): Checks and loads a workings image, fills code caches, writes the initial records and offers bindings. -/
  | psmWorkingsLoad (func ring : Nat) (io : HostIo)
  /-- PSM_JOB_RUN (R493): Releases the job's first step. -/
  | psmJobRun (func ring : Nat) (io : HostIo)
  /-- PSM_JOB_STOP_BOUNDARY (R494): Stops the job at the next step boundary, as a long command. -/
  | psmJobStopBoundary (func ring : Nat) (io : HostIo)
  /-- JOB_STOP_BOUNDARY_DONE (R494): The running tasks and the hosted nodes have drained, so the job closes and LONG_DONE is raised. -/
  | jobStopBoundaryDone (job : Nat)
  /-- PSM_JOB_STOP_NOW (R494): Stops the context at once and closes the job. -/
  | psmJobStopNow (func ring : Nat) (io : HostIo)
  /-- PSM_JOB_PAUSE (R495): Sends a pause notice so that the job holds at the next step or round boundary. -/
  | psmJobPause (func ring : Nat) (io : HostIo)
  /-- PSM_JOB_RESUME (R495): Sends a resume notice, and the job releases its next step. -/
  | psmJobResume (func ring : Nat) (io : HostIo)
  /-- PSM_REPLICA_REMOVE (R496): Removes a replica from the set at an effective step. -/
  | psmReplicaRemove (func ring : Nat) (io : HostIo)
  /-- PSM_REPLICA_READMIT (R496): Readmits a replica at an effective step. -/
  | psmReplicaReadmit (func ring : Nat) (io : HostIo)
  /-- PSM_RESHARD (R497): Accepts a re-shard to a new epoch at an effective step. -/
  | psmReshard (func ring : Nat) (io : HostIo)
  /-- PSM_ROUND_POLICY (R498): Accepts the outer-round policy. -/
  | psmRoundPolicy (func ring : Nat) (io : HostIo)
  /-- PSM_SITE_ADMIT (R499): Adds a joining partner site. -/
  | psmSiteAdmit (func ring : Nat) (io : HostIo)
  /-- PSM_KEY_INSTALL (R403): INSTALL action: unwraps a key into an EMPTY slot. -/
  | psmKeyInstall (func ring : Nat) (io : HostIo)
  /-- PSM_KEY_INSTALL_NEXT (R403): INSTALL_NEXT action: unwraps a key into NEXT. -/
  | psmKeyInstallNext (func ring : Nat) (io : HostIo)
  /-- PSM_KEY_ACTIVATE (R403): ACTIVATE action: rotates CURRENT to PREVIOUS and NEXT to CURRENT. -/
  | psmKeyActivate (func ring : Nat) (io : HostIo)
  /-- PSM_KEY_ERASE (R403): ERASE action: zeroes every key of a slot. -/
  | psmKeyErase (func ring : Nat) (io : HostIo)
  /-- PSM_KEY_MODULE_KEY (R402): MODULE_KEY action: replaces the module key. -/
  | psmKeyModuleKey (func ring : Nat) (io : HostIo)
  /-- PSM_CHECKPOINT_CONFIG (R502): CONFIG action: binds the buddy and sets the carve-out. -/
  | psmCheckpointConfig (func ring : Nat) (io : HostIo) (ans : BuddyAns)
  /-- PSM_CHECKPOINT_SAVE (R502): SAVE action: accepts a checkpoint of the primary job to the buddy. -/
  | psmCheckpointSave (func ring : Nat) (io : HostIo) (ans : BuddyAns)
  /-- PSM_CHECKPOINT_RESTORE (R564): RESTORE action: starts rebuilding the job from the buddy's checkpoint. -/
  | psmCheckpointRestore (func ring : Nat) (io : HostIo) (ans : BuddyAns)
  /-- PSM_CHECKPOINT_DISCARD (R502): DISCARD action: the buddy discards this job's checkpoint. -/
  | psmCheckpointDiscard (func ring : Nat) (io : HostIo) (ans : BuddyAns)
  /-- PSM_CHECKPOINT_QUERY (R502): QUERY action: returns the state of the buddy and the stockpile. -/
  | psmCheckpointQuery (func ring : Nat) (io : HostIo) (ans : BuddyAns)
  /-- PSM_EXPORT_SHARD_EXPORT (R503): EXPORT action: writes an encrypted shard object. -/
  | psmExportShardExport (func ring : Nat) (io : HostIo) (faulty : Bool)
  /-- PSM_EXPORT_SHARD_IMPORT (R504): IMPORT action: checks and installs an encrypted shard object. -/
  | psmExportShardImport (func ring : Nat) (io : HostIo)
  /-- PSM_COPY_TO_DEVICE (R505): A copy engine moves host data into device memory. -/
  | psmCopyToDevice (func ring : Nat) (io : Met HostIo)
  /-- PSM_COPY_TO_HOST (R505): A copy engine moves device data to the host. -/
  | psmCopyToHost (func ring : Nat) (io : Met HostIo)
  /-- PSM_TELEMETRY (R506): Returns records of the requested kind. -/
  | psmTelemetry (func ring : Nat) (io : HostIo)
  /-- PSM_SPARE_STATUS (R510): Returns the spare counts of each class. -/
  | psmSpareStatus (func ring : Nat) (io : HostIo)
  /-- PSM_SELFTEST_POLICY (R511): Sets the self-test policy. -/
  | psmSelftestPolicy (func ring : Nat) (io : HostIo)
  /-- PSM_FW_CHUNK (R512): Stages one firmware chunk. -/
  | psmFwChunk (func ring : Nat) (io : HostIo)
  /-- PSM_FW_ACTIVATE (R513): Accepts activation of the staged image. -/
  | psmFwActivate (func ring : Nat) (io : HostIo)
  /-- FW_ACTIVATE_END (R586): Verification and the slot write end, the slot is marked, and LONG_DONE is raised. -/
  | fwActivateEnd (mismatch : Bool)
  /-- FW_DATAGRAM_RECEIVE (R584): A firmware control-channel datagram arrives on a site port and is assembled and staged. -/
  | fwDatagramReceive (port mac : Nat) (data : List Byte)
  /-- BOOT_STEP_POWER (R520): Boot step POWER, selected by GO: checks the input and brings up the phases. -/
  | bootStepPower (mv : Nat) (bad : List Nat) (us : Nat)
  /-- BOOT_STEP_CLOCK (R520): Boot step CLOCK: locks the PLL at the operating point and starts the timebase. -/
  | bootStepClock (locks : List Nat) (ns us : Nat)
  /-- BOOT_STEP_FUSE (R520): Boot step FUSE: reads the fuses and logbook and builds the spare map. -/
  | bootStepFuse (fuseOk crcA crcB : Bool) (us : Nat)
  /-- BOOT_STEP_ROM (R520): Boot step ROM: chooses a slot and checks its header. -/
  | bootStepRom (agree : Bool) (us : Nat)
  /-- BOOT_STEP_IMAGE (R520): Boot step IMAGE: verifies and starts Psiam and loads the link-engine firmware. -/
  | bootStepImage (startOk : Bool) (us : Nat)
  /-- BOOT_STEP_MEMORY (R520): Boot step MEMORY: trains, tests, spares and zeroes the stacks. -/
  | bootStepMemory (reach : Bool) (bad : List Nat) (ppr : List (Nat × Nat)) (us : Nat)
  /-- BOOT_STEP_FACES (R520): Boot step FACES: trains and repairs the die-to-die links. -/
  | bootStepFaces (badWires noTrain : List Nat) (us : Nat)
  /-- BOOT_STEP_BENCH_LOAD (R533): Boot step BENCH_LOAD: places and loads the bench images and the GXE microcode. -/
  | bootStepBenchLoad (placed : Bool) (bad : List Nat) (us : Nat)
  /-- BOOT_STEP_BENCH_TEST (R520): Boot step BENCH_TEST: tests the benches and builds the bench map. -/
  | bootStepBenchTest (bad rows : List Nat) (us : Nat)
  /-- BOOT_STEP_CIPHER (R520): Boot step CIPHER: known-answer tests, spare core placement and key store clearing. -/
  | bootStepCipher (bad : List Nat) (ok : Bool) (us : Nat)
  /-- BOOT_STEP_BOARD (R428): Boot step BOARD: trains and qualifies the board ports. -/
  | bootStepBoard (finds : List PortFind) (us : Nat)
  /-- BOOT_STEP_SITE (R433): Boot step SITE: trains the fitted site ports. -/
  | bootStepSite (fitted trained : List Nat) (us : Nat)
  /-- BOOT_STEP_TIME (R439): Boot step TIME: locks the timebase with the board. -/
  | bootStepTime (us : Nat)
  /-- TIME_FRAME_RECEIVE (R439): A TIME frame names V, and the module loads TB at the next TSYNC edge. -/
  | timeFrameReceive (v : Nat)
  /-- BOOT_STEP_READY (R520): Boot step READY: burns fuses, resets the shared pointers and sets READY. -/
  | bootStepReady (us : Nat)
  /-- ALU (R70): CC arithmetic and logic instruction. -/
  | alu (lb ctx d a b fn : Nat)
  /-- ADDI (R70): CC add-immediate instruction. -/
  | addi (lb ctx d a imm : Nat)
  /-- ORSH (R70): CC shift-or instruction that builds constants. -/
  | orsh (lb ctx d imm : Nat)
  /-- LD (R70): CC 64-bit scratchpad load. -/
  | ld (lb ctx d a imm ecc : Nat)
  /-- ST (R70): CC 64-bit scratchpad store. -/
  | st (lb ctx d a imm : Nat)
  /-- BEQ (R70): CC branch if equal. -/
  | beq (lb ctx d a imm : Nat)
  /-- BNE (R70): CC branch if not equal. -/
  | bne (lb ctx d a imm : Nat)
  /-- BLT (R70): CC branch if less, signed. -/
  | blt (lb ctx d a imm : Nat)
  /-- JMP (R70): CC unconditional branch. -/
  | jmp (lb ctx off : Nat)
  /-- MXE (R70): CC instruction that issues an MXE command into the context's queue. -/
  | mxe (lb ctx a b fn : Nat)
  /-- VSE (R74): CC instruction that issues a stream and captures its scalars. -/
  | vse (lb ctx a b : Nat)
  /-- TPUT (R91): CC instruction that sends a tile to an output conveyor. -/
  | tput (lb ctx a b : Nat) (fn : Met Nat)
  /-- TPUT_SLOT_GRANT (R224): A slot or credit frees, and a waiting TPUT sends its tile. -/
  | tputSlotGrant (job conv : Nat)
  /-- TFREE (R70): CC instruction that releases an input slot to its conveyor. -/
  | tfree (lb ctx fn : Nat)
  /-- WAIT (R70): CC instruction that waits for issued work. -/
  | wait (lb ctx fn : Nat)
  /-- TEND (R92): CC instruction that ends the task; the bench reaches a tile boundary and selects its next task. -/
  | tend (lb ctx : Nat)
  /-- CSRR (R70): CC read of a status register. -/
  | csrr (lb ctx d imm : Nat)
  /-- FENCE (R70): CC ordering fence. -/
  | fence (lb ctx : Nat)
  /-- NOP (R70): CC instruction with no effect. -/
  | nop (lb ctx : Nat)
  /-- PRODUCT (R113): MXE command that computes a product block by block and disposes of it by OUT_MODE. -/
  | product (lb ctx : Nat) (errs : List (Nat × Bool)) (pathFault : List Nat)
  /-- ACC_STORE (R107): MXE command that writes the accumulators to the scratchpad. -/
  | accStore (lb ctx : Nat)
  /-- ACC_LOAD (R107): MXE command that loads the accumulators and sets ACC_LIVE. -/
  | accLoad (lb ctx : Nat) (errs : List (Nat × Bool))
  /-- ACC_RELEASE (R107): MXE command that clears ACC_LIVE. -/
  | accRelease (lb ctx : Nat)
  /-- VSE_STREAM (R161): A queued stream starts once the previous one completes, runs its program over every place and completes. -/
  | vseStream (lb ctx : Nat) (errs : List (Nat × Bool))
  /-- TILE_LAND (R631): A tile's last word lands in its conveyor slot, READY counts it and tasks are formed and queued. -/
  | tileLand (job conv home word : Nat)
  /-- STEAL_REQUEST (R97): A steal request arrives at a victim, which grants or refuses it. -/
  | stealRequest (victim : Nat) (thieves : List Nat)
  /-- STEAL_GRANT (R98): A grant with a descriptor arrives at the thief, which queues the task. -/
  | stealGrant (thief : Nat)
  /-- STEAL_REFUSAL (R98): A refusal arrives, and the thief excludes that victim. -/
  | stealRefusal (thief : Nat)
  /-- STEAL_TIMEOUT (R98): 256 fabric cycles pass without an answer, so the request counts as refused. -/
  | stealTimeout (thief : Nat)
  /-- LOCKSTEP_SIGNATURE (R100): The pair's signatures are compared, and the tile is sent or a vote is called. -/
  | lockstepSignature (lb ctx : Nat)
  /-- LOCKSTEP_VOTE (R102): The voter runs the task at its next tile boundary, and its signature decides the vote. -/
  | lockstepVote (voter : Nat)
  /-- STEP_BOUNDARY (R57): FIRST_STATION releases its first task of a new step; pairs form and replica-set changes apply. -/
  | stepBoundary (job : Nat)
  /-- HELD_TASK_RELEASE (R196): A held task is released once its commits, versions and round results are in place. -/
  | heldTaskRelease (job : Nat)
  /-- JOB_STEP_LIMIT_STOP (R58): The last step's tasks complete at STEP_LIMIT, so the job stops. -/
  | jobStepLimitStop (job : Nat)
  /-- BENCH_FAILED (R534): A bench fails in service: both contexts stop and its tasks are re-issued. -/
  | benchFailed (lb : Nat) (cause : Losing Nat)
  /-- BENCH_SPARED (R536): At the partition's step boundary a spare takes the failed logical bench and its window store is copied. -/
  | benchSpared (lb : Nat)
  /-- SPD_ROW_SPARED (R82): At the next step boundary a scratchpad row is retired onto a spare row. -/
  | spdRowSpared (lb : Nat) (row : Losing Nat)
  /-- BOARD_TILE_RECEIVE (R217): A TILE frame lands from a board port and its tile is framing- and parity-checked. -/
  | boardTileReceive (port tag conv : Nat) (words : List (Nat × List Byte))
  /-- FEED_WORD_RECEIVE (R230): A feed-channel word lands in the channel buffer. -/
  | feedWordReceive (chan : Nat) (word payload : List Byte)
  /-- FEED_BUFFER_DRAIN (R230): Waiting feed words move into conveyor slots as slots free. -/
  | feedBufferDrain (chan : Nat)
  /-- BOARD_CONV_BIND (R231): A peer's binding offer arrives, and the two ends are bound with initial credits. -/
  | boardConvBind (tag slot peerIndex index slots : Nat)
  /-- CONV_CREDIT_RECEIVE (R232): A credit message returns one credit to the sending end. -/
  | convCreditReceive (tag index : Nat)
  /-- CONV_HOLD_RECEIVE (R232): A HOLD message holds the producer station at the sending end. -/
  | convHoldReceive (tag index : Nat)
  /-- CONV_RELEASE_RECEIVE (R232): A RELEASE message ends that hold. -/
  | convReleaseReceive (tag index : Nat)
  /-- MEM_READ (R247): A read request reaches a stack controller, with ECC, poison and decoding applied. -/
  | memRead (addr row ecc : Nat)
  /-- MEM_WRITE (R248): A plain write request is applied to its line, with its poison flag and block state. -/
  | memWrite (addr : Nat) (data : List Byte) (poison : Bool) (cls : Option Nat)
  /-- MEM_ACC_WRITE (R253): An accumulating write adds the incoming values into the stored ones. -/
  | memAccWrite (job addr tensor : Nat) (elems : List (Nat × Bool × Nat × Nat))
  /-- MEM_PATROL (R251): The patrol reads lines in idle cycles so that each line is read once per 24 hours. -/
  | memPatrol (stack row ecc : Nat)
  /-- STACK_FAILED (R264): A stack fails: the logical stack is marked failed, jobs stop memory-lost and checkpoints are discarded. -/
  | stackFailed (stack : Nat)
  /-- STACK_REBUILT (R265): The test and zeroing of the spare complete, and the failed logical stack now maps onto it. -/
  | stackRebuilt (stack : Nat)
  /-- LAYER_COMMIT (R197): Once a layer's step tasks reach TEND, the headroom, loss-scale, update-exponent and ratio rules run. -/
  | layerCommit (job layer : Nat)
  /-- CONTRIB_RECEIVE (R279): A CONTRIB record reaches its node and is included, folded or dropped. -/
  | contribReceive (tag : Nat) (r : Rec) (sameBoard : Bool)
  /-- PARTIAL_RECEIVE (R279): A PARTIAL record reaches its parent node and is included, folded or dropped. -/
  | partialReceive (tag : Nat) (r : Rec) (sameBoard : Bool)
  /-- REDUCE_WINDOW_CLOSE (R279): A node's window closes, so it forwards with the inputs present and counts missing ones. -/
  | reduceWindowClose (job station chunk level node : Nat)
  /-- REDUCE_NODE_DONE (R278): A node's arithmetic completes, and it sends a PARTIAL or, at the root, a RESULT. -/
  | reduceNodeDone (job station chunk level node : Nat) (refusing : List Nat)
  /-- RESULT_RECEIVE (R294): A RESULT lands in a commit slot or is refused, and update tasks are released. -/
  | resultReceive (tag : Nat) (r : Rec)
  /-- RESULT_RESEND (R294): Every 10 us the root resends a refused RESULT. -/
  | resultResend (job : Nat) (refusing : List Nat)
  /-- SCALE_RECEIVE (R292): The standby writes the SCALE record into its shard record and accepts it. -/
  | scaleReceive (tag : Nat) (r : Rec)
  /-- SCALE_ACCEPT_RECEIVE (R292): The owner receives the standby's acceptance and may release update tasks. -/
  | scaleAcceptReceive (tag : Nat) (tensor : ShardName) (step replica : Nat)
  /-- VERSION_RECEIVE (R293): A VERSION record is installed if its version is newer, and an ACK or tally follows. -/
  | versionReceive (tag : Nat) (r : Rec)
  /-- STATE_RECEIVE (R293): A STATE record of optimiser state lands at the standby. -/
  | stateReceive (tag : Nat) (r : Rec)
  /-- VERSION_ACK_RECEIVE (R294): An ACK record reaches the owner or standby, which releases the commit slot once every member has acknowledged. -/
  | versionAckReceive (tag : Nat) (r : Rec)
  /-- TALLY_RECEIVE (R298): A TALLY reaches the owner, which compares it and sends REFRESH on a mismatch. -/
  | tallyReceive (tag : Nat) (r : Rec)
  /-- REFRESH_RECEIVE (R293): A REFRESH record installs the owner's copy even at equal version. -/
  | refreshReceive (tag : Nat) (r : Rec)
  /-- REINSTALL_TIMEOUT (R305): A holder has been behind for ACK_NS, so it sends a REINSTALL request. -/
  | reinstallTimeout (job rank : Nat)
  /-- REINSTALL_RECEIVE (R305): The owner answers a REINSTALL request with VERSION records. -/
  | reinstallReceive (tag : Nat) (r : Rec)
  /-- ACK_TIMEOUT (R300): ACK_NS passes without acknowledgement, so the owner resends; after 2 x ACK_NS it declares the replica lost. -/
  | ackTimeout (job rank : Nat)
  /-- PEER_DOWN_TIMEOUT (R300): The paths to a holder stay down for 1 ms, so the replica is declared lost. -/
  | peerDownTimeout (job replica : Nat) (port : Option Nat)
  /-- REPLICA_LOST_NOTICE (R300): A replica-loss notice arrives and sets the effective step of the removal. -/
  | replicaLostNotice (tag replica step : Nat)
  /-- TAKEOVER_TIMEOUT (R302): TAKEOVER_NS passes without the owner's VERSION, so the standby takes over. -/
  | takeoverTimeout (job rank : Nat)
  /-- OWNER_TAKEOVER_NOTICE (R302): An OWNER_TAKEOVER notice reaches a holder, which follows the new owner. -/
  | ownerTakeoverNotice (tag : Nat) (tensor : ShardName) (former owner : Nat)
  /-- PAUSE_NOTICE_RECEIVE (R304): A pause notice arrives, and the module holds at its next boundary. -/
  | pauseNoticeReceive (tag cause : Nat) (round : Bool) (site : Nat)
  /-- JOB_HELD (R570): The job reaches its hold point and releases no task of the next step. -/
  | jobHeld (job : Nat)
  /-- RESHARD_DRAINED (R324): The module has drained the old epoch and sends DRAINED to the coordinator. -/
  | reshardDrained (job : Nat)
  /-- DRAINED_RECEIVE (R325): The coordinator collects DRAINED messages and sends SWITCH once it holds all of them. -/
  | drainedReceive (tag epoch replica index : Nat)
  /-- RESHARD_SWITCH (R325): On SWITCH the module installs the new catalogue, builds its new shards and releases step e. -/
  | reshardSwitch (tag epoch : Nat)
  /-- ROUND_HANDOFF_DONE (R332): Every haul block is formed, the spoil is written and the hauls are queued for every partner. -/
  | roundHandoffDone (job rank : Nat)
  /-- HAUL_PACKET_SEND (R346): Paced at PATH_MBPS, the GXE encrypts and sends the next packet of a context. -/
  | haulPacketSend (job rank partner : Nat)
  /-- HAUL_DIFF_RECEIVE (R384): A DIFF data packet is checked, sequenced and assembled, and its haul is decoded when complete. -/
  | haulDiffReceive (addr sport : Nat) (payload : List Byte)
  /-- HAUL_CATCHUP_RECEIVE (R353): A CATCHUP data packet is received and assembled, or refused as not split. -/
  | haulCatchupReceive (addr sport : Nat) (payload : List Byte)
  /-- HAUL_BOOT_ANCHOR_RECEIVE (R360): A BOOT_ANCHOR segment of a bootstrap stream is received. -/
  | haulBootAnchorReceive (addr sport : Nat) (payload : List Byte)
  /-- HAUL_BOOT_MOMENTUM_RECEIVE (R360): A BOOT_MOMENTUM segment arrives, and a complete bootstrap is installed. -/
  | haulBootMomentumReceive (addr sport : Nat) (payload : List Byte)
  /-- HAUL_PARITY_RECEIVE (R382): A PARITY packet arrives and may rebuild a missing segment. -/
  | haulParityReceive (addr sport : Nat) (payload : List Byte)
  /-- HAUL_ACK_RECEIVE (R380): An ACK packet updates the send state and the round-trip estimate, and may retransmit fast. -/
  | haulAckReceive (addr sport : Nat) (payload : List Byte)
  /-- HAUL_KEEPALIVE_RECEIVE (R340): A KEEPALIVE arrives, and a SPLIT context turns CATCHUP. -/
  | haulKeepaliveReceive (addr sport : Nat) (payload : List Byte)
  /-- HAUL_REFUSE_RECEIVE (R354): A REFUSE packet returns the context to ACTIVE. -/
  | haulRefuseReceive (addr sport : Nat) (payload : List Byte)
  /-- HAUL_ACK_DELAY_TIMER (R380): 100 us after an unacknowledged data packet, the receiver sends an ACK. -/
  | haulAckDelayTimer (job rank partner : Nat)
  /-- HAUL_RTO_EXPIRE (R344): The RTO of a packet expires, so the packet is retransmitted with backoff. -/
  | haulRtoExpire (job rank partner seq : Nat)
  /-- KEEPALIVE_TIMER (R353): Once per second in SPLIT, CATCHUP or PAUSED, a keepalive is sent. -/
  | keepaliveTimer (job rank partner : Nat)
  /-- CATCHUP_TIMEOUT (R340): A CATCHUP context hears nothing authenticated for 10 s and returns to SPLIT. -/
  | catchupTimeout (job rank partner : Nat)
  /-- ROUND_CLOSE (R348): After the hand-off, the round closes when the hauls are complete or ROUND_WAIT_NS passes, and MERGE_TENSOR is written. -/
  | roundClose (job rank : Nat)
  /-- ROUND_STATE_ACCEPT_RECEIVE (R351): The standby accepts the round state, so the owner sends the round result to the holders. -/
  | roundStateAcceptReceive (tag : Nat) (tensor : ShardName) (round replica : Nat)
  /-- ROUND_READY_REPORT (R358): The coordinator collects ready reports and sends a resume notice. -/
  | roundReadyReport (tag site : Nat)
  /-- ROUND_RESUME (R358): A resume notice arrives, and the held step is released. -/
  | roundResume (tag cause : Nat)
  /-- CIPHER_ENCRYPT_OP (R396): An encrypt operation is dealt to a core, issued a nonce and returned in order. -/
  | cipherEncryptOp (slot : Nat) (dir : Bool) (aad data : List Byte) (faulty : Bool)
  /-- CIPHER_DECRYPT_OP (R396): A decrypt operation is dealt to a core, and the tag is checked before release. -/
  | cipherDecryptOp (slot : Nat) (nonce aad data tag : List Byte)
  /-- KEY_PREVIOUS_ERASE (R403): 60 s after activation, the PREVIOUS key is erased. -/
  | keyPreviousErase (slot : Nat)
  /-- KEY_REKEY_DUE (R409): A generation reaches 2^31 nonces or 20 h. -/
  | keyRekeyDue (slot : Nat)
  /-- KEY_EXPIRED (R409): A generation reaches 2^32 nonces or 24 h, so it activates NEXT or the slot expires. -/
  | keyExpired (slot : Nat)
  /-- CIPHER_RNG_FAULT (R410): A health test of the entropy source fails. -/
  | cipherRngFault
  /-- FLIT_RECEIVE (R425): A board-port flit is CRC- and sequence-checked, and its frames are delivered or relayed. -/
  | flitReceive (port : Nat) (flit : List Byte)
  /-- FLIT_NAK_RECEIVE (R425): A NAK flit makes the sender replay from the named flit. -/
  | flitNakReceive (port fseq fack : Nat)
  /-- BOARD_PORT_RETRAIN (R425): A port retrain completes, with any pending lane swap, or fails. -/
  | boardPortRetrain (port : Nat) (ok : Bool)
  /-- LANE_BER_WINDOW (R427): A 2^36-bit error-rate window ends, and a failing lane is marked for swap. -/
  | laneBerWindow (port : Nat) (errs : List Nat)
  /-- LANE_SIGNAL_LOSS (R427): A board lane loses signal and is marked for swap. -/
  | laneSignalLoss (port lane : Nat)
  /-- STOCKPILE_FRAME_RECEIVE (R562): The buddy writes arriving checkpoint frames into its stockpile and sets COMPLETE last. -/
  | stockpileFrameReceive (src tag build stp : Nat) (blk : CkptBlock) (last : Bool)
  /-- SITE_FRAME_ACK_RECEIVE (R436): A site ACK frame releases acknowledged fabric frames. -/
  | siteFrameAckReceive (peer chan tag base map : Nat)
  /-- SITE_FRAME_RETX_TIMER (R436): 200 us pass without acknowledgement, so the frame is resent. -/
  | siteFrameRetxTimer (peer chan tag seq : Nat)
  /-- SITE_ACK_TIMER (R436): After 16 frames or 20 us, the receiver sends an ACK frame. -/
  | siteAckTimer (peer chan tag : Nat) (seqs : List Nat)
  /-- SITE_PORT_LINK_CHANGE (R437): A site port reaches UP or leaves it. -/
  | sitePortLinkChange (port : Nat) (up : Bool)
  /-- SITE_PORT_SPARED (R433): An active site port stays DOWN for 10 s, so the spare takes its place. -/
  | sitePortSpared (port : Nat)
  /-- PATH_NEED (R437): Path-set egress utilisation has stayed above 90 % for 10 s. -/
  | pathNeed (part : Nat) (utils : List Nat) (site : Nat)
  /-- PATH_SURPLUS (R437): Path-set egress utilisation has stayed below 30 % for 60 s. -/
  | pathSurplus (part : Nat) (utils : List Nat)
  /-- FLOW_MOVE_RETX_TIMER (R435): 1 ms after a port is removed, held frames are resent on the flow's new port. -/
  | flowMoveRetxTimer (peer chan tag : Nat)
  /-- ARP_NS_REQUEST_RECEIVE (R432): An ARP request or IPv6 neighbour solicitation for the port's own address is answered. -/
  | arpNsRequestReceive (port addr : Nat) (v6 : Bool)
  /-- PAUSE_FRAME_RECEIVE (R432): A PAUSE or priority flow control frame is discarded and counted. -/
  | pauseFrameReceive (port : Nat)
  /-- TSYNC_PULSE_DRIVE (R440): The timekeeper pulls TSYNC low at each 2^24 ns multiple. -/
  | tsyncPulseDrive
  /-- TSYNC_PULSE_RECEIVE (R440): A TSYNC edge is compared with TB, which is slewed or loaded. -/
  | tsyncPulseReceive
  /-- TIMEKEEPER_CHANGED (R441): No pulse arrives for three intervals, so the lowest present slot takes over as timekeeper. -/
  | timekeeperChanged
  /-- SELFTEST_TICK (R540): Every INTERVAL_MS, the bench, cipher and link slices are started as enabled. -/
  | selftestTick (peer : Bool)
  /-- BENCH_WITHDRAW (R545): At a suitable tile boundary a bench is withdrawn, its tasks are moved and its window store is saved. -/
  | benchWithdraw (boundary : Bool)
  /-- BENCH_SLICE_DONE (R546): The scan and march end; the bench is restored, or fails with cause 5. -/
  | benchSliceDone (outcome seg : Nat) (rows : List (Nat × Nat))
  /-- CIPHER_SLICE_DONE (R551): A cipher core's scan and known-answer tests end, and the core returns or is marked unusable. -/
  | cipherSliceDone (outcome seg : Nat)
  /-- LINK_SLICE_DONE (R552): A spare lane, wire or port test ends. -/
  | linkSliceDone (fails : List Nat)
  /-- WIRE_SPARED (R537): A die-to-die wire fails two error-rate windows and is repaired onto a spare. -/
  | wireSpared (wire errs0 errs1 : Nat)
  /-- ENGINE_SPARED (R537): A weighbridge compression engine fails and is replaced by a spare engine. -/
  | engineSpared (position : Nat)
  /-- CKPT_SNAPSHOT (R560): At the first boundary meeting every condition, the snapshot is taken and the job is held. -/
  | ckptSnapshot
  /-- CKPT_READ_DONE (R561): The last section byte has been read, so the job is released from the snapshot hold. -/
  | ckptReadDone
  /-- CKPT_SAVED (R562): The buddy returns its outcome, and the SAVE ends with LONG_DONE. -/
  | ckptSaved (ok : Bool)
  /-- CKPT_RESTORED (R564): The restore's writes, regeneration and context setup complete, and LONG_DONE is raised. -/
  | ckptRestored (outcome : Nat) (blocks : List CkptBlock)
  /-- STOCKPILE_REDUCED_NOTICE (R262): The buddy's notice of a reduced stockpile arrives at the sender. -/
  | stockpileReducedNotice (gib lost : Nat) (kept : List (Nat × Nat × Nat × Nat))
  /-- BUDDY_PORT_RETURN (R574): The port to a restarted buddy returns to UP, and the sender queries its checkpoints. -/
  | buddyPortReturn (ans : BuddyAns)
  /-- REPLICA_READMIT_NOTICE (R271): A notice that a replica rejoins the set at an effective step reaches another module of the job, which applies it at its step boundary into that step. -/
  | replicaReadmitNotice (tag replica step : Nat)
  /-- STOCKPILE_REQUEST_RECEIVE (R442): The buddy receives a STOCKPILE request from a sender (bind, restore, discard or query) and binds or refuses it, checks and streams back a checkpoint, or discards one. -/
  | stockpileRequestReceive (src kind tag build size : Nat)
  /-- RNG_HEALTH_RESTORED (R410): The entropy source passes its continuous health tests again, so the module again accepts actions that need a salt and draws dummy-round positions. -/
  | rngHealthRestored
  /-- BOARD_PORT_RETURNS_TO_UP (R422): A board port that was DOWN or ABSENT trains with its peer in service and returns to UP; new frames take the direct port instead of the relay. -/
  | boardPortReturnsToUp (port : Nat)
  /-- CORRECTED_COUNT_RESTART (R543): While bench slices are disabled, the corrected-error counts of R82 and R427 restart at 0 every 1,280 s from READY. -/
  | correctedCountRestart
  /-- HELD_PERST_DEASSERTION (R622): A PERST# deassertion that came before PGOOD had been high for 1 ms takes effect when that 1 ms ends, and the work of R516 then begins. -/
  | heldPerstDeassertion (slot : Nat)
  /-- TEST_LOGIC_RESET (R618): TRST# is driven low, so the test access port is held in Test-Logic-Reset and any EXTEST or other loaded instruction stops taking effect. -/
  | testLogicReset
deriving DecidableEq, Repr

end Sys2Proof
end

