-- ==== Sys2Proof/Decode.lean ====
section
/-! DEFINITION. The table of commands gives no row any bits, so no word spells a command. The control core's own instruction words have an
encoding (R69, R70), which `decodeCc` reads. -/

namespace Sys2Proof

/-- The command that a word spells: none, for spec/opcode_table.json gives no bits to any row. -/
def decodeTableWord (_nbits _w : Nat) : Option Instr := none

/-- The instruction that a 32-bit word of station code spells for a bench context, by the three forms of R69: OP [31:26], D [25:20], A [19:14],
B [13:8] and FN [7:0], or IMM14 [13:0], or OFF26 [25:0]. None for the reserved opcodes (R70). What the scratchpad's code finds in the words
read is no part of the word, and is given as no error. -/
def decodeCc (lb ctx w : Nat) : Option Instr :=
  let op := w / 2 ^ 26 % 64
  let d := w / 2 ^ 20 % 64
  let a := w / 2 ^ 14 % 64
  let b := w / 2 ^ 8 % 64
  let fn := w % 256
  let imm := w % 2 ^ 14
  match op with
  | 0x00 => some (.alu lb ctx d a b fn)
  | 0x01 => some (.addi lb ctx d a imm)
  | 0x02 => some (.orsh lb ctx d imm)
  | 0x03 => some (.ld lb ctx d a imm 0)
  | 0x04 => some (.st lb ctx d a imm)
  | 0x05 => some (.beq lb ctx d a imm)
  | 0x06 => some (.bne lb ctx d a imm)
  | 0x07 => some (.blt lb ctx d a imm)
  | 0x08 => some (.jmp lb ctx (w % 2 ^ 26))
  | 0x09 => some (.mxe lb ctx a b fn)
  | 0x0A => some (.vse lb ctx a b)
  | 0x0B => some (.tput lb ctx a b (fn, []))
  | 0x0C => some (.tfree lb ctx fn)
  | 0x0D => some (.wait lb ctx fn)
  | 0x0E => some (.tend lb ctx)
  | 0x0F => some (.csrr lb ctx d imm)
  | 0x10 => some (.fence lb ctx)
  | 0x11 => some (.nop lb ctx)
  | _ => none

end Sys2Proof
end

