-- ==== Sys2Proof/Machine/Bytes.lean ====
section
/-! DEFINITION. Plain data shared by every part of the state: the sparse byte memory in its canonical form, sparse
tables by number, and the little-endian and big-endian readings of bytes (R5). -/

namespace Sys2Proof.Machine

/-! ## Lists -/

/-- The first `n` numbers from `a` upward. -/
def span (a n : Nat) : List Nat := (List.range n).map (a + ·)

/-- Replace entry `k` of a list by `f` of it. -/
def modAt {α : Type} (l : List α) (k : Nat) (f : α → α) : List α :=
  match l, k with
  | [], _ => []
  | a :: r, 0 => f a :: r
  | a :: r, k + 1 => a :: modAt r k f

/-- Add a number to a list that holds each number at most once, in ascending order. -/
def insertNat (l : List Nat) (n : Nat) : List Nat :=
  match l with
  | [] => [n]
  | a :: r => if n < a then n :: a :: r else if n = a then a :: r else a :: insertNat r n

/-- Cut a list into pieces of `n`, with `fuel` at least the number of pieces. -/
def chunksOf {α : Type} (n : Nat) (l : List α) (fuel : Nat) : List (List α) :=
  match fuel with
  | 0 => []
  | k + 1 => if l.isEmpty then [] else l.take n :: chunksOf n (l.drop n) k

/-- Fill a list with `d` up to length `n`, or cut it to that length. -/
def padTo {α : Type} (d : α) (n : Nat) (l : List α) : List α :=
  l.take n ++ List.replicate (n - l.length) d

/-! ## Bytes -/

/-- The number that bytes hold, least significant byte first (R5). -/
def leNat (l : List Byte) : Nat :=
  match l with
  | [] => 0
  | b :: r => b.toNat + 256 * leNat r

/-- `n` bytes of a number, least significant byte first (R5). -/
def toLe (n v : Nat) : List Byte :=
  match n with
  | 0 => []
  | k + 1 => BitVec.ofNat 8 v :: toLe k (v / 256)

/-- The number that bytes hold in network byte order (R5). -/
def beNat (l : List Byte) : Nat := leNat l.reverse

/-- `n` bytes of a number in network byte order (R5). -/
def toBe (n v : Nat) : List Byte := (toLe n v).reverse

/-- The little-endian field of `n` bytes at `off`; bytes beyond the end count as 0. -/
def fieldLe (l : List Byte) (off n : Nat) : Nat := leNat ((l.drop off).take n)

/-- The field of `n` bytes at `off` in network byte order. -/
def fieldBe (l : List Byte) (off n : Nat) : Nat := beNat ((l.drop off).take n)

/-- Overwrite bytes of a list from `off` on. -/
def putBytes (l : List Byte) (off : Nat) (d : List Byte) : List Byte :=
  l.take off ++ d ++ l.drop (off + d.length)

/-- The value of an int8 byte. -/
def int8 (b : Nat) : Int := if b % 256 < 128 then ((b % 256 : Nat) : Int) else ((b % 256 : Nat) : Int) - 256

/-- The byte of an int8 value. -/
def ofInt8 (i : Int) : Nat := (i % 256).toNat

/-- Bits `hi` down to `lo` of a number. -/
def bits (v hi lo : Nat) : Nat := v / 2 ^ lo % 2 ^ (hi + 1 - lo)

/-- Whether bit `n` of a number is set. -/
def bit (v n : Nat) : Bool := v.testBit n

/-- A Boolean as a bit. -/
def b2n (b : Bool) : Nat := if b then 1 else 0

/-- Integer division rounding up. -/
def ceilDiv (a b : Nat) : Nat := (a + b - 1) / b

/-- `a` rounded up to a multiple of `b`. -/
def roundUp (a b : Nat) : Nat := ceilDiv a b * b

/-- Add to a counter of `w` bits that stays at its largest value. -/
def satAdd (w v n : Nat) : Nat := min (v + n) (2 ^ w - 1)

/-! ## Sparse memory -/

/-- A byte memory: the bytes that differ from 0, in rising order of address. An unlisted byte reads 0. -/
abbrev Mem := List Host.Cell

/-- The byte at an address. -/
def Mem.get (m : Mem) (a : Nat) : Byte :=
  match m with
  | [] => 0
  | (k, v) :: r => if k = a then v else Mem.get r a

/-- Write a byte, keeping addresses rising and every listed byte nonzero. -/
def Mem.set (m : Mem) (a : Nat) (v : Byte) : Mem :=
  match m with
  | [] => if v = 0 then [] else [(a, v)]
  | (k, w) :: r =>
    if a < k then (if v = 0 then (k, w) :: r else (a, v) :: (k, w) :: r)
    else if a = k then (if v = 0 then r else (a, v) :: r)
    else (k, w) :: Mem.set r a v

/-- Every listed address exceeds `lo`, addresses rise and no listed byte is 0. -/
def Mem.wfFrom (lo : Nat) (m : Mem) : Bool :=
  match m with
  | [] => true
  | (k, v) :: r => decide (lo ≤ k) && decide (v ≠ 0) && Mem.wfFrom (k + 1) r

/-- The canonical form of a memory: addresses strictly rising, no listed byte equal to what an unlisted byte reads as. -/
def Mem.wf (m : Mem) : Bool := Mem.wfFrom 0 m

/-- Read `n` bytes from `a`. -/
def Mem.read (m : Mem) (a n : Nat) : List Byte :=
  match n with
  | 0 => []
  | k + 1 => Mem.get m a :: Mem.read m (a + 1) k

/-- Write bytes from `a` upward. -/
def Mem.write (m : Mem) (a : Nat) (d : List Byte) : Mem :=
  match d with
  | [] => m
  | b :: r => Mem.write (Mem.set m a b) (a + 1) r

/-- Write 0 to every byte whose address `p` picks. -/
def Mem.clear (m : Mem) (p : Nat → Bool) : Mem := m.filter (fun c => !p c.1)

/-- The listed bytes of [a, a + n), moved so that `a` becomes `b`. -/
def Mem.slice (m : Mem) (a n b : Nat) : Mem :=
  (m.filter (fun c => decide (a ≤ c.1) && decide (c.1 < a + n))).map (fun c => (c.1 - a + b, c.2))

/-- Write a list of cells one by one. -/
def Mem.put (m : Mem) (cs : Mem) : Mem :=
  match cs with
  | [] => m
  | (a, v) :: r => Mem.put (Mem.set m a v) r

/-- Copy `n` bytes from `a` to `b`: zero the destination, then place the listed bytes of the source. -/
def Mem.move (m : Mem) (a n b : Nat) : Mem :=
  Mem.put (Mem.clear m (fun x => decide (b ≤ x) && decide (x < b + n))) (Mem.slice m a n b)

/-- The little-endian number in `n` bytes at `a`. -/
def Mem.le (m : Mem) (a n : Nat) : Nat := leNat (Mem.read m a n)

/-! ## Sparse tables -/

/-- A sparse table by number; an entry that is not listed reads as the default of the reader. -/
abbrev Tab (α : Type) := List (Nat × α)

/-- Entry `k`, if listed. -/
def Tab.find {α : Type} (t : Tab α) (k : Nat) : Option α :=
  match t with
  | [] => none
  | (i, v) :: r => if i = k then some v else Tab.find r k

/-- Entry `k`, or the default `d`. -/
def Tab.get {α : Type} (d : α) (t : Tab α) (k : Nat) : α := (Tab.find t k).getD d

/-- Set entry `k`, keeping the keys in ascending order. -/
def Tab.set {α : Type} (t : Tab α) (k : Nat) (v : α) : Tab α :=
  match t with
  | [] => [(k, v)]
  | (i, w) :: r => if k < i then (k, v) :: (i, w) :: r else if k = i then (k, v) :: r else (i, w) :: Tab.set r k v

/-- Remove entry `k`. -/
def Tab.del {α : Type} (t : Tab α) (k : Nat) : Tab α := t.filter (fun e => e.1 != k)

/-- Apply `f` to entry `k`, read with the default `d`. -/
def Tab.mod {α : Type} (d : α) (t : Tab α) (k : Nat) (f : α → α) : Tab α := Tab.set t k (f (Tab.get d t k))

/-- Apply `f` to every listed entry. -/
def Tab.mapAll {α : Type} (t : Tab α) (f : Nat → α → α) : Tab α := List.map (fun (e : Nat × α) => (e.1, f e.1 e.2)) t

/-- The smallest of the numbers of `l` that `p` picks, by the rotating rule of R28: the search starts at `ptr` in a
circle of `n` numbers. -/
@[irreducible] def rotatePick (n ptr : Nat) (p : Nat → Bool) : Option Nat :=
  (List.range n).findSome? (fun i => if p ((ptr + i) % n) then some ((ptr + i) % n) else none)

end Sys2Proof.Machine
end

