-- ==== Sys2Proof/Machine/Compress.lean ====
section
/-! DEFINITION. The lossless block coder and the expander (R258 to R260). A bit string is a number filled from bit 0
upward, with its length. -/

namespace Sys2Proof.Machine

/-- Bytes per value, exponent bits and other bits m of an element class W (R258). -/
def classShape (w : Nat) : Nat × Nat × Nat :=
  match w with
  | 1 => (2, 5, 11) | 2 => (2, 8, 8) | 3 => (4, 8, 24) | 4 => (1, 4, 4) | 5 => (1, 5, 3)
  | _ => (1, 0, 8)

/-- Groups of a block of class W (R258). -/
def classGroups (w : Nat) : Nat := 2048 / (32 * (classShape w).1)

/-- The element class that the coder takes from a format (R258). -/
def classOfFormat (f : Nat) : Nat :=
  match f with
  | 1 => 3 | 3 => 1 | 4 => 2 | 5 => 4 | 6 => 5
  | _ => 0

/-- Append a field of n bits to a bit string. -/
def putField (acc : Nat × Nat) (v n : Nat) : Nat × Nat := (acc.1 + (v % 2 ^ n) * 2 ^ acc.2, acc.2 + n)

/-- The exponent field and the other-bits field of a value (R258). -/
def splitValue (w v : Nat) : Nat × Nat :=
  let (_, eb, m) := classShape w
  (v / 2 ^ (m - 1) % 2 ^ eb, (v / 2 ^ (eb + m - 1)) * 2 ^ (m - 1) + v % 2 ^ (m - 1))

/-- A value rebuilt from its exponent and its other bits (R260). -/
def joinValue (w e o : Nat) : Nat :=
  let (_, eb, m) := classShape w
  (o / 2 ^ (m - 1)) * 2 ^ (eb + m - 1) + (e % 2 ^ eb) * 2 ^ (m - 1) + o % 2 ^ (m - 1)

/-- The fewest bits that hold n. -/
def bitLen (n : Nat) : Nat := if n = 0 then 0 else Nat.log2 n + 1

/-- Code one group that is not all zero (R259). -/
def codeGroup (w : Nat) (acc : Nat × Nat) (vs : List Nat) : Nat × Nat :=
  if w = 0 then vs.foldl (fun a v => putField a v 8) acc
  else
    let sp := vs.map (splitValue w)
    let es := sp.map Prod.fst
    let b := es.foldl min (es.headD 0)
    let wid := bitLen ((es.map (· - b)).foldl max 0)
    let acc := putField (putField acc b 8) wid 4
    let plane := fun (k : Nat) => (es.zipIdx.foldl (fun n ei => n + (if bit (ei.1 - b) k then 2 ^ ei.2 else 0)) 0)
    let acc := (List.range wid).foldl (fun a k => putField a (plane k) 32) acc
    sp.foldl (fun a s => putField a s.2 (classShape w).2.2) acc

/-- Code a 2 KiB block of class W: sectors and coded bytes, or none where it must be stored raw (R259). -/
def codeBlock (w : Nat) (raw : List Byte) : Option (Nat × List Byte) :=
  let bytes := (classShape w).1
  let g := classGroups w
  let vals := (chunksOf bytes raw 2048).map leNat
  let groups := chunksOf 32 vals 64
  let bitmap := groups.zipIdx.foldl (fun n gi => n + (if gi.1.all (· == 0) then 2 ^ gi.2 else 0)) 0
  let body := groups.foldl (fun a vs => if vs.all (· == 0) then a else codeGroup w a vs) (bitmap, roundUp g 8)
  let len := 8 + ceilDiv body.2 8
  if len > 1984 then none
  else
    let sectors := ceilDiv len 64
    let hdr := 0xC * 2 ^ 60 + w * 2 ^ 57 + (sectors - 1) * 2 ^ 52 + len * 2 ^ 41
    some (sectors, padTo 0 (64 * sectors) (toLe 8 hdr ++ toLe (len - 8) body.1))

/-- Decode one coded group at bit `pos` of `big`, within `lim` bits (R259, R260). -/
def expandGroup (w big pos lim : Nat) : Option (List Nat × Nat) :=
  if w = 0 then
    if pos + 256 ≤ lim then some ((List.range 32).map (fun i => bits big (pos + 8 * i + 7) (pos + 8 * i)), pos + 256) else none
  else
    let m := (classShape w).2.2
    if pos + 12 ≤ lim then
      let b := bits big (pos + 7) pos
      let wid := bits big (pos + 11) (pos + 8)
      let p := pos + 12
      let q := p + 32 * wid
      if wid ≤ 8 && q + 32 * m ≤ lim then
        some ((List.range 32).map (fun i =>
          let d := (List.range wid).foldl (fun n k => n + (if bit big (p + 32 * k + i) then 2 ^ k else 0)) 0
          joinValue w (b + d) (bits big (q + m * i + (m - 1)) (q + m * i))), q + 32 * m)
      else none
    else none

/-- Decode the groups in turn. -/
def expandGroups (w big lim bitmap : Nat) (gs : List Nat) (pos : Nat) : Option (List Nat) :=
  match gs with
  | [] => some []
  | g :: r =>
    if bit bitmap g then (expandGroups w big lim bitmap r pos).map (List.replicate 32 0 ++ ·)
    else
      match expandGroup w big pos lim with
      | none => none
      | some (vs, pos') => (expandGroups w big lim bitmap r pos').map (vs ++ ·)

/-- The expander on a block whose state says CODED with `sectors`: 2,048 bytes, or none where the block is wrong in size (R260). -/
def expandBlock (sectors : Nat) (stored : List Byte) : Option (List Byte) :=
  let big := leNat (stored.take (64 * sectors))
  let h := big % 2 ^ 64
  let w := bits h 59 57
  let len := bits h 51 41
  if bits h 63 60 ≠ 0xC || w ≥ 6 || bits h 56 52 + 1 ≠ sectors || len > 64 * sectors then none
  else
    let g := classGroups w
    if 64 + roundUp g 8 > 8 * len then none
    else
      let bitmap := bits big (64 + g - 1) 64
      (expandGroups w big (8 * len) bitmap (List.range g) (64 + roundUp g 8)).map
        (fun vs => vs.flatMap (toLe (classShape w).1))

end Sys2Proof.Machine
end

