-- ==== Sys2Proof/Machine/Fp.lean ====
section
/-! DEFINITION. Exact values and one-rounding arithmetic (R9, R113, R115, R131, R173): every floating-point operation
computes its exact result as a value `Val` and rounds it once. -/

namespace Sys2Proof.Machine

/-- The exact value an element or a result stands for. `fin neg m e` is (−1)^neg · m · 2^e; `poison` is a poisoned value (R116). -/
inductive Val where
  | poison
  | nan
  | inf (neg : Bool)
  | fin (neg : Bool) (m : Nat) (e : Int)
deriving DecidableEq, Repr

/-- How a conversion rounds: to nearest even, or stochastically with the 16-bit draw `r` (R151, R152). -/
inductive RoundMode where
  | nearest
  | stoch (r : Nat)
deriving DecidableEq, Repr

/-- The parameters of a floating-point format of R131: exponent bits, mantissa bits, bias. -/
structure FloatFmt where
  eb : Nat
  mb : Nat
  bias : Nat
deriving DecidableEq, Repr

def fmtFp32 : FloatFmt := ⟨8, 23, 127⟩
def fmtBf16 : FloatFmt := ⟨8, 7, 127⟩
def fmtG16 : FloatFmt := ⟨5, 10, 15⟩
def fmtE4m3 : FloatFmt := ⟨4, 3, 7⟩
def fmtE5m2 : FloatFmt := ⟨5, 2, 15⟩
def fmtFp4 : FloatFmt := ⟨2, 1, 1⟩

/-- The positive zero. -/
def Val.zero : Val := .fin false 0 0

/-- The value 2^k. -/
def Val.pow2 (k : Int) : Val := .fin false 1 k

/-- A natural number as a value. -/
def Val.ofNat (n : Nat) : Val := .fin false n 0

/-- The sign of a value; a NaN counts as positive. -/
def Val.isNeg (v : Val) : Bool :=
  match v with
  | .inf s => s
  | .fin s _ _ => s
  | _ => false

/-- Whether a value is zero of either sign. -/
def Val.isZero (v : Val) : Bool :=
  match v with
  | .fin _ m _ => m == 0
  | _ => false

/-- Negation. -/
def Val.neg (v : Val) : Val :=
  match v with
  | .inf s => .inf (!s)
  | .fin s m e => .fin (!s) m e
  | x => x

/-- Magnitude. -/
def Val.abs (v : Val) : Val :=
  match v with
  | .inf _ => .inf false
  | .fin _ m e => .fin false m e
  | x => x

/-- Multiplication by 2^k, exact. -/
def Val.scale (v : Val) (k : Int) : Val :=
  match v with
  | .fin s m e => .fin s m (e + k)
  | x => x

/-- The significand of a finite value brought to the exponent `q`, which is not above its own. -/
def alignTo (m : Nat) (e q : Int) : Nat := m * 2 ^ (e - q).toNat

/-- The exact sum. A zero sum of unlike signs is +0, of two negative zeros −0; infinities of opposite sign give NaN (R115). -/
def Val.add (a b : Val) : Val :=
  match a, b with
  | .poison, _ => .poison
  | _, .poison => .poison
  | .nan, _ => .nan
  | _, .nan => .nan
  | .inf s, .inf t => if s = t then .inf s else .nan
  | .inf s, .fin _ _ _ => .inf s
  | .fin _ _ _, .inf t => .inf t
  | .fin s m e, .fin t n f =>
    let q := min e f
    let x : Int := (if s then -1 else 1) * (alignTo m e q : Nat)
    let y : Int := (if t then -1 else 1) * (alignTo n f q : Nat)
    let z := x + y
    if z = 0 then .fin (s && t) 0 0 else .fin (decide (z < 0)) z.natAbs q

/-- The exact difference. -/
def Val.sub (a b : Val) : Val := Val.add a (Val.neg b)

/-- The exact product; an infinity times a zero gives NaN (R115). -/
def Val.mul (a b : Val) : Val :=
  match a, b with
  | .poison, _ => .poison
  | _, .poison => .poison
  | .nan, _ => .nan
  | _, .nan => .nan
  | .inf s, .inf t => .inf (s != t)
  | .inf s, .fin t n _ => if n = 0 then .nan else .inf (s != t)
  | .fin s m _, .inf t => if m = 0 then .nan else .inf (s != t)
  | .fin s m e, .fin t n f => .fin (s != t) (m * n) (e + f)

/-- Whether a < b, for two values neither NaN nor poison; −0 and +0 are equal. -/
def Val.lt (a b : Val) : Bool :=
  match a, b with
  | .inf s, .inf t => s && !t
  | .inf s, .fin _ _ _ => s
  | .fin _ _ _, .inf t => !t
  | .fin s m e, .fin t n f =>
    let q := min e f
    let x : Int := (if s then -1 else 1) * (alignTo m e q : Nat)
    let y : Int := (if t then -1 else 1) * (alignTo n f q : Nat)
    decide (x < y)
  | _, _ => false

/-- Whether a ≤ b, for two values neither NaN nor poison. -/
def Val.le (a b : Val) : Bool :=
  match a, b with
  | .poison, _ => false
  | _, .poison => false
  | .nan, _ => false
  | _, .nan => false
  | a, b => !Val.lt b a

/-- Whether the significand `m` over 2^d rounds up: to nearest even, or by the draw of R152. -/
def roundsUp (mode : RoundMode) (m d : Nat) : Bool :=
  let q := m / 2 ^ d
  let rem := m % 2 ^ d
  match mode with
  | .nearest => decide (2 * rem > 2 ^ d) || (decide (2 * rem = 2 ^ d) && decide (q % 2 = 1))
  | .stoch r => decide (r < rem * 2 ^ 16 / 2 ^ d)

/-- A significand rounded to a multiple of 2^q, given as the multiplier. -/
def roundTo (mode : RoundMode) (m : Nat) (e q : Int) : Nat :=
  if q ≤ e then m * 2 ^ (e - q).toNat
  else
    let d := (q - e).toNat
    m / 2 ^ d + (if roundsUp mode m d then 1 else 0)

/-- The exponent of the last place in which a format holds m · 2^e, with the exponent range unbounded above (R152). -/
def FloatFmt.lastPlace (f : FloatFmt) (m : Nat) (e : Int) : Int :=
  max (e + (Nat.log2 m : Nat) - (f.mb : Nat)) (1 - (f.bias : Nat) - (f.mb : Nat))

/-- The magnitude code of m · 2^e rounded once into a format, before any overflow check: exponent field and mantissa
read as one number. -/
def FloatFmt.magCode (f : FloatFmt) (mode : RoundMode) (m : Nat) (e : Int) : Nat :=
  if m = 0 then 0
  else
    let q := FloatFmt.lastPlace f m e
    let k := roundTo mode m e q
    let be := (q - (1 - (f.bias : Nat) - (f.mb : Nat))).toNat
    be * 2 ^ f.mb + k

/-- The value of the code `c` of a format whose every exponent field is finite. -/
def FloatFmt.finite (f : FloatFmt) (c : Nat) : Val :=
  let s := c.testBit (f.eb + f.mb)
  let ef := c / 2 ^ f.mb % 2 ^ f.eb
  let mf := c % 2 ^ f.mb
  if ef = 0 then .fin s mf (1 - (f.bias : Nat) - (f.mb : Nat))
  else .fin s (2 ^ f.mb + mf) ((ef : Nat) - (f.bias : Nat) - (f.mb : Nat))

/-- The value of a code of a format with IEEE 754 infinities and NaNs, and the poison code `p` (R132). -/
def FloatFmt.ieee (f : FloatFmt) (p c : Nat) : Val :=
  let ef := c / 2 ^ f.mb % 2 ^ f.eb
  let mf := c % 2 ^ f.mb
  if c = p then .poison
  else if ef = 2 ^ f.eb - 1 then (if mf = 0 then .inf (c.testBit (f.eb + f.mb)) else .nan)
  else FloatFmt.finite f c

/-- The sign bit of a format. -/
def FloatFmt.sign (f : FloatFmt) (neg : Bool) : Nat := if neg then 2 ^ (f.eb + f.mb) else 0

/-- A value rounded once into a format with infinities; `p` is its poison code, and its canonical NaN has the top
mantissa bit alone set (R132). A magnitude that rounds beyond the largest finite value becomes an infinity (R151). -/
def FloatFmt.encode (f : FloatFmt) (p : Nat) (mode : RoundMode) (v : Val) : Nat :=
  let infC := (2 ^ f.eb - 1) * 2 ^ f.mb
  match v with
  | .poison => p
  | .nan => infC + 2 ^ (f.mb - 1)
  | .inf s => FloatFmt.sign f s + infC
  | .fin s m e => FloatFmt.sign f s + min (FloatFmt.magCode f mode m e) infC

/-- The FP32 poison code (R132). -/
def poisonF32 : Word := 0x7F810000
/-- The canonical FP32 NaN (R132). -/
def nanF32 : Word := 0x7FC00000
/-- FP32 one. -/
def oneF32 : Word := 0x3F800000

/-- The value of an FP32 code. -/
def f32Val (w : Word) : Val := FloatFmt.ieee fmtFp32 0x7F810000 w.toNat

/-- A value rounded once to FP32, to nearest even. -/
def toF32 (v : Val) : Word := BitVec.ofNat 32 (FloatFmt.encode fmtFp32 0x7F810000 .nearest v)

/-- The value of a BF16 code. -/
def bf16Val (c : Nat) : Val := FloatFmt.ieee fmtBf16 0x7F81 c
/-- A value rounded once to BF16. -/
def toBf16 (mode : RoundMode) (v : Val) : Nat := FloatFmt.encode fmtBf16 0x7F81 mode v
/-- The value of a G16 code at headroom exponent 0. -/
def g16Val (c : Nat) : Val := FloatFmt.ieee fmtG16 0x7C01 c
/-- A value rounded once to G16 at headroom exponent 0. -/
def toG16 (mode : RoundMode) (v : Val) : Nat := FloatFmt.encode fmtG16 0x7C01 mode v

/-- A value rounded once to FP32, read back as a value. -/
def roundF32 (v : Val) : Val := f32Val (toF32 v)

/-! ## FP32 operations (one rounding each) -/

def fadd (a b : Word) : Word := toF32 (Val.add (f32Val a) (f32Val b))
def fsub (a b : Word) : Word := toF32 (Val.sub (f32Val a) (f32Val b))
def fmul (a b : Word) : Word := toF32 (Val.mul (f32Val a) (f32Val b))
def ffma (a b c : Word) : Word := toF32 (Val.add (Val.mul (f32Val a) (f32Val b)) (f32Val c))

/-- The integer square root, by Newton's step from above with enough `fuel`. -/
def isqrtGo (n x fuel : Nat) : Nat :=
  match fuel with
  | 0 => x
  | k + 1 =>
    let y := (x + n / x) / 2
    if y < x then isqrtGo n y k else x

/-- The largest number whose square is at most n. -/
def isqrt (n : Nat) : Nat := if n = 0 then 0 else isqrtGo n (2 ^ (Nat.log2 n / 2 + 1)) 64

/-- The quotient a / b with a sticky last bit below 40 exact quotient bits, so that one rounding follows exactly. -/
def Val.div (a b : Val) : Val :=
  match a, b with
  | .poison, _ => .poison
  | _, .poison => .poison
  | .nan, _ => .nan
  | _, .nan => .nan
  | .inf _, .inf _ => .nan
  | .inf s, .fin t _ _ => .inf (s != t)
  | .fin s _ _, .inf t => .fin (s != t) 0 0
  | .fin s m e, .fin t n f =>
    if n = 0 then (if m = 0 then .nan else .inf (s != t))
    else
      let k := 40 + Nat.log2 n
      let q := m * 2 ^ k / n
      let r := m * 2 ^ k % n
      .fin (s != t) (2 * q + (if r = 0 then 0 else 1)) (e - f - (k : Nat) - 1)

/-- The square root with a sticky last bit; the root of a negative value is NaN, of −0 is −0. -/
def Val.sqrt (a : Val) : Val :=
  match a with
  | .poison => .poison
  | .nan => .nan
  | .inf s => if s then .nan else .inf false
  | .fin s m e =>
    if m = 0 then .fin s 0 0
    else if s then .nan
    else
      let k := 64 + (e % 2).toNat
      let n := m * 2 ^ k
      let q := isqrt n
      .fin false (2 * q + (if q * q = n then 0 else 1)) ((e - (k : Nat)) / 2 - 1)

/-- 1 / √a with enough quotient bits and a sticky bit that one rounding follows: the root of 1 / a. -/
def Val.rsqrt (a : Val) : Val :=
  match a with
  | .poison => .poison
  | .nan => .nan
  | .inf s => if s then .nan else .fin false 0 0
  | .fin s m e =>
    if m = 0 then .inf s
    else if s then .nan
    else
      let k := 2 * (60 + Nat.log2 m) + (e % 2).toNat
      let n := 2 ^ k / m
      let q := isqrt n
      .fin false (2 * q + (if m * q * q = 2 ^ k then 0 else 1)) ((-e - (k : Nat)) / 2 - 1)

def fdiv (a b : Word) : Word := toF32 (Val.div (f32Val a) (f32Val b))
def fsqrt (a : Word) : Word := toF32 (Val.sqrt (f32Val a))
def frsqrt (a : Word) : Word := toF32 (Val.rsqrt (f32Val a))

/-- Whether an FP32 code is a NaN that is not the poison code. -/
def isNanF (a : Word) : Bool := match f32Val a with | .nan => true | _ => false
/-- Whether an FP32 code is the poison code. -/
def isPoisonF (a : Word) : Bool := a == poisonF32
/-- Whether an FP32 code is an infinity. -/
def isInfF (a : Word) : Bool := match f32Val a with | .inf _ => true | _ => false

/-- Whether a orders below b with −0 below +0 (R173, MIN and MAX). -/
def flt (a b : Word) : Bool :=
  Val.lt (f32Val a) (f32Val b) ||
    (Val.isZero (f32Val a) && Val.isZero (f32Val b) && Val.isNeg (f32Val a) && !Val.isNeg (f32Val b))

/-- The lesser of two FP32 values (R173). -/
def fmin (a b : Word) : Word :=
  if isPoisonF a || isPoisonF b then poisonF32
  else if isNanF a || isNanF b then nanF32
  else if flt b a then b else a

/-- The greater of two FP32 values (R173). -/
def fmax (a b : Word) : Word :=
  if isPoisonF a || isPoisonF b then poisonF32
  else if isNanF a || isNanF b then nanF32
  else if flt a b then b else a

/-- |A|, a NaN becoming the canonical NaN. -/
def fabs (a : Word) : Word := toF32 (Val.abs (f32Val a))
/-- −A, a NaN becoming the canonical NaN. -/
def fneg (a : Word) : Word := toF32 (Val.neg (f32Val a))

/-- Whether an FP32 value exceeds another; false with a NaN. -/
def fgt (a b : Word) : Bool := Val.lt (f32Val b) (f32Val a)

end Sys2Proof.Machine
end

