-- ==== Sys2Proof/Machine/Formats.lean ====
section
/-! DEFINITION. The eight element formats (R130 to R157): widths, the value of a code with its scale, the writers of
narrow blocks, of T2 blocks, of G16 and of M48, and the stochastic-rounding draw. -/

namespace Sys2Proof.Machine

/-- Format codes of R130. -/
def fFp32 : Nat := 1
def fM48 : Nat := 2
def fG16 : Nat := 3
def fBf16 : Nat := 4
def fE4m3 : Nat := 5
def fE5m2 : Nat := 6
def fFp4 : Nat := 7
def fT2 : Nat := 8

/-- Element width in bits (R130); 0 for a reserved code. -/
def fmtWidth (f : Nat) : Nat :=
  match f with
  | 1 => 32 | 2 => 48 | 3 => 16 | 4 => 16 | 5 => 8 | 6 => 8 | 7 => 4 | 8 => 2
  | _ => 0

/-- FP8, FP4 and T2 are the narrow formats (R130). -/
def isNarrow (f : Nat) : Bool := f == 5 || f == 6 || f == 7 || f == 8

/-- Whether a format is one of the two FP8 encodings. -/
def isFp8 (f : Nat) : Bool := f == 5 || f == 6

/-- Values per scale block by the BLOCK code of R46. -/
def blockSize (b : Nat) : Nat := 16 * 2 ^ (b % 4)

/-- Values that share one trailer entry: BLOCK for the narrow formats, 256 for G16, none otherwise (R138). -/
def groupSize (f b : Nat) : Nat := if isNarrow f then blockSize b else if f = 3 then 256 else 0

/-- Bytes of a 32 × 32 sub-block, 128 × w (R243). -/
def subBlockBytes (f : Nat) : Nat := 128 * fmtWidth f

/-- Scale entries of one 32 × 32 sub-block. -/
def scalesPerSub (f b : Nat) : Nat := if groupSize f b = 0 then 0 else 1024 / groupSize f b

/-- Payload bytes of a tile, rounded up to a whole byte (R49). -/
def payloadBytes (f rows cols : Nat) : Nat := ceilDiv (rows * cols * fmtWidth f) 8

/-- Trailer bytes of a tile (R49, R138). -/
def trailerBytes (f b rows cols : Nat) : Nat :=
  if groupSize f b = 0 then 0 else ceilDiv (rows * cols) (groupSize f b)

/-- Words of a tile, descriptor word included (R49). -/
def tileWords (f b rows cols : Nat) : Nat := 1 + ceilDiv (payloadBytes f rows cols + trailerBytes f b rows cols) 64

/-- Where element n of a packed run lies: its first byte, its byte count, and its bit in that byte (R135, R136). -/
def elemPlace (f n : Nat) : Nat × Nat × Nat :=
  match f with
  | 8 => (n / 4, 1, 2 * (n % 4))
  | 7 => (n / 2, 1, 4 * (n % 2))
  | _ => (n * (fmtWidth f / 8), fmtWidth f / 8, 0)

/-- The value of a T2 code (R134). -/
def t2Val (c : Nat) : Val :=
  match c with
  | 0 => Val.zero
  | 1 => .fin false 1 0
  | 3 => .fin true 1 0
  | _ => .poison

/-- d(x) of a code, without its scale (R131 to R134, R142). The M48 code is 48 bits with hi on top (R136). -/
def codeVal (f c : Nat) : Val :=
  match f with
  | 1 => f32Val (BitVec.ofNat 32 c)
  | 2 =>
    let hi := f32Val (BitVec.ofNat 32 (c / 2 ^ 16))
    let lo := bf16Val (c % 2 ^ 16)
    Val.add hi lo
  | 3 => g16Val c
  | 4 => bf16Val c
  | 5 => if c = 0xFF then .poison else if c = 0x7F then .nan else FloatFmt.finite fmtE4m3 c
  | 6 => FloatFmt.ieee fmtE5m2 0xFF c
  | 7 => FloatFmt.finite fmtFp4 c
  | 8 => t2Val c
  | _ => Val.zero

/-- The value of an E8M0 scale byte (R137); none for the poison code. -/
def scaleExp (c : Nat) : Option Int := if c = 0xFF then none else some ((c : Nat) - 127)

/-- The element value d(x) × s (R142); `sc` is the block scale or headroom exponent byte, ignored for formats without one. -/
def elemVal (f c sc : Nat) : Val :=
  if isNarrow f then (match scaleExp sc with | none => .poison | some k => Val.scale (codeVal f c) k)
  else if f = 3 then (if sc = 0x80 then .poison else Val.scale (codeVal f c) (int8 sc))
  else codeVal f c

/-- The draw mix of R153. -/
def srMix (z0 : Long) : Long :=
  let z1 := (z0 ^^^ (z0 >>> 30)) * 0xBF58476D1CE4E5B9
  let z2 := (z1 ^^^ (z1 >>> 27)) * 0x94D049BB133111EB
  z2 ^^^ (z2 >>> 31)

/-- The 16-bit stochastic-rounding draw of a place (R153). -/
def srBits (tensor row col step pass : Nat) : Nat :=
  let x0 : Long := (BitVec.ofNat 64 tensor <<< 32) ^^^ BitVec.ofNat 64 step
  let x1 := srMix (x0 ^^^ ((BitVec.ofNat 64 (row % 2 ^ 32) <<< 32) ^^^ BitVec.ofNat 64 (col % 2 ^ 32)))
  let x2 := srMix (x1 ^^^ BitVec.ofNat 64 pass)
  (x2 >>> 48).toNat

/-! ## Writing narrow blocks (R143 to R146) -/

/-- The largest finite magnitude of a block; NaNs, infinities and poisoned places take no part (R143, R146). -/
def amaxVal (vs : List Val) : Val :=
  vs.foldl (fun a v => match v with | .fin _ m e => if Val.lt a (.fin false m e) then .fin false m e else a | _ => a) Val.zero

/-- The significand of the largest element code: 448 = 7·2^6, 57,344 = 7·2^13, 6 = 3·2^1. -/
def maxNorm (f : Nat) : Nat × Int :=
  match f with
  | 5 => (7, 6) | 6 => (7, 13) | _ => (3, 1)

/-- The scale byte of an FP8 or FP4 block: the smallest e with amax ≤ maxnorm × 2^e, not below −127 (R143). -/
def narrowScale (f : Nat) (amax : Val) : Nat :=
  match amax with
  | .fin _ 0 _ => 0
  | .fin _ m e =>
    let (k, x) := maxNorm f
    let e0 : Int := e + (Nat.log2 m : Nat) - (x + (Nat.log2 k : Nat))
    let ee : Int := if Val.le (.fin false m e) (.fin false k (x + e0)) then e0 else e0 + 1
    (max ee (-127) + 127).toNat
  | _ => 0

/-- The element format of a narrow code. -/
def narrowFmt (f : Nat) : FloatFmt := match f with | 5 => fmtE4m3 | 6 => fmtE5m2 | _ => fmtFp4

/-- The element code of one place of an FP8 or FP4 block whose scale is 2^k (R144, R145, R146). -/
def narrowCode (f : Nat) (k : Int) (mode : RoundMode) (v : Val) : Nat :=
  let ff := narrowFmt f
  match v with
  | .poison => 0xFF
  | .nan => if f = 5 then 0x7F else 0x7E
  | .inf s => if f = 5 then 0x7F else if s then 0xFC else 0x7C
  | .fin s m e => FloatFmt.sign ff s + FloatFmt.magCode ff mode m (e - k)

/-- Whether a block holds a NaN or an infinity (R145). -/
def hasNonfinite (vs : List Val) : Bool := vs.any (fun v => match v with | .nan => true | .inf _ => true | _ => false)

/-- Whether a block holds a poisoned place. -/
def hasPoison (vs : List Val) : Bool := vs.any (fun v => v == .poison)

/-- What a writer puts for one block: scale byte, element codes, and whether it was written poisoned by R145. -/
structure BlockOut where
  scale : Nat
  codes : List Nat
  nonfinite : Bool
deriving DecidableEq, Repr

/-- Write one FP8 or FP4 block; each place comes with its rounding mode (R143 to R146). -/
def writeNarrow (f : Nat) (vs : List (Val × RoundMode)) : BlockOut :=
  let v0 := vs.map Prod.fst
  let sc := narrowScale f (amaxVal v0)
  if f = 7 && (hasNonfinite v0 || hasPoison v0) then ⟨0xFF, vs.map (fun _ => 0), hasNonfinite v0⟩
  else ⟨sc, vs.map (fun p => narrowCode f ((sc : Nat) - 127) p.2 p.1), false⟩

/-! ## T2 (R150) -/

/-- A magnitude rounded to nearest even to 24 significand bits with no bound above (R150 step 2). -/
def round24 (v : Val) : Val :=
  match v with
  | .fin s m e =>
    if m = 0 then .fin s 0 0
    else
      let q := FloatFmt.lastPlace fmtFp32 m e
      .fin s (roundTo .nearest m e q) q
  | x => x

/-- One level of the pairwise tree of R150. -/
def pairUp (l : List Val) : List Val :=
  match l with
  | a :: b :: r => round24 (Val.add a b) :: pairUp r
  | l => l

/-- The pairwise tree, down to one value; `fuel` is the number of levels. -/
def treeSum24 (l : List Val) (fuel : Nat) : Val :=
  match fuel with
  | 0 => l.headD Val.zero
  | k + 1 => treeSum24 (pairUp l) k

/-- Write one T2 block of `n` places (R150, R145, R146). -/
def writeT2 (n : Nat) (vs : List Val) : BlockOut :=
  let ws := padTo Val.zero n vs
  if hasNonfinite ws then ⟨0xFF, vs.map (fun _ => 0), true⟩
  else
    let mags := ws.map (fun w => match w with | .fin _ m e => round24 (.fin false m e) | _ => Val.zero)
    let sum := treeSum24 mags 8
    match sum with
    | .fin _ 0 _ => ⟨0, vs.map (fun w => if w == .poison then 2 else 0), false⟩
    | .fin _ m e =>
      let k : Int := (Nat.log2 n : Nat)
      let mean : Val := .fin false m (e - k)
      let half := Val.scale mean (-1)
      let f : Int := e - k + (Nat.log2 m : Nat)
      let ex : Int := if Val.lt mean (.fin false 3 (f - 1)) then f else f + 1
      let ex := max (-127) (min 127 ex)
      let code := fun (w : Val) =>
        if w == .poison then 2 else if Val.lt half w then 1 else if Val.lt w (Val.neg half) then 3 else 0
      ⟨(ex + 127).toNat, vs.map code, false⟩
    | _ => ⟨0xFF, vs.map (fun _ => 0), true⟩

/-- Write one block of a narrow format. -/
def writeBlock (f b : Nat) (vs : List (Val × RoundMode)) : BlockOut :=
  if f = 8 then writeT2 (blockSize b) (vs.map Prod.fst) else writeNarrow f vs

/-! ## G16 (R147) -/

/-- What a G16 writer does at one place: the code, whether a finite value overflowed, whether a NaN or an infinite
input was written (R147, R193). A poisoned headroom exponent poisons the place (R140). -/
structure G16Out where
  code : Nat
  ovf : Bool
  nan : Bool
deriving DecidableEq, Repr

def writeG16 (h : Nat) (mode : RoundMode) (v : Val) : G16Out :=
  if h = 0x80 then ⟨0x7C01, false, false⟩
  else
    let c := toG16 mode (Val.scale v (-(int8 h)))
    match v with
    | .poison => ⟨c, false, false⟩
    | .nan => ⟨c, false, true⟩
    | .inf _ => ⟨c, false, true⟩
    | .fin _ _ _ => ⟨c, c % 0x8000 == 0x7C00, false⟩

/-! ## M48 (R148, R149) -/

/-- Whether the two halves of an M48 element make it poisoned (R132). -/
def m48Poison (hi : Word) (lo : Nat) : Bool := hi == poisonF32 || lo == 0x7F81

/-- The M48 code of a pair. -/
def m48Code (hi : Word) (lo : Nat) : Nat := hi.toNat * 2 ^ 16 + lo
def m48Hi (c : Nat) : Word := BitVec.ofNat 32 (c / 2 ^ 16)
def m48Lo (c : Nat) : Nat := c % 2 ^ 16

/-- The canonical M48 code of an exact value (R148). -/
def m48Of (v : Val) : Nat :=
  let hi := toF32 v
  match f32Val hi with
  | .fin _ _ _ => m48Code hi (toBf16 .nearest (Val.sub v (f32Val hi)))
  | _ => m48Code hi 0

/-- What a reader that takes an M48 element as FP32 receives (R148). -/
def m48ReadHi (c : Nat) : Word := if m48Poison (m48Hi c) (m48Lo c) then poisonF32 else m48Hi c

/-- M48 addition of an FP32 increment (R149). -/
def m48Add (c : Nat) (v : Word) : Nat :=
  let hi := m48Hi c
  let lo := m48Lo c
  if m48Poison hi lo || v == poisonF32 then m48Code poisonF32 0
  else
    let y := toF32 (Val.add (f32Val v) (bf16Val lo))
    let s := toF32 (Val.add (f32Val hi) (f32Val y))
    match f32Val s with
    | .fin _ _ _ =>
      let e := Val.sub (Val.add (f32Val hi) (f32Val y)) (f32Val s)
      m48Code s (toBf16 .nearest e)
    | _ => m48Code s 0

/-! ## Single-element conversions (R154) -/

/-- The code of a value in FP32, M48 or BF16. -/
def plainCode (f : Nat) (mode : RoundMode) (v : Val) : Nat :=
  match f with
  | 1 => (toF32 v).toNat
  | 2 => m48Of v
  | _ => toBf16 mode v

/-- The code that stands for +0 with any scale. -/
def zeroCode : Nat := 0

end Sys2Proof.Machine
end

