-- ==== Sys2Proof/Config.lean ====
section
/-! DEFINITION. What the spec leaves open: free values without a body, so that no proof can see them, and the
constants an implementation fixes. Each is named in the assumption log. -/

namespace Sys2Proof

/-- A free 64-bit value, applied to the state's counter (log 4). -/
opaque Config.freeLong : Nat → Long

/-- The offset, in units of the last place, of the VSE's EXP, LOG and TANH from the value rounded down: the result is
within 2 ulp (R173) and the algorithm is not given. The first argument is the opcode (log 6). -/
opaque Config.transcUlp : Nat → Word → Nat

/-- The VSE's LOG of a zero, by the operand: the spec states no result there (R172, R173, log 8). -/
opaque Config.logOfZero : Word → Word

/-- What a byte of a block that is wrong in size (R86), or of a failed stack (R264), reads as beside its poison tag, by
address (log 7). -/
opaque Config.lostByte : Nat → Byte

/-- The module key sealed with the module at delivery: 32 bytes by index (R402, log 26). -/
opaque Config.deliveryKey : Nat → Byte

/-- The smallest throttle k that a limit asks for, by limit, bound, reading and the k applied: the governor's estimate of
the plant, which the spec does not give (R600, log 32). -/
opaque Config.throttleAsk : Nat → Nat → Nat → Nat → Nat

/-- REASON of a boot step, by step and cause (R518, log 33). -/
opaque Config.bootReason : Nat → Nat → Nat

/-- SERIAL of the module (R447, log 2). -/
opaque Config.serial : Long

/-- Whether the signature of a firmware image verifies, by ROM key, header and image bytes: the ROM's keys are not given
(R580, log 34). -/
opaque Config.fwSigOk : Nat → List Byte → List Byte → Bool

/-- The JEDEC identity of the manufacturer in IDCODE (R618, log 2). -/
opaque Config.jedecId : BitVec 11

/-- The interface version of the Psiam image (R448, log 2). -/
opaque Config.ifVersion : BitVec 16

/-- The pre-FEC error rate at which a lane's implied rate equals 10^−QUAL_BER, in units of 10^−9, by QUAL_BER; the spec gives it
at the default alone (R429, log 37). -/
opaque Config.qualLimit : Nat → Nat

/-- HIST_BASE of a layer's record, by NUM_BASE and layer: the module writes it and the spec does not say where the areas lie
(R189, R201, log 39). -/
opaque Config.histBase : Nat → Nat → Long

/-- Which of its defined codes a reserved code of a Psiam command acts as, by opcode and code; the result is unpredictable (R515, log 85). -/
opaque Config.reservedCode : Nat → Nat → Nat

/-- What a write through the reserved alias 0b11 does, by address: 0 nothing, 1 as ACC_FP32, otherwise as ACC_G16; the result is
unpredictable (R268, log 86). -/
opaque Config.reservedAlias : Nat → Nat

/-- Repair resources for hard post-package repair of a stack, by physical stack: the spec gives no number (R250, log 2). -/
opaque Config.pprRows : Nat → Nat

end Sys2Proof
end

