-- ==== Sys2Proof/Machine/State.lean ====
section
/-! DEFINITION. The whole state of the block as plain data, its reset value, and the reasons a command can stop.
Every field's docstring gives its width, the rule of spec/ that names it, and its reset value. -/

namespace Sys2Proof.Machine

/-- Why the block stops with a fault. The spec gives the block no stopping fault: an error is an event and its effect
on state (R72, R459, R466). No command answers with one; the constructor keeps the type inhabited. Safe. -/
inductive Fault where
  /-- An access to an address that the memory map does not have, where no master is named for the freeze of R466. No meaning raises it today. Safe. -/
  | unmapped
deriving DecidableEq, Repr

/-- Why a command has no meaning in the model. -/
inductive Refusal where
  /-- The command has not been given its meaning yet. Safe. -/
  | notModelled (mnemonic : String)
deriving DecidableEq, Repr

/-! ## Workings images (02_workings) -/

/-- A station descriptor of a workings image (R39). -/
structure Station where
  /-- NAME. [31 chars] [R39, R40 02_workings] [as loaded] -/
  name : List Byte
  /-- KIND. [8] [R41 02_workings] [as loaded] -/
  kind : Nat
  /-- FLAGS. [8] [R39 02_workings] [as loaded] -/
  flags : Nat
  /-- PHASE. [8] [R45 02_workings] [as loaded] -/
  phase : Nat
  /-- HOPS. [8] [R61 02_workings] [as loaded] -/
  hops : Nat
  /-- CODE_OFFSET. [32] [R39 02_workings] [as loaded] -/
  codeOff : Nat
  /-- CODE_SIZE. [32] [R39 02_workings] [as loaded] -/
  codeSize : Nat
  /-- LAYER. [32] [R39 02_workings] [as loaded] -/
  layer : Nat
  /-- ROW_MASK. [64] [R42 02_workings] [as loaded] -/
  rowMask : Nat
  /-- COL_MASK. [16] [R42 02_workings] [as loaded] -/
  colMask : Nat
  /-- NEIGHBOURS and NEIGHBOUR. [up to 4 × 8] [R39, R63 02_workings] [as loaded] -/
  neighbours : List Nat
  /-- The kind-specific parameter block. [0 to 4,096 bytes] [R39 02_workings, R181 06, R285, R287, R317] [as loaded] -/
  params : List Byte
deriving DecidableEq, Repr

/-- A conveyor descriptor of a workings image (R46). -/
structure ConvDesc where
  /-- PRODUCER; 0xFFFF external. [16] [R46 02_workings] [as loaded] -/
  producer : Nat
  /-- CONSUMER; 0xFFFF external. [16] [R46 02_workings] [as loaded] -/
  consumer : Nat
  /-- FORMAT. [8] [R46 02_workings] [as loaded] -/
  format : Nat
  /-- BLOCK. [8] [R46 02_workings] [as loaded] -/
  block : Nat
  /-- STORE. [8] [R46 02_workings] [as loaded] -/
  store : Nat
  /-- EXT. [8] [R46 02_workings] [as loaded] -/
  ext : Nat
  /-- ROWS. [16] [R46 02_workings] [as loaded] -/
  rows : Nat
  /-- COLS. [16] [R46 02_workings] [as loaded] -/
  cols : Nat
  /-- CAPACITY. [16] [R46 02_workings] [as loaded] -/
  capacity : Nat
  /-- HIGH. [16] [R46 02_workings] [as loaded] -/
  high : Nat
  /-- LOW. [16] [R46 02_workings] [as loaded] -/
  low : Nat
  /-- BUFFER. [16] [R46 02_workings] [as loaded] -/
  buffer : Nat
  /-- TENSOR. [32] [R46 02_workings] [as loaded] -/
  tensor : Nat
deriving DecidableEq, Repr

/-- A buffer descriptor (R52). -/
structure BufDesc where
  /-- DPA. [64] [R52 02_workings] [as loaded] -/
  dpa : Nat
  /-- SIZE. [64] [R52 02_workings] [as loaded] -/
  size : Nat
  /-- CLASS. [8] [R52 02_workings] [as loaded] -/
  cls : Nat
  /-- COMPRESS. [8] [R52 02_workings] [as loaded] -/
  compress : Nat
deriving DecidableEq, Repr

/-- A tensor catalogue entry (R54). -/
structure TensorEnt where
  /-- TENSOR_ID. [32] [R54 02_workings] [as loaded] -/
  id : Nat
  /-- CLASS. [8] [R54 02_workings] [as loaded] -/
  cls : Nat
  /-- FORMAT. [8] [R54 02_workings] [as loaded] -/
  format : Nat
  /-- BLOCK. [8] [R54 02_workings] [as loaded] -/
  block : Nat
  /-- ROUNDING. [8] [R54 02_workings] [as loaded] -/
  rounding : Nat
  /-- LAYER. [32] [R54 02_workings] [as loaded] -/
  layer : Nat
  /-- DIMS, the NDIM used ones. [up to 4 × 32] [R54 02_workings] [as loaded] -/
  dims : List Nat
  /-- SHARD, the NSHARD used ones. [up to 4 × 16] [R54, R55 02_workings] [as loaded] -/
  shard : List Nat
  /-- EPOCH. [32] [R54 02_workings] [as loaded] -/
  epoch : Nat
  /-- SCALE. [FP32] [R54 02_workings, R141 05_formats] [as loaded] -/
  scale : Word
  /-- OFFSET. [64] [R54 02_workings] [as loaded] -/
  offset : Nat
  /-- BUFFER. [16] [R54 02_workings] [as loaded] -/
  buffer : Nat
deriving DecidableEq, Repr

/-- The SCHEDULE section (R56). -/
structure Schedule where
  /-- PASSES. [16] [R56 02_workings] [as loaded] -/
  passes : Nat
  /-- ROUND_STEPS. [16] [R56 02_workings] [as loaded] -/
  roundSteps : Nat
  /-- FIRST_STATION. [16] [R56 02_workings] [as loaded] -/
  first : Nat
  /-- STEP_LIMIT. [32] [R56 02_workings] [as loaded] -/
  limit : Nat
deriving DecidableEq, Repr

/-- A loaded workings image (R37 to R56). -/
structure Image where
  /-- BUILD_ID. [64] [R38 02_workings] [as loaded] -/
  buildId : Nat
  /-- ROLE. [8] [R38 02_workings] [as loaded] -/
  role : Nat
  /-- STEAL_HOPS. [8] [R38 02_workings] [as loaded] -/
  stealHops : Nat
  /-- The STATION section. [1 to 256 entries] [R39 02_workings] [as loaded] -/
  stations : List Station
  /-- The CONVEYOR section. [0 to 4,096 entries] [R46 02_workings] [as loaded] -/
  conveyors : List ConvDesc
  /-- The BUFFER section. [0 to 16,384 entries] [R52 02_workings] [as loaded] -/
  buffers : List BufDesc
  /-- The TENSOR section. [0 to 65,536 entries] [R54 02_workings] [as loaded] -/
  tensors : List TensorEnt
  /-- The CODE section. [64 B granules] [R38, R170 06_vector_engine] [as loaded] -/
  code : List Byte
  /-- The SCHEDULE section. [64 B] [R56 02_workings] [as loaded] -/
  sched : Schedule
deriving DecidableEq, Repr

/-! ## The bench (03 to 06) -/

/-- One IN entry of a task descriptor (R89). -/
structure InRef where
  /-- CONVEYOR. [12] [R89 03_bench] [0] -/
  conv : Nat
  /-- HOME_LB; 0x3FF for a memory-stored conveyor. [10] [R89 03_bench, R219 08] [0] -/
  home : Nat
  /-- SPD_WORD, or the slot number. [15] [R89 03_bench, R219 08] [0] -/
  word : Nat
  /-- WORDS. [11] [R89 03_bench] [0] -/
  words : Nat
  /-- Whether the task has freed the slot by TFREE; the task's own progress, one bit a slot. [1] [R90 03_bench] [false] -/
  freed : Bool
deriving DecidableEq, Repr

/-- A tile task descriptor (R89). -/
structure Task where
  /-- STATION. [8] [R89 03_bench] [-] -/
  station : Nat
  /-- FLAGS. [8] [R89 03_bench] [-] -/
  flags : Nat
  /-- NOUT. [8] [R89 03_bench] [-] -/
  nout : Nat
  /-- TASK_SEQ. [32] [R89 03_bench] [-] -/
  seq : Nat
  /-- TENSOR_ID. [32] [R89 03_bench] [-] -/
  tensor : Nat
  /-- STEP. [32] [R89 03_bench] [-] -/
  step : Nat
  /-- PASS. [16] [R89 03_bench] [-] -/
  pass : Nat
  /-- TILE_I. [16] [R89 03_bench] [-] -/
  ti : Nat
  /-- TILE_J. [16] [R89 03_bench] [-] -/
  tj : Nat
  /-- SLOT. [8] [R89 03_bench] [-] -/
  slot : Nat
  /-- IN[0] to IN[NIN − 1]. [up to 4 × 64] [R89 03_bench] [-] -/
  ins : List InRef
  /-- OUT[0] and OUT[1]. [2 × 16] [R89 03_bench] [-] -/
  outs : List Nat
  /-- ARG. [32] [R89, R633] [-] -/
  arg : Nat
  /-- Poison tags of the eight 8 B words of the descriptor. [8] [R632, R81 03_bench] [0] -/
  poison : Nat
  /-- Whether the task is a probe-step task (R209 07_numerics). [1] [R209, R216] [false] -/
  probe : Bool
  /-- Where the task stands in a reduction tree: level and node (R182); of a query task (0, 1) once PENDING counts it (R319). [2 numbers] [R182 06_vector_engine] [0] -/
  node : Nat × Nat
  /-- Numbers of the TPUTs whose tiles an earlier run of the task has sent (R32, R535; log 144). [list] [R535 18_bring_up_and_repair] [empty] -/
  sent : List Nat
deriving DecidableEq, Repr

/-- A queued MXE command (R70, R71, R107). -/
structure MxeCmd where
  /-- FN. [6] [R107 04_matrix_engine] [-] -/
  fn : Nat
  /-- Operand offset A as captured at issue. [64] [R107 04_matrix_engine] [-] -/
  off : Nat
  /-- ALPHA captured at issue. [FP32] [R75 03_bench, R109 04] [-] -/
  alpha : Word
  /-- Place in the issue order of the context, shared with streams (R121). [count] [R121 04_matrix_engine] [-] -/
  seq : Nat
deriving DecidableEq, Repr

/-- A queued stream (R70, R74). -/
structure VseCmd where
  /-- Descriptor offset A captured at issue. [64] [R162 06_vector_engine] [-] -/
  off : Nat
  /-- The four scalars captured at issue; a poisoned one holds the FP32 poison code. [4 × 64] [R74 03_bench, R166 06] [-] -/
  scal : List Long
  /-- Place in the issue order of the context. [count] [R121 04_matrix_engine] [-] -/
  seq : Nat
deriving DecidableEq, Repr

/-- Where an issued TPUT stands: sending into a slot, waiting for a slot or credit, or settling a lockstep signature (R91, R100, R224). -/
inductive TputPhase where
  | sending (slot : Nat)
  | waiting (since : Nat)
  | signing
  | boardSend
deriving DecidableEq, Repr

/-- A TPUT whose source bytes are still being read (R91). The words are those captured at issue. -/
structure Tput where
  /-- Output conveyor index. [12] [R91 03_bench] [-] -/
  conv : Nat
  /-- Which TPUT of its task, from 0. [count] [R100 03_bench] [-] -/
  nth : Nat
  /-- Phase. [R91, R100, R224] [-] -/
  phase : TputPhase
  /-- The words: 16-bit metadata and 64 B payload each. [1 to 1,089 words] [R213, R216 08_conveyor_queues] [-] -/
  words : List (Nat × List Byte)
deriving DecidableEq, Repr

/-- One context of a bench (R68 to R95). -/
structure BCtx where
  /-- X1 to X63; X0 reads 0 and is not stored. [63 × 64] [R68 03_bench] [0, DESIGN CHOICE log 2] -/
  x : Tab Long
  /-- Poison bits of X1 to X63. [64] [R632 03_bench] [0, DESIGN CHOICE log 2] -/
  xp : BitVec 64
  /-- Program counter, byte offset in the station's code. [64] [R68, R76 03_bench] [0] -/
  pc : Long
  /-- Task queue, oldest first. [256 descriptors] [R78, R88 03_bench] [empty, R470 zeroing] -/
  queue : List Task
  /-- The running task. [1 descriptor] [R92 03_bench] [none] -/
  running : Option Task
  /-- MXE command queue. [8 entries] [R71 03_bench] [empty] -/
  mxeQ : List MxeCmd
  /-- VSE command queue. [8 entries] [R71 03_bench] [empty] -/
  vseQ : List VseCmd
  /-- Issue order counter of MXE and VSE commands. [count] [R71, R121] [0] -/
  issued : Nat
  /-- Issue count at the latest FENCE: LD and ST wait for older commands. [count] [R70 03_bench] [0] -/
  fence : Nat
  /-- TPUTs not yet complete. [list] [R91 03_bench] [empty] -/
  tputs : List Tput
  /-- TPUTs issued by the running task. [count] [R100 03_bench] [0] -/
  tputN : Nat
  /-- MXE accumulators of the context, row-major; FP32 poison code marks a poisoned one. [64 × 64 × 32] [R93, R110, R116 04] [+0, DESIGN CHOICE log 2] -/
  acc : Tab Word
  /-- ACC_LIVE. [1] [R110 04_matrix_engine] [0] -/
  accLive : Bool
  /-- Accumulator save area. [16 KiB] [R78, R93, R95 03_bench] [0] -/
  accSave : Tab Word
  /-- MXE_STATUS.OVF_BLOCKS. [16] [R110 04_matrix_engine] [0] -/
  mxOvf : Nat
  /-- MXE_STATUS.BLOCKS. [16] [R110 04_matrix_engine] [0] -/
  mxBlocks : Nat
  /-- MXE_STATUS[4:0]: EMPTY, POISON, NAN, INF. [5] [R110 04_matrix_engine] [0] -/
  mxFlags : Nat
  /-- STREAM_STATUS less BUSY. [64] [R178 06_vector_engine] [0] -/
  stream : Nat
  /-- Context frozen by an isolation violation or a partition reset. [1] [R95, R466 16_host_interface] [0] -/
  frozen : Bool
  /-- Context record: program counter at the freeze. [64] [R78, R95 03_bench] [0] -/
  recPc : Long
  /-- Context record: flags of the frozen task, and the fault code. [32] [R78, R95 03_bench] [0] -/
  recFlags : Nat
  /-- Timebase at the start of the running task. [64] [R314 11_sharding_and_pipelines] [0] -/
  startAt : Nat
deriving DecidableEq, Repr

/-- One entry of the station code cache (R76). -/
structure CacheTag where
  /-- Context of the tag. [1] [R76 03_bench] [-] -/
  ctx : Nat
  /-- Station index of the tag. [8] [R76 03_bench] [-] -/
  station : Nat
  /-- BOUND. [1] [R76 03_bench] [-] -/
  bound : Bool
  /-- The entry is being rewritten; its tasks wait. [1] [R77 03_bench] [-] -/
  rewriting : Bool
deriving DecidableEq, Repr

/-- What a thief's outstanding request has met so far (R97, R98). -/
inductive StealAnswer where
  | none
  | granted (t : Task)
  | refused
deriving DecidableEq, Repr

/-- An outstanding steal request (R97). -/
structure StealReq where
  /-- Victim LB. [10] [R97 03_bench] [-] -/
  victim : Nat
  /-- Context. [1] [R97 03_bench] [-] -/
  ctx : Nat
  /-- Station stolen from. [8] [R97 03_bench] [-] -/
  station : Nat
  /-- Station of the thief at which the steal counts. [8] [R65 02_workings] [-] -/
  home : Nat
  /-- Answer on its way back. [R98 03_bench] [none] -/
  answer : StealAnswer
deriving DecidableEq, Repr

/-- A lockstep disagreement waiting for its vote (R100 to R102), held at the pair's lower bench. -/
structure Vote where
  /-- Lower bench of the pair. [10] [R100 03_bench] [-] -/
  low : Nat
  /-- Higher bench of the pair. [10] [R100 03_bench] [-] -/
  high : Nat
  /-- Context. [1] [R100 03_bench] [-] -/
  ctx : Nat
  /-- Voting bench. [10] [R101 03_bench] [-] -/
  voter : Nat
  /-- Which TPUT of the task disagreed. [count] [R100 03_bench] [-] -/
  nth : Nat
  /-- The task, for the voter's copy. [R101 03_bench] [-] -/
  task : Task
deriving DecidableEq, Repr

/-- A scratchpad row that waits for its retirement (R82). -/
structure RowDue where
  /-- Bank × 256 + row. [13] [R79, R82 03_bench] [-] -/
  row : Nat
  /-- Context of the access that made the row due. [1] [R104 03_bench] [-] -/
  ctx : Nat
  /-- Station of that access. [8] [R104 03_bench] [-] -/
  station : Nat
  /-- The step boundary at which the row is retired has come. [1] [R82 03_bench] [-] -/
  atBoundary : Bool
deriving DecidableEq, Repr

/-- One logical bench (03_bench). -/
structure Bench where
  /-- Context C0. [R68 03_bench] [-] -/
  c0 : BCtx
  /-- Context C1. [R68 03_bench] [-] -/
  c1 : BCtx
  /-- Code cache tags, in order of placement. [8 entries] [R43, R76 03_bench] [empty] -/
  cache : List CacheTag
  /-- Context whose task the bench last ran. [1, or none since a start or zeroing] [R93, R94 03_bench] [none] -/
  lastCtx : Option Nat
  /-- The context whose accumulators are in the array. [1] [R93 03_bench] [none] -/
  accOwner : Option Nat
  /-- Outstanding steal request. [R97 03_bench] [none] -/
  steal : Option StealReq
  /-- Victims excluded until their published count changes: LB × 512 + station × 2 + context, and the count seen. [list] [R98 03_bench] [empty] -/
  excluded : List (Nat × Nat)
  /-- Rotating pointer over thieves at this queue. [10] [R28, R29, R97] [0] -/
  thiefPtr : Nat
  /-- Rotating pointer over victims of this thief. [10] [R28, R29, R63] [0] -/
  victimPtr : Nat
  /-- Votes this bench must run, and the vote it runs now. [R101 03_bench] [empty] -/
  votes : List Vote
  /-- Quarantined by a lost vote. [1] [R102 03_bench] [0] -/
  quarantined : Bool
  /-- Failed in service and not yet spared. [1] [R534 18_bring_up_and_repair] [0] -/
  failed : Bool
  /-- Cause of the latest failure. [8] [R534, R535] [0] -/
  cause : Nat
  /-- Withdrawn for a self-test slice. [1] [R545 19_self_test] [0] -/
  withdrawn : Bool
  /-- Poison tags of scratchpad words: the 8 B word indices whose tag is set. [1 per 8 B word] [R81 03_bench] [empty] -/
  tags : List Nat
  /-- Corrected errors per scratchpad row (key bank × 256 + row) within this sweep. [count per row] [R81, R82 03_bench] [0] -/
  rowErrs : Tab Nat
  /-- Rows waiting to be retired at the step boundary. [list] [R82 03_bench] [empty] -/
  rowDue : List RowDue
  /-- Spare rows in use per bank. [0 to 2] [R82, R83 03_bench] [0] -/
  sparesUsed : Tab Nat
deriving DecidableEq, Repr
/-! ## Conveyors (08_conveyor_queues) -/

/-- A slot in use (R218, R220). Its payload words lie in the scratchpad or the buffer. -/
structure CSlot where
  /-- HOME_LB; 0x3FF for a memory-stored conveyor. [10] [R219 08_conveyor_queues] [-] -/
  home : Nat
  /-- SPD_WORD, or the slot number. [15] [R218, R219 08_conveyor_queues] [-] -/
  word : Nat
  /-- The END word has landed. [1] [R220 08_conveyor_queues] [false] -/
  landed : Bool
  /-- A task has joined the tile. [1] [R220 08_conveyor_queues] [false] -/
  joined : Bool
  /-- Metadata of the words that have landed, in word order. [16 bits a word] [R213 08_conveyor_queues] [empty] -/
  metas : List Nat
deriving DecidableEq, Repr

/-- One conveyor of a loaded image (R220 to R234). OCC and READY are counts over `slots`. -/
structure Conv where
  /-- Slots in use, in order of allocation. [OCC ≤ SLOTS] [R220 08_conveyor_queues] [empty] -/
  slots : List CSlot
  /-- STATE.HOLD. [1] [R221, R222 08_conveyor_queues] [0] -/
  hold : Bool
  /-- STATE.CREDIT_WAIT. [1] [R221, R232 08_conveyor_queues] [0] -/
  creditWait : Bool
  /-- STATE.BROKEN. [1] [R221, R234 08_conveyor_queues] [0] -/
  broken : Bool
  /-- HOLDS. [32] [R221 08_conveyor_queues] [0] -/
  holds : Nat
  /-- PARITY. [32] [R221 08_conveyor_queues] [0] -/
  parity : Nat
  /-- DISCARDS. [32] [R221 08_conveyor_queues] [0] -/
  discards : Nat
  /-- FULL_WAITS. [32] [R221 08_conveyor_queues] [0] -/
  fullWaits : Nat
  /-- WAIT_NS. [64] [R221 08_conveyor_queues] [0] -/
  waitNs : Nat
  /-- Credits held by the sending end of a board conveyor. [16] [R232 08_conveyor_queues] [0] -/
  credits : Nat
  /-- The last message from the receiving end was HOLD. [1] [R232 08_conveyor_queues] [0] -/
  peerHold : Bool
  /-- Peer named at load: SLOT_ID and index. [3 + 6] [R231 08_conveyor_queues] [none] -/
  peer : Option (Nat × Nat)
  /-- Both ends are bound. [1] [R231 08_conveyor_queues] [0] -/
  bound : Bool
  /-- A binding offer of the peer that names this end has arrived. [1] [R231 08_conveyor_queues] [0] -/
  offered : Bool
  /-- The words of a tile that a board port is still delivering, descriptor word first. [list] [R217, R234] [empty] -/
  partialRx : List (Nat × List Byte)
  /-- Slot that the tile still arriving from a board port holds. [HOME_LB and word] [R220, R234] [none] -/
  rxSlot : Option (Nat × Nat)
  /-- Rotating pointer over landing benches. [10] [R28, R88] [0] -/
  landPtr : Nat
  /-- Rotating pointer over waiting producers. [10] [R28, R224] [0] -/
  prodPtr : Nat
  /-- Logical benches whose slots are gone because they became absent. [list] [R225 08_conveyor_queues] [empty] -/
  lostLbs : List Nat
deriving DecidableEq, Repr

/-- A feed channel's landing buffer (R230). -/
structure Feed where
  /-- Waiting words: metadata and payload. [up to 4,096 × 66 B] [R230 08_conveyor_queues] [empty] -/
  buf : List (Nat × List Byte)
  /-- Words are being discarded until the next word with DESC set. [1] [R230 08_conveyor_queues] [0] -/
  discarding : Bool
  /-- Words of the tile now moving into its slot. [list] [R230 08_conveyor_queues] [empty] -/
  moving : List (Nat × List Byte)
  /-- Slot that the moving tile holds. [HOME_LB and word] [R220, R230] [none] -/
  slot : Option (Nat × Nat)
  /-- The channel is frozen. [1] [R467 16_host_interface] [0] -/
  frozen : Bool
deriving DecidableEq, Repr

/-! ## Memory (09_memory) -/

/-- State of a 2 KiB block (R257). -/
inductive BlockState where
  | plain
  | coded (sectors : Nat)
  | raw
deriving DecidableEq, Repr

/-- One physical stack and its controller (R237 to R264). -/
structure Stack where
  /-- Remap entries in use. [0 to 4,096] [R249 09_memory] [0] -/
  remaps : Nat
  /-- Rows remapped by the table: row numbers. [list] [R249 09_memory] [empty] -/
  rows : List Nat
  /-- Corrected errors per row within 24 hours, with the stamp of each. [list] [R247, R249 09_memory] [empty] -/
  corrected : Tab (List Nat)
  /-- Rows that gave an uncorrectable error, with the stamp. [list] [R263 09_memory] [empty] -/
  badRows : List (Nat × Nat)
  /-- The physical stack is recorded failed. [1] [R239, R266 09_memory] [0] -/
  failed : Bool
  /-- Repair resources used by hard post-package repairs. [count] [R250 09_memory] [0] -/
  pprUsed : Nat
  /-- Next line the patrol reads. [line number] [R251 09_memory] [0] -/
  patrol : Nat
deriving DecidableEq, Repr

/-- Memory of the module (09_memory). -/
structure MemSt where
  /-- Working memory, haul-context region and scratchpad windows, by DPA. [bytes] [R240 09_memory, R78 03_bench] [all 0, R520] -/
  bytes : Mem
  /-- Poison flags: line numbers (DPA / 64) whose flag is set. [1 per 64 B line] [R248 09_memory] [empty] -/
  poison : List Nat
  /-- Block states that are not PLAIN, by block number (DPA / 2,048). [7 per block] [R257 09_memory] [PLAIN] -/
  blocks : Tab BlockState
  /-- Page table entries that are not 0, by page number. [16 per page] [R244 09_memory] [0] -/
  pages : Tab Nat
  /-- Stack map: LS0 to LS7 to a physical stack. [8 × 4] [R238 09_memory] [LSn on Sn] -/
  stackMap : List Nat
  /-- The spare physical stack, if one exists. [4] [R238, R239 09_memory] [S8] -/
  spare : Option Nat
  /-- Logical stacks marked failed. [8 bits] [R264 09_memory] [none] -/
  failedLs : List Nat
  /-- The nine physical stacks. [R237 09_memory] [-] -/
  stk : Tab Stack
  /-- Stockpile carve-out C in GiB. [0 to 128] [R240 09_memory] [64] -/
  carve : Nat
  /-- What the latest MEM_READ delivered: 64 B and the poison tag. The model's own output latch. [line] [R247 09_memory] [empty] -/
  reply : List Byte × Bool
deriving DecidableEq, Repr

/-! ## Host windows (16_host_interface) -/

/-- A fetched command descriptor (R457). -/
structure Desc where
  /-- OPCODE. [16] [R457 16_host_interface] [-] -/
  opcode : Nat
  /-- FLAGS. [8] [R457 16_host_interface] [-] -/
  flags : Nat
  /-- PART. [8] [R457 16_host_interface] [-] -/
  part : Nat
  /-- TAG. [32] [R457 16_host_interface] [-] -/
  tag : Nat
  /-- IN_ADDR. [64] [R457 16_host_interface] [-] -/
  inAddr : Nat
  /-- IN_LEN. [32] [R457 16_host_interface] [-] -/
  inLen : Nat
  /-- OUT_LEN. [32] [R457 16_host_interface] [-] -/
  outLen : Nat
  /-- OUT_ADDR. [64] [R457 16_host_interface] [-] -/
  outAddr : Nat
  /-- PARAMS. [32 bytes] [R457 16_host_interface] [-] -/
  params : List Byte
  /-- Ring index of the descriptor. [16] [R458 16_host_interface] [-] -/
  index : Nat
deriving DecidableEq, Repr

/-- A completion not yet written (R458, R456). -/
structure Completion where
  /-- TAG. [32] [R458 16_host_interface] [-] -/
  tag : Nat
  /-- STATUS. [16] [R458 16_host_interface] [-] -/
  status : Nat
  /-- FLAGS.LONG. [1] [R458 16_host_interface] [-] -/
  long : Bool
  /-- INDEX. [16] [R458 16_host_interface] [-] -/
  index : Nat
  /-- OUT_WRITTEN. [32] [R458 16_host_interface] [-] -/
  outWritten : Nat
  /-- RESULT. [16 bytes] [R458 16_host_interface] [-] -/
  result : List Byte
  /-- The descriptor's FLAGS.IRQ. [1] [R457, R463] [-] -/
  irq : Bool
deriving DecidableEq, Repr

/-- Interrupt coalescing of one ring or queue (R463). -/
structure Coal where
  /-- Entries counted since the last interrupt. [8] [R463 16_host_interface] [0] -/
  count : Nat
  /-- Stamp of the first uncounted entry. [64] [R463 16_host_interface] [0] -/
  since : Nat
deriving DecidableEq, Repr

/-- One command ring with its completion ring (R453 to R458). -/
structure Ring where
  /-- CMDQn_BASE. [64] [R453 16_host_interface] [0, DESIGN CHOICE log 2] -/
  base : Long
  /-- CMDQn_CFG. [64] [R453 16_host_interface] [0] -/
  cfg : Long
  /-- CMDQn_DB.PI. [16] [R453 16_host_interface] [0] -/
  pi : Nat
  /-- CMDQn_DB.PENDING. [1] [R453, R455] [0] -/
  pending : Bool
  /-- CMDQn_CI.CI. [16] [R453 16_host_interface] [0] -/
  ci : Nat
  /-- CQn_BASE. [64] [R453 16_host_interface] [0, DESIGN CHOICE log 2] -/
  cqBase : Long
  /-- CQn_HEAD. [16] [R453 16_host_interface] [0] -/
  cqHead : Nat
  /-- Completion write index, counted without wrapping. [count] [R454, R456] [0] -/
  cqWi : Nat
  /-- Fetched commands not yet started, in ring order. [list] [R454, R455] [empty] -/
  fetched : List Desc
  /-- Completions waiting for space or for a thaw. [list] [R456, R467] [empty] -/
  heldCq : List Completion
  /-- Interrupt coalescing. [R463 16_host_interface] [0] -/
  coal : Coal
deriving DecidableEq, Repr

/-- One PCIe function: its mailbox window, event queue, aperture and interrupts (R446 to R465). -/
structure Func where
  /-- Ring 0. [R453 16_host_interface] [-] -/
  ring0 : Ring
  /-- Ring 1. [R453 16_host_interface] [-] -/
  ring1 : Ring
  /-- EVQ_BASE. [64] [R453 16_host_interface] [0, DESIGN CHOICE log 2] -/
  evqBase : Long
  /-- EVQ_CFG. [64] [R453 16_host_interface] [0] -/
  evqCfg : Long
  /-- EVQ_HEAD. [16] [R453 16_host_interface] [0] -/
  evqHead : Nat
  /-- EVQ_LOST.COUNT. [32] [R453, R462] [0] -/
  evqLost : Nat
  /-- Events dropped since the last EVENTS_LOST. [32] [R462 16_host_interface] [0] -/
  lostSince : Nat
  /-- Event write index and SEQ, counted without wrapping. [count] [R454, R460] [0] -/
  evqWi : Nat
  /-- Interrupt coalescing of the event queue. [R463 16_host_interface] [0] -/
  coal : Coal
  /-- APERTURE. [64] [R453, R464] [0] -/
  aperture : Long
  /-- The function is frozen. [1] [R466, R467] [0] -/
  frozen : Bool
  /-- Partition assigned to the VF. [2, or none] [R448 16_host_interface] [none, 0xFF] -/
  part : Option Nat
  /-- MSI-X table, 16 B an entry. [64 or 16 entries] [R447, R463] [masked, PRESUMED log 3] -/
  msix : Tab (Nat × Nat × Nat)
  /-- MSI-X pending bits. [64] [R447, R463] [0] -/
  pba : BitVec 64
  /-- BAR4 requests refused for the PF. [count] [R468 16_host_interface] [0] -/
  denied : Nat
deriving DecidableEq, Repr

/-- A freeze record (R452). -/
structure Freeze where
  /-- CLASS. [8] [R452 16_host_interface] [-] -/
  cls : Nat
  /-- SOURCE. [16] [R452 16_host_interface] [-] -/
  source : Nat
  /-- UNIT. [8] [R452 16_host_interface] [-] -/
  unit : Nat
  /-- PART. [8] [R452 16_host_interface] [-] -/
  part : Nat
  /-- CAUSE. [8] [R452 16_host_interface] [-] -/
  cause : Nat
  /-- ACCESS. [8] [R452 16_host_interface] [-] -/
  access : Nat
  /-- ADDR. [64] [R452 16_host_interface] [-] -/
  addr : Nat
  /-- STAMP. [64] [R452 16_host_interface] [-] -/
  stamp : Nat
  /-- JOB_TAG of a frozen board-port source. [32] [R466, R467] [0] -/
  jobTag : Nat
deriving DecidableEq, Repr

/-- The host-facing registers of the module that all functions share. -/
structure HostSt where
  /-- The eight functions: 0 is the PF. [R446 16_host_interface] [-] -/
  funcs : Tab Func
  /-- ERR_SUMMARY's W1C bits: 12, 11, 7, 3. [16] [R449 16_host_interface] [0] -/
  errBits : BitVec 16
  /-- ERR_MASK. [64] [R447 16_host_interface] [0, DESIGN CHOICE log 2] -/
  errMask : Long
  /-- IF_VERSION of ID. [16] [R448 16_host_interface] [0] -/
  ifVersion : Nat
  /-- Freeze records by slot 0 to 63. [64 × 32 B] [R452 16_host_interface] [empty] -/
  freezes : Tab Freeze
  /-- Frozen masters that wait for a slot, in order of freezing. [list] [R452 16_host_interface] [empty] -/
  freezeWait : List Freeze
  /-- Rotating pointer of the MP over functions, ring 0. [3] [R28, R456] [0] -/
  fnPtr : Nat
  /-- The standby MP pair serves. [1] [R449 16_host_interface] [0] -/
  mpStandby : Bool
  /-- Copy engines frozen. [8 bits] [R466, R467] [none] -/
  copyFrozen : List Nat
  /-- What the latest BAR4 read returned: bytes, and whether the TLP was poisoned. The model's own output latch. [bytes] [R465 16_host_interface] [empty] -/
  bar4Reply : List Byte × Bool
  /-- Bytes the module has written to host memory by DMA: rings, events, results, interrupts. The model's own output. [bytes] [R458, R460] [empty] -/
  hostMem : Mem
deriving DecidableEq, Repr
/-! ## Jobs and the in-site step (02, 07, 10, 11) -/

/-- Whom a long command answers when it ends (R477). -/
structure LongRef where
  /-- TAG of the descriptor. [32] [R477 17_psiam_commands] [-] -/
  tag : Nat
  /-- OPCODE. [16] [R477 17_psiam_commands] [-] -/
  opcode : Nat
  /-- Ring index of the descriptor. [16] [R477 17_psiam_commands] [-] -/
  index : Nat
  /-- Ring, 0 or 1. [1] [R477 17_psiam_commands] [-] -/
  ring : Nat
  /-- Issuing function. [3] [R477 17_psiam_commands] [-] -/
  func : Nat
deriving DecidableEq, Repr

/-- Life of a job of one partition and context. -/
inductive JobPhase where
  | closed
  | opened
  | loaded
  | running
deriving DecidableEq, Repr

/-- Why a job is held (R570). -/
inductive HoldCause where
  | hostPause
  | divergence
  | snapshot
  | lost
deriving DecidableEq, Repr

/-- The in-site policy (R272). -/
structure InSitePolicy where
  /-- REPLICAS. [16] [R272 10_in_site_step] [-] -/
  replicas : Nat
  /-- REPLICA. [16] [R272 10_in_site_step] [-] -/
  replica : Nat
  /-- LATE. [8] [R272 10_in_site_step] [-] -/
  late : Nat
  /-- MISS_LIMIT. [8] [R272 10_in_site_step] [-] -/
  missLimit : Nat
  /-- TALLY_EVERY. [16] [R272 10_in_site_step] [-] -/
  tallyEvery : Nat
  /-- WINDOW_NS. [32] [R272 10_in_site_step] [-] -/
  windowNs : Nat
  /-- ACK_NS. [32] [R272 10_in_site_step] [-] -/
  ackNs : Nat
  /-- TAKEOVER_NS. [32] [R272 10_in_site_step] [-] -/
  takeoverNs : Nat
deriving DecidableEq, Repr

/-- The cut record (R308). -/
structure Cut where
  /-- STAGES. [8] [R308 11_sharding_and_pipelines] [-] -/
  stages : Nat
  /-- STAGE. [8] [R308 11_sharding_and_pipelines] [-] -/
  stage : Nat
  /-- MODEL_RANKS. [8] [R308 11_sharding_and_pipelines] [-] -/
  ranks : Nat
  /-- MODEL_RANK. [8] [R308 11_sharding_and_pipelines] [-] -/
  rank : Nat
  /-- SEQ_RANKS. [8] [R308 11_sharding_and_pipelines] [-] -/
  seqRanks : Nat
  /-- SEQ_RANK. [8] [R308 11_sharding_and_pipelines] [-] -/
  seqRank : Nat
  /-- EPOCH. [32] [R308 11_sharding_and_pipelines] [-] -/
  epoch : Nat
  /-- PEERS. [8 × 8] [R308 11_sharding_and_pipelines] [-] -/
  peers : List Nat
deriving DecidableEq, Repr

/-- An input of a reduction node (R275, R278). -/
structure RInput where
  /-- Which child of the node it fills: 0 or 1. [1] [R274 10_in_site_step] [-] -/
  child : Nat
  /-- SENDER. [16] [R277 10_in_site_step] [-] -/
  sender : Nat
  /-- STEP. [32] [R277 10_in_site_step] [-] -/
  step : Nat
  /-- The input holds G16 places (a CONTRIB); otherwise FP32. [1] [R275 10_in_site_step] [-] -/
  g16 : Bool
  /-- FLAGS.PROBE. [1] [R277 10_in_site_step] [-] -/
  probe : Bool
  /-- COUNT. [16] [R277 10_in_site_step] [-] -/
  count : Nat
  /-- ZEROED. [32] [R277 10_in_site_step] [-] -/
  zeroed : Nat
  /-- FLAGS.FOLDED. [1] [R281 10_in_site_step] [-] -/
  folded : Bool
  /-- Its stamp on the host's timebase. [64] [R278 10_in_site_step] [-] -/
  stamp : Nat
  /-- Element codes, place by place. [list] [R275 10_in_site_step] [-] -/
  codes : List Nat
  /-- Headroom exponents, G-block by G-block. [8 each] [R275 10_in_site_step] [-] -/
  hexps : List Nat
deriving DecidableEq, Repr

/-- A node of the reduction tree of one chunk (R273, R274). -/
structure NodeId where
  /-- Exchange station whose gradient shard it reduces. [8] [R273 10_in_site_step] [-] -/
  station : Nat
  /-- CHUNK. [16] [R273 10_in_site_step] [-] -/
  chunk : Nat
  /-- LEVEL. [4] [R274 10_in_site_step] [-] -/
  level : Nat
  /-- NODE. [16] [R274 10_in_site_step] [-] -/
  node : Nat
deriving DecidableEq, Repr

/-- One chunk of one step at a node hosted here (R274 to R282). -/
structure RNode where
  /-- The node. [R274 10_in_site_step] [-] -/
  id : NodeId
  /-- Step of the chunk. [32] [R279 10_in_site_step] [-] -/
  step : Nat
  /-- The chunk is formed as a probe. [1] [R280 10_in_site_step] [-] -/
  probe : Bool
  /-- It holds a node buffer of REDUCE_BUF. [1] [R286 10_in_site_step] [false] -/
  buffered : Bool
  /-- open, once the host has released its exchange task. [64] [R279 10_in_site_step] [none] -/
  opened : Option Nat
  /-- Inputs that are in time. [list] [R275 10_in_site_step] [empty] -/
  inputs : List RInput
  /-- Folded inputs. [list] [R280, R281 10_in_site_step] [empty] -/
  folds : List RInput
  /-- Inputs that wait: for the open, or at their senders for a node buffer. [list] [R279, R286 10_in_site_step] [empty] -/
  early : List RInput
  /-- The node has forwarded: its arithmetic runs or has completed. [1] [R279 10_in_site_step] [false] -/
  forwarded : Bool
  /-- Its arithmetic has completed and its output has left. [1] [R278 10_in_site_step] [false] -/
  done : Bool
deriving DecidableEq, Repr

/-- A RESULT that the root holds for a refusing owner or standby (R294). -/
structure HeldResult where
  /-- Destination replica. [16] [R294 10_in_site_step] [-] -/
  dst : Nat
  /-- Exchange station. [8] [R294 10_in_site_step] [-] -/
  station : Nat
  /-- Header and payload of the record. [bytes] [R277 10_in_site_step] [-] -/
  bytes : List Byte
  /-- Stamp of its last sending. [64] [R294 10_in_site_step] [-] -/
  sent : Nat
deriving DecidableEq, Repr

/-- What a module keeps for one master shard beyond its 64 B record (R292 to R303). -/
structure ShardSt where
  /-- Replicas that acknowledged, with the version of each. [list] [R294 10_in_site_step] [empty] -/
  acks : Tab Nat
  /-- Step whose SCALE the standby has accepted. [32, or none] [R289, R292] [none] -/
  scaleOk : Option Nat
  /-- Stamp of the owner's last VERSION record, and of the re-send. [64] [R300 10_in_site_step] [none] -/
  lastSent : Option Nat
  /-- The re-send at ACK_NS has been made. [1] [R300 10_in_site_step] [false] -/
  resent : Bool
  /-- Stamp at which each chunk's RESULT landed in the commit slot. [64 per chunk] [R302 10_in_site_step] [empty] -/
  landed : Tab Nat
  /-- A REINSTALL request has been sent and not yet answered in full. [1] [R305 10_in_site_step] [false] -/
  asked : Bool
  /-- Stamp of the latest VERSION record received here. [64] [R305 10_in_site_step] [none] -/
  lastVersion : Option Nat
  /-- A new standby has been chosen and has not yet acknowledged its state. [1] [R303 10_in_site_step] [false] -/
  standbyPending : Bool
  /-- Tallies received from holders for the owner's tally version. [list] [R297, R298] [empty] -/
  tallies : Tab (Nat × Nat)
  /-- Chunks whose update this module re-applies after a takeover. [list] [R302 10_in_site_step] [empty] -/
  reapply : List Nat
deriving DecidableEq, Repr

/-- A re-shard accepted and not yet switched (R323 to R327). -/
structure Reshard where
  /-- New epoch. [32] [R323 11_sharding_and_pipelines] [-] -/
  epoch : Nat
  /-- Effective step e. [32] [R323 11_sharding_and_pipelines] [-] -/
  step : Nat
  /-- Replacement image. [R323 11_sharding_and_pipelines] [-] -/
  image : Image
  /-- Replacement cut record. [R323 11_sharding_and_pipelines] [-] -/
  cut : Cut
  /-- Replacement owner table. [R323 11_sharding_and_pipelines] [-] -/
  owners : List (Nat × Nat)
  /-- This module has sent DRAINED. [1] [R324 11_sharding_and_pipelines] [false] -/
  drained : Bool
  /-- DRAINED messages held by the coordinator: replica and peer index. [list] [R325 11_sharding_and_pipelines] [empty] -/
  drains : List (Nat × Nat)
  /-- Function and TAG to which LONG_DONE goes. [R477 17_psiam_commands] [-] -/
  reply : LongRef
  /-- The switch has happened; chunks of old shards, by rank in the old catalogue, still to come. [list] [R325 11_sharding_and_pipelines] [none] -/
  missing : Option (List (Nat × Nat))
  /-- Coordinator that this module last sent DRAINED to. [16] [R324, R327 11_sharding_and_pipelines] [0xFFFFFFFF] -/
  sentTo : Nat
deriving DecidableEq, Repr

/-- One node of a reduction station's combine tree whose partial has completed (R182). -/
structure Partial where
  /-- Station. [8] [R182 06_vector_engine] [-] -/
  station : Nat
  /-- Step, pass, sequence slot and fixed tile index of the result. [numbers] [R182 06_vector_engine] [-] -/
  key : Nat × Nat × Nat × Nat
  /-- Level and index in the tree. [numbers] [R182 06_vector_engine] [-] -/
  node : Nat × Nat
  /-- Bench that holds the partial. [10] [R182 06_vector_engine] [-] -/
  lb : Nat
deriving DecidableEq, Repr

/-- The latest task of an accumulation chain (R120). -/
structure Chain where
  /-- Station. [8] [R120 04_matrix_engine] [-] -/
  station : Nat
  /-- Step. [32] [R120 04_matrix_engine] [-] -/
  step : Nat
  /-- Tile row and column index of the IN[0] tile. [2 × 16] [R120 04_matrix_engine] [-] -/
  ij : Nat × Nat
  /-- Pass of the latest task. [16] [R120 04_matrix_engine] [-] -/
  pass : Nat
  /-- Bench that ran it. [10] [R120 04_matrix_engine] [-] -/
  lb : Nat
  /-- It has reached TEND. [1] [R120 04_matrix_engine] [-] -/
  ended : Bool
  /-- The chain is lost (R122). [1] [R122 04_matrix_engine] [false] -/
  lost : Bool
deriving DecidableEq, Repr

/-- What the RESULT headers of a layer have brought so far (R199, R276, R283). -/
structure LayerRes where
  /-- Step of the figures. [32] [R283 10_in_site_step] [-] -/
  step : Nat
  /-- Z, zeroed-block total. [32] [R199 07_numerics] [0] -/
  z : Nat
  /-- T, G-blocks times contributors. [64] [R199 07_numerics] [0] -/
  t : Nat
  /-- COUNT_MIN. [16] [R283 10_in_site_step] [-] -/
  countMin : Nat
  /-- COUNT_MAX. [16] [R283 10_in_site_step] [-] -/
  countMax : Nat
  /-- Chunk headers held: shard rank and chunk. [list] [R283 10_in_site_step] [empty] -/
  held : List (Nat × Nat)
deriving DecidableEq, Repr

/-- What the outer rounds keep of one held shard beyond its records (R334, R347 to R361). -/
structure RoundShard where
  /-- Chunks of the round in progress whose hand-off is formed. [list] [R332 12_outer_rounds] [empty] -/
  formed : List Nat
  /-- Blocks of the own haul of the round in progress, by block index. [bytes] [R374 13_haul_format] [empty] -/
  own : Tab (List Byte)
  /-- Rounds of this shard for which HAUL_NONFINITE has been raised. [list] [R333, R367, R387] [empty] -/
  nonfinite : List Nat
  /-- Chunks of MERGE_TENSOR written in this close. [list] [R334 12_outer_rounds] [empty] -/
  merged : List Nat
  /-- ROUND update tasks of this round that have reached TEND. [list] [R334 12_outer_rounds] [empty] -/
  outer : List Nat
  /-- The close of the round in progress was a full close. [1] [R350 12_outer_rounds] [false] -/
  full : Bool
  /-- This close asks for a pause (R356). [1] [R356 12_outer_rounds] [false] -/
  pause : Bool
  /-- Partner indices whose contexts caused the pause. [list] [R358 12_outer_rounds] [empty] -/
  causes : List Nat
  /-- The ready report has been sent. [1] [R358 12_outer_rounds] [false] -/
  ready : Bool
  /-- Latest round whose result a holder has installed, plus 1. [32] [R352 12_outer_rounds] [0] -/
  installed : Nat
  /-- Chunks of the round result installed so far by REFRESH, at a holder. [list] [R351, R352] [empty] -/
  refreshed : List Nat
  /-- Round state mirrored here from the owner: the round that follows the latest installed one, incarnation, TX_SEQ per partner. [R361, R390] [none] -/
  mirror : Option (Nat × Nat × List Nat)
  /-- LOSS_EXP of the layer as taken at the hand-off under way. [int8] [R332 12_outer_rounds] [0] -/
  lam : Nat
deriving DecidableEq, Repr

/-- One partner of the round policy (R337), with its address list entries by shard rank. -/
structure Partner where
  /-- SITE. [8] [R337 12_outer_rounds] [-] -/
  site : Nat
  /-- FLAGS. [8] [R337 12_outer_rounds] [-] -/
  flags : Nat
  /-- KEY_SLOT. [16] [R337 12_outer_rounds] [-] -/
  keySlot : Nat
  /-- JOIN_ROUND. [32] [R337 12_outer_rounds] [-] -/
  joinRound : Nat
  /-- PATH_MBPS. [32] [R337 12_outer_rounds] [-] -/
  mbps : Nat
  /-- W_CATCH. [FP32] [R337 12_outer_rounds] [-] -/
  wCatch : Word
  /-- Mirror address index per held master shard. [16 each] [R337 12_outer_rounds] [-] -/
  mirrors : List Nat
deriving DecidableEq, Repr

/-- The accepted round policy (R336). -/
structure RoundPolicy where
  /-- SITE. [8] [R336 12_outer_rounds] [-] -/
  site : Nat
  /-- MODE: 0 GNORAM, 1 TM5. [8] [R336 12_outer_rounds] [-] -/
  mode : Nat
  /-- STALE. [8] [R336 12_outer_rounds] [-] -/
  stale : Nat
  /-- LAG. [8] [R336 12_outer_rounds] [-] -/
  lag : Nat
  /-- D_MAX. [8] [R336 12_outer_rounds] [-] -/
  dMax : Nat
  /-- FRACTION. [8] [R336 12_outer_rounds] [-] -/
  fraction : Nat
  /-- FLAGS: JOINING, PARITY, TRUST_FIBRE. [8] [R336 12_outer_rounds] [-] -/
  flags : Nat
  /-- ROUND_WAIT_NS. [32] [R336 12_outer_rounds] [-] -/
  waitNs : Nat
  /-- STEP_NS. [32] [R336 12_outer_rounds] [-] -/
  stepNs : Nat
  /-- W[0] to W[7]. [8 × FP32] [R336 12_outer_rounds] [-] -/
  w : List Word
  /-- JOIN_ROUND. [32] [R336 12_outer_rounds] [-] -/
  joinRound : Nat
  /-- ROUND_BASE. [64] [R336 12_outer_rounds] [-] -/
  roundBase : Nat
  /-- RSHARD_BASE. [64] [R336 12_outer_rounds] [-] -/
  rshardBase : Nat
  /-- CTX_FIRST. [32] [R336 12_outer_rounds] [-] -/
  ctxFirst : Nat
  /-- W_SELF. [FP32] [R336 12_outer_rounds] [-] -/
  wSelf : Word
  /-- The partner table. [up to 64] [R337 12_outer_rounds] [-] -/
  partners : List Partner
  /-- The address table: 16 B address, port, site, flags. [up to 4,096] [R337 12_outer_rounds] [-] -/
  addrs : List (Nat × Nat × Nat × Nat)
deriving DecidableEq, Repr

/-- A haul held in ROUND_BUF for sending to one partner (R343, R346, R381). -/
structure SendHaul where
  /-- CONTENT: 0 DIFF, 1 CATCHUP, 2 ANCHOR, 3 MOMENTUM. [8] [R375 13_haul_format] [-] -/
  content : Nat
  /-- ROUND. [32] [R375 13_haul_format] [-] -/
  round : Nat
  /-- FULL_ROUND of a catch-up. [32] [R378 13_haul_format] [-] -/
  full : Nat
  /-- Place of the haul in ROUND_BUF. [offset] [R346, R375] [-] -/
  off : Nat
  /-- Its length. [32] [R375 13_haul_format] [-] -/
  len : Nat
  /-- Next segment to send for the first time. [16] [R377 13_haul_format] [0] -/
  next : Nat
  /-- Sequence number of segment 0. [64] [R343 12_outer_rounds] [-] -/
  seq0 : Nat
  /-- Segments acknowledged. [list] [R343 12_outer_rounds] [empty] -/
  acked : List Nat
  /-- Groups whose parity packet has been sent. [list] [R381 13_haul_format] [empty] -/
  parity : List Nat
deriving DecidableEq, Repr

/-- A data packet in flight (R344). -/
structure Flight where
  /-- SEQ. [64] [R378 13_haul_format] [-] -/
  seq : Nat
  /-- Content, round and segment of the packet. [numbers] [R378 13_haul_format] [-] -/
  what : Nat × Nat × Nat
  /-- Stamp of its first sending. [64] [R344 12_outer_rounds] [-] -/
  first : Nat
  /-- Stamp of its latest sending. [64] [R344 12_outer_rounds] [-] -/
  last : Nat
  /-- Retransmissions. [count] [R344 12_outer_rounds] [0] -/
  tries : Nat
  /-- It has been retransmitted fast. [1] [R344 12_outer_rounds] [false] -/
  fast : Bool
  /-- Its RTO now. [64] [R344 12_outer_rounds] [-] -/
  rto : Nat
deriving DecidableEq, Repr

/-- A parity packet held until its group is whole (R381, R382). -/
structure ParityPkt where
  /-- ROUND. [32] [R378 13_haul_format] [-] -/
  round : Nat
  /-- HAUL_BYTES. [32] [R378 13_haul_format] [-] -/
  len : Nat
  /-- Group index. [16] [R378 13_haul_format] [-] -/
  group : Nat
  /-- GROUP_N. [8] [R378 13_haul_format] [-] -/
  groupN : Nat
  /-- Sequence number of the group's first data packet. [64] [R378 13_haul_format] [-] -/
  seq : Nat
  /-- Exclusive OR of the group's segments. [8,192 B] [R381 13_haul_format] [-] -/
  body : List Byte
deriving DecidableEq, Repr

/-- A stream being received (R379, R382). -/
structure RecvHaul where
  /-- TYPE of its data packets. [8] [R379 13_haul_format] [-] -/
  type : Nat
  /-- ROUND. [32] [R378 13_haul_format] [-] -/
  round : Nat
  /-- FULL_ROUND. [32] [R378 13_haul_format] [-] -/
  full : Nat
  /-- HAUL_BYTES. [32] [R378 13_haul_format] [-] -/
  len : Nat
  /-- Segments held: index and plaintext. [list] [R377 13_haul_format] [empty] -/
  segs : Tab (List Byte)
  /-- Sequence number of each held segment. [list] [R382 13_haul_format] [empty] -/
  seqs : Tab Nat
  /-- Complete and decoded, with its completion stamp. [64] [R343, R385] [none] -/
  complete : Option Nat
  /-- Rejected by R385. [1] [R385 13_haul_format] [false] -/
  bad : Bool
deriving DecidableEq, Repr

/-- What the GXE keeps of a haul context beyond its 64 B record (R338, R343 to R345, R353). -/
structure HaulCtx where
  /-- Hauls held for sending, oldest first. [list] [R346 12_outer_rounds] [empty] -/
  sends : List SendHaul
  /-- Packets in flight. [up to 64] [R380 13_haul_format] [empty] -/
  flight : List Flight
  /-- Streams received. [list] [R379 13_haul_format] [empty] -/
  recvs : List RecvHaul
  /-- Parity packets of groups that still lack a data packet. [list] [R381, R382] [empty] -/
  parity : List ParityPkt
  /-- DIFF rounds already included. [list] [R342 12_outer_rounds] [empty] -/
  included : List Nat
  /-- Data packets not yet acknowledged, and the stamp of the first. [count + 64] [R380 13_haul_format] [0] -/
  ackDue : Nat × Nat
  /-- Stamp of the latest authenticated packet. [64] [R340 12_outer_rounds] [0] -/
  heard : Nat
  /-- Stamp of the latest keepalive sent. [64] [R353 12_outer_rounds] [0] -/
  kept : Nat
  /-- This site's catch-up of this contact: CATCHUP_ROUND and its values as sent. [round + codes] [R353, R355] [none] -/
  own : Option (Nat × List Nat × List Nat)
  /-- Rounds plus 1 for which HAUL_AUTH_FAIL and HAUL_CLEAR_REFUSED were raised last. [32 each] [R392 13_haul_format] [0] -/
  raised : Nat × Nat
  /-- Any sequence number is accepted until the first data packet (TM5 takeover). [1] [R390 13_haul_format] [false] -/
  anySeq : Bool
  /-- Held hauls await the last closed round that a new mirror reports. [1] [R362 12_outer_rounds] [false] -/
  newMirror : Bool
deriving DecidableEq, Repr

/-- Round-trip samples of one partner (R344, R345). -/
structure Rtt where
  /-- A sample has been taken. [1] [R344 12_outer_rounds] [false] -/
  any : Bool
  /-- The run of samples that differ from SRTT by more than STEP_NS in one direction. [up to 8] [R345 12_outer_rounds] [empty] -/
  run : List Nat
  /-- The run lies above SRTT. [1] [R345 12_outer_rounds] [false] -/
  above : Bool
  /-- Stamp at which the partner's next packet may leave (R346). [64] [R346 12_outer_rounds] [0] -/
  paced : Nat
  /-- CLEAR packets sent and accepted. [count] [R413 14_cipher] [0] -/
  clears : Nat
  /-- Round plus 1 for which CIPHER_CLEAR_USED was raised. [32] [R413 14_cipher] [0] -/
  clearRound : Nat
deriving DecidableEq, Repr

/-- Outer rounds of a job. -/
structure RoundSt where
  /-- The accepted policy in force. [R336 12_outer_rounds] [none] -/
  policy : Option RoundPolicy
  /-- Policies accepted while running, oldest first, each with the shard ranks that have not yet met their boundary. [list] [R339 12_outer_rounds] [empty] -/
  next : List (RoundPolicy × List Nat)
  /-- Per-shard round state by rank. [R334 12_outer_rounds] [empty] -/
  shards : Tab RoundShard
  /-- Per-context state, by rank × 64 + partner index. [R338 12_outer_rounds] [empty] -/
  ctxs : Tab HaulCtx
  /-- Round-trip state per partner. [R344 12_outer_rounds] [empty] -/
  rtt : Tab Rtt
  /-- Latest round for which ROUND_SHORT was raised, plus 1. [32] [R367 12_outer_rounds] [0] -/
  short : Nat
  /-- Rounds plus 1 for which PARTNER_SPLIT was raised, per partner. [32 each] [R367 12_outer_rounds] [0] -/
  split : Tab Nat
  /-- Ready reports held by the coordinator: module numbers. [list] [R358 12_outer_rounds] [empty] -/
  reports : List Nat
  /-- Modules that have announced a pause at this boundary. [list] [R356, R358] [empty] -/
  pausers : List Nat
  /-- The ROUND_RECORDS section of a restored checkpoint, until a round policy is accepted. [bytes] [R557, R564 20_checkpoint_and_recovery] [none] -/
  saved : Option (List Byte)
deriving DecidableEq, Repr

def RoundSt.rshardBase (r : RoundSt) : Nat := (r.policy.map (·.rshardBase)).getD 0

/-- One job: the primary or the filler of a partition. -/
structure Job where
  /-- Phase. [R490 to R494 17_psiam_commands] [closed] -/
  phase : JobPhase
  /-- JOB_TAG. [32] [R430, R488] [0] -/
  tag : Nat
  /-- FLAGS.COLD_SCALE of the opening. [1] [R208, R488] [0] -/
  cold : Bool
  /-- Function that opened the job. [3] [R514 17_psiam_commands] [0] -/
  func : Nat
  /-- START_STEP, or the restored step. [32] [R57, R493] [0] -/
  start : Nat
  /-- Step counter. [32] [R57 02_workings] [0] -/
  step : Nat
  /-- Pass counter. [16] [R57 02_workings] [0] -/
  pass : Nat
  /-- FIRST_STATION has released its first task of `step`. [1] [R57 02_workings] [false] -/
  stepOpen : Bool
  /-- The loaded image. [R37 02_workings] [none] -/
  image : Option Image
  /-- NUM_BASE. [64] [R491 17_psiam_commands] [0] -/
  numBase : Nat
  /-- STEP_BASE. [64] [R491 17_psiam_commands] [0] -/
  stepBase : Nat
  /-- SHARD_BASE. [64] [R491 17_psiam_commands] [0] -/
  shardBase : Nat
  /-- In-site policy. [32 B] [R272 10_in_site_step] [zero] -/
  policy : InSitePolicy
  /-- Numerics policy entries as given at the opening. [32 B each] [R489 17_psiam_commands] [empty] -/
  numPolicy : List (List Byte)
  /-- Cut record. [32 B] [R308 11_sharding_and_pipelines] [zero] -/
  cut : Cut
  /-- REPLICA_MAP: eight site module numbers per replica. [list] [R488 17_psiam_commands] [empty] -/
  replicaMap : List (List Nat)
  /-- Owner table: owner and standby per master shard in rank order. [list] [R270, R488] [empty] -/
  owners : List (Nat × Nat)
  /-- The replica set. [list] [R271 10_in_site_step] [all at opening] -/
  members : List Nat
  /-- Announced changes of the set: replica, joins, effective step. [list] [R271, R300] [empty] -/
  changes : List (Nat × Bool × Nat)
  /-- The sets that the latest changes have replaced, each with the step from which it no longer holds. [up to 8] [R271 10_in_site_step] [empty] -/
  oldSets : List (Nat × List Nat)
  /-- VERSION, STATE and REFRESH records that wait at the module's ingress. [list] [R293, R297, R561] [empty] -/
  ingress : List Rec
  /-- Replicas declared lost and reported. [list] [R300 10_in_site_step] [empty] -/
  lostSeen : List Nat
  /-- Consecutive steps a replica has missed at nodes hosted here. [count per replica] [R300 10_in_site_step] [0] -/
  misses : Tab Nat
  /-- Reduction nodes hosted here. [list] [R274 10_in_site_step] [empty] -/
  nodes : List RNode
  /-- Inputs and results of a newer epoch, each stamped at its landing; they wait for the switch. [list] [R326 11_sharding_and_pipelines] [empty] -/
  ahead : List Rec
  /-- RESULT records held at roots hosted here. [list] [R294 10_in_site_step] [empty] -/
  heldResults : List HeldResult
  /-- Per-shard state by rank. [R292 10_in_site_step] [empty] -/
  shards : Tab ShardSt
  /-- What the RESULT headers of each layer brought for each step not yet committed, by layer × 2^32 + step. [list] [R199, R283] [empty] -/
  results : Tab LayerRes
  /-- Layers whose REDUCE_EMPTY (0), COMMIT_STALL (1) or AUDIT_EXCEEDED (2) has been raised in a step. [list] [R282, R294, R206] [empty] -/
  raisedOnce : List (Nat × Nat × Nat)
  /-- A pending re-shard. [R323 11_sharding_and_pipelines] [none] -/
  reshard : Option Reshard
  /-- The image, owner table and epoch before the latest re-shard, whose data peers may still ask for. [R325 11_sharding_and_pipelines] [none] -/
  oldImage : Option (Image × List (Nat × Nat) × Nat)
  /-- Hold causes now in force. [R570 20_checkpoint_and_recovery] [empty] -/
  holds : List HoldCause
  /-- The step from which no task is released once UPDATE_NONFINITE is raised. [32] [R203 07_numerics] [none] -/
  stopFrom : Option Nat
  /-- Hold causes announced, with the boundary kind: false a step, true a round boundary. [list] [R304, R495, R570] [empty] -/
  holdAt : List (HoldCause × Bool)
  /-- The job has reached its hold point and releases no task of the next step. [1] [R570 20_checkpoint_and_recovery] [false] -/
  held : Bool
  /-- A BOUNDARY stop is under way: function and TAG. [R494 17_psiam_commands] [none] -/
  stopping : Option LongRef
  /-- A PSM_JOB_PAUSE awaits its hold: function and TAG. [R495 17_psiam_commands] [none] -/
  pausing : Option LongRef
  /-- Next TASK_SEQ of each station within a step, by step × 256 + station. [32 each] [R89 03_bench] [0] -/
  taskSeq : Tab Nat
  /-- STEALS_OWN per station. [count] [R65 02_workings] [0] -/
  stealsOwn : Tab Nat
  /-- STEALS_FLEX per station. [count] [R65 02_workings] [0] -/
  stealsFlex : Tab Nat
  /-- Completed partials of reduction trees. [list] [R182 06_vector_engine] [empty] -/
  partials : List Partial
  /-- Accumulation chains in progress. [list] [R120, R122 04_matrix_engine] [empty] -/
  chains : List Chain
  /-- Lockstep pairs per station, lower bench first. [list] [R99 03_bench] [empty] -/
  pairs : Tab (List (Nat × Nat))
  /-- Unpaired bench per station. [list] [R99 03_bench] [empty] -/
  unpaired : Tab Nat
  /-- Rotating pointer over a station's group for rule 4. [10 per station] [R28, R29, R88] [0] -/
  groupPtr : Tab Nat
  /-- Tasks formed whose bench's queue was full, oldest first, with the bench of rules 1 to 3. [list] [R88 03_bench] [empty] -/
  waitingTasks : List (Task × Option Nat)
  /-- Probe steps run in this cold-scale start; none when not probing. [0 to 4] [R209, R210] [none] -/
  probe : Option Nat
  /-- Layers whose commit of the running probe is done, and whether any state entry had OVF set. [list + 1] [R210 07_numerics] [empty, false] -/
  probeSeen : List Nat × Bool
  /-- Feed tasks whose inputs a probe keeps for the repeat. [list] [R209 07_numerics] [empty] -/
  probeFeeds : List Task
  /-- C0_BUSY, C1_BUSY or IDLE of the current step. [64 each] [R314 11_sharding_and_pipelines] [0] -/
  busy : Nat × Nat × Nat
  /-- Key and value tiles landed per station and sequence slot: tile row, column tile and whether a value. [list] [R318 11_sharding_and_pipelines] [empty] -/
  kvLanded : Tab (List (Nat × Nat × Bool))
  /-- Query tiles queued per station and sequence slot since it opened. [count] [R316 11_sharding_and_pipelines] [0] -/
  qQueued : Tab Nat
  /-- Chunks whose update has torn and waits for the standby's copy: shard rank, chunk, task. [list] [R301 10_in_site_step] [empty] -/
  torn : List (Nat × Nat × Task)
  /-- Statistics tasks of a normalisation station that have ended and wait for their row's statistic; their tiles stay in their slots. [list] [R183 06_vector_engine] [empty] -/
  rowTasks : List Task
  /-- Step after the latest one that each STEP or ROUND station has been released for. [32 per station] [R45 02_workings, R286] [0] -/
  released : Tab Nat
  /-- Latest step and pass of which a task of a station has ended: step × 65,536 + pass + 1. [48 per station] [R45 02_workings, R196] [0] -/
  passEnd : Tab Nat
  /-- Timebase at the job's latest step boundary. [64] [R508, R57] [0] -/
  stepStart : Nat
  /-- C0_BUSY, C1_BUSY, IDLE and duration of the last complete step. [4 × 64] [R508 17_psiam_commands] [0] -/
  lastBusy : Nat × Nat × Nat × Nat
  /-- Outer rounds. [R330 to R367 12_outer_rounds] [empty] -/
  round : RoundSt
  /-- The job's state came from a checkpoint: `start` is then a tally version. [1] [R564 20_checkpoint_and_recovery] [false] -/
  restored : Bool
  /-- TASKS_DONE per station. [64 each] [R507 17_psiam_commands] [0] -/
  tasksDone : Tab Nat
deriving DecidableEq, Repr

/-- One partition (R23). -/
structure Part where
  /-- Bench rows owned: face × 16 + row. [64 bits] [R23, R482] [none] -/
  rows : List Nat
  /-- First haul context and count. [22 + 22] [R23, R482] [0, 0] -/
  ctxs : Nat × Nat
  /-- First key slot and count. [10 + 11] [R23, R482] [0, 0] -/
  keys : Nat × Nat
  /-- A partition reset is in progress. [1] [R450, R470] [0] -/
  resetting : Bool
deriving DecidableEq, Repr

/-! ## Messages that leave the module -/

/-- Kinds of message the module sends, by the rule that sends them. -/
inductive MsgKind where
  | tile | credit | hold | release | bind
  | record | replicaLost | readmit | ownerTakeover | pause | resume | drained | switchEpoch | reinstall | ready
  | scaleAccept | roundAccept
  | partReset | jobClosed
  | stockpile | stockpileRequest | stockpileReply | stockpileReduced
  | time | frame | frameAck | flit | nak | arpReply | fwReply
  | haul | haulAck | keepalive | refuse | parity
  | msix
deriving DecidableEq, Repr

/-- A message that has left the module: the model's own record of its outputs, newest last. -/
structure OutMsg where
  kind : MsgKind
  dst : Nat
  args : List Nat
  data : List Byte
deriving DecidableEq, Repr
/-! ## The stockpile (09_memory, 20_checkpoint_and_recovery) -/

/-- A checkpoint held or arriving in the stockpile (R558, R562). -/
structure Held where
  /-- SENDER. [3] [R558 20_checkpoint_and_recovery] [-] -/
  sender : Nat
  /-- JOB_TAG. [32] [R558 20_checkpoint_and_recovery] [-] -/
  tag : Nat
  /-- BUILD_ID. [64] [R558 20_checkpoint_and_recovery] [-] -/
  build : Nat
  /-- STEP. [32] [R558 20_checkpoint_and_recovery] [-] -/
  step : Nat
  /-- First stockpile address. [bytes] [R562 20_checkpoint_and_recovery] [-] -/
  base : Nat
  /-- BYTES. [64] [R559 20_checkpoint_and_recovery] [-] -/
  size : Nat
  /-- COMPLETE. [1] [R558, R562] [false] -/
  complete : Bool
deriving DecidableEq, Repr

/-- How far a SAVE has come (R560 to R562). -/
inductive SavePhase where
  | waiting
  | reading
  | sent
deriving DecidableEq, Repr

/-- A SAVE or RESTORE under way on this module (R502). -/
structure CkptOp where
  /-- Job: partition × 2. [3] [R502 17_psiam_commands] [-] -/
  job : Nat
  /-- JOB_TAG and BUILD_ID of the checkpoint. [32 + 64] [R558, R564] [-] -/
  ids : Nat × Nat
  /-- A RESTORE rather than a SAVE. [1] [R502 17_psiam_commands] [-] -/
  restore : Bool
  /-- RESTORE without scale state. [1] [R502 17_psiam_commands] [-] -/
  noScale : Bool
  /-- Phase of a SAVE. [R560 20_checkpoint_and_recovery] [-] -/
  phase : SavePhase
  /-- Step s of the snapshot. [32] [R560 20_checkpoint_and_recovery] [-] -/
  step : Nat
  /-- BYTES of a SAVE. [64] [R559 20_checkpoint_and_recovery] [0] -/
  size : Nat
  /-- Whom LONG_DONE answers. [R477 17_psiam_commands] [-] -/
  reply : LongRef
deriving DecidableEq, Repr

/-- The stockpile and the checkpoint traffic of this module. Its bytes lie in `mem`: at their DPA in the carve-out, and
at 2^56 plus the stack offset on the spare stack, a key beyond the DPA space. -/
structure StockSt where
  /-- Checkpoints held here for the served sender. [list] [R562 20_checkpoint_and_recovery] [empty] -/
  held : List Held
  /-- SLOT_ID of the sender this stockpile serves. [3] [R442 15_board_and_time] [none] -/
  serves : Option Nat
  /-- SLOT_ID of this module's buddy where PSM_CHECKPOINT has named one. [3] [R442, R502] [none: SLOT_ID XOR 1] -/
  buddy : Option Nat
  /-- This module is bound at its buddy. [1] [R442 15_board_and_time] [false] -/
  bound : Bool
  /-- The buddy has refused this module. [1] [R442 15_board_and_time] [false] -/
  taken : Bool
  /-- What the buddy's answers have told: tag, build, step and bytes of each COMPLETE checkpoint there. [list] [R502, R574] [empty] -/
  atBuddy : List Held
  /-- Bytes of the buddy's stockpile, as its notices have told. [64] [R262, R559] [none] -/
  buddySize : Option Nat
  /-- The SAVE or RESTORE under way. [R502 17_psiam_commands] [none] -/
  op : Option CkptOp
deriving DecidableEq, Repr

/-! ## Time (15_board_and_time) -/

/-- A slew under way (R440). -/
inductive Slew where
  | none
  | forward (ns : Nat)
  | back (ns : Nat)
  | hold (left : Nat)
deriving DecidableEq, Repr

/-- The timebase (R438 to R441). -/
structure TimeSt where
  /-- TB, in ns. [64] [R438 15_board_and_time] [0] -/
  tb : Nat
  /-- The root PLL has locked and TB counts. [1] [R438 15_board_and_time] [false] -/
  run : Bool
  /-- Slew or hold under way. [R440 15_board_and_time] [none] -/
  slew : Slew
  /-- Nanoseconds since the latest slewed one. [10] [R440 15_board_and_time] [0] -/
  slewAcc : Nat
  /-- Value that the timekeeper's TIME frame named, not yet loaded. [64] [R439 15_board_and_time] [none] -/
  loadV : Option Nat
  /-- TB has been loaded at a TSYNC edge. [1] [R439 15_board_and_time] [false] -/
  loaded : Bool
  /-- This module drives TSYNC. [1] [R439, R441] [false] -/
  keeper : Bool
  /-- TB at the latest TSYNC pulse seen or driven. [64] [R440, R441] [0] -/
  lastPulse : Nat
  /-- TB agreed within 2 ns with the latest pulse after its load. [1] [R439 15_board_and_time] [false] -/
  agreed : Bool
  /-- Offset at the latest pulse, TB less the multiple. [int32 ns] [R521 18_bring_up_and_repair] [0] -/
  offset : Int
  /-- TB at the pulse that this module drove last. [64] [R441 15_board_and_time] [0] -/
  lastDriven : Nat
  /-- TSYNC_COMP. [6] [R439 15_board_and_time, R517 18] [0] -/
  comp : Nat
deriving DecidableEq, Repr

/-! ## Boards and sites (15_board_and_time) -/

/-- State of a board or site port (R421). -/
inductive PortState where
  | absent | conflict | miswired | down | up | degraded
deriving DecidableEq, Repr

/-- Counts of a port record (R509). -/
structure PortCounts where
  /-- NO_JOB. [32] [R509 17_psiam_commands] [0] -/
  noJob : Nat
  /-- MALFORMED. [32] [R509 17_psiam_commands] [0] -/
  malformed : Nat
  /-- CIPHER_RX_DROPS. [32] [R396, R509] [0] -/
  drops : Nat
  /-- RETRIES. [32] [R509 17_psiam_commands] [0] -/
  retries : Nat
  /-- PAUSE_FRAMES. [32] [R432, R509] [0] -/
  pauses : Nat
  /-- WORST_LANE. [64] [R427, R509] [0] -/
  worst : Nat
deriving DecidableEq, Repr

/-- One board port (R419 to R429). -/
structure BPort where
  /-- Port state. [R421 15_board_and_time] [ABSENT] -/
  st : PortState
  /-- Lanes in use, in position order. [up to 16] [R423, R427] [empty] -/
  lanes : List Nat
  /-- Good lanes held as spares. [up to 2] [R423, R427] [empty] -/
  spare : List Nat
  /-- Lanes marked for swap at the next retrain. [list] [R427 15_board_and_time] [empty] -/
  marked : List Nat
  /-- Consecutive error-rate windows above the limit, per lane. [count] [R427 15_board_and_time] [0] -/
  overs : Tab Nat
  /-- Next FSEQ expected. [16] [R425 15_board_and_time] [0] -/
  rxNext : Nat
  /-- FSEQ of the next new flit. [16] [R424 15_board_and_time] [0] -/
  txNext : Nat
  /-- Replay buffer: flits not yet covered by FACK. [4,096 flits] [R425 15_board_and_time] [empty] -/
  replay : List (Nat × List Byte)
  /-- A NAK has been sent for rxNext, and later flits are discarded. [1] [R425 15_board_and_time] [false] -/
  naked : Bool
  /-- Failures in a row of the expected flit. [3] [R425 15_board_and_time] [0] -/
  fails : Nat
  /-- A retrain is due or under way. [1] [R425 15_board_and_time] [false] -/
  retrain : Bool
  /-- Failed retrains in a row. [2] [R425 15_board_and_time] [0] -/
  trainFails : Nat
  /-- Bytes of the fabric frame being assembled. [list] [R424, R430] [empty] -/
  rxBuf : List Byte
  /-- Counts. [R509 17_psiam_commands] [0] -/
  cnt : PortCounts
  /-- Stamp at which the port left UP and DEGRADED. [64] [R300 10_in_site_step] [none] -/
  downSince : Option Nat
deriving DecidableEq, Repr

/-- One site port (R432 to R437). -/
structure SPort where
  /-- Port state: DOWN, UP or DEGRADED. [R509 17_psiam_commands] [DOWN] -/
  st : PortState
  /-- A port module is fitted. [1] [R433, R500] [false] -/
  fitted : Bool
  /-- The port trains. [1] [R433 15_board_and_time] [false] -/
  trained : Bool
  /-- Its path entry. [64 B] [R434 15_board_and_time] [empty] -/
  entry : List Byte
  /-- The position in the path sets that it serves. [4] [R433 15_board_and_time] [its own number] -/
  serves : Option Nat
  /-- Stamp at which it left UP. [64] [R433 15_board_and_time] [none] -/
  downSince : Option Nat
  /-- Counts. [R509 17_psiam_commands] [0] -/
  cnt : PortCounts
deriving DecidableEq, Repr

/-- A frame held for its acknowledgement (R436, R471). -/
structure HeldFrame where
  /-- SEQ. [64] [R430 15_board_and_time] [-] -/
  seq : Nat
  /-- TYPE. [8] [R430 15_board_and_time] [-] -/
  type : Nat
  /-- Body. [bytes] [R430 15_board_and_time] [-] -/
  body : List Byte
  /-- Stamp of its latest sending. [64] [R436 15_board_and_time] [-] -/
  sent : Nat
  /-- Resendings. [4] [R436 15_board_and_time] [0] -/
  tries : Nat
  /-- Port it left on. [4] [R435 15_board_and_time] [-] -/
  port : Nat
deriving DecidableEq, Repr

/-- A fabric flow on site ports, by peer, channel and job tag (R435, R436). -/
structure Flow where
  /-- DST_MODULE. [32] [R430 15_board_and_time] [-] -/
  peer : Nat
  /-- CHANNEL. [8] [R430 15_board_and_time] [-] -/
  chan : Nat
  /-- JOB_TAG. [32] [R430 15_board_and_time] [-] -/
  tag : Nat
  /-- Port position the flow takes. [4] [R435 15_board_and_time] [-] -/
  port : Nat
  /-- SEQ of the next frame. [64] [R436 15_board_and_time] [0] -/
  txSeq : Nat
  /-- Frames unacknowledged. [up to 64] [R436 15_board_and_time] [empty] -/
  unacked : List HeldFrame
  /-- The flow counts as down. [1] [R436 15_board_and_time] [false] -/
  down : Bool
  /-- Stamp at which the flow went down. [64] [R300 10_in_site_step] [none] -/
  downSince : Option Nat
  /-- RX_BASE: the next SEQ to deliver. [64] [R436 15_board_and_time] [0] -/
  rxBase : Nat
  /-- Frames held ahead of a gap, by SEQ. [up to 64] [R436 15_board_and_time] [empty] -/
  rxHeld : List Nat
deriving DecidableEq, Repr

/-- Board and site ports. -/
structure BoardSt where
  /-- SLOT_ID[2:0] as read at PERST#. [3] [R419 15_board_and_time] [0, DESIGN CHOICE log 2] -/
  slotId : Nat
  /-- Board ports BP0 to BP6. [7] [R420 15_board_and_time] [-] -/
  ports : Tab BPort
  /-- Site ports SP0 to SP8. [9] [R432 15_board_and_time] [-] -/
  sites : Tab SPort
  /-- Site peer table: MAC of each site module number. [65,536 × 48] [R434 15_board_and_time] [empty] -/
  peers : Tab Nat
  /-- ET_FABRIC. [16] [R432 15_board_and_time] [0x88B5] -/
  etype : Nat
  /-- Fabric flows. [list] [R435 15_board_and_time] [empty] -/
  flows : List Flow
  /-- Ports leaving path sets by PSM_PATH_SET, and whom LONG_DONE answers. [R500 17_psiam_commands] [none] -/
  leaving : Option (List Nat × LongRef)
  /-- Binding offers received for jobs not yet loaded: tag, peer slot, peer index, index named, SLOTS. [list] [R231 08_conveyor_queues] [empty] -/
  offers : List (Nat × Nat × Nat × Nat × Nat)
  /-- Tags of jobs that a partition reset closed and that no job has taken again. [list] [R471 16_host_interface] [empty] -/
  resetTags : List Nat
  /-- Frames refused by a partition reset, kept for resending: port, tag, kind and body. [list] [R471 16_host_interface] [empty] -/
  refused : List (Nat × Nat × HeldFrame)
  /-- Fabric frames that ports have delivered to the module's units: port and bytes, newest last. The model's own record. [list] [R425 15_board_and_time] [empty] -/
  delivered : List (Nat × List Byte)
deriving DecidableEq, Repr

/-! ## Bring-up and repair (18_bring_up_and_repair) -/

/-- One state copy of the logbook (R530). A unit is kept as class × 2^24 + UNIT. -/
structure LogState where
  /-- Sequence number of the copy. [count] [R530 18_bring_up_and_repair] [0] -/
  seq : Nat
  /-- FAILS_n of each step. [4 each] [R522 18_bring_up_and_repair] [0] -/
  fails : Tab Nat
  /-- Last result of each step. [8 each] [R530 18_bring_up_and_repair] [0] -/
  last : Tab Nat
  /-- Steps whose last attempt was interrupted at the latest start that reached them. [14 bits] [R525 18_bring_up_and_repair] [none] -/
  cut : List Nat
  /-- Soft entries. [list] [R527 18_bring_up_and_repair] [empty] -/
  soft : List Nat
  /-- Spare map entries. [up to 4,096 × 64] [R529 18_bring_up_and_repair] [empty] -/
  map : List Nat
  /-- Start count. [32] [R518, R530] [0] -/
  starts : Nat
  /-- Time at V_HI in the last 168 powered hours, newest first. [168, ns] [R603 22_power_clocks_thermal] [empty] -/
  bins : List Nat
  /-- Stamps of the last three tally mismatches. [3 × 64] [R299, R530] [empty] -/
  mismatches : List Nat
deriving DecidableEq, Repr

/-- The boot block, the fuses, the logbook and the spare map. -/
structure BootSt where
  /-- Boot step READY is complete. [1] [R449, R520] [0] -/
  ready : Bool
  /-- Bench map: logical benches present, with the physical bench of each. [576] [R11 00_scope, R520 18_bring_up_and_repair] [none before BENCH_TEST] -/
  phys : Tab Nat
  /-- Stamps of the last three tally mismatches. [3 × 64] [R299 10_in_site_step] [empty] -/
  mismatches : List Nat
  /-- The boot sequencer serves BAR0 since a deassertion of PERST#. [1] [R516 18_bring_up_and_repair] [false] -/
  served : Bool
  /-- A private scan instruction has stopped the processors. [1] [R618 23_pins_and_package] [false] -/
  halted : Bool
  /-- BOOT_CTRL.REQ_STEP. [4] [R518 18_bring_up_and_repair] [0] -/
  reqStep : Nat
  /-- BOOT_CTRL.OP_POINT. [2] [R518 18_bring_up_and_repair] [0b00] -/
  opPoint : Nat
  /-- CLOCK ended under ALTER in this start, so that OP_POINT reads 0b01. [1] [R524 18_bring_up_and_repair] [false] -/
  clockAlter : Bool
  /-- Units whose soft entries a test of this start has lifted: they serve as spares. [list] [R527 18_bring_up_and_repair] [empty] -/
  lifted : List Nat
  /-- BOOT_STEP.STATE: 0 IDLE, 1 RUNNING, 2 ENDED, 3 RECOVERY. [2] [R518 18_bring_up_and_repair] [0] -/
  st : Nat
  /-- BOOT_STEP.STEP. [4] [R518 18_bring_up_and_repair] [0] -/
  step : Nat
  /-- BOOT_STEP.TREATMENT. [4] [R518 18_bring_up_and_repair] [0] -/
  treatment : Nat
  /-- BOOT_STEP.RESULT. [8] [R518 18_bring_up_and_repair] [0] -/
  result : Nat
  /-- BOOT_STEP.ATTEMPT. [8] [R518 18_bring_up_and_repair] [0] -/
  attempt : Nat
  /-- BOOT_STEP.REASON. [16] [R518 18_bring_up_and_repair] [0] -/
  reason : Nat
  /-- Attempts of each step in this start. [8 each] [R518 18_bring_up_and_repair] [0] -/
  attempts : Tab Nat
  /-- Steps whose attempt ended PASS, DEGRADED or SKIPPED in this start. [0 to 14, a prefix] [R519 18_bring_up_and_repair] [0] -/
  passed : Nat
  /-- The step whose last attempt in this start ended FAIL. [4] [R519 18_bring_up_and_repair] [none] -/
  failedStep : Option Nat
  /-- FAILs of each step in this start. [count] [R522 18_bring_up_and_repair] [0] -/
  failsNow : Tab Nat
  /-- QUAL_LOG2 and QUAL_BER as sampled when BOARD started. [2 × 8] [R519 18_bring_up_and_repair] [36, 15] -/
  qual : Nat × Nat
  /-- BOOT_OVERRIDE.OVR. [56] [R518 18_bring_up_and_repair] [0] -/
  ovr : Nat
  /-- BOOT_LINK.QUAL_LOG2. [8] [R518 18_bring_up_and_repair] [36] -/
  qualLog2 : Nat
  /-- BOOT_LINK.QUAL_BER. [8] [R518 18_bring_up_and_repair] [15] -/
  qualBer : Nat
  /-- BOOT_LINK.TSYNC_COMP as written. [6] [R518 18_bring_up_and_repair] [0] -/
  tsyncComp : Nat
  /-- BOOT_TIME.STEP_US. [32] [R518 18_bring_up_and_repair] [0] -/
  stepUs : Nat
  /-- Time since PERST# deassertion, of which BOOT_TIME.SINCE_MS shows the ms. [ns] [R518 18_bring_up_and_repair] [0] -/
  sinceNs : Nat
  /-- BOOT_DETAIL0 to BOOT_DETAIL3. [4 × 64] [R518, R521] [0] -/
  detail : List Nat
  /-- BOOT_HEALTH.LOGBOOK_LOST. [1] [R518 18_bring_up_and_repair] [0] -/
  logLost : Bool
  /-- BOOT_HEALTH.WEAR_FULL. [1] [R518, R527] [0] -/
  wearFull : Bool
  /-- BOOT_HEALTH.RUN_SLOT; none is 0b11. [2] [R518 18_bring_up_and_repair] [0b11] -/
  runSlot : Option Nat
  /-- Slot that ROM chose. [1] [R523 18_bring_up_and_repair] [none] -/
  chosen : Option Nat
  /-- FW_VERSION of the running image. [32] [R481, R579] [0] -/
  fwVersion : Nat
  /-- Slot whose ROM attempt failed most recently, over starts. [1] [R522 18_bring_up_and_repair] [none] -/
  romFailed : Option Nat
  /-- Slot whose IMAGE attempt failed most recently, over starts. [1] [R522 18_bring_up_and_repair] [none] -/
  imgFailed : Option Nat
  /-- Slot whose ROM or IMAGE attempt failed most recently, over starts. [1] [R589 21_firmware_update] [none] -/
  anyFailed : Option Nat
  /-- Logbook records, oldest first. [up to 491,520 × 64 B] [R530, R531] [empty] -/
  log : List (List Byte)
  /-- SEQ of the next logbook record. [32] [R531 18_bring_up_and_repair] [0] -/
  logSeq : Nat
  /-- Records of POWER, CLOCK and FUSE kept until ROM. [4 KiB] [R525 18_bring_up_and_repair] [empty] -/
  buffer : List (List Byte)
  /-- State copy A. [1 MiB] [R530 18_bring_up_and_repair] [zero] -/
  copyA : LogState
  /-- State copy B. [1 MiB] [R530 18_bring_up_and_repair] [zero] -/
  copyB : LogState
  /-- Factory fuses: units unusable from manufacture. [list] [R527 18_bring_up_and_repair] [empty, DESIGN CHOICE log 2] -/
  factory : List Nat
  /-- Wear-fuse entries used, oldest first. [up to 2,048 × 40] [R527 18_bring_up_and_repair] [empty, DESIGN CHOICE log 2] -/
  wear : List Nat
  /-- Burned anti-rollback fuses: the floor. [0 to 64] [R588 21_firmware_update] [0, DESIGN CHOICE log 2] -/
  floor : Nat
  /-- Burned revocation fuses: ROM keys revoked. [4 bits] [R580, R588] [none, DESIGN CHOICE log 2] -/
  revoked : List Nat
  /-- Units confirmed unusable in this start, in the order of confirmation. [list] [R527 18_bring_up_and_repair] [empty] -/
  confirmed : List Nat
  /-- Compression engine of each of the eight positions. [8 × 4] [R528 18_bring_up_and_repair] [empty before IMAGE] -/
  engines : Tab Nat
  /-- Spare wire that serves an unusable wire, by UNIT. [8 links × 2 × 528] [R526, R528] [empty] -/
  wires : Tab Nat
  /-- Die-to-die links at half width. [8 bits] [R524 18_bring_up_and_repair] [none] -/
  half : List Nat
  /-- The timebase runs unlocked. [1] [R524 18_bring_up_and_repair] [false] -/
  unlocked : Bool
  /-- CIPHER was skipped: no core serves. [1] [R524 18_bring_up_and_repair] [false] -/
  cipherSkip : Bool
  /-- Physical benches out of service in this start: unusable, or failed to load. [list] [R520, R533] [empty] -/
  pbOut : List Nat
deriving DecidableEq, Repr
/-! ## The cipher engine (14_cipher) -/

/-- One key slot (R401 to R409). -/
structure KeySlot where
  /-- USE. [8] [R401 14_cipher] [0] -/
  use : Nat
  /-- PART; 0xFF the physical function. [8] [R401, R405 14_cipher] [0] -/
  part : Nat
  /-- STATE: 0 EMPTY, 1 ACTIVE, 2 EXPIRED. [8] [R405 14_cipher] [0] -/
  st : Nat
  /-- GEN: parity of CURRENT. [1] [R405, R407] [0] -/
  gen : Bool
  /-- CURRENT: key and KEY_ID. [256 + 32] [R401 14_cipher] [none] -/
  cur : Option (List Byte × Nat)
  /-- NEXT. [256 + 32] [R401 14_cipher] [none] -/
  next : Option (List Byte × Nat)
  /-- PREVIOUS. [256 + 32] [R401 14_cipher] [none] -/
  prev : Option (List Byte × Nat)
  /-- RANDOM of the salt of CURRENT. [15] [R407 14_cipher] [0] -/
  random : Nat
  /-- SENT: nonces issued under CURRENT, the next counter. [64] [R405, R408] [0] -/
  sent : Nat
  /-- ACTIVATED. [64] [R405 14_cipher] [0] -/
  activated : Nat
  /-- KEY_REKEY_DUE has been raised for this generation. [1] [R409 14_cipher] [0] -/
  due : Bool
deriving DecidableEq, Repr

/-- What an operation of the cipher engine returned: nonce, bytes, tag, and whether it was released. -/
structure CipherOut where
  nonce : List Byte
  data : List Byte
  tag : List Byte
  ok : Bool
deriving DecidableEq, Repr

/-- The cipher engine. -/
structure CipherSt where
  /-- Key slots 0 to 1,023. [1,024] [R401 14_cipher] [EMPTY, R406] -/
  slots : Tab KeySlot
  /-- Module key. [256] [R402 14_cipher] [the value sealed at delivery: free, log 26] -/
  moduleKey : Option (List Byte)
  /-- Physical core of each of the twelve active positions; an absent position is empty. [12 × 4] [R394, R397] [position n on core n] -/
  place : Tab Nat
  /-- The free spare core. [4] [R394 14_cipher] [12] -/
  spare : Option Nat
  /-- Cores marked unusable. [13 bits] [R397 14_cipher] [none] -/
  bad : List Nat
  /-- Cores scheduled for the next self-test slice. [list] [R400 14_cipher] [empty] -/
  testDue : List Nat
  /-- Core under a self-test slice, and the position it left; 12 where it was the free spare. [4 + 4] [R397, R415] [none] -/
  testing : Option (Nat × Nat)
  /-- CLEARED signals of cores 0 to 12, and of the key store with the DRBG (13). [14 bits] [R414, R415] [none] -/
  cleared : List Nat
  /-- Rotating pointer over positions, encrypt. [4] [R396 14_cipher] [0] -/
  encPtr : Nat
  /-- Rotating pointer over positions, decrypt. [4] [R396 14_cipher] [0] -/
  decPtr : Nat
  /-- The entropy source passes its health tests. [1] [R410 14_cipher] [1] -/
  rngOk : Bool
  /-- What the latest operation returned. The model's own output latch. [R396 14_cipher] [empty] -/
  reply : CipherOut
deriving DecidableEq, Repr

/-! ## Firmware (21_firmware_update) -/

/-- The firmware slots and the staging area. -/
structure FwSt where
  /-- Slot 0 and slot 1: image bytes. [2 × 128 MiB] [R577 21_firmware_update] [empty, DESIGN CHOICE log 2] -/
  slots : Tab Mem
  /-- Slots whose header page is written. [2 bits] [R586 21_firmware_update] [none, DESIGN CHOICE log 2] -/
  hdrs : List Nat
  /-- The slot marked for the next start. [1] [R513, R523] [none] -/
  mark : Option Nat
  /-- The slot that last reached READY. [1] [R523 18_bring_up_and_repair] [0, DESIGN CHOICE log 2] -/
  lastReady : Nat
  /-- Staging area: image bytes. [128 MiB] [R577 21_firmware_update] [empty] -/
  stage : Mem
  /-- Staged header: bytes 0x000 to 0x1FF of chunk 0. [512 B] [R577 21_firmware_update] [none] -/
  hdr : Option (List Byte)
  /-- Chunk bitmap: the chunks held. [2,048] [R577, R582] [none] -/
  bitmap : List Nat
  /-- Chunks being assembled from datagrams, the one that has waited longest first. [up to 16] [R584 21_firmware_update] [empty] -/
  asm : List (Nat × Tab (List Byte))
  /-- An activation under way. [R513 17_psiam_commands] [none] -/
  op : Option LongRef
deriving DecidableEq, Repr

/-! ## Self-test (19_self_test) -/

/-- Counts of a class since its last sweep ended (R554). -/
structure Sweep where
  /-- Sweep number. [32] [R541, R554] [0] -/
  sweep : Nat
  /-- Next unit to visit. [10] [R541, R542] [0] -/
  next : Nat
  /-- Units tested. [16] [R554 19_self_test] [0] -/
  tested : Nat
  /-- Units failed. [16] [R554 19_self_test] [0] -/
  failed : Nat
  /-- SKIPPED. [16] [R544, R552] [0] -/
  skipped : Nat
  /-- ABANDONED. [16] [R553 19_self_test] [0] -/
  abandoned : Nat
deriving DecidableEq, Repr

/-- Self-test in service. -/
structure SelfSt where
  /-- Policy FLAGS: LINKS, CIPHER, SPD, BENCH, ENABLE. [5] [R511 17_psiam_commands] [0 before READY, then all] -/
  flags : Nat
  /-- INTERVAL_MS. [16] [R511 17_psiam_commands] [2,000 at READY] -/
  interval : Nat
  /-- Stamp of the next tick. [64] [R540 19_self_test] [none before READY] -/
  nextTick : Option Nat
  /-- Logical benches requested ahead of the sweep, in the order requested. [list] [R541 19_self_test] [empty] -/
  reqs : List Nat
  /-- The bench first in line for withdrawal, by physical number, with the stamp of its tick and whether the sweep chose it. [R544 19_self_test] [none] -/
  line : Option (Nat × Nat × Bool)
  /-- FLAGS as the latest bench slice was chosen: its SPD and BENCH bits say what it runs. [5] [R547 19_self_test] [0] -/
  parts : Nat
  /-- The bench under slice: physical number, and the logical bench withdrawn from it. [R545 19_self_test] [none] -/
  slice : Option (Nat × Option Nat)
  /-- The link item under test. [0 to 15] [R542, R552] [none] -/
  link : Option Nat
  /-- Bench sweep. [R541 19_self_test] [0] -/
  bench : Sweep
  /-- Cipher sweep. [R542 19_self_test] [0] -/
  cipher : Sweep
  /-- Link sweep. [R542 19_self_test] [0] -/
  links : Sweep
  /-- Stamp at which the corrected-error counts last started again. [64] [R543 19_self_test] [0] -/
  counted : Nat
  /-- Benches whose window is served from the save area: logical number. [list] [R545, R549] [empty] -/
  saved : List Nat
deriving DecidableEq, Repr

/-! ## Power, clocks and pins (22_power_clocks_thermal, 23_pins_and_package) -/

/-- Power, the governor, PMBus and the sideband pins. -/
structure PowerSt where
  /-- Input voltage. [mV] [R600, R608] [0] -/
  vin : Nat
  /-- Input current, 1 ms mean. [mA] [R600, R608] [0] -/
  iin : Nat
  /-- Input power, 1 ms mean. [W] [R600, R608] [0] -/
  pin : Nat
  /-- Readings of the last second that no later one exceeds, each with its age in ticks; the first is PIN_PEAK_W. [W + count] [R608 22_power_clocks_thermal] [empty] -/
  peaks : List (Nat × Nat)
  /-- Hot spots of F0 to F3. [4, °C] [R600, R608] [0] -/
  face : List Nat
  /-- Weighbridge hot spot. [°C] [R600, R608] [0] -/
  wb : Nat
  /-- Stack temperatures S0 to S8. [9, °C] [R600, R608] [0] -/
  stackTemps : List Nat
  /-- T_PLATE, the cold-plate inlet sensor. [°C] [R608, R626] [0] -/
  plate : Nat
  /-- The auxiliary domain runs. [1] [R622 23_pins_and_package] [false] -/
  aux : Bool
  /-- PWR_EN is high. [1] [R614 23_pins_and_package] [false] -/
  pwrEn : Bool
  /-- Conversion runs: the main domain has power. [1] [R622 23_pins_and_package] [false] -/
  conv : Bool
  /-- PGOOD is released. [1] [R614 23_pins_and_package] [false] -/
  pgood : Bool
  /-- How long PGOOD has been high, up to 1 ms. [ns] [R622 23_pins_and_package] [0] -/
  pgoodNs : Nat
  /-- Time since PWR_EN fell and began an orderly power-down, up to 20 ms. [ns] [R622, R623] [none: no such power-down, or longer ago] -/
  offNs : Option Nat
  /-- PERST# is low. [1] [R614 23_pins_and_package] [true] -/
  perst : Bool
  /-- A PERST# deassertion is held inside the module. [1] [R622 23_pins_and_package] [false] -/
  perstHeld : Bool
  /-- FAULT# is driven low. [1] [R614 23_pins_and_package] [false] -/
  faultPin : Bool
  /-- THERMTRIP# is driven low. [1] [R614 23_pins_and_package] [false] -/
  tripPin : Bool
  /-- Fault latch: [0] input undervoltage, [1] input overvoltage, [2] phases below 66, [3] thermal trip. [4] [R624 23_pins_and_package] [0] -/
  latch : Nat
  /-- The bin of the current hour counts as full at the next start. [1] [R603, R623] [false] -/
  binFull : Bool
  /-- Regulator phases in service. [88 × 7] [R592, R594] [empty before conversion] -/
  phases : List Nat
  /-- POWER_CAP. [W] [R606 22_power_clocks_thermal] [2,500] -/
  cap : Nat
  /-- MFR_BOOST_EN[0]. [1] [R606 22_power_clocks_thermal] [1] -/
  boostEn : Bool
  /-- Throttle k. [4] [R596, R607] [0] -/
  k : Nat
  /-- Set point: 0 V_LO, 1 V_HI, 2 V_NOM. [2] [R595, R607] [0] -/
  vset : Nat
  /-- LIMIT bits. [8] [R607 22_power_clocks_thermal] [0] -/
  limit : Nat
  /-- Input power is above P_ENV. [1] [R607 22_power_clocks_thermal] [0] -/
  boost : Bool
  /-- Electrical account. [ns, at most 60 s] [R602 22_power_clocks_thermal] [full when conversion starts] -/
  acct : Nat
  /-- Boost is barred since a hot spot reached 95 °C. [1] [R602 22_power_clocks_thermal] [false] -/
  barred : Bool
  /-- WEAR bars V_HI. [1] [R603 22_power_clocks_thermal] [false] -/
  wearBar : Bool
  /-- Time at V_HI in the current hour. [ns] [R603 22_power_clocks_thermal] [0] -/
  bin : Nat
  /-- How long core current has stayed below 1,200 A. [ns] [R595 22_power_clocks_thermal] [0] -/
  below : Nat
  /-- CORE_CURRENT_TRIP has set k to 2 since the latest tick. [1] [R598 22_power_clocks_thermal] [false] -/
  tripped : Bool
  /-- How long the weighbridge has stayed above 100 °C at k = 15. [ns] [R601 22_power_clocks_thermal] [0] -/
  crit : Nat
  /-- How long each stack has stayed above 100 °C, by physical stack. [ns per stack] [R263 09_memory, R601 22_power_clocks_thermal] [empty] -/
  stackHot : Tab Nat
  /-- ENERGY_J. [µJ, shown as J] [R608 22_power_clocks_thermal] [0] -/
  energy : Nat
  /-- T_THROTTLED_NS. [64] [R608 22_power_clocks_thermal] [0] -/
  tThrottled : Nat
  /-- T_BOOST_NS. [64] [R608 22_power_clocks_thermal] [0] -/
  tBoost : Nat
  /-- T_VHI_NS. [64] [R608 22_power_clocks_thermal] [0] -/
  tVhi : Nat
  /-- T_HEAT_NS. [64] [R608 22_power_clocks_thermal] [0] -/
  tHeat : Nat
  /-- DROOP_EVENTS. [32] [R597, R608] [0] -/
  droops : Nat
  /-- Operating point locked at CLOCK: 0 P-peak, 1 P-nominal. [1] [R17, R608] [0] -/
  op : Nat
  /-- The root PLL is in holdover. [1] [R599 22_power_clocks_thermal] [false] -/
  holdover : Bool
  /-- How long holdover has lasted. [ns] [R599 22_power_clocks_thermal] [0] -/
  holdNs : Nat
  /-- Stamp of the latest COOLANT_INLET_RANGE. [64] [R626 23_pins_and_package] [none] -/
  coolant : Option Nat
  /-- PMBus status bits of the input whose cause may have ended: STATUS_INPUT. [8] [R606 22_power_clocks_thermal] [0] -/
  stInput : Nat
  /-- STATUS_TEMPERATURE. [8] [R606 22_power_clocks_thermal] [0] -/
  stTemp : Nat
  /-- STATUS_CML. [8] [R606 22_power_clocks_thermal] [0] -/
  stCml : Nat
  /-- What the latest PMBus command answered: bytes, or none for a NACK. The model's own output latch. [bytes] [R606 22_power_clocks_thermal] [empty] -/
  reply : Option (List Byte)
deriving DecidableEq, Repr

/-- Instructions of the test access port (R618). -/
inductive JtagIr where
  | reset | bypass | idcode | sample | extest | scan
deriving DecidableEq, Repr

/-- The test access port. -/
structure JtagSt where
  /-- The instruction in effect. [R618 23_pins_and_package] [Test-Logic-Reset] -/
  ir : JtagIr
  /-- What TDO gave for the latest instruction: the identity code, or the bypass bit. The model's own output latch. [32] [R618 23_pins_and_package] [none] -/
  tdo : Option Nat
  /-- Boundary cells of the sideband lands that EXTEST drives. [16] [R618 23_pins_and_package] [0] -/
  cells : Nat
deriving DecidableEq, Repr

/-! ## The whole machine -/

/-- The state of the module. -/
structure State where
  /-- Commands waiting, first in, first out: the model's own field, not the spec's. [list] [the block's queue] [empty] -/
  pending : List Instr
  /-- Counter that the free values of Config are applied to: the model's own field, not the spec's. [count] [log 4] [0, DESIGN CHOICE log 4] -/
  freeCtr : Nat
  /-- Partitions P0 to P3. [4] [R23 01_machine] [no rows] -/
  parts : Tab Part
  /-- Jobs, by partition × 2 + context. [8] [R25 01_machine] [closed] -/
  jobs : Tab Job
  /-- Logical benches LB 0 to 575. [576] [R11 00_scope] [idle] -/
  benches : Tab Bench
  /-- Conveyors of loaded images, by job × 4,096 + index. [R220 08_conveyor_queues] [none] -/
  convs : Tab Conv
  /-- Feed channels FC0 to FC3. [4] [R230 08_conveyor_queues] [empty] -/
  feeds : Tab Feed
  /-- Memory, stacks, page table. [09_memory] [-] -/
  mem : MemSt
  /-- Stockpile and checkpoints. [R261 09_memory, R557 20] [-] -/
  stock : StockSt
  /-- PCIe functions, freeze records, host memory. [16_host_interface] [-] -/
  host : HostSt
  /-- Timebase. [R438 15_board_and_time] [-] -/
  time : TimeSt
  /-- Board ports, site ports, paths. [15_board_and_time] [-] -/
  board : BoardSt
  /-- Cipher engine. [14_cipher] [-] -/
  cipher : CipherSt
  /-- Boot block, spare map, logbook, fuses. [18_bring_up_and_repair] [-] -/
  boot : BootSt
  /-- Firmware slots and staging. [21_firmware_update] [-] -/
  fw : FwSt
  /-- Self-test. [19_self_test] [-] -/
  self : SelfSt
  /-- Power, governor, PMBus, pins. [22_power_clocks_thermal, 23_pins_and_package] [-] -/
  power : PowerSt
  /-- Test access port. [R618 23_pins_and_package] [-] -/
  jtag : JtagSt
  /-- Messages that have left the module, newest last: the model's own record of outputs. [list] [log 5] [empty] -/
  out : List OutMsg
deriving DecidableEq, Repr

/-! ## Reset values -/

/-- A bench context after a start or a zeroing (R470). -/
def BCtx.reset : BCtx :=
  { x := [], xp := 0, pc := 0, queue := [], running := none, mxeQ := [], vseQ := [], issued := 0, fence := 0, tputs := [],
    tputN := 0, acc := [], accLive := false, accSave := [], mxOvf := 0, mxBlocks := 0, mxFlags := 0, stream := 0,
    frozen := false, recPc := 0, recFlags := 0, startAt := 0 }

/-- A bench after a start. -/
def Bench.reset : Bench :=
  { c0 := BCtx.reset, c1 := BCtx.reset, cache := [], lastCtx := none, accOwner := none, steal := none, excluded := [],
    thiefPtr := 0, victimPtr := 0, votes := [], quarantined := false, failed := false, cause := 0, withdrawn := false,
    tags := [], rowErrs := [], rowDue := [], sparesUsed := [] }

/-- A conveyor when its image is loaded (R221). -/
def Conv.reset : Conv :=
  { slots := [], hold := false, creditWait := false, broken := false, holds := 0, parity := 0, discards := 0, fullWaits := 0,
    waitNs := 0, credits := 0, peerHold := false, peer := none, bound := false, offered := false, partialRx := [], rxSlot := none,
    landPtr := 0, prodPtr := 0, lostLbs := [] }

def Feed.reset : Feed := { buf := [], discarding := false, moving := [], slot := none, frozen := false }

def Stack.reset : Stack := { remaps := 0, rows := [], corrected := [], badRows := [], failed := false, pprUsed := 0, patrol := 0 }

def MemSt.reset : MemSt :=
  { bytes := [], poison := [], blocks := [], pages := [], stackMap := [0, 1, 2, 3, 4, 5, 6, 7], spare := some 8,
    failedLs := [], stk := [], carve := 64, reply := ([], false) }

def Ring.reset : Ring :=
  { base := 0, cfg := 0, pi := 0, pending := false, ci := 0, cqBase := 0, cqHead := 0, cqWi := 0, fetched := [], heldCq := [],
    coal := ⟨0, 0⟩ }

def Func.reset : Func :=
  { ring0 := Ring.reset, ring1 := Ring.reset, evqBase := 0, evqCfg := 0, evqHead := 0, evqLost := 0, lostSince := 0, evqWi := 0,
    coal := ⟨0, 0⟩, aperture := 0, frozen := false, part := none, msix := [], pba := 0, denied := 0 }

def HostSt.reset : HostSt :=
  { funcs := [], errBits := 0, errMask := 0, ifVersion := 0, freezes := [], freezeWait := [], fnPtr := 0,
    mpStandby := false, copyFrozen := [], bar4Reply := ([], false), hostMem := [] }

def InSitePolicy.reset : InSitePolicy := ⟨0, 0, 0, 0, 0, 0, 0, 0⟩
def Cut.reset : Cut := ⟨0, 0, 0, 0, 0, 0, 0, []⟩

def RoundSt.reset : RoundSt :=
  { policy := none, next := [], shards := [], ctxs := [], rtt := [], short := 0, split := [], reports := [],
    pausers := [], saved := none }

def ShardSt.reset : ShardSt :=
  { acks := [], scaleOk := none, lastSent := none, resent := false, landed := [], asked := false, lastVersion := none,
    standbyPending := false, tallies := [], reapply := [] }

/-- A job that is not open. -/
def Job.reset : Job :=
  { phase := .closed, tag := 0, cold := false, func := 0, start := 0, step := 0, pass := 0, stepOpen := false, image := none,
    numBase := 0, stepBase := 0, shardBase := 0, policy := InSitePolicy.reset, numPolicy := [], cut := Cut.reset, replicaMap := [],
    owners := [], members := [], changes := [], oldSets := [], ingress := [], lostSeen := [], misses := [], nodes := [], ahead := [], heldResults := [], shards := [],
    results := [], raisedOnce := [], reshard := none, oldImage := none, holds := [], stopFrom := none, holdAt := [], held := false, stopping := none, pausing := none,
    taskSeq := [], stealsOwn := [], stealsFlex := [], partials := [], chains := [], pairs := [], unpaired := [],
    groupPtr := [], waitingTasks := [], probe := none, probeSeen := ([], false), probeFeeds := [], busy := (0, 0, 0), kvLanded := [], qQueued := [],
    torn := [], rowTasks := [], released := [], passEnd := [], stepStart := 0,
    lastBusy := (0, 0, 0, 0), round := RoundSt.reset, restored := false, tasksDone := [] }

def Part.reset : Part := { rows := [], ctxs := (0, 0), keys := (0, 0), resetting := false }
def StockSt.reset : StockSt :=
  { held := [], serves := none, buddy := none, bound := false, taken := false, atBuddy := [], buddySize := none, op := none }
def TimeSt.reset : TimeSt :=
  { tb := 0, run := false, slew := .none, slewAcc := 0, loadV := none, loaded := false, keeper := false, lastPulse := 0,
    lastDriven := 0, agreed := false, offset := 0, comp := 0 }
def PortCounts.reset : PortCounts := ⟨0, 0, 0, 0, 0, 0⟩
def BPort.reset : BPort :=
  { st := .absent, lanes := [], spare := [], marked := [], overs := [], rxNext := 0, txNext := 0, replay := [], naked := false,
    fails := 0, retrain := false, trainFails := 0, rxBuf := [], cnt := PortCounts.reset, downSince := none }
def SPort.reset : SPort :=
  { st := .down, fitted := false, trained := false, entry := [], serves := none, downSince := none, cnt := PortCounts.reset }
def BoardSt.reset : BoardSt :=
  { slotId := 0, ports := [], sites := [], peers := [], etype := 0x88B5, flows := [], leaving := none, offers := [],
    resetTags := [], refused := [], delivered := [] }
def LogState.reset : LogState :=
  { seq := 0, fails := [], last := [], cut := [], soft := [], map := [], starts := 0, bins := [], mismatches := [] }
def BootSt.reset : BootSt :=
  { ready := false, phys := [], mismatches := [], served := false, halted := false, reqStep := 0, opPoint := 0, clockAlter := false, lifted := [], st := 0, step := 0,
    treatment := 0, result := 0, attempt := 0, reason := 0, attempts := [], passed := 0, failedStep := none, failsNow := [], qual := (36, 15), ovr := 0, qualLog2 := 36,
    qualBer := 15, tsyncComp := 0, stepUs := 0, sinceNs := 0, detail := [0, 0, 0, 0], logLost := false, wearFull := false, runSlot := none,
    chosen := none, fwVersion := 0, romFailed := none, imgFailed := none, anyFailed := none, log := [], logSeq := 0, buffer := [],
    copyA := LogState.reset, copyB := LogState.reset, factory := [], wear := [], floor := 0, revoked := [], confirmed := [],
    engines := [], wires := [], half := [], unlocked := false, cipherSkip := false, pbOut := [] }
def KeySlot.reset : KeySlot :=
  { use := 0, part := 0, st := 0, gen := false, cur := none, next := none, prev := none, random := 0, sent := 0, activated := 0, due := false }
def CipherSt.reset : CipherSt :=
  { slots := [], moduleKey := none, place := (List.range 12).map (fun n => (n, n)), spare := some 12, bad := [], testDue := [], testing := none,
    cleared := [], encPtr := 0, decPtr := 0, rngOk := true, reply := ⟨[], [], [], false⟩ }
def FwSt.reset : FwSt :=
  { slots := [], hdrs := [], mark := none, lastReady := 0, stage := [], hdr := none, bitmap := [], asm := [], op := none }
def Sweep.reset : Sweep := ⟨0, 0, 0, 0, 0, 0⟩
def SelfSt.reset : SelfSt :=
  { flags := 0, interval := 2000, nextTick := none, reqs := [], line := none, parts := 0, slice := none, link := none, bench := Sweep.reset,
    cipher := Sweep.reset, links := Sweep.reset, counted := 0, saved := [] }
def PowerSt.reset : PowerSt :=
  { vin := 0, iin := 0, pin := 0, peaks := [], face := [0, 0, 0, 0], wb := 0, stackTemps := [0, 0, 0, 0, 0, 0, 0, 0, 0], plate := 0,
    aux := false, pwrEn := false, conv := false, pgood := false, pgoodNs := 0, offNs := none, perst := true, perstHeld := false, faultPin := false,
    tripPin := false, latch := 0, binFull := false, phases := [], cap := 2500, boostEn := true, k := 0, vset := 0, limit := 0,
    boost := false, acct := 0, barred := false, wearBar := false, bin := 0, below := 0, tripped := false, crit := 0, stackHot := [], energy := 0,
    tThrottled := 0, tBoost := 0, tVhi := 0, tHeat := 0, droops := 0, op := 0, holdover := false, holdNs := 0, coolant := none,
    stInput := 0, stTemp := 0, stCml := 0, reply := none }
def JtagSt.reset : JtagSt := { ir := .reset, tdo := none, cells := 0 }


/-- The machine right after reset: every field as its docstring says. -/
def State.reset : State :=
  { pending := [], freeCtr := 0, parts := [], jobs := [], benches := [], convs := [], feeds := [], mem := MemSt.reset,
    stock := StockSt.reset,
    host := HostSt.reset, time := TimeSt.reset, board := BoardSt.reset, cipher := CipherSt.reset, boot := BootSt.reset,
    fw := FwSt.reset, self := SelfSt.reset, power := PowerSt.reset, jtag := JtagSt.reset, out := [] }

end Sys2Proof.Machine
end

