-- ==== Sys2Proof/Machine/Ops.lean ====
section
/-! DEFINITION. The named operations over the state that every family shares: time and identity, functions and
events (R460 to R463), freezing a master (R466), benches and contexts, jobs and conveyors, memory with its tags,
flags and block states (R81, R248, R257), and the isolation checks (R73, R245). -/

namespace Sys2Proof.Machine

/-- A next state. -/
def done (s : State) : Host.Outcome State Fault Refusal := .next s

/-! ## Time and identity -/

/-- The timebase value, in ns. -/
def now (s : State) : Nat := s.time.tb

/-- A local source ID with the module's SLOT_ID (R30). -/
def sourceId (s : State) (l : Nat) : Nat := s.board.slotId * 8192 + l % 8192

def srcMp : Nat := 0x03F0

/-- Advance the counter that free values are applied to. -/
def bumpFree (s : State) : State := { s with freeCtr := s.freeCtr + 1 }

/-! ## Partitions, jobs, benches, conveyors -/

def getPart (s : State) (p : Nat) : Part := Tab.get Part.reset s.parts p
def modPart (s : State) (p : Nat) (f : Part → Part) : State := { s with parts := Tab.mod Part.reset s.parts p f }

def getJob (s : State) (j : Nat) : Job := Tab.get Job.reset s.jobs j
def modJob (s : State) (j : Nat) (f : Job → Job) : State := { s with jobs := Tab.mod Job.reset s.jobs j f }

def getBench (s : State) (lb : Nat) : Bench := Tab.get Bench.reset s.benches lb
def modBench (s : State) (lb : Nat) (f : Bench → Bench) : State := { s with benches := Tab.mod Bench.reset s.benches lb f }

/-- The context of a bench: C0 for 0, C1 otherwise. -/
def Bench.ctx (b : Bench) (c : Nat) : BCtx := if c = 0 then b.c0 else b.c1
def Bench.modCtx (b : Bench) (c : Nat) (f : BCtx → BCtx) : Bench :=
  if c = 0 then { b with c0 := f b.c0 } else { b with c1 := f b.c1 }

def getCtx (s : State) (lb c : Nat) : BCtx := (getBench s lb).ctx c
def modCtx (s : State) (lb c : Nat) (f : BCtx → BCtx) : State := modBench s lb (fun b => b.modCtx c f)

def convKey (j k : Nat) : Nat := j * 4096 + k
def getConv (s : State) (j k : Nat) : Conv := Tab.get Conv.reset s.convs (convKey j k)
def modConv (s : State) (j k : Nat) (f : Conv → Conv) : State := { s with convs := Tab.mod Conv.reset s.convs (convKey j k) f }

def getFeed (s : State) (n : Nat) : Feed := Tab.get Feed.reset s.feeds n
def modFeed (s : State) (n : Nat) (f : Feed → Feed) : State := { s with feeds := Tab.mod Feed.reset s.feeds n f }

/-- The partition that owns bench row face × 16 + row, if any (R23). -/
def partOfRow (s : State) (r : Nat) : Option Nat := (List.range 4).find? (fun p => (getPart s p).rows.contains r)

/-- The partition of a logical bench: LB / 9 is its bench row (R11). -/
def partOfLb (s : State) (lb : Nat) : Option Nat := partOfRow s (lb / 9)

/-- Whether a logical bench is present (R42, R520). -/
def present (s : State) (lb : Nat) : Bool := decide (lb < 576) && (Tab.find s.boot.phys lb).isSome

/-- The job of a bench context: partition × 2 + context. -/
def jobOf (s : State) (lb c : Nat) : Option Nat := (partOfLb s lb).map (fun p => p * 2 + (if c = 0 then 0 else 1))

/-- The bench rows of a partition in ascending order: partition row k is entry k (R42). -/
def partRows (s : State) (p : Nat) : List Nat := (getPart s p).rows

/-- The bench group of a station, ascending, absent benches included (R42). -/
def groupOf (s : State) (p : Nat) (st : Station) : List Nat :=
  ((partRows s p).zipIdx).flatMap (fun rk =>
    if bit st.rowMask rk.2 then (List.range 9).filterMap (fun c => if bit st.colMask c then some (rk.1 * 9 + c) else none) else [])

/-- The present benches of a station's group. -/
def presentGroup (s : State) (p : Nat) (st : Station) : List Nat := (groupOf s p st).filter (present s)

/-- Distance of two benches; none across faces (R61). -/
def benchDist (a b : Nat) : Option Nat :=
  if a / 144 = b / 144 then
    let ra := a % 144 / 9
    let rb := b % 144 / 9
    let ca := a % 9
    let cb := b % 9
    some (max ra rb - min ra rb + (max ca cb - min ca cb))
  else none

def stationOf (s : State) (j k : Nat) : Option Station := (getJob s j).image.bind (fun im => im.stations[k]?)
def convDescOf (s : State) (j k : Nat) : Option ConvDesc := (getJob s j).image.bind (fun im => im.conveyors[k]?)

/-- Request a self-test slice of a logical bench ahead of the sweep; two requests are served once (R541, R553). -/
def requestTest (s : State) (lb : Nat) : State :=
  if s.self.reqs.contains lb then s else { s with self := { s.self with reqs := s.self.reqs ++ [lb] } }

/-! ## Host memory, interrupts, events -/

def getFunc (s : State) (f : Nat) : Func := Tab.get Func.reset s.host.funcs f
def modFunc (s : State) (f : Nat) (g : Func → Func) : State :=
  { s with host := { s.host with funcs := Tab.mod Func.reset s.host.funcs f g } }

/-- A DMA write of the module into host memory. -/
def hostWrite (s : State) (a : Nat) (d : List Byte) : State :=
  { s with host := { s.host with hostMem := Mem.write s.host.hostMem a d } }

/-- Raise an MSI-X interrupt on a vector of a function: the message is written, or its pending bit set while the entry
is masked; a frozen function receives none (R463). An entry holds address, data and vector control. -/
def fireVector (s : State) (f v : Nat) : State :=
  let fn := getFunc s f
  if fn.frozen then s
  else
    let (addr, data, ctl) := Tab.get (0, 0, 1) fn.msix v
    if bit ctl 0 then modFunc s f (fun fn => { fn with pba := fn.pba ||| ((1 : BitVec 64) <<< v) })
    else hostWrite s addr (toLe 4 data)

/-- Fields of CMDQn_CFG and EVQ_CFG (R453). -/
def cfgEnable (c : Long) : Bool := c.toNat.testBit 0
/-- Entries of a ring: 2^LOG2_SIZE. A LOG2_SIZE outside 4 to 12 counts likewise (DESIGN CHOICE log 164: R8). -/
def cfgSize (c : Long) : Nat := 2 ^ bits c.toNat 7 4
def cfgVector (c : Long) : Nat := bits c.toNat 31 24
def cfgCoalCount (c : Long) : Nat := bits c.toNat 47 40
def cfgCoalTime (c : Long) : Nat := bits c.toNat 63 48

/-- Count one entry toward an interrupt: whether the interrupt is due, and the new count (R463). -/
def coalStep (c : Coal) (cfg : Long) (t : Nat) : Coal × Bool :=
  let n := c.count + 1
  if n ≥ cfgCoalCount cfg then (⟨0, 0⟩, true) else (⟨n, if c.count = 0 then t else c.since⟩, false)

/-- An event before it is queued (R460): code, partition concerned (0xFF none), source ID, DATA. -/
structure Event where
  code : Nat
  part : Nat
  source : Nat
  data : List Byte
deriving DecidableEq, Repr

/-- DATA of an event: each item (width, value) at the next multiple of its width (R461). A shard's coordinates are
given as 4 B and 2 B items. -/
def packItems (items : List (Nat × Nat)) : List Byte :=
  items.foldl (fun d wv => d ++ List.replicate (roundUp d.length wv.1 - d.length) 0 ++ toLe wv.1 wv.2) []

/-- The 64 B event record (R460). -/
def eventBytes (e : Event) (phase : Bool) (seq stamp : Nat) : List Byte :=
  toLe 2 e.code ++ [BitVec.ofNat 8 (b2n phase), BitVec.ofNat 8 e.part] ++ toLe 4 seq ++ toLe 8 stamp ++ toLe 2 e.source
    ++ List.replicate 6 0 ++ padTo 0 40 e.data

/-- Whether an event queue can take a record now (R462). -/
def evqRoom (fn : Func) : Bool :=
  cfgEnable fn.evqCfg && !fn.frozen && decide ((fn.evqWi + 65536 - fn.evqHead) % 65536 < cfgSize fn.evqCfg)

/-- Write one event record into a queue that has room, with its interrupt. -/
def putEvent (s : State) (f : Nat) (e : Event) : State :=
  let fn := getFunc s f
  let size := cfgSize fn.evqCfg
  let phase := fn.evqWi / size % 2 == 0
  let s := hostWrite s (fn.evqBase.toNat / 4096 * 4096 + 64 * (fn.evqWi % size)) (eventBytes e phase (fn.evqWi % 2 ^ 32) (now s))
  let (coal, due) := coalStep fn.coal fn.evqCfg (now s)
  let s := modFunc s f (fun fn => { fn with evqWi := fn.evqWi + 1, coal := coal })
  if due then fireVector s f (cfgVector fn.evqCfg) else s

/-- ERR_MASK bit. -/
def errMasked (s : State) (b : Nat) : Bool := s.host.errMask.toNat.testBit b

/-- Set a W1C bit of ERR_SUMMARY; an unmasked bit that sets fires the PF's vector 63 (R449, R463). -/
def setErr (s : State) (b : Nat) : State :=
  if s.host.errBits.toNat.testBit b then s
  else
    let s := { s with host := { s.host with errBits := s.host.errBits ||| ((1 : BitVec 16) <<< b) } }
    if errMasked s b then s else fireVector s 0 63

/-- A read-only bit of ERR_SUMMARY sets: an unmasked one fires the PF's vector 63; before READY the register reads 0 (R463, R516). -/
def fireErr (s : State) (b : Nat) : State := if errMasked s b || !s.boot.ready then s else fireVector s 0 63

/-- Drop an event of a function and count it (R462). -/
def dropEvent (s : State) (f : Nat) : State :=
  setErr (modFunc s f (fun fn => { fn with evqLost := satAdd 32 fn.evqLost 1, lostSince := satAdd 32 fn.lostSince 1 })) 11

/-- Write EVENTS_LOST when the queue has room again, carrying the count dropped since the last one (R462). -/
def flushLost (s : State) (f : Nat) : State :=
  let fn := getFunc s f
  if fn.lostSince ≠ 0 && evqRoom fn then
    modFunc (putEvent s f ⟨0x0400, 0xFF, sourceId s srcMp, packItems [(4, fn.lostSince)]⟩) f (fun fn => { fn with lostSince := 0 })
  else s

/-- Queue an event for one function; a stopped MP writes none (R618). -/
def sendEvent (s : State) (f : Nat) (e : Event) : State :=
  if s.boot.halted then s
  else if evqRoom (getFunc s f) then putEvent (flushLost s f) f e else dropEvent s f

/-- The functions an event of a partition enters: the PF and the VF assigned to it (R104). -/
def eventFuncs (s : State) (p : Option Nat) : List Nat :=
  match p with
  | none => [0]
  | some p => 0 :: (span 1 7).filter (fun f => (getFunc s f).part == some p)

/-- Raise an event for a partition's function and the PF. -/
def raisePart (s : State) (p : Option Nat) (code source : Nat) (items : List (Nat × Nat)) : State :=
  (eventFuncs s p).foldl (fun s f => sendEvent s f ⟨code, p.getD 0xFF, source, packItems items⟩) s

/-- Raise an event for the PF and every partition's function (R267). -/
def raiseAll (s : State) (code source : Nat) (items : List (Nat × Nat)) : State :=
  (0 :: (span 1 7).filter (fun f => (getFunc s f).part.isSome)).foldl
    (fun s f => sendEvent s f ⟨code, 0xFF, source, packItems items⟩) s

/-- Raise an event for the PF alone. -/
def raisePf (s : State) (code source : Nat) (items : List (Nat × Nat)) : State :=
  sendEvent s 0 ⟨code, 0xFF, source, packItems items⟩

/-- Raise an event for one function, and for the PF too where `pf` says so. -/
def raiseFunc (s : State) (f : Nat) (pf : Bool) (p : Option Nat) (code : Nat) (items : List (Nat × Nat)) : State :=
  let e : Event := ⟨code, p.getD 0xFF, sourceId s srcMp, packItems items⟩
  let s := sendEvent s f e
  if pf && f != 0 then sendEvent s 0 e else s

/-- A message leaves the module. -/
def emit (s : State) (k : MsgKind) (dst : Nat) (args : List Nat) (d : List Byte) : State :=
  { s with out := s.out ++ [⟨k, dst, args, d⟩] }

/-- Raise a bench event: logical bench, context, station (R104). -/
def raiseBench (s : State) (lb c st code : Nat) (more : List (Nat × Nat)) : State :=
  raisePart s (partOfLb s lb) code (sourceId s lb) ([(2, lb), (1, c), (1, st)] ++ more)

/-! ## Freezing a master -/

/-- Take the lowest free record slot for a freeze, or wait for one (R452). -/
def addFreeze (s : State) (z : Freeze) : State :=
  match (List.range 64).find? (fun k => (Tab.find s.host.freezes k).isNone) with
  | some k => { s with host := { s.host with freezes := Tab.set s.host.freezes k z } }
  | none => { s with host := { s.host with freezeWait := s.host.freezeWait ++ [z] } }

/-- Record a freeze and raise MASTER_FROZEN (R466). The caller stops the master itself. -/
def recordFreeze (s : State) (z : Freeze) : State :=
  let first := s.host.freezes.isEmpty && s.host.freezeWait.isEmpty
  let s := addFreeze s z
  let s := if first then fireErr s 10 else s
  raisePart s (if z.part = 0xFF then none else some z.part) 0x0401 z.source [(1, z.cls), (1, z.part), (1, z.cause), (8, z.addr)]

/-- A freeze of a bench context stops it at the instruction reached: accumulators go to the save area, program counter
and flags to the context record; issued commands stop where they stand and partly sent tiles are discarded (R95). -/
def stopCtx (x : BCtx) : BCtx :=
  { x with frozen := true, accSave := x.acc, recPc := x.pc, recFlags := (x.running.map (·.flags)).getD 0,
           mxeQ := [], vseQ := [], tputs := [] }

/-- The busy time of a bench context is counted up to now: its task's time since its start or since the step's boundary, to the counter of
its context (R314). A frozen task no longer counts, and a probe's tasks take no account (R209). -/
def addBusy (s : State) (lb c : Nat) : State :=
  let x := getCtx s lb c
  match x.running, jobOf s lb c with
  | some _, some jk =>
    let base := getJob s (jk / 2 * 2)
    let d := now s - max x.startAt base.stepStart
    if x.frozen || (getJob s jk).probe.isSome then s
    else modJob s (jk / 2 * 2) (fun j => { j with busy := if c = 0 then (j.busy.1 + d, j.busy.2.1, j.busy.2.2) else (j.busy.1, j.busy.2.1 + d, j.busy.2.2) })
  | _, _ => s

/-! ## Memory: places -/

def winBase : Nat := 0x800000000000
def winSize : Nat := 0x200000
def stationRegion : Nat := 0x120000
def memTop : Nat := 0x008000000000
def hostTop : Nat := 0x007FE0000000

/-- Whether an address lies in a scratchpad window. -/
def isWindow (a : Nat) : Bool := decide (winBase ≤ a) && decide (a < winBase + 576 * winSize)
def windowLb (a : Nat) : Nat := (a - winBase) / winSize
def windowOff (a : Nat) : Nat := (a - winBase) % winSize
/-- The address of an offset in a bench's window. -/
def windowAddr (lb off : Nat) : Nat := winBase + lb * winSize + off

/-- The logical stack of a working-memory address (R241). -/
def lsOf (a : Nat) : Nat := (bits a 14 12) ^^^ (bits a 26 24) ^^^ (bits a 38 36)
/-- The stack offset of a working-memory address (R241). -/
def stackOff (a : Nat) : Nat := bits a 38 15 * 4096 + bits a 11 0

/-- The working-memory address with the alias bits [45:44] cleared, and those bits (R253). -/
def plainAddr (a : Nat) : Nat := if isWindow a then a else a - (bits a 45 44) * 2 ^ 44
def aliasOf (a : Nat) : Nat := if isWindow a then 0 else bits a 45 44

/-- Whether the stack behind an address is marked failed (R264). -/
def stackDown (s : State) (a : Nat) : Bool := decide (a < memTop) && s.mem.failedLs.contains (lsOf a)

def blockState (s : State) (a : Nat) : BlockState := Tab.get .plain s.mem.blocks (a / 2048)

/-- Whether a byte's word or line carries a poison tag (R81, R248, R264). -/
def tagAt (s : State) (a : Nat) : Bool :=
  if isWindow a then (getBench s (windowLb a)).tags.contains (windowOff a / 8)
  else s.mem.poison.contains (a / 64) || stackDown s a

/-- Pages (R244). -/
def pageEntry (s : State) (pg : Nat) : Nat := Tab.get 0 s.mem.pages pg
def pageOwned (e : Nat) : Bool := bit e 15
def pagePart (e : Nat) : Nat := bits e 14 13
def pageHost (e : Nat) : Bool := bit e 12
def pageComp (e : Nat) : Bool := bit e 11

/-- The end of partition memory, below the carve-out (R240). -/
def partTop (s : State) : Nat := hostTop - s.mem.carve * 2 ^ 30

/-- An address at which no memory lies: the base of a record table that a job names outside its partition's pages (R3, log 155). -/
def nowhere : Nat := 2 ^ 62

/-- Whether partition p owns every page of [a, a + n), which lies in partition memory (R245). -/
def ownsRange (s : State) (p a n : Nat) : Bool :=
  decide (a + n ≤ partTop s) &&
    ((List.range (ceilDiv (a % 0x200000 + n) 0x200000)).all (fun k =>
      let e := pageEntry s (a / 0x200000 + k)
      pageOwned e && pagePart e == p))

/-- An absent bench of partition p still holds tiles that R225 delivers poisoned. -/
def keepsTiles (s : State) (p lb : Nat) : Bool :=
  s.convs.any (fun e => e.1 / 8192 == p && e.2.lostLbs.contains lb && e.2.slots.any (fun x => x.home == lb))

/-- Whether [a, a + n) lies in the station region of one present bench of partition p (R78), or of one whose tiles are still to be
delivered (R225). -/
def inStation (s : State) (p a n : Nat) : Bool :=
  isWindow a && decide (windowOff a + n ≤ stationRegion) && (present s (windowLb a) || keepsTiles s p (windowLb a)) && partOfLb s (windowLb a) == some p

/-- The cause of a refused access (R452): none where a stream or MXE command of partition p may make it (R73, R245). -/
def unitCause (s : State) (p a n : Nat) : Option Nat :=
  if isWindow a then (if inStation s p a n then none else some 3)
  else
    let b := plainAddr a
    if ownsRange s p b n then none else if b + n ≤ partTop s then some 0 else some 2

end Sys2Proof.Machine
end

