-- ==== Sys2Proof/Machine/Operands.lean ====
section
/-! DEFINITION. Operand forms: bytes of memory and scratchpad as a reader receives them (R81, R247, R248, R257), the
writes of every unit with tags, flags and compression (R81, R248, R256), elements of blocked regions (R138, R243),
catalogue tensors and their areas (R139, R192), accumulating writes (R253, R254), and the CC's registers (R68, R632). -/

namespace Sys2Proof.Machine

/-! ## Reading bytes -/

/-- Bytes and poison tag, as a reader receives one byte: a CODED block passes through the expander; a block wrong in
size, and a failed stack, deliver poison over bytes that the spec leaves open. -/
def rdByte (s : State) (a : Nat) : Byte × Bool :=
  if isWindow a then (Mem.get s.mem.bytes a, tagAt s a)
  else if stackDown s a then (Config.lostByte a, true)
  else
    match blockState s a with
    | .coded n =>
      let b := a / 2048 * 2048
      match expandBlock n (Mem.read s.mem.bytes b (64 * n)) with
      | some d => (d.getD (a % 2048) 0, (List.range n).any (fun k => s.mem.poison.contains (b / 64 + k)))
      | none => (Config.lostByte a, true)
    | _ => (Mem.get s.mem.bytes a, s.mem.poison.contains (a / 64))

/-- n bytes from a, each with its tag. -/
def rdBytes (s : State) (a n : Nat) : List (Byte × Bool) := (List.range n).map (fun k => rdByte s (a + k))

/-- The bytes alone. -/
def rdData (s : State) (a n : Nat) : List Byte := (rdBytes s a n).map Prod.fst
/-- Whether any of n bytes from a carries a tag. -/
def rdTagged (s : State) (a n : Nat) : Bool := (rdBytes s a n).any Prod.snd
/-- The little-endian number in n bytes from a. -/
def rdLe (s : State) (a n : Nat) : Nat := leNat (rdData s a n)

/-- The CODED blocks among [a, a + n) that are wrong in size (R260). -/
def wrongBlocks (s : State) (a n : Nat) : List Nat :=
  if isWindow a then []
  else (List.range ((a + n + 2047) / 2048 - a / 2048)).filterMap (fun k =>
    let b := (a / 2048 + k) * 2048
    match blockState s b with
    | .coded m => if (expandBlock m (Mem.read s.mem.bytes b (64 * m))).isNone then some b else none
    | _ => none)

/-- The partition that owns the page of an address (R267). -/
def partOfAddr (s : State) (a : Nat) : Option Nat :=
  let e := pageEntry s (a / 0x200000)
  if a < partTop s && pageOwned e then some (pagePart e) else none

/-- The physical stack behind an address (R238). -/
def physOf (s : State) (a : Nat) : Nat := s.mem.stackMap.getD (lsOf a) 0

/-- Raise a memory event that names a DPA: one in partition memory for its page's owner and the PF, any other for all functions (R267). -/
def raiseMem (s : State) (code a : Nat) : State :=
  let items := [(1, lsOf a), (1, physOf s a), (8, a)]
  if a < partTop s then raisePart s (partOfAddr s a) code (sourceId s srcMp) items else raiseAll s code (sourceId s srcMp) items

/-- Raise COMP_SIZE for every block wrong in size that a read of [a, a + n) meets (R86, R260). -/
def noteSizes (s : State) (a n : Nat) : State := (wrongBlocks s a n).foldl (fun s b => raiseMem s 0x0370 b) s

/-! ## Writing bytes -/

/-- A byte to be written, with its tag. -/
abbrev WCell := Nat × Byte × Bool

/-- Bytes from a upward as cells, all with one tag. -/
def cellsOf (a : Nat) (d : List Byte) (tag : Bool) : List WCell := d.zipIdx.map (fun bi => (a + bi.2, bi.1, tag))

/-- Split ascending cells into runs that share a / g: the group number, its cell count, and whether any is tagged. -/
def groupCells (g : Nat) (cs : List WCell) : List (Nat × Nat × Bool) :=
  match cs with
  | [] => []
  | (a, _, t) :: r =>
    match groupCells g r with
    | (k, n, u) :: rest => if a / g = k then (k, n + 1, t || u) :: rest else (a / g, 1, t) :: (k, n, u) :: rest
    | [] => [(a / g, 1, t)]

/-- The tag of a word or the flag of a line after a write (R81, R248): a whole write decides it, a partial write only sets it. -/
def mergeFlag (flags : List Nat) (g : Nat) (r : Nat × Nat × Bool) : List Nat :=
  if r.2.2 then insertNat flags r.1 else if r.2.1 = g then flags.filter (· != r.1) else flags

/-- Store cells into a scratchpad window or into memory, with tags and flags; writes to a failed stack are dropped (R264), and so are
writes where no memory lies. A write that covers a whole 2 KiB block sets it PLAIN (R257). -/
def applyCells (s : State) (cs0 : List WCell) : State :=
  let cs := cs0.filter (fun c => !stackDown s c.1 && (isWindow c.1 || decide (c.1 < memTop)))
  let s := { s with mem := { s.mem with bytes := cs.foldl (fun m c => Mem.set m c.1 c.2.1) s.mem.bytes } }
  let spd := cs.filter (fun c => isWindow c.1)
  let mem := cs.filter (fun c => !isWindow c.1)
  let s := (groupCells 8 spd).foldl (fun s r =>
    modBench s (windowLb (r.1 * 8)) (fun b => { b with tags := mergeFlag b.tags 8 (windowOff (r.1 * 8) / 8, r.2.1, r.2.2) })) s
  let poison := (groupCells 64 mem).foldl (fun f r => mergeFlag f 64 r) s.mem.poison
  let blocks := (groupCells 2048 mem).foldl (fun t r => if r.2.1 = 2048 then Tab.del t r.1 else t) s.mem.blocks
  { s with mem := { s.mem with poison := poison, blocks := blocks } }

/-- Code one whole block just written to a page with COMP set (R256 to R259); a poisoned block flags all its sectors, so that no poison is lost. -/
def compressBlock (s : State) (w b : Nat) : State :=
  let a := b * 2048
  let raw := Mem.read s.mem.bytes a 2048
  let tagged := (List.range 32).any (fun k => s.mem.poison.contains (a / 64 + k))
  match codeBlock w raw with
  | none => { s with mem := { s.mem with blocks := Tab.set s.mem.blocks b .raw } }
  | some (n, d) =>
    let poison := if tagged then (span (a / 64) n).foldl insertNat s.mem.poison else s.mem.poison
    { s with mem := { s.mem with bytes := Mem.write s.mem.bytes a d, poison := poison, blocks := Tab.set s.mem.blocks b (.coded n) } }

/-- A write by a compressing writer: whole aligned blocks of pages with COMP set are coded (R256). -/
def applyComp (s : State) (w : Nat) (cs : List WCell) : State :=
  let whole := (groupCells 2048 (cs.filter (fun c => !isWindow c.1))).filter (fun r =>
    r.2.1 = 2048 && pageComp (pageEntry s (r.1 / 1024)) && !stackDown s (r.1 * 2048))
  whole.foldl (fun s r => compressBlock s w r.1) (applyCells s cs)

/-- Write bytes plainly, all with one tag. -/
def wrBytes (s : State) (a : Nat) (d : List Byte) (tag : Bool) : State := applyCells s (cellsOf a d tag)

/-- Write a little-endian number of n bytes, unpoisoned. -/
def wrLe (s : State) (a n v : Nat) : State := wrBytes s a (toLe n v) false

/-! ## Confinement (R3) -/

/-- Whether a byte is partition p's: in a window of one of its benches, or in a page that it owns. -/
def ownsByte (s : State) (p a : Nat) : Bool :=
  if isWindow a then partOfLb s (windowLb a) == some p else partOfAddr s a == some p

/-- The cells that an engine working for partition p writes: what an unchecked error of the host would put outside the partition is
not written (R3, log 155). -/
def ownCells (s : State) (p : Nat) (cs : List WCell) : List WCell := cs.filter (fun c => ownsByte s p c.1)

/-- Write bytes for partition p, all with one tag. -/
def wrOwn (s : State) (p a : Nat) (d : List Byte) (tag : Bool) : State := applyCells s (ownCells s p (cellsOf a d tag))
/-- Write a little-endian number of n bytes for partition p, unpoisoned. -/
def wrOwnLe (s : State) (p a n v : Nat) : State := wrOwn s p a (toLe n v) false

/-! ## Regions of elements -/

/-- A rectangular region of a blocked tensor: first sub-block, scale area, pitch, format and BLOCK code. -/
structure Region where
  addr : Nat
  sc : Nat
  pitch : Nat
  fmt : Nat
  block : Nat
deriving DecidableEq, Repr

/-- Element index of place (i, j): stripes lie PITCH bytes apart, sub-blocks of 1,024 elements follow each other (R138, R243). -/
def elemIndex (r : Region) (i j : Nat) : Nat :=
  i / 32 * (r.pitch * 8 / fmtWidth r.fmt) + j / 32 * 1024 + i % 32 * 32 + j % 32

/-- Address, byte count and bit offset of place (i, j). -/
def elemAddr (r : Region) (i j : Nat) : Nat × Nat × Nat :=
  let base := r.addr + i / 32 * r.pitch + j / 32 * subBlockBytes r.fmt
  let (off, n, sh) := elemPlace r.fmt (i % 32 * 32 + j % 32)
  (base + off, n, sh)

/-- Address of the scale or headroom entry of place (i, j) (R139). -/
def scaleAddr (r : Region) (i j : Nat) : Nat := r.sc + elemIndex r i j / groupSize r.fmt r.block

/-- The code of place (i, j) and whether its word is tagged. -/
def readCode (s : State) (r : Region) (i j : Nat) : Nat × Bool :=
  let (a, n, sh) := elemAddr r i j
  let d := rdBytes s a n
  (leNat (d.map Prod.fst) / 2 ^ sh % 2 ^ fmtWidth r.fmt, d.any Prod.snd)

/-- The scale byte of place (i, j); a tagged entry is the poison code of its kind (R116). -/
def readScale (s : State) (r : Region) (i j : Nat) : Nat :=
  if groupSize r.fmt r.block = 0 then 0
  else
    let (b, t) := rdByte s (scaleAddr r i j)
    if t then (if r.fmt = 3 then 0x80 else 0xFF) else b.toNat

/-- The element value of place (i, j) (R142); a tagged word is poison (R116). -/
def readVal (s : State) (r : Region) (i j : Nat) : Val :=
  let (c, t) := readCode s r i j
  if t then .poison else elemVal r.fmt c (readScale s r i j)

/-- Pack element codes of whole bytes: the bytes of a run of codes that starts at a byte (R135, R136). -/
def packCodes (f : Nat) (cs : List Nat) : List Byte :=
  match f with
  | 8 => (chunksOf 4 cs cs.length).map (fun q => BitVec.ofNat 8 (q.zipIdx.foldl (fun n ci => n + ci.1 % 4 * 4 ^ ci.2) 0))
  | 7 => (chunksOf 2 cs cs.length).map (fun q => BitVec.ofNat 8 (q.zipIdx.foldl (fun n ci => n + ci.1 % 16 * 16 ^ ci.2) 0))
  | _ => cs.flatMap (toLe (fmtWidth f / 8))

/-- Unpack a run of element codes. -/
def unpackCodes (f n : Nat) (d : List Byte) : List Nat :=
  (List.range n).map (fun k =>
    let (off, w, sh) := elemPlace f k
    fieldLe d off w / 2 ^ sh % 2 ^ fmtWidth f)

/-! ## Catalogue tensors -/

/-- The first catalogue entry of a tensor ID. -/
def tensorOf (im : Image) (id : Nat) : Option TensorEnt := im.tensors.find? (fun t => t.id == id)

/-- Rows and columns of a tensor's two-dimensional view (R50). -/
def viewOf (t : TensorEnt) : Nat × Nat :=
  match t.dims.reverse with
  | [] => (0, 0)
  | [c] => (1, c)
  | c :: r => (r.foldl (· * ·) 1, c)

/-- Pitch of a stored tensor, ceil(C / 32) × Bs (R243). -/
def tensorPitch (t : TensorEnt) : Nat := ceilDiv (viewOf t).2 32 * subBlockBytes t.format
/-- Element bytes of a stored tensor (R243). -/
def tensorBytes (t : TensorEnt) : Nat := ceilDiv (viewOf t).1 32 * tensorPitch t
/-- First byte of a tensor. -/
def tensorAddr (im : Image) (t : TensorEnt) : Nat := ((im.buffers[t.buffer]?).map (·.dpa)).getD 0 + t.offset
/-- Start of its scale area (R139). -/
def tensorScales (im : Image) (t : TensorEnt) : Nat := tensorAddr im t + roundUp (tensorBytes t) 2048
/-- Entries of its scale area. -/
def tensorEntries (t : TensorEnt) : Nat :=
  if groupSize t.format t.block = 0 then 0 else ceilDiv (viewOf t).1 32 * ceilDiv (viewOf t).2 32 * (1024 / groupSize t.format t.block)
/-- Start of the headroom state area of a G16 tensor (R192). -/
def tensorStates (im : Image) (t : TensorEnt) : Nat := tensorScales im t + ceilDiv (tensorEntries t) 2048 * 2048
/-- The whole tensor as a region. -/
def tensorRegion (im : Image) (t : TensorEnt) : Region := ⟨tensorAddr im t, tensorScales im t, tensorPitch t, t.format, t.block⟩
/-- The G-block index of a place (R192). -/
def gIndex (t : TensorEnt) (row col : Nat) : Nat := (row / 32 * ceilDiv (viewOf t).2 32 + col / 32) * 4 + row % 32 / 8

/-- The layer record's address (R188). -/
def layerRec (j : Job) (l : Nat) : Nat := j.numBase + 128 * l
/-- Whether a catalogue layer number has a record (R188). -/
def hasLayer (l : Nat) : Bool := decide (l ≤ 65535)

/-- The tensor IDs that the layer record lists with headroom state (R189, R192). -/
def listedTensors (s : State) (j : Job) (l : Nat) : List Nat :=
  let a := layerRec j l
  (List.range (min 8 (rdLe s (a + 0x20) 1))).map (fun k => rdLe s (a + 0x30 + 4 * k) 4)

/-- Set OVF or NAN in the state entry of a place of a destination tensor, by an atomic OR (R193). Filler jobs, tensors
without headroom state and places outside the tensor's view set nothing. -/
def headroomOr (s : State) (jk tensor row col : Nat) (ovf nan : Bool) : State :=
  if jk % 2 = 1 || !(ovf || nan) then s
  else
    let j := getJob s jk
    match j.image with
    | none => s
    | some im =>
      match tensorOf im tensor with
      | none => s
      | some t =>
        let (r, c) := viewOf t
        if t.format == 3 && hasLayer t.layer && decide (row < r) && decide (col < c) && (listedTensors s j t.layer).contains tensor then
          let a := tensorStates im t + 2 * gIndex t row col
          wrOwnLe s (jk / 2) a 2 (rdLe s a 2 ||| ((if ovf then 0x8000 else 0) + (if nan then 0x4000 else 0)))
        else s

/-! ## Accumulating writes (R253, R254) -/

/-- One element of an accumulating write: address, code, tag, and the place that the issuing engine supplied. -/
structure AccCell where
  addr : Nat
  code : Nat
  tag : Bool
  place : Option (Nat × Nat × Nat)
deriving DecidableEq, Repr

/-- ACC_FP32 on one element. -/
def accFp32 (s : State) (c : AccCell) : State :=
  let d := rdBytes s c.addr 4
  let old : Word := if d.any Prod.snd then poisonF32 else BitVec.ofNat 32 (leNat (d.map Prod.fst))
  let inc : Word := if c.tag then poisonF32 else BitVec.ofNat 32 c.code
  let v := fadd old inc
  wrBytes s c.addr (toLe 4 v.toNat) (isPoisonF v)

/-- ACC_G16 on one element: the exact sum of the codes at one headroom exponent, rounded once; a finite sum beyond the
range sets OVF, a NaN or an infinity from an infinite operand sets NAN (R254). -/
def accG16 (s : State) (jk : Nat) (c : AccCell) : State :=
  let d := rdBytes s c.addr 2
  let old := if d.any Prod.snd then Val.poison else g16Val (leNat (d.map Prod.fst))
  let inc := if c.tag then Val.poison else g16Val c.code
  let o := writeG16 0 .nearest (Val.add old inc)
  let s := wrBytes s c.addr (toLe 2 o.code) (o.code == 0x7C01)
  match c.place with
  | none => s
  | some (t, row, col) => headroomOr s jk t row col o.ovf o.nan

/-- An accumulating write of cells in order, by the way of R253. -/
def accWrite (s : State) (jk way : Nat) (cs : List AccCell) : State :=
  cs.foldl (fun s c => if stackDown s c.addr || !ownsByte s (jk / 2) c.addr then s else if way = 1 then accFp32 s c else accG16 s jk c) s

/-! ## CC registers -/

/-- Register n; X0 reads 0 (R68). -/
def xreg (x : BCtx) (n : Nat) : Long := if n % 64 = 0 then 0 else Tab.get 0 x.x (n % 64)
/-- Poison bit of register n; X0 is never poisoned (R632). -/
def xpois (x : BCtx) (n : Nat) : Bool := n % 64 != 0 && x.xp.toNat.testBit (n % 64)
/-- Write register n with its poison bit; writes to X0 are discarded (R68, R632). -/
def setXreg (x : BCtx) (n : Nat) (v : Long) (p : Bool) : BCtx :=
  if n % 64 = 0 then x
  else
    let m : BitVec 64 := (1 : BitVec 64) <<< (n % 64)
    { x with x := Tab.set x.x (n % 64) v, xp := if p then x.xp ||| m else x.xp &&& ~~~m }

/-- IMM14 as a signed value in 64 bits (R69). -/
def imm14 (i : Nat) : Long := (BitVec.ofNat 14 i).signExtend 64
/-- OFF26 as a signed value in 64 bits (R69). -/
def off26 (i : Nat) : Long := (BitVec.ofNat 26 i).signExtend 64

/-- The 64 B of a task descriptor (R89). -/
def inBytes (i : InRef) : List Byte := toLe 8 (i.conv % 4096 * 2 ^ 52 + i.home % 1024 * 2 ^ 42 + i.word % 32768 * 2 ^ 27 + i.words % 2048 * 2 ^ 16)

def taskBytes (t : Task) : List Byte :=
  toLe 1 t.station ++ toLe 1 t.flags ++ toLe 1 t.ins.length ++ toLe 1 t.nout ++ toLe 4 t.seq ++ toLe 4 t.tensor ++ toLe 4 t.step
    ++ toLe 2 t.pass ++ toLe 2 t.ti ++ toLe 2 t.tj ++ toLe 1 t.slot ++ toLe 1 0
    ++ padTo 0 32 (t.ins.flatMap inBytes) ++ padTo 0 4 (t.outs.flatMap (toLe 2)) ++ toLe 4 t.arg

/-- The load of X56 to X63 from a descriptor at the start of a task, with poison bits (R68, R632). -/
def loadTaskRegs (x : BCtx) (t : Task) : BCtx :=
  (List.range 8).foldl (fun x k => setXreg x (56 + k) (BitVec.ofNat 64 (fieldLe (taskBytes t) (8 * k) 8)) (bit t.poison k)) x

end Sys2Proof.Machine
end

