-- ==== Sys2Proof/Machine/Contexts.lean ====
section
/-! DEFINITION. Haul contexts and round records (R334, R338, R340, R365, R391): their places, the opening and freeing of a
context, the masks of a round shard record, and the policy in force on a shard (R339). -/

namespace Sys2Proof.Machine

/-! ## Places -/

/-- The 64 B record of haul context n (R240, R391). -/
def ctxRecord (n : Nat) : Nat := 0x7FF0000000 + 64 * n

/-- The policy in force on held shard r: the latest accepted one that does not wait for the shard's next round boundary (R339). -/
def shardPolicy (j : Job) (r : Nat) : Option RoundPolicy :=
  match (j.round.next.filter (fun n => !n.2.contains r)).getLast? with
  | some n => some n.1
  | none => j.round.policy

/-- The policy accepted last. -/
def latestPolicy (j : Job) : Option RoundPolicy :=
  match j.round.next.getLast? with
  | some n => some n.1
  | none => j.round.policy

/-- The haul context of shard r and partner index p (R338). -/
def jobCtx (j : Job) (r p : Nat) : Nat := ctxRecord (((j.round.policy.map (·.ctxFirst)).getD 0) + 64 * r + p)

def roundShard (j : Job) (r : Nat) : Nat := j.round.rshardBase + 64 * r
def roundRec (j : Job) : Nat := (j.round.policy.map (·.roundBase)).getD 0
def partnerRec (j : Job) (p : Nat) : Nat := roundRec j + 64 + 32 * p

def ctxState (s : State) (j : Job) (r p : Nat) : Nat := rdLe s (jobCtx j r p) 1

/-- Round state of a shard (R334). -/
def roundState (s : State) (j : Job) (r : Nat) : Nat := rdLe s (roundShard j r + 4) 1
/-- Round in progress on a shard. -/
def roundOf (s : State) (j : Job) (r : Nat) : Nat := rdLe s (roundShard j r + 8) 4

def HaulCtx.reset : HaulCtx := ⟨[], [], [], [], [], (0, 0), 0, 0, none, (0, 0), false, false⟩
def getHaul (j : Job) (r p : Nat) : HaulCtx := Tab.get HaulCtx.reset j.round.ctxs (64 * r + p)
def modHaul (s : State) (jk r p : Nat) (f : HaulCtx → HaulCtx) : State :=
  { s with jobs := Tab.mod Job.reset s.jobs jk (fun j => { j with round := { j.round with
      ctxs := Tab.mod HaulCtx.reset j.round.ctxs (64 * r + p) f } }) }

def RoundShard.reset : RoundShard := ⟨[], [], [], [], [], false, false, [], false, 0, [], none, 0⟩
def getRShard (j : Job) (r : Nat) : RoundShard := Tab.get RoundShard.reset j.round.shards r
def modRound (s : State) (jk : Nat) (f : RoundSt → RoundSt) : State := modJob s jk (fun j => { j with round := f j.round })
def modRShard (s : State) (jk r : Nat) (f : RoundShard → RoundShard) : State :=
  modRound s jk (fun q => { q with shards := Tab.mod RoundShard.reset q.shards r f })

/-- Partners of the policy in force on a shard, with their indices. -/
def partnersOf (j : Job) (r : Nat) : List (Partner × Nat) := ((shardPolicy j r).map (fun q => q.partners.zipIdx)).getD []
def partnerOk (q : Partner) : Bool := bit q.flags 0

/-- Add to a saturating count of the round record (R365). -/
def bumpRound (s : State) (jk off n : Nat) : State :=
  let j := getJob s jk
  if j.round.policy.isNone then s else let a := roundRec j + off; wrLe s a 4 (satAdd 32 (rdLe s a 4) n)

/-! ## Held hauls -/

def segCount (len : Nat) : Nat := ceilDiv len 8192
def haulSent (h : SendHaul) : Bool := decide (segCount h.len ≤ h.acked.length)

/-- Release the held hauls of a context that p picks; one that lacks acknowledged packets is counted as abandoned (R346). -/
def releaseHauls (s : State) (jk r p : Nat) (pick : SendHaul → Bool) : State :=
  let h := getHaul (getJob s jk) r p
  let gone := h.sends.filter pick
  let s := modHaul s jk r p (fun h => { h with
    sends := h.sends.filter (fun x => !pick x)
    flight := h.flight.filter (fun f => !(gone.any (fun x => decide (x.seq0 ≤ f.seq ∧ f.seq < x.seq0 + segCount x.len)))) })
  bumpRound s jk 0x18 (gone.countP (fun x => !haulSent x))

/-! ## States of a context (R340, R391) -/

/-- Masks and SPLIT_HELD of the round shard record follow the context states (R365). -/
def setMasks (s : State) (jk r : Nat) : State :=
  let j := getJob s jk
  let ps := (List.range 64).filter (fun p => decide (p < (partnersOf j r).length))
  let mask := fun (v : Nat) => ps.foldl (fun m p => if ctxState s j r p = v then m + 2 ^ p else m) 0
  let a := roundShard j r
  let split := mask 2
  let catch' := mask 3
  let s := wrBytes s (a + 0x18) (toLe 8 split ++ toLe 8 catch') false
  let fl := rdLe s (a + 6) 1
  wrLe s (a + 6) 1 (fl / 4 * 4 + fl % 2 + (if split + catch' = 0 then 0 else 2))

def setCtxState (s : State) (jk r p v : Nat) : State := setMasks (wrLe s (jobCtx (getJob s jk) r p) 1 v) jk r

/-- A context leaves FREE (R340, R391). -/
def openCtx (s : State) (jk r p v inc : Nat) : State :=
  let j := getJob s jk
  let a := jobCtx j r p
  let addr := (((partnersOf j r)[p]?).map (fun q => q.1.mirrors.getD r 0)).getD 0
  let s := wrBytes s a (toLe 1 v ++ toLe 1 0 ++ toLe 2 addr ++ toLe 4 inc ++ toLe 4 0 ++ toLe 4 (roundOf s j r) ++ toLe 4 0xFFFFFFFF ++ toLe 4 0
    ++ toLe 8 0 ++ toLe 8 0 ++ toLe 8 0 ++ toLe 8 0) false
  let s := modHaul s jk r p (fun _ => { HaulCtx.reset with heard := now s, kept := now s })
  setMasks s jk r

/-- A context becomes FREE: every field but the four counters is zeroed and its held hauls are released (R346, R391). -/
def freeCtx (s : State) (jk r p : Nat) : State :=
  let j := getJob s jk
  if ctxState s j r p = 0 then s
  else
    let s := releaseHauls s jk r p (fun _ => true)
    let s := wrBytes s (jobCtx j r p) (List.replicate 0x38 0) false
    setMasks (modHaul s jk r p (fun _ => HaulCtx.reset)) jk r

/-- Free every context of a shard. -/
def freeShardCtxs (s : State) (jk r : Nat) : State := ((partnersOf (getJob s jk) r).map Prod.snd).foldl (fun s p => freeCtx s jk r p) s

/-- Free every haul context of a job (R494). -/
def freeJobCtxs (s : State) (jk : Nat) : State :=
  let j := getJob s jk
  match j.image with
  | none => s
  | some im => if j.round.policy.isNone then s
    else (List.range (im.tensors.filter (fun t => t.cls == 2)).length).foldl (fun s r => freeShardCtxs s jk r) s

/-- Open the contexts of a shard that this module now owns, to its valid partners (R340). -/
def openShardCtxs (s : State) (jk r inc : Nat) : State :=
  (partnersOf (getJob s jk) r).foldl (fun s q => if partnerOk q.1 then openCtx s jk r q.2 1 inc else s) s

/-- Move the records that a policy names by address to where a new policy names them (R338, R365). -/
def moveRounds (s : State) (old new : RoundPolicy) (n : Nat) : State :=
  let move := fun (s : State) (a b k : Nat) => if a = b then s else wrBytes s b (rdData s a k) false
  let s := move (move s old.roundBase new.roundBase 2112) old.rshardBase new.rshardBase (64 * n)
  if old.ctxFirst = new.ctxFirst then s
  else
    let d := rdData s (ctxRecord old.ctxFirst) (4096 * n)
    wrBytes (wrBytes s (ctxRecord old.ctxFirst) (List.replicate (4096 * n) 0) false) (ctxRecord new.ctxFirst) d false

end Sys2Proof.Machine
end

