-- ==== Sys2Proof/Machine/Crc.lean ====
section
/-! DEFINITION. The check sequences the spec names: CRC-32 of IEEE 802.3 (R38), CRC-64 of ECMA-182 (R100, tallies),
CRC-32C and the 8-bit PEC of PMBus. Each is a fold over bits in the order its own rule gives. -/

namespace Sys2Proof.Machine

/-- One reflected step of `n` bits: least significant bit first. -/
def crcBitsR (poly : Nat) (n c : Nat) : Nat :=
  match n with
  | 0 => c
  | k + 1 => crcBitsR poly k (if c % 2 = 1 then (c / 2) ^^^ poly else c / 2)

/-- A reflected CRC over bytes, from register value `c`. -/
def crcR (poly : Nat) (d : List Byte) (c : Nat) : Nat :=
  d.foldl (fun c b => crcBitsR poly 8 (c ^^^ b.toNat)) c

/-- CRC-32 as the Ethernet frame check sequence (R38). -/
def crc32 (d : List Byte) : Nat := crcR 0xEDB88320 d 0xFFFFFFFF ^^^ 0xFFFFFFFF

/-- CRC-32C (Castagnoli). -/
def crc32c (d : List Byte) : Nat := crcR 0x82F63B78 d 0xFFFFFFFF ^^^ 0xFFFFFFFF

/-- One forward step of `n` bits of a `w`-bit register: most significant bit first. -/
def crcBitsF (w poly n c : Nat) : Nat :=
  match n with
  | 0 => c
  | k + 1 => crcBitsF w poly k (if c.testBit (w - 1) then (c * 2 % 2 ^ w) ^^^ poly else c * 2 % 2 ^ w)

/-- A forward CRC of `w` bits over bytes. -/
def crcF (w poly : Nat) (d : List Byte) (c : Nat) : Nat :=
  d.foldl (fun c b => crcBitsF w poly 8 (c ^^^ (b.toNat * 2 ^ (w - 8)))) c

/-- CRC-64 with the ECMA-182 polynomial, register from 0, most significant bit first. -/
def crc64 (d : List Byte) : Nat := crcF 64 0x42F0E1EBA9EA3693 d 0

/-- The PMBus packet error code, x^8 + x^2 + x + 1. -/
def crc8 (d : List Byte) : Nat := crcF 8 0x07 d 0

end Sys2Proof.Machine
end

