-- ==== Sys2Proof/Machine/Flags.lean ====
section
/-! DEFINITION. Flag and status computations of the engines: MXE_STATUS (R110) and STREAM_STATUS (R178). -/

namespace Sys2Proof.Machine

/-- What a PRODUCT reports when it completes (R110). -/
structure MxeFlags where
  ovf : Nat
  blocks : Nat
  empty : Bool
  poison : Bool
  nan : Bool
  inf : Bool
deriving DecidableEq, Repr

/-- MXE_STATUS[4:1] of a completed PRODUCT: EMPTY, POISON, NAN, INF. -/
def mxeFlagBits (f : MxeFlags) : Nat := b2n f.empty * 16 + b2n f.poison * 8 + b2n f.nan * 4 + b2n f.inf * 2

/-- Store what a completed PRODUCT reports. -/
def setMxeStatus (x : BCtx) (f : MxeFlags) : BCtx :=
  { x with mxOvf := min f.ovf 0xFFFF, mxBlocks := f.blocks % 65536, mxFlags := mxeFlagBits f }

/-- MXE_STATUS as CSRR 1 reads it (R110). -/
def mxeStatus (x : BCtx) : Long :=
  BitVec.ofNat 64 (x.mxOvf * 2 ^ 32 + x.mxBlocks * 2 ^ 16 + b2n x.accLive * 64 + b2n (!x.mxeQ.isEmpty) * 32 + x.mxFlags)

/-- What a stream reports when it completes (R178). -/
structure StreamFlags where
  elements : Nat
  ovf : Nat
  nonfinite : Nat
  accRead : Bool
  empty : Bool
  poison : Bool
  nan : Bool
  inf : Bool
  invalid : Bool
deriving DecidableEq, Repr

/-- STREAM_STATUS less BUSY (R178). -/
def streamWord (f : StreamFlags) : Nat :=
  min f.elements 0xFFFFFFFF * 2 ^ 32 + min f.ovf 0xFFFF * 2 ^ 16 + min f.nonfinite 0xFF * 256 + b2n f.accRead * 64 + b2n f.empty * 16
    + b2n f.poison * 8 + b2n f.nan * 4 + b2n f.inf * 2 + b2n f.invalid

/-- STREAM_STATUS as CSRR 0 reads it (R178). -/
def streamStatus (x : BCtx) : Long := BitVec.ofNat 64 (x.stream + b2n (!x.vseQ.isEmpty) * 32)

end Sys2Proof.Machine
end

