-- ==== Sys2Proof/Machine/Aes.lean ====
section
/-! DEFINITION. AES-256 and the modes that the spec names by their standards: GCM (R398), CTR, CBC and CFB (R399), and the
key wrap KW (R402). PRESUMED: the algorithms are those of FIPS 197, SP 800-38A, SP 800-38D and SP 800-38F (log 24). -/

namespace Sys2Proof.Machine

/-! ## The field of 2^8 -/

/-- Doubling in the AES field. -/
def xtime (a : Nat) : Nat := if a < 128 then 2 * a else (2 * a - 256) ^^^ 0x1B

/-- Multiplication in the AES field; the second factor has n bits left. -/
def gf8 (n a b : Nat) : Nat :=
  match n with
  | 0 => 0
  | k + 1 => (if b % 2 = 1 then a else 0) ^^^ gf8 k (xtime a) (b / 2)

def gmul (a b : Nat) : Nat := gf8 8 a b
def gsq (a : Nat) : Nat := gmul a a

/-- The inverse a^254; 0 for 0. -/
def ginv (a : Nat) : Nat :=
  let a2 := gsq a
  let a3 := gmul a2 a
  let a6 := gsq a3
  let a7 := gmul a6 a
  let a14 := gsq a7
  let a15 := gmul a14 a
  let a30 := gsq a15
  let a31 := gmul a30 a
  let a62 := gsq a31
  let a63 := gmul a62 a
  let a126 := gsq a63
  gsq (gmul a126 a)

/-- Rotate an 8-bit number left. -/
def rot8 (a k : Nat) : Nat := (a * 2 ^ k + a / 2 ^ (8 - k)) % 256

/-- The S-box and its inverse by their definition. -/
def sboxOf (a : Nat) : Nat := let b := ginv a; b ^^^ rot8 b 1 ^^^ rot8 b 2 ^^^ rot8 b 3 ^^^ rot8 b 4 ^^^ 0x63
def invSboxOf (a : Nat) : Nat := ginv (rot8 a 1 ^^^ rot8 a 3 ^^^ rot8 a 6 ^^^ 0x05)

/-- The values of `sboxOf` and of `invSboxOf`, entry 0 in the lowest byte. -/
def sboxTable : Nat :=
  0x16BB54B00F2D99416842E6BF0D89A18CDF2855CEE9871E9B948ED9691198F8E19E1DC186B95735610EF6034866B53E708A8BBD4B1F74DDE8C6B4A61C2E2578BA08AE7A65EAF4566CA94ED58D6D37C8E779E4959162ACD3C25C2406490A3A32E0DB0B5EDE14B8EE4688902A22DC4F816073195D643D7EA7C41744975FEC130CCDD2F3FF1021DAB6BCF5389D928F40A351A89F3C507F02F94585334D43FBAAEFD0CF584C4A39BECB6A5BB1FC20ED00D153842FE329B3D63B52A05A6E1B1A2C830975B227EBE28012079A059618C323C7041531D871F1E5A534CCF73F362693FDB7C072A49CAFA2D4ADF04759FA7DC982CA76ABD7FE2B670130C56F6BF27B777C63
def invSboxTable : Nat :=
  0x7D0C2155631469E126D677BA7E042B17619953833CBBEBC8B0F52AAE4D3BE0A0EF9CC9939F7AE52D0D4AB519A97F51605FEC8027591012B131C7078833A8DD1FF45ACD78FEC0DB9A2079D2C64B3E56FC1BBE18AA0E62B76F89C5291D711AF1476EDF751CE837F9E28535ADE72274AC9673E6B4F0CECFF297EADC674F4111913A6B8A130103BDAFC1020F3FCA8F1E2CD00645B3B80558E4F70AD3BC8C00ABD890849D8DA75746155EDAB9EDFD5048706C92B6655DCC5CA4D41698688664F6F87225D18B6D49A25B76B224D92866A12E084EC3FA420B954CEE3D23C2A632947B54CBE9DEC444438E3487FF2F9B8239E37CFBD7F3819EA340BF38A53630D56A0952

/-- The S-box and its inverse, read from their tables. -/
def sbox (a : Nat) : Nat := sboxTable / 2 ^ (8 * a) % 256
def invSbox (a : Nat) : Nat := invSboxTable / 2 ^ (8 * a) % 256

/-! ## AES-256: a block as one number, byte (r, c) of the state at bits 8 (r + 4c) -/

abbrev Block := List Nat

def xorB (a b : List Nat) : List Nat := (a.zip b).map (fun p => p.1 ^^^ p.2)

/-- Bytes as a number, byte 0 lowest, and n bytes of a number. -/
def packBytes (l : List Nat) : Nat := l.foldr (fun b n => n * 256 + b) 0
def unpackBytes (n v : Nat) : List Nat := (List.range n).map (fun k => v / 2 ^ (8 * k) % 256)

/-- A table over the n bytes of a number. -/
def subBytes (f : Nat → Nat) (n v : Nat) : Nat := (List.range n).foldl (fun x k => x + f (v / 2 ^ (8 * k) % 256) * 2 ^ (8 * k)) 0

/-- A 32-bit number in each of the four columns. -/
def inColumns (w : Nat) : Nat := w * 0x1000000010000000100000001

/-- Rotate a 128-bit number right by k bits. -/
def rot128 (x k : Nat) : Nat := (x / 2 ^ k + x * 2 ^ (128 - k)) % 2 ^ 128

/-- Row r moves left by f r columns. -/
def rowsBy (f : Nat → Nat) (x : Nat) : Nat := (List.range 4).foldl (fun y r => y + rot128 (x &&& inColumns (255 * 2 ^ (8 * r))) (32 * f r)) 0
def shiftRows (x : Nat) : Nat := rowsBy (fun r => r) x
def invShiftRows (x : Nat) : Nat := rowsBy (fun r => (4 - r) % 4) x

/-- Doubling of each of the sixteen bytes, and multiplication of each by a factor of which n bits are left. -/
def xtimes (x : Nat) : Nat := ((x &&& inColumns 0x7F7F7F7F) * 2) ^^^ ((x / 128 &&& inColumns 0x01010101) * 0x1B)
def mulAll (n x b : Nat) : Nat :=
  match n with
  | 0 => 0
  | k + 1 => (if b % 2 = 1 then x else 0) ^^^ mulAll k (xtimes x) (b / 2)

/-- Each column moves up by k rows, around. -/
def colsUp (x k : Nat) : Nat :=
  ((x / 2 ^ (8 * k)) &&& inColumns (2 ^ (32 - 8 * k) - 1)) + ((x * 2 ^ (32 - 8 * k)) &&& inColumns (2 ^ 32 - 2 ^ (32 - 8 * k)))

/-- Mix the columns by the four coefficients of row 0, each below 16. -/
def mixBy (m : List Nat) (x : Nat) : Nat := (List.range 4).foldl (fun y k => y ^^^ mulAll 4 (colsUp x k) (m.getD k 0)) 0

/-- Words of the key schedule, newest first; n more are to be made. -/
def expandKey (n i rcon : Nat) (ws : List Nat) : List Nat :=
  match n with
  | 0 => ws
  | k + 1 =>
    let last := ws.headD 0
    let t := if i % 8 = 0 then subBytes sbox 4 (last / 256 + last % 256 * 2 ^ 24) ^^^ rcon else if i % 8 = 4 then subBytes sbox 4 last else last
    expandKey k (i + 1) (if i % 8 = 0 then xtime rcon else rcon) ((ws.getD 7 0 ^^^ t) :: ws)

/-- The fifteen round keys of a 32-byte key. -/
def roundKeys (key : List Nat) : List Nat :=
  let ws := (expandKey 52 8 1 ((List.range 8).map (fun k => packBytes ((key.drop (4 * k)).take 4))).reverse).reverse
  (chunksOf 4 ws 15).map (fun c => c.foldr (fun w n => n * 2 ^ 32 + w) 0)

/-- Encrypt one block under the round keys. -/
def aesEncN (rks : List Nat) (x : Nat) : Nat :=
  let s := ((rks.drop 1).take 13).foldl (fun s rk => mixBy [2, 3, 1, 1] (shiftRows (subBytes sbox 16 s)) ^^^ rk) (x ^^^ rks.headD 0)
  shiftRows (subBytes sbox 16 s) ^^^ rks.getD 14 0
def aesEnc (rks : List Nat) (b : Block) : Block := unpackBytes 16 (aesEncN rks (packBytes b))

/-- Decrypt one block. -/
def aesDecN (rks : List Nat) (x : Nat) : Nat :=
  let s := ((rks.drop 1).take 13).reverse.foldl (fun s rk => invShiftRows (mixBy [14, 11, 13, 9] (subBytes invSbox 16 s ^^^ rk)))
    (invShiftRows (x ^^^ rks.getD 14 0))
  subBytes invSbox 16 s ^^^ rks.headD 0
def aesDec (rks : List Nat) (b : Block) : Block := unpackBytes 16 (aesDecN rks (packBytes b))

/-! ## Numbers and blocks -/

/-- A number as n big-endian bytes, and back. -/
def beBytes (n v : Nat) : List Nat := (toBe n v).map (·.toNat)
def beNum (l : List Nat) : Nat := l.foldl (fun v b => v * 256 + b) 0

/-! ## GCM (R398) -/

/-- Multiplication in the field of GHASH: bit i of the 128, first bit highest; n bits are left. -/
def ghMul (n x v z : Nat) : Nat :=
  match n with
  | 0 => z
  | k + 1 => ghMul k x (if v % 2 = 1 then v / 2 ^^^ (0xE1 * 2 ^ 120) else v / 2) (if x.testBit k then z ^^^ v else z)

/-- GHASH over blocks. -/
def ghash (h : Nat) (bs : List (List Nat)) : Nat := bs.foldl (fun y b => ghMul 128 (y ^^^ beNum (padTo 0 16 b)) h 0) 0

/-- Exclusive OR with the keystream of counter blocks that begin with 12 fixed bytes and a 32-bit counter from c. -/
def ctrXor (rks : List Nat) (n12 : List Nat) (c : Nat) (d : List Nat) : List Nat :=
  ((chunksOf 16 d (d.length + 1)).zipIdx).flatMap (fun bi => xorB bi.1 (aesEnc rks (n12 ++ beBytes 4 ((c + bi.2) % 2 ^ 32))))

/-- The tag over associated data and ciphertext. -/
def gcmTag (rks : List Nat) (n12 aad ct : List Nat) : List Nat :=
  let h := beNum (aesEnc rks (List.replicate 16 0))
  let bs := chunksOf 16 aad (aad.length + 1) ++ chunksOf 16 ct (ct.length + 1) ++ [beBytes 8 (8 * aad.length) ++ beBytes 8 (8 * ct.length)]
  xorB (beBytes 16 (ghash h bs)) (aesEnc rks (n12 ++ [0, 0, 0, 1]))

/-- AES-256-GCM: ciphertext and tag. -/
def gcmSeal (key n12 aad pt : List Byte) : List Byte × List Byte :=
  let nat := fun (l : List Byte) => l.map (·.toNat)
  let rks := roundKeys (nat key)
  let ct := ctrXor rks (nat n12) 2 (nat pt)
  (ct.map (BitVec.ofNat 8), (gcmTag rks (nat n12) (nat aad) ct).map (BitVec.ofNat 8))

/-- The plaintext, where the tag is right. -/
def gcmOpen (key n12 aad ct tag : List Byte) : Option (List Byte) :=
  let nat := fun (l : List Byte) => l.map (·.toNat)
  let rks := roundKeys (nat key)
  if (gcmTag rks (nat n12) (nat aad) (nat ct)).map (BitVec.ofNat 8) = tag then some ((ctrXor rks (nat n12) 2 (nat ct)).map (BitVec.ofNat 8)) else none

/-! ## Stored objects (R399) -/

/-- CBC over whole blocks, each step's chaining value kept. -/
def cbcEnc (rks : List Nat) (iv : Block) (bs : List Block) : List Block :=
  match bs with
  | [] => []
  | b :: r => let c := aesEnc rks (xorB b iv); c :: cbcEnc rks c r
def cbcDec (rks : List Nat) (iv : Block) (bs : List Block) : List Block :=
  match bs with
  | [] => []
  | b :: r => xorB (aesDec rks b) iv :: cbcDec rks b r

/-- CFB-128; the last partial block uses the leading bytes of its keystream. -/
def cfbEnc (rks : List Nat) (iv : Block) (bs : List Block) : List Block :=
  match bs with
  | [] => []
  | b :: r => let c := xorB b (aesEnc rks iv); c :: cfbEnc rks c r
def cfbDec (rks : List Nat) (iv : Block) (bs : List Block) : List Block :=
  match bs with
  | [] => []
  | b :: r => xorB b (aesEnc rks iv) :: cfbDec rks b r

/-- A stored object under USE 3 (CTR), 4 or 6 (CBC), 5 (CFB), with its 96-bit nonce. -/
def storeEnc (use : Nat) (key n12 d : List Byte) : List Byte :=
  let nat := fun (l : List Byte) => l.map (·.toNat)
  let rks := roundKeys (nat key)
  let iv := aesEnc rks (nat n12 ++ [0, 0, 0, 0])
  let bs := chunksOf 16 (nat d) (d.length + 1)
  (match use with
   | 3 => ctrXor rks (nat n12) 0 (nat d)
   | 5 => (cfbEnc rks iv bs).flatMap id
   | _ => (cbcEnc rks iv bs).flatMap id).map (BitVec.ofNat 8)

def storeDec (use : Nat) (key n12 d : List Byte) : List Byte :=
  let nat := fun (l : List Byte) => l.map (·.toNat)
  let rks := roundKeys (nat key)
  let iv := aesEnc rks (nat n12 ++ [0, 0, 0, 0])
  let bs := chunksOf 16 (nat d) (d.length + 1)
  (match use with
   | 3 => ctrXor rks (nat n12) 0 (nat d)
   | 5 => (cfbDec rks iv bs).flatMap id
   | _ => (cbcDec rks iv bs).flatMap id).map (BitVec.ofNat 8)

/-! ## Key wrap (R402) -/

/-- One unwrap step of the register i of n at time t. -/
def kwStep (rks : List Nat) (n t : Nat) (a : List Nat) (rs : List (List Nat)) : List Nat × List (List Nat) :=
  let i := (t - 1) % n
  let b := aesDec rks (beBytes 8 (beNum a ^^^ t) ++ rs.getD i [])
  (b.take 8, modAt rs i (fun _ => b.drop 8))

def kwGo (rks : List Nat) (n t : Nat) (a : List Nat) (rs : List (List Nat)) : List Nat × List (List Nat) :=
  match t with
  | 0 => (a, rs)
  | k + 1 => let (a, rs) := kwStep rks n (k + 1) a rs; kwGo rks n k a rs

/-- AES Key Wrap undone: the 8n B inside 8n + 8 B, where the integrity check holds. -/
def kwUnwrap (n : Nat) (kek d : List Byte) : Option (List Byte) :=
  let ws := chunksOf 8 (d.map (·.toNat)) (n + 1)
  let (a, rs) := kwGo (roundKeys (kek.map (·.toNat))) n (6 * n) (ws.headD []) (ws.drop 1)
  if d.length = 8 * n + 8 && a == List.replicate 8 0xA6 then some ((rs.flatMap id).map (BitVec.ofNat 8)) else none

end Sys2Proof.Machine
end

