-- ==== Sys2Proof/Machine/Spare.lean ====
section
/-! DEFINITION. Units, fuses, the logbook and the spare map (R526 to R531), and the counts of spares (R510). -/

namespace Sys2Proof.Machine

/-! ## Units (R526) -/

/-- A unit as one number: class × 2^24 + UNIT. -/
def unitKey (c u : Nat) : Nat := c * 2 ^ 24 + u % 2 ^ 24
def unitClass (k : Nat) : Nat := k / 2 ^ 24
def unitNum (k : Nat) : Nat := k % 2 ^ 24

def modBoot (s : State) (f : BootSt → BootSt) : State := { s with boot := f s.boot }
def modPower (s : State) (f : PowerSt → PowerSt) : State := { s with power := f s.power }

/-! ## State copies (R530) -/

/-- The newer of the two state copies. -/
def logState (s : State) : LogState := if s.boot.copyA.seq < s.boot.copyB.seq then s.boot.copyB else s.boot.copyA

/-- Write a changed logbook state: the older copy takes it, with the next sequence number. -/
def modLog (s : State) (f : LogState → LogState) : State :=
  let n := { f (logState s) with seq := (logState s).seq + 1, mismatches := s.boot.mismatches }
  modBoot s (fun b => if b.copyA.seq < b.copyB.seq then { b with copyA := n } else { b with copyB := n })

/-! ## Fuses (R527) -/

/-- A wear-fuse entry: CLASS, UNIT and the CRC-8 of bits [39:8]. -/
def wearEntry (k : Nat) : Nat :=
  let v := unitClass k % 16 * 2 ^ 36 + unitNum k * 2 ^ 12
  v + crc8 (toBe 4 (v / 256)) % 256

/-- Whether an entry's CHECK holds. -/
def wearOk (e : Nat) : Bool := e % 256 == crc8 (toBe 4 (e / 256 % 2 ^ 32)) % 256

/-- Units that wear-fuse entries make unusable; an entry whose CHECK fails is ignored. -/
def burnedUnits (s : State) : List Nat := (s.boot.wear.filter wearOk).map (fun e => unitKey (bits e 39 36) (bits e 35 12))

/-- A unit is permanently unusable: factory or burned. -/
def permanent (s : State) (k : Nat) : Bool := s.boot.factory.contains k || (burnedUnits s).contains k

/-- A unit is unusable: factory, burned or soft (R527). -/
def unusable (s : State) (k : Nat) : Bool := permanent s k || (logState s).soft.contains k

/-- Unusable units of a class. -/
def unusableOf (s : State) (c : Nat) : List Nat :=
  ((s.boot.factory ++ burnedUnits s ++ (logState s).soft).eraseDups.filter (fun k => unitClass k == c)).map unitNum

/-- Usable units of a class in the order in which a start map takes them: a unit that a test of this start has lifted comes last, so that it is a
spare and does not take back its former place while others fill the map (R527, R528; DEDUCED log 173). -/
def liftedLast (s : State) (c : Nat) (l : List Nat) : List Nat :=
  let late := fun (u : Nat) => s.boot.lifted.contains (unitKey c u)
  l.filter (fun u => !late u) ++ l.filter late

/-! ## Records (R531) -/

/-- Types of logbook record. -/
def recStart : Nat := 1
def recEnd : Nat := 2
def recRepair : Nat := 3
def recBurn : Nat := 4
def recEvent : Nat := 5
def recTally : Nat := 6
def recLanes : Nat := 7

/-- A 64 B logbook record. -/
def logRecord (s : State) (type step result reason : Nat) (detail : List Byte) : List Byte :=
  let b := s.boot
  let d := toLe 2 0x4B4C ++ toLe 1 type ++ toLe 1 step ++ toLe 4 (b.logSeq % 2 ^ 32) ++ toLe 4 ((logState s).starts % 2 ^ 32)
    ++ toLe 1 (min b.attempt 255) ++ toLe 1 result ++ toLe 1 b.treatment ++ [0] ++ toLe 8 (if s.time.run then now s else 0)
    ++ toLe 2 reason ++ [0, 0] ++ padTo 0 32 detail
  d ++ toLe 4 (crc32 d)

/-- Append a record; a full area loses its oldest erase block of 1,024 records (R530). Records of POWER, CLOCK and FUSE are kept
in the buffer until ROM (R525). -/
def addRecord (s : State) (type step result reason : Nat) (detail : List Byte) : State :=
  let r := logRecord s type step result reason detail
  modBoot s (fun b =>
    let b := { b with logSeq := (b.logSeq + 1) % 2 ^ 32 }
    if step ≤ 2 then { b with buffer := b.buffer ++ [r] }
    else
      let l := b.log ++ b.buffer ++ [r]
      { b with log := if 491520 < l.length then l.drop 1024 else l, buffer := [] })

/-- An EVENT record: the code and DATA bytes 0 to 31. -/
def eventRecord (s : State) (code : Nat) (items : List (Nat × Nat)) : State := addRecord s recEvent 0xFF 0 code (packItems items)

/-! ## The spare map (R529) -/

/-- A spare-map entry: KIND 0 MAP, 1 UNUSABLE, 2 ABSENT; ORIGIN 0 factory, 1 wear fuse, 2 soft, 3 start map. -/
def mapEntry (cls kind origin logical unit : Nat) : Nat :=
  cls % 16 * 2 ^ 60 + kind * 2 ^ 58 + origin * 2 ^ 56 + logical % 65536 * 2 ^ 40 + unit % 2 ^ 24

/-- Put an entry into the spare map: it replaces the entry of the same class and logical number, or the entry of the same
unusable unit. At most 4,096 entries are kept. -/
def putMap (s : State) (e : Nat) : State :=
  let same := fun (x : Nat) => bits x 63 60 == bits e 63 60 && (bits x 59 58 == 1) == (bits e 59 58 == 1)
    && (if bits e 59 58 = 1 then bits x 23 0 == bits e 23 0 else bits x 55 40 == bits e 55 40)
  modLog s (fun l => { l with map := (l.map.filter (fun x => !same x) ++ [e]).take 4096 })

/-- A REPAIR record with the spare-map entry and the cause (R529, R531). -/
def repairRecord (s : State) (e cause : Nat) : State := addRecord (putMap s e) recRepair 0xFF 0 0 (toLe 8 e ++ toLe 1 cause)

/-- A soft entry: the unit is out of service from now on (R527). -/
def softEntry (s : State) (k : Nat) : State :=
  if unusable s k then s
  else putMap (modLog s (fun l => { l with soft := l.soft ++ [k] })) (mapEntry (unitClass k) 1 2 0xFFFF (unitNum k))

/-! ## Benches and their rows (R83, R528) -/

/-- Unusable rows of one bank of a physical bench (R526). -/
def badRows (out : List Nat) (pb bank : Nat) : List Nat := (out.filter (fun u => bits u 23 14 == pb && bits u 13 9 == bank)).map (fun u => u % 512)

/-- A physical bench is usable: neither it nor a third row of one of its banks is out (R83, R528). -/
def pbUsable (s : State) (pb : Nat) : Bool :=
  let out := unusableOf s 1
  !unusable s (unitKey 0 pb) && !s.boot.pbOut.contains pb && (List.range 20).all (fun b => decide ((badRows out pb b).length ≤ 2))

/-- Spare rows that the map of a physical bench uses, by bank. -/
def rowsUsed (s : State) (pb : Nat) : Tab Nat :=
  let out := unusableOf s 1
  (List.range 20).filterMap (fun b =>
    let n := (badRows out pb b).countP (fun x => decide (x < 256))
    if n = 0 then none else some (b, n))

/-- UNIT of a scratchpad row: physical bench, bank, row of the bank (R526). -/
def rowUnit (pb bank row : Nat) : Nat := pb * 2 ^ 14 + bank * 2 ^ 9 + row

/-- A bank has no spare row left. -/
def bankFull (s : State) (pb bank : Nat) : Bool := decide (2 ≤ (badRows (unusableOf s 1) pb bank).length)

/-! ## Counts of spares (R510) -/

/-- Physical benches that serve a logical bench. -/
def servingPbs (s : State) : List Nat := s.boot.phys.map Prod.snd

/-- TOTAL, IN_USE, LEFT and FAILED of a class of spare. IN_USE counts the delivered spares that serve. -/
def spareCounts (s : State) (c : Nat) : Nat × Nat × Nat × Nat :=
  let failed := (unusableOf s c).length
  match c with
  | 0 => (64, (servingPbs s).countP (fun p => p % 10 == 9),
      (List.range 640).countP (fun p => !(servingPbs s).contains p && !unusable s (unitKey 0 p) && !s.boot.pbOut.contains p), failed)
  | 1 =>
    let used := (s.benches.map (fun e => (e.2.sparesUsed.map Prod.snd).sum)).sum
    let lost := (unusableOf s 1).countP (fun u => decide (256 ≤ u % 512))
    (25600, used, 25600 - used - lost, failed)
  | 2 => (1, b2n (s.mem.stackMap.contains 8), b2n s.mem.spare.isSome, failed)
  | 3 =>
    let used := (s.mem.stk.map (fun e => e.2.remaps)).sum
    (36864, used, 36864 - used, 0)
  | 4 => (14, (s.board.ports.map (fun e => e.2.lanes.countP (fun l => decide (16 ≤ l)))).sum, (s.board.ports.map (fun e => e.2.spare.length)).sum, failed)
  | 5 =>
    let used := (s.board.sites.any (fun e => e.1 == 8 && e.2.serves.isSome && e.2.serves != some 8))
    (1, b2n used, b2n (!used && s.board.sites.any (fun e => e.1 == 8 && e.2.trained)), failed)
  | 6 => (1, s.cipher.place.countP (fun e => e.2 == 12), b2n s.cipher.spare.isSome, failed)
  | 7 => (2, s.boot.engines.countP (fun e => decide (8 ≤ e.2)),
      (List.range 10).countP (fun e => !(s.boot.engines.any (fun x => x.2 == e)) && !unusable s (unitKey 7 e)), failed)
  | 8 => (1, b2n s.host.mpStandby, b2n (!s.host.mpStandby && !unusable s (unitKey 8 1)), failed)
  | 9 => (8, s.power.phases.countP (fun p => decide (88 ≤ p)),
      (List.range 96).countP (fun p => !s.power.phases.contains p && !unusable s (unitKey 9 p)), failed)
  | 10 => (2048, s.boot.wear.length, 2048 - s.boot.wear.length, s.boot.wear.countP (fun e => !wearOk e))
  | _ =>
    let run := fun (n : Nat) => s.boot.runSlot == some n
    (2, b2n s.boot.runSlot.isSome, (List.range 2).countP (fun n => s.fw.hdrs.contains n && !run n), (List.range 2).countP (fun n => !s.fw.hdrs.contains n))

/-- Some class of spare has one unit left or none (R449, R510). -/
def sparesLow (s : State) : Bool := (List.range 12).any (fun c => decide ((spareCounts s c).2.2.1 ≤ 1))

/-- After a change: SPARES_LOW sets while its condition holds, once the module is READY. -/
def noteSpares (s : State) : State := if s.boot.ready && sparesLow s then setErr s 7 else s

/-- SPARES_LOW as `noteSpares` sets it, with an EVENT record of the event that raises it (R531). -/
def noteSparesBy (s : State) (code : Nat) (items : List (Nat × Nat)) : State :=
  if s.boot.ready && sparesLow s && !s.host.errBits.toNat.testBit 7 then setErr (eventRecord s code items) 7 else s

/-- A change of the map in service (R537): a soft entry for the failed unit, and a REPAIR record of what serves the logical number now. -/
def repairUnit (s : State) (cls unit logical : Nat) (by' : Option Nat) (cause : Nat) : State :=
  repairRecord (softEntry s (unitKey cls unit)) (mapEntry cls (if by'.isSome then 0 else 2) 2 logical (by'.getD unit)) cause

/-- A unit that no logical number has: a soft entry, and a REPAIR record that it is out of service. -/
def repairOut (s : State) (cls unit cause : Nat) : State :=
  repairRecord (softEntry s (unitKey cls unit)) (mapEntry cls 1 2 0xFFFF unit) cause

/-- Record an event that takes a spare, with its EVENT record (R531). -/
def spareEvent (s : State) (code : Nat) (items : List (Nat × Nat)) : State := noteSpares (eventRecord s code items)

end Sys2Proof.Machine
end

