-- ==== Sys2Proof/Machine/Sweeps.lean ====
section
/-! DEFINITION. Sweeps of self-test in service (R541 to R543, R554): the units of a class that are left to test, the end of a
sweep, and a test that a repair abandons (R552, R553). -/

namespace Sys2Proof.Machine

def modSelf (s : State) (f : SelfSt → SelfSt) : State := { s with self := f s.self }

/-- Sweep k: 0 benches, 1 cipher cores, 2 link items. -/
def getSweep (s : State) (k : Nat) : Sweep := match k with | 0 => s.self.bench | 1 => s.self.cipher | _ => s.self.links

def modSweep (s : State) (k : Nat) (f : Sweep → Sweep) : State :=
  modSelf s (fun x => match k with | 0 => { x with bench := f x.bench } | 1 => { x with cipher := f x.cipher } | _ => { x with links := f x.links })

/-- Units that a pass of sweep k visits (R541, R542). -/
def sweepSize (k : Nat) : Nat := match k with | 0 => 640 | 1 => 13 | _ => 16

/-- CLASS that the end of a sweep carries: link items go under board lanes (R554). -/
def sweepClass (k : Nat) : Nat := match k with | 0 => 0 | 1 => 6 | _ => 4

/-- Free usable spare wires of a link, by UNIT (R526). -/
def spareWires (s : State) (link : Nat) : List Nat :=
  let out := unusableOf s 12
  ((List.range 2).flatMap (fun d => span ((2 * link + d) * 1024 + 512) 16)).filter (fun u => !out.contains u && !s.boot.wires.any (fun e => e.2 == u))

/-- Whether a link item has something left to test: spare lanes of a port that carries, whose test this module starts as the lower
slot; spare wires; SP8 while it is the spare (R542, R552). -/
def linkTestable (s : State) (u : Nat) : Bool :=
  if u < 7 then
    let p := Tab.get BPort.reset s.board.ports u
    (p.st == .up || p.st == .degraded) && !p.spare.isEmpty && decide (s.board.slotId < s.board.slotId ^^^ (u + 1))
  else if u < 15 then !(spareWires s (u - 7)).isEmpty
  else let p := Tab.get SPort.reset s.board.sites 8; p.trained && p.serves.isNone

/-- Whether a unit of sweep k is left to test. -/
def sweepUsable (s : State) (k u : Nat) : Bool :=
  match k with
  | 0 => !unusable s (unitKey 0 u)
  | 1 => !s.cipher.bad.contains u && !unusable s (unitKey 6 u)
  | _ => linkTestable s u

/-- The next unit of sweep k that is left to test in this pass. -/
def nextUnit (s : State) (k : Nat) : Option Nat :=
  let n := (getSweep s k).next
  (span n (sweepSize k - n)).find? (sweepUsable s k)

/-- Corrected-error counts start again (R543). -/
def restartCounts (s : State) : State := { s with benches := Tab.mapAll s.benches (fun _ b => { b with rowErrs := [] }) }

/-- The end of a sweep, once no unit of its pass is left: SELFTEST_SWEEP_DONE with its counts, which start again, as do a bench
sweep's corrected-error counts (R543, R554). -/
def closeSweep (s : State) (k : Nat) : State :=
  let w := getSweep s k
  if w.next = 0 || (nextUnit s k).isSome then s
  else
    let s := raisePf s 0x0442 (sourceId s srcMp) [(1, sweepClass k), (4, w.sweep), (2, w.tested), (2, w.failed), (2, w.skipped), (2, w.abandoned)]
    let s := modSweep s k (fun w => ⟨(w.sweep + 1) % 2 ^ 32, 0, 0, 0, 0, 0⟩)
    if k = 0 then restartCounts s else s

def countTested (s : State) (k : Nat) (failed : Bool) : State :=
  modSweep s k (fun w => { w with tested := satAdd 16 w.tested 1, failed := satAdd 16 w.failed (if failed then 1 else 0) })
def countSkipped (s : State) (k : Nat) : State := modSweep s k (fun w => { w with skipped := satAdd 16 w.skipped 1 })
def countAbandoned (s : State) (k : Nat) : State := modSweep s k (fun w => { w with abandoned := satAdd 16 w.abandoned 1 })

/-- A repair needs a spare of link item u: a test of it is abandoned at once (R552). -/
def abandonLink (s : State) (u : Nat) : State :=
  if s.self.link = some u then closeSweep (countAbandoned (modSelf s (fun x => { x with link := none })) 2) 2 else s

/-- A failed core needs the free spare while the spare is under test: the test is abandoned. -/
def abandonSpareCore (s : State) : State :=
  match s.cipher.testing with
  | some (_, 12) => closeSweep (countAbandoned { s with cipher := { s.cipher with testing := none } } 1) 1
  | _ => s

end Sys2Proof.Machine
end

