-- ==== Sys2Proof/Machine/Cipher.lean ====
section
/-! DEFINITION. The cipher engine: cores and the scheduler (R394 to R397), modes (R398, R399), the second-core check of
stored objects (R400), key slots and generations (R401 to R410), and the clearing of secrets (R414 to R416). -/

namespace Sys2Proof.Machine

/-! ## Slots -/

def getSlot (s : State) (n : Nat) : KeySlot := Tab.get KeySlot.reset s.cipher.slots n
def modCipher (s : State) (f : CipherSt → CipherSt) : State := { s with cipher := f s.cipher }
def modSlot (s : State) (n : Nat) (f : KeySlot → KeySlot) : State :=
  modCipher s (fun c => { c with slots := Tab.mod KeySlot.reset c.slots n f })

/-- The partition of a slot; none for the physical function. -/
def slotPart (k : KeySlot) : Option Nat := if k.part = 0xFF then none else some k.part

/-- A cipher event that names a slot: slot and KEY_ID (R417). -/
def raiseKey (s : State) (code n : Nat) : State :=
  let k := getSlot s n
  raisePart s (slotPart k) code (sourceId s srcMp) [(2, n), (4, (k.cur.map Prod.snd).getD 0)]

/-- RANDOM of a salt: 15 free bits (R407, log 27). -/
def drawSalt (s : State) : Nat × State := ((Config.freeLong s.freeCtr).toNat % 2 ^ 15, bumpFree s)

/-- CURRENT begins a generation: a new salt, counter 0, the stamp (R403, R407). -/
def newGeneration (s : State) (n : Nat) : State :=
  let (r, s) := drawSalt s
  modSlot s n (fun k => { k with random := r, sent := 0, activated := now s, st := 1, due := false })

/-- ACTIVATE: CURRENT to PREVIOUS, NEXT to CURRENT, with the opposite parity (R403). -/
def activateSlot (s : State) (n : Nat) : State :=
  newGeneration (modSlot s n (fun k => { k with prev := k.cur, cur := k.next, next := none, gen := !k.gen })) n

/-- A generation has come to its end: 2^32 nonces, or 24 h (R409). -/
def genOver (s : State) (k : KeySlot) : Bool := decide (2 ^ 32 ≤ k.sent ∨ k.activated + 86400000000000 ≤ now s)
def genDue (s : State) (k : KeySlot) : Bool := decide (2 ^ 31 ≤ k.sent ∨ k.activated + 72000000000000 ≤ now s)

/-- The end of a generation: NEXT is activated, or the slot expires (R409). -/
def expireSlot (s : State) (n : Nat) : State :=
  let k := getSlot s n
  if k.st = 1 && genOver s k then
    if k.next.isSome then activateSlot s n else raiseKey (modSlot s n (fun k => { k with st := 2 })) 0x03C4 n
  else s

/-- KEY_REKEY_DUE once in a generation (R409). -/
def rekeyDue (s : State) (n : Nat) : State :=
  let k := getSlot s n
  if k.st = 1 && !k.due && genDue s k then raiseKey (modSlot s n (fun k => { k with due := true })) 0x03C3 n else s

/-- PREVIOUS is erased 60 s after the activation (R403). -/
def erasePrevious (s : State) (n : Nat) : State :=
  let k := getSlot s n
  if k.prev.isSome && decide (k.activated + 60000000000 ≤ now s) then modSlot s n (fun k => { k with prev := none }) else s

/-- ERASE: every key of a slot is zeroed (R403). -/
def eraseSlot (s : State) (n : Nat) : State := modSlot s n (fun k => { KeySlot.reset with use := k.use, part := k.part })

/-- Zero every slot of a partition (R406). -/
def erasePartKeys (s : State) (p : Nat) : State :=
  modCipher s (fun c => { c with slots := c.slots.filter (fun e => e.2.part != p) })

/-- Clear the whole key store (R406, R416): every slot becomes EMPTY, and KEYS_CLEARED is raised. -/
def clearKeys (s : State) : State :=
  raisePf (modCipher s (fun c => { c with slots := [], cleared := List.range 14 })) 0x03C7 (sourceId s srcMp) []

def execKeyPreviousErase (slot : Nat) (s : State) : Host.Outcome State Fault Refusal := done (erasePrevious s slot)
def execKeyRekeyDue (slot : Nat) (s : State) : Host.Outcome State Fault Refusal := done (rekeyDue s slot)
def execKeyExpired (slot : Nat) (s : State) : Host.Outcome State Fault Refusal := done (expireSlot s slot)

/-! ## Random bits (R410) -/

/-- A health test of the entropy source fails. -/
def execCipherRngFault (s : State) : Host.Outcome State Fault Refusal :=
  done (if s.cipher.rngOk then raisePf (modCipher s (fun c => { c with rngOk := false })) 0x03C5 (sourceId s srcMp) [] else s)

/-- The source passes its health tests again. -/
def execRngHealthRestored (s : State) : Host.Outcome State Fault Refusal := done (modCipher s (fun c => { c with rngOk := true }))

/-! ## Nonces (R407, R408) -/

/-- REPLICA of the salt: that of the partition's job, 0 for a module in no job. -/
def saltReplica (s : State) (k : KeySlot) : Nat :=
  if k.part = 0xFF then 0
  else match (List.range 2).find? (fun c => (getJob s (k.part * 2 + c)).phase != .closed) with
    | some c => (getJob s (k.part * 2 + c)).policy.replica
    | none => 0

/-- The salt of CURRENT. -/
def saltOf (s : State) (k : KeySlot) (dir : Bool) : Nat :=
  b2n k.gen * 2 ^ 31 + b2n (dir && k.use == 1) * 2 ^ 30 + saltReplica s k % 4096 * 2 ^ 18 + s.board.slotId % 8 * 2 ^ 15 + k.random % 2 ^ 15

/-- Issue the next nonce of a slot: the twelve bytes and the key. None where the slot issues none now. -/
def issueNonce (s : State) (n : Nat) (dir : Bool) : State × Option (List Byte × List Byte) :=
  let s := expireSlot s n
  let k := getSlot s n
  match k.st, k.cur with
  | 1, some (key, _) =>
    let nonce := toBe 4 (saltOf s k dir) ++ toBe 8 k.sent
    (rekeyDue (modSlot s n (fun k => { k with sent := k.sent + 1 })) n, some (nonce, key))
  | _, _ => (s, none)

/-- The key whose parity a salt names, from CURRENT, NEXT, PREVIOUS (R410). -/
def keyFor (k : KeySlot) (gen : Bool) : Option (List Byte) :=
  if k.gen = gen then k.cur.map Prod.fst
  else match k.next with
    | some x => some x.1
    | none => k.prev.map Prod.fst

/-! ## Cores (R394 to R397) -/

/-- Deal an operation to the next active position by the rotating rule; none where every position is empty. -/
def pickCore (s : State) (enc : Bool) : Option (Nat × Nat) :=
  let c := s.cipher
  (rotatePick 12 (if enc then c.encPtr else c.decPtr) (fun p => (Tab.find c.place p).isSome)).map (fun p => (p, Tab.get 0 c.place p))

/-- The operation runs on a core, which loads a key: its CLEARED falls, and that of the key store (R414). -/
def useCore (s : State) (enc : Bool) (pc : Nat × Nat) : State :=
  modCipher s (fun c =>
    let c := { c with cleared := c.cleared.filter (fun x => x != pc.2 && x != 13) }
    if enc then { c with encPtr := (pc.1 + 1) % 12 } else { c with decPtr := (pc.1 + 1) % 12 })

/-- A core becomes unusable: the free spare takes its position, or the position stays empty (R397). -/
def dropCore (s : State) (core : Nat) : State :=
  let s := modCipher s (fun c => { c with bad := insertNat c.bad core, spare := if c.spare = some core then none else c.spare })
  match s.cipher.place.find? (fun e => e.2 == core) with
  | none => noteSpares (repairOut s 6 core 5)
  | some e =>
    match s.cipher.spare with
    | some x =>
      let s := abandonSpareCore s
      let items := [(1, e.1), (1, core), (1, x)]
      let s := modCipher (repairUnit s 6 core e.1 (some x) 5) (fun c => { c with place := Tab.set c.place e.1 x, spare := none })
      raisePf (noteSparesBy s 0x03C0 items) 0x03C0 (sourceId s srcMp) items
    | none =>
      let items := [(1, e.1), (1, core)]
      let full := s.cipher.place.length = 12
      let s := modCipher (repairUnit s 6 core e.1 none 5) (fun c => { c with place := Tab.del c.place e.1 })
      raisePf (noteSparesBy (if full then fireErr s 6 else s) 0x03C1 items) 0x03C1 (sourceId s srcMp) items

/-! ## Operations (R398 to R400) -/

def isGcm (use : Nat) : Bool := use == 1 || use == 2

/-- Seal under a slot: nonce, ciphertext and tag; none where the slot issues no nonce now (R398, R408). -/
def sealSlot (s : State) (n : Nat) (dir : Bool) (aad : List Byte → List Byte) (d : List Byte) : State × Option (List Byte × List Byte × List Byte) :=
  match issueNonce s n dir with
  | (s, none) => (s, none)
  | (s, some (nonce, key)) =>
    let (ct, tag) := gcmSeal key nonce (aad nonce) d
    (s, some (nonce, ct, tag))

/-- Open under a slot: none where no held key has the parity, or the tag fails (R398, R410). -/
def openSlotGcm (s : State) (n : Nat) (nonce aad ct tag : List Byte) : Option (List Byte) :=
  match keyFor (getSlot s n) (bit ((nonce.getD 0 0).toNat) 7) with
  | some key => gcmOpen key nonce aad ct tag
  | none => none

/-- Bytes that the spec leaves open, one free value each (log 4). -/
def freeBytes (s : State) (n : Nat) : List Byte := (List.range n).map (fun k => (Config.freeLong (s.freeCtr + k)).setWidth 8)

/-- What a stored-object mode gives: a CBC length that is not a multiple of 16 B is unpredictable (R399, R418), so its
bytes are free. -/
def storeRun (s : State) (enc : Bool) (use : Nat) (key nonce d : List Byte) : List Byte :=
  if (use == 4 || use == 6) && d.length % 16 != 0 then freeBytes s d.length
  else if enc then storeEnc use key nonce d else storeDec use key nonce d

/-- Encrypt a stored object under a slot: nonce and ciphertext (R399). -/
def storeSlot (s : State) (n : Nat) (d : List Byte) : State × Option (List Byte × List Byte) :=
  let use := (getSlot s n).use
  match issueNonce s n false with
  | (s, none) => (s, none)
  | (s, some (nonce, key)) => ({ s with freeCtr := s.freeCtr + d.length }, some (nonce, storeRun s true use key nonce d))

def latch (s : State) (o : CipherOut) : State := modCipher s (fun c => { c with reply := o })

/-- An encrypt operation. `faulty` says that the encrypting core's output of a stored object does not decrypt to the
plaintext on the second core: a third core then encrypts it, and the first is due for a self-test slice (R400). An
operation whose slot issues no nonce, or that finds no core, waits. -/
def doEncrypt (n : Nat) (dir : Bool) (aad d : List Byte) (faulty : Bool) (s : State) : State :=
  let k := getSlot s n
  match pickCore s true with
  | none => s
  | some pc =>
    if isGcm k.use then
      match sealSlot s n dir (fun _ => aad) d with
      | (s, none) => s
      | (s, some (nonce, ct, tag)) => latch (useCore s true pc) ⟨nonce, ct, tag, true⟩
    else if 3 ≤ k.use && k.use ≤ 5 then
      match storeSlot s n d with
      | (s, none) => s
      | (s, some (nonce, ct)) =>
        let s := useCore s true pc
        let s := match pickCore s false with | some q => useCore s false q | none => s
        let s := if faulty then
            let s := match pickCore s true with | some q => useCore s true q | none => s
            let s := modCipher s (fun c => { c with testDue := if c.testDue.contains pc.2 then c.testDue else c.testDue ++ [pc.2] })
            raisePart s (slotPart k) 0x03C2 (sourceId s srcMp) [(2, n), (4, (k.cur.map Prod.snd).getD 0)]
          else s
        latch s ⟨nonce, ct, [], true⟩
    else s

def execCipherEncryptOp (slot : Nat) (dir : Bool) (aad data : List Byte) (faulty : Bool) (s : State) : Host.Outcome State Fault Refusal :=
  done (doEncrypt slot dir aad data faulty s)

/-- A decrypt operation: a GCM operation releases nothing where its tag fails (R398). -/
def doDecrypt (n : Nat) (nonce aad d tag : List Byte) (s : State) : State :=
  let k := getSlot s n
  match pickCore s false with
  | none => s
  | some pc =>
    let s := useCore s false pc
    if isGcm k.use then
      match openSlotGcm s n nonce aad d tag with
      | some pt => latch s ⟨nonce, pt, tag, true⟩
      | none => latch s ⟨nonce, [], tag, false⟩
    else
      match keyFor k (bit ((nonce.getD 0 0).toNat) 7) with
      | some key => latch { s with freeCtr := s.freeCtr + d.length } ⟨nonce, storeRun s false k.use key nonce d, [], true⟩
      | none => latch s ⟨nonce, [], [], false⟩

def execCipherDecryptOp (slot : Nat) (nonce aad data tag : List Byte) (s : State) : Host.Outcome State Fault Refusal :=
  done (doDecrypt slot nonce aad data tag s)

end Sys2Proof.Machine
end

