-- ==== Sys2Proof/Machine/Frames.lean ====
section
/-! DEFINITION. Fabric frames as they leave the module (R430, R431): flits of board ports with their replay buffer (R424, R425), the
relay of R422, path sets and flows of site ports (R434 to R436). -/

namespace Sys2Proof.Machine

/-! ## Ports -/

def getPort (s : State) (k : Nat) : BPort := Tab.get BPort.reset s.board.ports k
def modPort (s : State) (k : Nat) (f : BPort → BPort) : State := { s with board := { s.board with ports := Tab.mod BPort.reset s.board.ports k f } }
def getSite (s : State) (k : Nat) : SPort := Tab.get SPort.reset s.board.sites k
def modSite (s : State) (k : Nat) (f : SPort → SPort) : State := { s with board := { s.board with sites := Tab.mod SPort.reset s.board.sites k f } }

/-- A port in any state but UP or DEGRADED carries no frame (R421). -/
def carries (p : BPort) : Bool := p.st == .up || p.st == .degraded

/-- The port to a slot, and the slot behind a port (R420). -/
def portTo (s : State) (slot : Nat) : Nat := (s.board.slotId ^^^ slot) - 1
def slotBehind (s : State) (k : Nat) : Nat := s.board.slotId ^^^ (k + 1)

/-- The open primary job with a JOB_TAG (R430). -/
def jobOfTag (s : State) (tag : Nat) : Option Nat :=
  [0, 2, 4, 6].find? (fun jk => (getJob s jk).phase != .closed && (getJob s jk).tag == tag)

/-! ## Frames -/

def typeTile : Nat := 1
def typeCredit : Nat := 2
def typeRecord : Nat := 3
def typeStock : Nat := 4
def typeTime : Nat := 5
def typeAck : Nat := 6
def typeControl : Nat := 7

/-- The 40 B header, in network byte order (R430). The last twelve bytes are the salt and the counter of the nonce. -/
def frameHeader (type flags chan tag src dst len seq : Nat) (nonce : List Byte) : List Byte :=
  toBe 1 1 ++ toBe 1 type ++ toBe 1 flags ++ toBe 1 chan ++ toBe 4 tag ++ toBe 4 src ++ toBe 4 dst ++ toBe 2 len ++ toBe 2 0 ++ toBe 8 seq ++ padTo 0 12 nonce

/-- A body in pieces that a frame can hold: at most 8,904 B, and whole conveyor words in a TILE frame. -/
def framePieces (type : Nat) (d : List Byte) : List (List Byte) :=
  if d.isEmpty then [[]] else chunksOf (if type = typeTile then 8844 else 8904) d (d.length + 1)

/-! ## Board ports (R424, R425) -/

/-- A 512 B flit. -/
def flitBytes (fseq fack type flags : Nat) (payload : List Byte) : List Byte :=
  let d := toBe 2 fseq ++ toBe 2 fack ++ toBe 1 type ++ toBe 1 flags ++ [0, 0] ++ padTo 0 496 payload
  d ++ toBe 8 (crc64 d)

/-- FSEQ of the latest flit received in order. -/
def fackOf (p : BPort) : Nat := (p.rxNext + 65535) % 65536

/-- One flit of data takes its number and its place in the replay buffer, and leaves unless the port retrains or 4,096 flits wait. -/
def sendFlit (s : State) (k : Nat) (sof : Bool) (payload : List Byte) : State :=
  let p := getPort s k
  let d := flitBytes p.txNext (fackOf p) 1 (b2n sof) payload
  let go := !p.retrain && decide (p.replay.length < 4096)
  let s := modPort s k (fun p => { p with txNext := (p.txNext + 1) % 65536, replay := p.replay ++ [(p.txNext, d)] })
  if go then emit s .flit k [p.txNext] d else s

/-- The flits of one frame; a frame begins at payload byte 0 of its first flit. -/
def sendOnPort (s : State) (k : Nat) (frame : List Byte) : State :=
  ((chunksOf 496 frame (frame.length + 1)).zipIdx).foldl (fun s d => sendFlit s k (d.2 == 0) d.1) s

/-- The port that a frame for a slot takes, and whether it is relayed: the direct port, or that of the lowest other slot while
the direct port is DOWN and the type may be relayed (R422). -/
def boardRoute (s : State) (slot type : Nat) : Option (Nat × Bool) :=
  let k := portTo s slot
  if carries (getPort s k) then some (k, false)
  else if (getPort s k).st == .down && (type == typeRecord || type == typeControl || type == typeAck || type == typeTime) then
    ((List.range 8).find? (fun r => r != s.board.slotId && r != slot && carries (getPort s (portTo s r)))).map (fun r => (portTo s r, true))
  else none

/-- A frame for a module of the board. -/
def boardFrame (s : State) (slot type tag : Nat) (d : List Byte) : State :=
  if slot = s.board.slotId then s
  else match boardRoute s slot type with
    | none => s
    | some (k, relayed) => sendOnPort s k (frameHeader type (if relayed then 64 else 0) 0 tag s.board.slotId slot d.length 0 [] ++ d)

/-! ## Site ports: path sets and flows (R433 to R436) -/

/-- The port that serves a position of the path sets. -/
def portAt (s : State) (k : Nat) : Option Nat := (List.range 9).find? (fun n => (getSite s n).serves == some k)

/-- ENABLE and PARTS of a position's path entry. -/
def entryFor (s : State) (k p : Nat) : Bool := bit (fieldLe (getSite s k).entry 1 1) 0 && bit (fieldLe (getSite s k).entry 2 1) p

/-- The path set of a partition: its UP positions in ascending order (R435). -/
def pathSet (s : State) (p : Nat) : List Nat :=
  (List.range 9).filter (fun k => entryFor s k p && (match portAt s k with | some n => (getSite s n).st == .up || (getSite s n).st == .degraded | none => false))

/-- The position that a flow to a peer takes now; none without an UP port. -/
def flowPort (s : State) (p peer chan : Nat) : Option Nat :=
  let l := pathSet s p
  if l.isEmpty then none else l[(peer + chan) % l.length]?

def newFlow (peer chan tag : Nat) : Flow :=
  { peer := peer, chan := chan, tag := tag, port := 0, txSeq := 0, unacked := [], down := false, downSince := none, rxBase := 0, rxHeld := [] }

def sameFlow (peer chan tag : Nat) (f : Flow) : Bool := f.peer == peer && f.chan == chan && f.tag == tag
def getFlow (s : State) (peer chan tag : Nat) : Flow := (s.board.flows.find? (sameFlow peer chan tag)).getD (newFlow peer chan tag)
def setFlow (s : State) (f : Flow) : State :=
  { s with board := { s.board with flows := s.board.flows.filter (fun g => !sameFlow f.peer f.chan f.tag g) ++ [f] } }

/-- Stamp of a frame that has not left yet. -/
def notSent : Nat := 2 ^ 64

/-- The SITE_LINK_GCM slot of a partition: the ACTIVE one, else any (R401). -/
def linkSlot (s : State) (p : Nat) : Option Nat :=
  let mine := s.cipher.slots.filter (fun e => e.2.use == 2 && e.2.part == p)
  match mine.find? (fun e => e.2.st == 1) with
  | some e => some e.1
  | none => (mine.head?).map (fun e => e.1)

/-- FLAGS.TRUST_FIBRE of the sending job's policy (R336, R413). -/
def trustsFibre (j : Job) : Bool := (j.round.policy.map (fun q => bit q.flags 0)).getD false

/-- Put a frame of a flow on its port: encrypted with a fresh nonce (R431, R436), in cleartext where R413 allows it, lost where the slot is
EMPTY (R406). Answers whether it is on its way; it waits while the slot is EXPIRED. -/
def putFrame (s : State) (f : Flow) (h : HeldFrame) : State × Bool :=
  match jobOfTag s f.tag with
  | none => (s, false)
  | some jk =>
    let src := fieldLe (getSite s f.port).entry 0x28 4
    let st := ((linkSlot s (jk / 2)).map (fun n => (getSlot (expireSlot s n) n).st)).getD 0
    let clear := frameHeader h.type 128 f.chan f.tag src f.peer h.body.length h.seq [] ++ h.body ++ List.replicate 16 0
    if st != 1 && trustsFibre (getJob s jk) then (emit s .frame f.peer [f.port, h.seq] clear, true)
    else if st = 0 then (s, true)
    else match linkSlot s (jk / 2) with
      | none => (s, true)
      | some n =>
        let head := frameHeader h.type 0 f.chan f.tag src f.peer h.body.length h.seq
        match sealSlot s n false head h.body with
        | (s, none) => (s, false)
        | (s, some (nonce, ct, tag)) => (emit s .frame f.peer [f.port, h.seq] (head nonce ++ ct ++ tag), true)

/-- Send the frames of a flow that have not left and lie in its window of 64, while a port is UP. -/
def pumpFlow (s : State) (peer chan tag fuel : Nat) : State :=
  match fuel with
  | 0 => s
  | n + 1 =>
    let f := getFlow s peer chan tag
    let p := ((jobOfTag s tag).getD 0) / 2
    match flowPort s p peer chan, (f.unacked.take 64).findIdx? (fun h => h.sent == notSent) with
    | some port, some i =>
      let f := if i = 0 then { f with port := port } else f
      match f.unacked[i]? with
      | none => s
      | some h =>
        match putFrame (setFlow s f) f { h with port := f.port } with
        | (s, false) => s
        | (s, true) => pumpFlow (setFlow s { f with unacked := modAt f.unacked i (fun h => { h with sent := now s, port := f.port }) }) peer chan tag n
    | _, _ => s

/-- A frame for a module of another board of the site. -/
def siteFrame (s : State) (peer type tag : Nat) (d : List Byte) : State :=
  let f := getFlow s peer 0 tag
  let s := setFlow s { f with txSeq := f.txSeq + 1, unacked := f.unacked ++ [⟨f.txSeq, type, d, notSent, 0, f.port⟩] }
  pumpFlow s peer 0 tag 64

/-! ## What a unit sends -/

/-- TYPE of the frame that carries a message. -/
def frameType (k : MsgKind) : Nat :=
  match k with
  | .tile => typeTile
  | .credit => typeCredit
  | .hold => typeCredit
  | .release => typeCredit
  | .record => typeRecord
  | .time => typeTime
  | .stockpile => typeStock
  | .stockpileRequest => typeStock
  | .stockpileReply => typeStock
  | .stockpileReduced => typeStock
  | .frameAck => typeAck
  | _ => typeControl

/-- Send a message of a job, or of the module with tag 0, to a module by its site module number: those below 8 are slots of the
board (R430). A control message has its items as body, 4 B each (log 38). -/
def sendFrame (s : State) (k : MsgKind) (dst : Nat) (tag : Nat) (args : List Nat) (d : List Byte) : State :=
  let s := emit s k dst (tag :: args) d
  let body := if d.isEmpty then args.flatMap (toBe 4) else d
  if dst = 0xFFFFFFFF then s
  else (framePieces (frameType k) body).foldl (fun s b =>
    if dst < 8 then boardFrame s dst (frameType k) tag b else siteFrame s dst (frameType k) tag b) s

end Sys2Proof.Machine
end

