-- ==== Sys2Proof/Machine/Conv.lean ====
section
/-! DEFINITION. Conveyors: words and parity (R213 to R216), slots (R218 to R220), holds (R222), allocation, freeing and
the sending of a tile (R91, R224, R232). -/

namespace Sys2Proof.Machine

/-! ## Words -/

/-- A conveyor word: its 16 bits of metadata and its 64 B payload. -/
abbrev CWord := Nat × List Byte

/-- The exclusive OR of the 64 bits of eight bytes (R214). -/
def parityOf (d : List Byte) : Nat := (d.foldl (fun n b => n + (List.range 8).countP (fun k => b.toNat.testBit k)) 0) % 2

/-- PAR of a payload (R214). -/
def parByte (d : List Byte) : Nat := (List.range 8).foldl (fun n k => n + parityOf ((d.drop (8 * k)).take 8) * 2 ^ k) 0

/-- Metadata of a word as its writer makes it (R213). -/
def mkMeta (d : List Byte) (desc fin poison : Bool) : Nat := parByte d * 256 + b2n desc * 128 + b2n fin * 64 + b2n poison * 32

def metaDesc (m : Nat) : Bool := bit m 7
def metaEnd (m : Nat) : Bool := bit m 6
def metaPoison (m : Nat) : Bool := bit m 5
/-- Whether a word passes its parity check (R215). -/
def parityOk (w : CWord) : Bool := bits w.1 15 8 == parByte w.2

/-- Words per tile of a conveyor (R49, R218). -/
def convWords (d : ConvDesc) : Nat := tileWords d.format d.block d.rows d.cols

/-- The payload of the descriptor word (R216). -/
def descPayload (d : ConvDesc) (tensor step pass ti tj slot : Nat) (probe : Bool) (conv source : Nat) : List Byte :=
  toLe 4 tensor ++ toLe 4 step ++ toLe 2 pass ++ toLe 2 ti ++ toLe 2 tj ++ toLe 1 slot ++ toLe 1 (b2n probe)
    ++ toLe 2 (convWords d - 1) ++ toLe 1 d.format ++ toLe 1 d.block ++ toLe 2 d.rows ++ toLe 2 d.cols ++ toLe 2 conv ++ toLe 2 source
    ++ List.replicate 36 0

/-- Coordinates in a descriptor word: tensor, step, pass, i, j, slot, probe (R216). -/
structure Coords where
  tensor : Nat
  step : Nat
  pass : Nat
  ti : Nat
  tj : Nat
  slot : Nat
  probe : Bool
deriving DecidableEq, Repr

def coordsOf (p : List Byte) : Coords :=
  ⟨fieldLe p 0 4, fieldLe p 4 4, fieldLe p 8 2, fieldLe p 0xA 2, fieldLe p 0xC 2, fieldLe p 0xE 1, bit (fieldLe p 0xF 1) 0⟩

/-- Whether a landed tile's words are framed as its conveyor requires (R217). -/
def framedOk (d : ConvDesc) (ws : List CWord) : Bool :=
  match ws with
  | [] => false
  | h :: r =>
    metaDesc h.1 && r.all (fun w => !metaDesc w.1) && (ws.dropLast).all (fun w => !metaEnd w.1) && (ws.getLast?.map (fun w => metaEnd w.1)).getD false
      && fieldLe h.2 0x10 2 == convWords d - 1 && ws.length == convWords d
      && fieldLe h.2 0x12 1 == d.format && fieldLe h.2 0x13 1 == d.block && fieldLe h.2 0x14 2 == d.rows && fieldLe h.2 0x16 2 == d.cols

/-! ## Slots -/

/-- External kind of a conveyor's end (R46). -/
def extKind (d : ConvDesc) : Nat := bits d.ext 7 6
def extIndex (d : ConvDesc) : Nat := bits d.ext 5 0
/-- An outgoing board conveyor (R232). -/
def isOutgoing (d : ConvDesc) : Bool := d.consumer == 0xFFFF && extKind d == 2
/-- An incoming board conveyor. -/
def isIncoming (d : ConvDesc) : Bool := d.producer == 0xFFFF && extKind d == 2

/-- Bytes of a conveyor's reservation on each present bench of the consumer's group (R51). -/
def shareBytes (d : ConvDesc) (n : Nat) : Nat := if n = 0 then 0 else roundUp (ceilDiv (d.capacity * convWords d * 64) n) 64

/-- Present benches of the consumer's group of a conveyor whose slots lie in scratchpads, less those that lost theirs (R225). -/
def storeBenches (s : State) (jk k : Nat) (d : ConvDesc) : List Nat :=
  match stationOf s jk d.consumer with
  | none => []
  | some st => (presentGroup s (jk / 2) st).filter (fun lb => !(getConv s jk k).lostLbs.contains lb)

/-- Benches over which the reservation was spread: those present, and those whose slots are lost since. -/
def spreadCount (s : State) (jk k : Nat) (d : ConvDesc) : Nat := (storeBenches s jk k d).length + (getConv s jk k).lostLbs.length

/-- Slots of one bench (R218). -/
def slotsPerBench (s : State) (jk k : Nat) (d : ConvDesc) : Nat := shareBytes d (spreadCount s jk k d) / 64 / convWords d

/-- SLOTS, the effective capacity (R218, R225). -/
def convSlots (s : State) (jk k : Nat) (d : ConvDesc) : Nat :=
  if d.store = 1 then d.capacity else min d.capacity (slotsPerBench s jk k d * (storeBenches s jk k d).length)

def convOcc (c : Conv) : Nat := c.slots.length
def convReady (c : Conv) : Nat := (c.slots.filter (fun x => x.landed && !x.joined)).length

/-- Station-region offset of the share of conveyor k on a bench (R51): C0's shares upward from 0 and C1's downward from
0x08_0000, in ascending conveyor index over the conveyors stored on that bench. -/
def shareOffset (s : State) (jk k lb : Nat) : Nat :=
  match (getJob s jk).image with
  | none => 0
  | some im =>
    let mine := fun (d : ConvDesc) => d.store == 0 && d.consumer != 0xFFFF &&
      ((im.stations[d.consumer]?).map (fun st => (groupOf s (jk / 2) st).contains lb)).getD false
    let n := fun (q : Nat) (d : ConvDesc) => shareBytes d (spreadCount s jk q d)
    let before := (im.conveyors.zipIdx.filter (fun dq => decide (dq.2 < k) && mine dq.1)).foldl (fun t dq => t + n dq.2 dq.1) 0
    if jk % 2 = 0 then before
    else match im.conveyors[k]? with
      | none => 0
      | some d => 0x80000 - before - n k d

/-- The slots of a conveyor that are free now: home and word or slot number, ascending by bench, then by place. -/
def freeSlots (s : State) (jk k : Nat) (d : ConvDesc) : List (Nat × Nat) :=
  let c := getConv s jk k
  let w := convWords d
  let all := if d.store = 1 then (List.range d.capacity).map (fun n => (0x3FF, n))
    else (storeBenches s jk k d).flatMap (fun lb =>
      (List.range (slotsPerBench s jk k d)).map (fun n => (lb, shareOffset s jk k lb / 64 + n * w)))
  all.filter (fun p => !(c.slots.any (fun x => x.home == p.1 && x.word == p.2))
    && (p.1 == 0x3FF || (let b := getBench s p.1; !b.failed && !b.quarantined && !b.withdrawn)))

/-- First byte of a slot (R219). -/
def slotAddr (s : State) (jk : Nat) (d : ConvDesc) (home word : Nat) : Nat :=
  if home = 0x3FF then
    (((getJob s jk).image.bind (fun im => im.buffers[d.buffer]?)).map (·.dpa)).getD 0 + word * convWords d * 64
  else windowAddr home (word * 64)

/-- First byte of the metadata area of a memory-stored conveyor (R218). -/
def metaArea (s : State) (jk : Nat) (d : ConvDesc) : Nat :=
  let base := (((getJob s jk).image.bind (fun im => im.buffers[d.buffer]?)).map (·.dpa)).getD 0
  base + roundUp (d.capacity * convWords d * 64) 4096

/-- The home bench of a conveyor's state (R222). -/
def convHome (s : State) (jk : Nat) (d : ConvDesc) : Nat :=
  let st := stationOf s jk (if d.consumer = 0xFFFF then d.producer else d.consumer)
  (st.bind (fun st => (presentGroup s (jk / 2) st).head?)).getD 0

/-- Station that a conveyor event names (R235). -/
def convStation (d : ConvDesc) : Nat := if isOutgoing d then d.producer else d.consumer

/-- Raise a conveyor event: conveyor index and station index (R235). -/
def raiseConv (s : State) (jk k : Nat) (d : ConvDesc) (code : Nat) : State :=
  raisePart s (some (jk / 2)) code (sourceId s (convHome s jk d)) [(2, k), (1, convStation d)]

/-! ## Hold (R222, R223) -/

/-- A message to the peer of an incoming board conveyor (R232). -/
def toPeer (s : State) (jk : Nat) (c : Conv) (kind : MsgKind) : State :=
  match c.peer with
  | some (slot, idx) => if c.bound && !c.broken then sendFrame s kind slot (getJob s jk).tag [idx] [] else s
  | none => s

/-- Evaluate the hold at the home bench (R222). -/
def evalHold (s : State) (jk k : Nat) : State :=
  match convDescOf s jk k with
  | none => s
  | some d =>
    if isOutgoing d then s
    else
      let c := getConv s jk k
      let occ := convOcc c
      if !c.hold && d.high ≤ occ then
        let s := modConv s jk k (fun c => { c with hold := true, holds := satAdd 32 c.holds 1 })
        if isIncoming d then toPeer s jk c .hold else s
      else if c.hold && occ ≤ d.low then
        let s := modConv s jk k (fun c => { c with hold := false })
        if isIncoming d then toPeer s jk c .release else s
      else s

/-- Take a slot (R220): it is in use from here on. -/
def allocSlot (s : State) (jk k : Nat) (p : Nat × Nat) : State :=
  evalHold (modConv s jk k (fun c => { c with slots := c.slots ++ [⟨p.1, p.2, false, false, []⟩] })) jk k

/-- Free a slot (R90, R220); a slot freed at the receiving end of a board conveyor returns one credit (R232). -/
def freeSlot (s : State) (jk k home word : Nat) : State :=
  match convDescOf s jk k with
  | none => s
  | some d =>
    let c := getConv s jk k
    if c.slots.any (fun x => x.home == home && x.word == word) then
      let s := modConv s jk k (fun c => { c with slots := c.slots.filter (fun x => !(x.home == home && x.word == word)) })
      let s := if isIncoming d then toPeer s jk c .credit else s
      evalHold s jk k
    else s

/-- Store the words of a tile into its slot: payload, poison tags by the POISON bit, and the metadata beside it (R213, R218). -/
def storeWords (s : State) (jk k home word : Nat) (ws : List CWord) : State :=
  match convDescOf s jk k with
  | none => s
  | some d =>
    let a := slotAddr s jk d home word
    let s := applyComp s (classOfFormat d.format) (ownCells s (jk / 2) (ws.zipIdx.flatMap (fun wi => cellsOf (a + 64 * wi.2) (padTo 0 64 wi.1.2) (metaPoison wi.1.1))))
    if home = 0x3FF then wrOwn s (jk / 2) (metaArea s jk d + 2 * convWords d * word) (ws.flatMap (fun w => toLe 2 w.1)) false
    else modConv s jk k (fun c => { c with slots := c.slots.map (fun x =>
      if x.home == home && x.word == word then { x with metas := ws.map Prod.fst } else x) })

/-- The words of a slot as a reader receives them; one that fails its parity check is delivered with POISON set (R215). -/
def slotWords (s : State) (jk : Nat) (d : ConvDesc) (x : CSlot) : List CWord :=
  let a := slotAddr s jk d x.home x.word
  (List.range (convWords d)).map (fun n =>
    let bs := rdBytes s (a + 64 * n) 64
    let p := bs.map Prod.fst
    let m := if x.home = 0x3FF then rdLe s (metaArea s jk d + 2 * (convWords d * x.word + n)) 2 else x.metas.getD n 0
    let bad := bs.any Prod.snd || !(parityOk (m, p))
    (if bad && !metaPoison m then m + 32 else m, p))

/-- Coordinates of the tile in a slot (R216). -/
def slotCoords (s : State) (jk : Nat) (d : ConvDesc) (x : CSlot) : Coords :=
  coordsOf (rdData s (slotAddr s jk d x.home x.word) 64)

/-- The words of the tile in a slot that lie in one of the ranges read (address and bytes) and fail their parity check. -/
def badWords (s : State) (jk : Nat) (d : ConvDesc) (x : CSlot) (rs : List (Nat × Nat)) : List Nat :=
  let a := slotAddr s jk d x.home x.word
  (List.range (convWords d)).filter (fun n =>
    rs.any (fun r => decide (r.1 < a + 64 * n + 64 ∧ a + 64 * n < r.1 + r.2))
      && !(parityOk (if x.home = 0x3FF then rdLe s (metaArea s jk d + 2 * (convWords d * x.word + n)) 2 else x.metas.getD n 0, rdData s (a + 64 * n) 64)))

/-- The parity check of one stored tile at a read of some ranges: bad words are delivered poisoned, and CONV_PARITY is raised once for the
tile (R215). -/
def checkSlot (s : State) (jk k : Nat) (x : CSlot) (rs : List (Nat × Nat)) : State :=
  match convDescOf s jk k with
  | none => s
  | some d =>
    let bad := badWords s jk d x rs
    if bad.isEmpty then s
    else
      let a := slotAddr s jk d x.home x.word
      let s := applyCells s (ownCells s (jk / 2) (bad.flatMap (fun n => cellsOf (a + 64 * n) (rdData s (a + 64 * n) 64) true)))
      raiseConv (modConv s jk k (fun c => { c with parity := satAdd 32 c.parity 1 })) jk k d 0x0360

/-- The parity check of the whole tile in a slot. -/
def checkSlotParity (s : State) (jk k : Nat) (x : CSlot) : State :=
  match convDescOf s jk k with
  | none => s
  | some d => checkSlot s jk k x [(slotAddr s jk d x.home x.word, 64 * convWords d)]

/-- The parity check at a task's read of some ranges, over every landed tile of its job's conveyors (R215). -/
def checkReads (s : State) (jk : Nat) (rs : List (Nat × Nat)) : State :=
  (s.convs.filter (fun e => e.1 / 4096 == jk)).foldl (fun s e =>
    (e.2.slots.filter (·.landed)).foldl (fun s x => checkSlot s jk (e.1 % 4096) x rs) s) s

/-! ## Sending a tile (R91, R224, R232) -/

/-- The bench on which the next tile lands: the rotating rule over the group's logical bench numbers among benches with
a free slot; a memory-stored conveyor takes its lowest free slot number (R88). -/
def pickSlot (s : State) (jk k : Nat) (d : ConvDesc) : Option (Nat × Nat) :=
  let fr := freeSlots s jk k d
  if convOcc (getConv s jk k) ≥ convSlots s jk k d then none
  else if d.store = 1 then fr.head?
  else (rotatePick 576 (getConv s jk k).landPtr (fun lb => fr.any (fun p => p.1 == lb))).bind (fun lb => fr.find? (fun p => p.1 == lb))

/-- Take the slot that the next tile goes to. -/
def takeSlot (s : State) (jk k : Nat) (p : Nat × Nat) : State :=
  allocSlot (modConv s jk k (fun c => { c with landPtr := if p.1 = 0x3FF then c.landPtr else (p.1 + 1) % 576 })) jk k p

/-- Whether conveyor k takes a tile now: a free slot, a credit, or a broken end, which discards it (R224, R232, R234). -/
def maySend (s : State) (jk k : Nat) (d : ConvDesc) : Bool :=
  let c := getConv s jk k
  if isOutgoing d then c.broken || decide (0 < c.credits) else (pickSlot s jk k d).isSome

/-- Since when a tile in transit waits for a slot or a credit. -/
def waitingSince (u : Tput) : Option Nat := match u.phase with | .waiting t => some t | _ => none

/-- The tiles of some bench that wait for a slot or a credit of conveyor k. -/
def waitsOn (k : Nat) (us : List Tput) : List Tput := us.filter (fun u => u.conv == k && (waitingSince u).isSome)

/-- A TPUT of some bench waits for conveyor k: a later tile waits behind it (R48, R224). -/
def tputWaits (s : State) (jk k : Nat) : Bool :=
  s.benches.any (fun e => partOfLb s e.1 == some (jk / 2) && !(waitsOn k (e.2.ctx (jk % 2)).tputs).isEmpty)

/-- Some waits of a conveyor are over: WAIT_NS takes their time, and CREDIT_WAIT stays set only while a TPUT still waits (R221, R232). -/
def endWaits (s : State) (jk k : Nat) (us : List Tput) : State :=
  let left := tputWaits s jk k
  modConv s jk k (fun c => { c with
    waitNs := us.foldl (fun n u => satAdd 64 n (now s - (waitingSince u).getD (now s))) c.waitNs, creditWait := c.creditWait && left })

/-- Send the words of a tile: into a slot, where it lands later, or straight to the board port with one credit taken; a
broken board conveyor discards the tile (R234). Answers the phase of the TPUT, none where it is complete at once. -/
def sendTile (s : State) (jk k : Nat) (d : ConvDesc) (ws : List CWord) : State × Option TputPhase :=
  let c := getConv s jk k
  if isOutgoing d then
    if c.broken then (modConv s jk k (fun c => { c with discards := satAdd 32 c.discards 1 }), none)
    else
      let s := modConv s jk k (fun c => { c with credits := c.credits - 1 })
      let (slot, idx) := c.peer.getD (0, 0)
      let ws := match ws with
        | [] => []
        | h :: r => (h.1 % 256 + parByte (putBytes h.2 0x18 (toLe 2 idx)) * 256, putBytes h.2 0x18 (toLe 2 idx)) :: r
      (sendFrame s .tile slot (getJob s jk).tag [idx] (ws.flatMap (fun w => toBe 2 w.1 ++ w.2)), none)
  else
    match pickSlot s jk k d with
    | none => (s, some (.waiting (now s)))
    | some p => (storeWords (takeSlot s jk k p) jk k p.1 p.2 ws, some (.sending (p.1 * 32768 + p.2)))

/-- A TPUT that must wait is counted in FULL_WAITS, and sets CREDIT_WAIT at a board conveyor (R224, R232). -/
def noteWait (s : State) (jk k : Nat) (d : ConvDesc) : State :=
  modConv s jk k (fun c => { c with fullWaits := satAdd 32 c.fullWaits 1, creditWait := c.creditWait || isOutgoing d })

/-- The last word of a slot has landed: the slot goes behind those that landed before, so that tiles are joined in order of completion (R48, R220). -/
def landSlot (xs : List CSlot) (home word : Nat) : List CSlot :=
  let mine := fun (x : CSlot) => x.home == home && x.word == word
  xs.filter (fun x => !mine x) ++ (xs.filter mine).map (fun x => { x with landed := true })

/-- Land the words of a tile from a board port or a feed channel in the slot it holds: a word that fails its parity check
is stored with a poison tag beside its own metadata, and CONV_PARITY is raised once (R215); in a slot that its bench has lost, every word is
poisoned (R225). -/
def landIn (s : State) (jk k : Nat) (d : ConvDesc) (p : Nat × Nat) (ws : List CWord) : State :=
  let lost := (getConv s jk k).lostLbs.contains p.1
  let ws := if lost then ws.map (fun w => (if metaPoison w.1 then w.1 else w.1 + 32, w.2)) else ws
  let bad := ws.any (fun w => !parityOk w)
  let s := storeWords s jk k p.1 p.2 ws
  let a := slotAddr s jk d p.1 p.2
  let s := ws.zipIdx.foldl (fun s wi => if parityOk wi.1 then s else wrOwn s (jk / 2) (a + 64 * wi.2) (padTo 0 64 wi.1.2) true) s
  let s := if bad then raiseConv (modConv s jk k (fun c => { c with parity := satAdd 32 c.parity 1 })) jk k d 0x0360 else s
  modConv s jk k (fun c => { c with slots := landSlot c.slots p.1 p.2 })

/-- A tile whose descriptor word has landed on a board conveyor that breaks is completed: the missing words are filled
with POISON set and END on the last (R234). -/
def completePartial (s : State) (jk k : Nat) (d : ConvDesc) : State :=
  let c := getConv s jk k
  match c.rxSlot with
  | none => s
  | some p =>
    let n := convWords d - c.partialRx.length
    let fill := (List.range n).map (fun i =>
      let z := List.replicate 64 (0 : Byte)
      (mkMeta z false (i + 1 == n) true, z))
    landIn (modConv s jk k (fun c => { c with partialRx := [], rxSlot := none })) jk k d p (c.partialRx ++ fill)

/-- Break a board conveyor at this end (R234): a partly landed tile is completed poisoned, waiting TPUTs complete without
sending, and CONV_LINK_LOST is raised. -/
def breakConv (s : State) (jk k : Nat) : State :=
  match convDescOf s jk k with
  | none => s
  | some d =>
    let c := getConv s jk k
    if extKind d ≠ 2 || c.broken then s
    else
      let s := if isIncoming d then completePartial s jk k d else s
      let mine := fun (lb : Nat) => jobOf s lb (jk % 2) == some jk
      let ended := s.benches.flatMap (fun e => if mine e.1 then waitsOn k (e.2.ctx (jk % 2)).tputs else [])
      let s := { s with benches := s.benches.map (fun e => (e.1,
        if mine e.1 then e.2.modCtx (jk % 2) (fun x => { x with tputs := x.tputs.filter (fun u => u.conv != k || (waitingSince u).isNone) }) else e.2)) }
      let s := modConv (endWaits s jk k ended) jk k (fun c => { c with broken := true, bound := false, creditWait := false })
      raiseConv s jk k d 0x0365

end Sys2Proof.Machine
end

