-- ==== Sys2Proof/Machine/Notices.lean ====
section
/-! DEFINITION. Notices between the modules of a job, the end of a long command (R477), the holds of a job (R570) and the
loss of a shard (R304). -/

namespace Sys2Proof.Machine

/-- The end of a long command: LONG_DONE to the issuing function (R477). -/
def longDone (s : State) (r : LongRef) (status : Nat) : State :=
  sendEvent s r.func ⟨0x0410, 0xFF, sourceId s srcMp, packItems [(4, r.tag), (2, r.opcode), (2, status), (2, r.index), (1, r.ring), (1, r.func)]⟩

/-- Coordinates of a shard as event items (R461). -/
def coordItems (t : TensorEnt) (epoch : Nat) : List (Nat × Nat) :=
  (4, t.id) :: (padTo 0 4 t.shard).map (fun x => (2, x)) ++ [(4, epoch)]

/-- Raise an in-site event: layer, step, shard, and more (R306). -/
def raiseShard (s : State) (jk code step : Nat) (t : TensorEnt) (more : List (Nat × Nat)) : State :=
  raisePart s (some (jk / 2)) code (sourceId s srcMp) ([(4, t.layer), (4, step)] ++ coordItems t (getJob s jk).cut.epoch ++ more)

/-- This module's linear index in its replica (R308). -/
def cutIndex (c : Cut) : Nat := (c.stage * c.ranks + c.rank) * c.seqRanks + c.seqRank

/-- Site module number of this shard's holder in a replica (R269, R488). -/
def moduleOf (j : Job) (rep : Nat) : Nat := (j.replicaMap.getD rep []).getD (cutIndex j.cut) 0xFFFFFFFF

/-- Site modules of every module of the job but this one. -/
def otherModules (j : Job) : List Nat :=
  (((j.replicaMap.flatMap (fun m => m)).filter (· != 0xFFFFFFFF)).eraseDups).filter (· != moduleOf j j.policy.replica)

/-- Send a job notice to every other module of the job. -/
def notifyAll (s : State) (jk : Nat) (k : MsgKind) (args : List Nat) : State :=
  (otherModules (getJob s jk)).foldl (fun s m => sendFrame s k m (getJob s jk).tag args []) s

/-! ## Holds (R203, R304, R356, R570) -/

/-- A cause as JOB_HELD carries it: its place in the table of R570. -/
def holdCode (h : HoldCause) : Nat := match h with | .hostPause => 0 | .divergence => 1 | .snapshot => 2 | .lost => 3

def hasHold (j : Job) (h : HoldCause) : Bool := j.holds.any (· == h)

/-- The buddy of this module: the one that PSM_CHECKPOINT named, else slot SLOT_ID XOR 1 (R442). -/
def buddySlot (s : State) : Nat := s.stock.buddy.getD (s.board.slotId ^^^ 1)

/-- Items of a checkpoint event: JOB_TAG, step, buddy (R575). -/
def ckptItems (s : State) (tag stp : Nat) : List (Nat × Nat) := [(4, tag), (4, stp), (1, buddySlot s)]

/-- A checkpoint event (R575). -/
def raiseCkpt (s : State) (jk code tag stp : Nat) : State := raisePart s (some (jk / 2)) code (sourceId s srcMp) (ckptItems s tag stp)

/-- JOB_HELD: the job holds before step e for a cause (R570, R575). -/
def raiseHeld (s : State) (jk e : Nat) (h : HoldCause) : State :=
  raisePart s (some (jk / 2)) 0x0454 (sourceId s srcMp) (ckptItems s (getJob s jk).tag e ++ [(1, holdCode h)])

/-- A hold cause is due at the boundary into step e. -/
def holdDue (j : Job) (e : Nat) (x : HoldCause × Bool) : Bool :=
  let h := ((j.image.map (fun im => im.sched.roundSteps)).getD 0)
  !x.2 || h == 0 || e % h == 0

/-- A hold cause is announced for the next step or round boundary; a job already held at such a boundary holds for it too. -/
def announceHold (s : State) (jk : Nat) (h : HoldCause) (round : Bool) : State :=
  let j := getJob s jk
  if hasHold j h || j.holdAt.any (fun x => x.1 == h) then s
  else if j.held && holdDue j (j.step + 1) (h, round) then raiseHeld (modJob s jk (fun j => { j with holds := j.holds ++ [h] })) jk (j.step + 1) h
  else modJob s jk (fun j => { j with holdAt := j.holdAt ++ [(h, round)] })

/-- A hold cause ends; the job is released once every cause has ended (R570). -/
def endHold (s : State) (jk : Nat) (h : HoldCause) : State :=
  let s := modJob s jk (fun j => { j with holds := j.holds.filter (· != h), holdAt := j.holdAt.filter (fun x => x.1 != h) })
  let j := getJob s jk
  if j.held && j.holds.isEmpty then
    raiseCkpt (modJob s jk (fun j => { j with held := false })) jk 0x0455 j.tag (j.step + 1)
  else s

/-- A shard is lost: SHARD_LOST and a pause notice to every module of the job (R304). -/
def shardLost (s : State) (jk : Nat) (t : TensorEnt) : State :=
  let s := raiseShard s jk 0x0388 (getJob s jk).step t []
  let s := match (getJob s jk).reshard with
    | some r => if r.missing.isNone then
        let s := raisePart (modJob s jk (fun j => { j with reshard := none })) (some (jk / 2)) 0x0392 (sourceId s srcMp) [(4, r.epoch), (4, r.step)]
        longDone s r.reply 0x0234
      else s
    | none => s
  announceHold (notifyAll s jk .pause [2, 0]) jk .lost false

end Sys2Proof.Machine
end

