-- ==== Sys2Proof/Machine/Sched.lean ====
section
/-! DEFINITION. Tasks on benches: which queued task is ready (R26, R62, R77, R120, R196, R223, R295, R319), which a
bench runs next (R26, R101), the start of a task (R68, R93), placement (R88), stealing (R61 to R64, R96 to R98), the
loss of chains (R122), and the freeze of a bench context (R95). -/

namespace Sys2Proof.Machine

/-! ## Flags of a task (R89) -/

def taskReissue (t : Task) : Bool := bit t.flags 4
def taskLockstep (t : Task) : Bool := bit t.flags 3
def taskKeep (t : Task) : Bool := bit t.flags 2
def taskCont (t : Task) : Bool := bit t.flags 1

/-- The vote that a bench runs now in a context: its first vote, while the running task is the vote's copy (R101). -/
def votingNow (b : Bench) (c : Nat) : Option Vote :=
  match b.votes, (b.ctx c).running with
  | v :: _, some t => if v.ctx == c && t.station == v.task.station && t.seq == v.task.seq && t.step == v.task.step then some v else none
  | _, _ => none

/-- Set REISSUE (R62). An input that the stopped run has freed stays freed, and the new run reads what lies in its slot now; the spec does
not say (DESIGN CHOICE, log 144). -/
def reissued (t : Task) : Task := { t with flags := t.flags ||| 16 }

/-- The running task of a context with the TPUTs whose tiles it has sent: a new run does not send them again (R32, R535; log 144). -/
def noteSent (x : BCtx) : BCtx :=
  { x with running := x.running.map (fun t => { t with
    sent := (List.range x.tputN).filter (fun n => t.sent.contains n || !x.tputs.any (fun u => u.nth == n)) }) }

/-! ## Readiness -/

/-- Conveyors that station k of a job puts tiles into. -/
def outConvs (s : State) (jk k : Nat) : List Nat :=
  match (getJob s jk).image with
  | none => []
  | some im => (im.conveyors.zipIdx.filter (fun dq => dq.1.producer == k)).map Prod.snd

/-- Whether any output conveyor of a station is in HOLD, or its peer said HOLD (R223, R232). -/
def stationHeld (s : State) (jk k : Nat) : Bool :=
  (outConvs s jk k).any (fun q => let c := getConv s jk q; c.hold || c.peerHold)

/-- Whether a bench's cache holds a station's code and is not rewriting it (R44, R76, R77). -/
def codeHeld (b : Bench) (c k : Nat) : Bool := b.cache.any (fun e => e.ctx == c && e.station == k && !e.rewriting)

/-- LAST_STEP of a layer record has reached step − 1: the commit of that step is done (R190, R196). -/
def commitDone (s : State) (j : Job) (l step : Nat) : Bool :=
  !hasLayer l || decide (step ≤ (rdLe s (layerRec j l + 0x24) 4 + 1) % 2 ^ 32)

/-- Step record of a layer (R283). -/
def stepRec (j : Job) (l : Nat) : Nat := j.stepBase + 64 * l

/-- Whether this module holds a master shard of a layer. -/
def holdsLayer (im : Image) (l : Nat) : Bool := im.tensors.any (fun t => t.cls == 2 && t.layer == l)
/-- Whether a layer has an in-site reduction on this module (R295). -/
def reducesLayer (im : Image) (l : Nat) : Bool := im.stations.any (fun st => st.kind == 6 && fieldLe st.params 0 1 == 0 && st.layer == l)

/-- Trigger conveyors of a station (R181, R317). -/
def trigConvs (st : Station) : List Nat :=
  if st.kind = 5 then [fieldLe st.params 0 2]
  else if st.kind = 6 || st.kind = 7 then []
  else (List.range (min 4 (fieldLe st.params 0 1))).map (fun n => fieldLe st.params (4 + 2 * n) 2)

/-- Layers of the tensors of a station's trigger conveyors (R196). -/
def trigLayers (im : Image) (st : Station) : List Nat :=
  (trigConvs st).filterMap (fun q => (im.conveyors[q]?).bind (fun d => (tensorOf im d.tensor).map (·.layer)))

/-- Whether two catalogue entries have the same logical coordinates, and so are one shard (R55). -/
def sameShard (a b : TensorEnt) : Bool := a.id == b.id && padTo 0 4 a.shard == padTo 0 4 b.shard && a.epoch == b.epoch

/-- CLASS 2 catalogue entries: one row each in the tables of shard records. -/
def masters (im : Image) : List TensorEnt := im.tensors.filter (fun t => t.cls == 2)

/-- Rank of a master shard among the CLASS 2 catalogue entries: that of the first entry with its coordinates (R55, R290). -/
def shardRank (im : Image) (t : TensorEnt) : Option Nat := (masters im).findIdx? (sameShard t)

/-- The held master shards, each with its rank (R290). -/
def held (im : Image) : List (TensorEnt × Nat) := (masters im).zipIdx.filter (fun tr => shardRank im tr.1 == some tr.2)

/-- The results of the round before a step that begins a round, of every held master shard that p picks and that has a ROUND exchange
station (R352). -/
def resultsInPlace (j : Job) (im : Image) (step : Nat) (p : TensorEnt → Bool) : Bool :=
  let h := im.sched.roundSteps
  h == 0 || step % h != 0 || j.round.policy.isNone ||
    (held im).all (fun tr => !p tr.1
      || !im.stations.any (fun x => x.kind == 6 && fieldLe x.params 0 1 == 1 && (tensorOf im (fieldLe x.params 4 4)).any (sameShard tr.1))
      || decide (step / h ≤ (getRShard j tr.2).installed))

/-- Those of a layer: a task of the first step of a round waits for them (R352). -/
def roundsInPlace (j : Job) (im : Image) (l step : Nat) : Bool := resultsInPlace j im step (fun t => t.layer == l)

/-- An owned shard's close has asked for a pause: no task of the step that begins the next round is released before the resume (R356). -/
def pausePending (j : Job) (im : Image) (step : Nat) : Bool :=
  decide (0 < im.sched.roundSteps) && step % im.sched.roundSteps == 0 && j.round.shards.any (fun e => e.2.pause)

/-- This site is being admitted (R336, R360). -/
def joiningSite (j : Job) : Bool := (j.round.policy.map (fun q => bit q.flags 2)).getD false

/-- Commits, versions and round results that a task of a primary job waits for (R196, R295, R352). The first step waits for nothing but,
at a joining site, the bootstrap's result (R360). -/
def stepsInPlace (s : State) (jk : Nat) (st : Station) (step : Nat) : Bool :=
  let j := getJob s jk
  match j.image with
  | none => false
  | some im =>
    if jk % 2 = 1 || step < j.start then true
    else if step = j.start then !joiningSite j || resultsInPlace j im step (fun _ => true)
    else
      (st.layer :: trigLayers im st).all (fun l => commitDone s j l step)
        && (st.kind == 6 || st.kind == 7 || !hasLayer st.layer || !holdsLayer im st.layer
            || decide (step ≤ rdLe s (stepRec j st.layer + 4) 4))
        && (st.kind == 6 || st.kind == 7 || (roundsInPlace j im st.layer step && !pausePending j im step))

/-- Slot record of a chunked-attention station (R315). -/
def slotRec (st : Station) (n : Nat) : Nat := fieldLe st.params 0x18 8 + 16 * n

/-- KV_FILLED has reached what a query task needs (R319). -/
def attentionReady (s : State) (st : Station) (t : Task) : Bool :=
  let kv := rdLe s (slotRec st t.slot + 8) 4
  if bit (fieldLe st.params 5 1) 0 then decide (256 * (t.ti + 1) ≤ kv) else kv == fieldLe st.params 8 4

/-- A chain's predecessor has reached TEND (R120). -/
def chainReady (j : Job) (t : Task) : Bool :=
  !taskCont t || j.chains.any (fun c => c.station == t.station && c.step == t.step && c.ij == (t.ti, t.tj) && c.pass + 1 == t.pass && c.ended)

/-- A task's step has been opened: the step boundary of its step has passed (R57). A hold, a pending re-shard and a round
boundary keep the next step from opening (R324, R352, R570); UPDATE_NONFINITE closes the steps after its own (R203). -/
def stepOpened (j : Job) (step : Nat) : Bool :=
  j.phase == .running && (decide (step < j.step) || (step == j.step && j.stepOpen)) && j.stopFrom.all (fun n => decide (step < n))

/-- Whether a queued task is ready on a bench; a probe runs pass 0 alone (R209). -/
def taskReady (s : State) (jk lb : Nat) (t : Task) : Bool :=
  let j := getJob s jk
  match stationOf s jk t.station with
  | none => false
  | some st =>
    stepOpened j t.step && (j.probe.isNone || t.pass == 0) && codeHeld (getBench s lb) (jk % 2) t.station && !stationHeld s jk t.station
      && stepsInPlace s jk st t.step && chainReady j t && (st.kind != 5 || attentionReady s st t)

/-! ## Starting a task -/

/-- Accumulators at a switch from context o to context c: live ones of the outgoing context go to its save area, and
those that the incoming context saved live come back (R93, R94). -/
def switchAcc (b : Bench) (c : Nat) : Bench :=
  match b.accOwner with
  | none => { b with accOwner := some c }
  | some o =>
    if o = c then b
    else
      let b := b.modCtx o (fun x => if x.accLive then { x with accSave := x.acc } else x)
      let b := b.modCtx c (fun x => if x.accLive then { x with acc := x.accSave } else x)
      { b with accOwner := some c }

/-- A context right after its task starts: program counter 0, X56 to X63 loaded, status of the task cleared (R68, R76, R110, R178). -/
def beginTask (x : BCtx) (t : Task) : BCtx :=
  loadTaskRegs { x with pc := 0, running := some t, fence := x.issued, tputN := 0, mxOvf := 0, mxBlocks := 0, mxFlags := 0, stream := 0 } t

/-- Start a task on a bench context. -/
def startOn (s : State) (lb c : Nat) (t : Task) : State :=
  modBench s lb (fun b => { (switchAcc b c).modCtx c (fun x => beginTask { x with startAt := now s } t) with lastCtx := some c })

/-- Note the bench of a chained task (R120). -/
def noteChain (s : State) (jk lb : Nat) (t : Task) : State :=
  if taskKeep t || taskCont t then
    modJob s jk (fun j => { j with chains := j.chains.filter (fun c => !(c.station == t.station && c.step == t.step && c.ij == (t.ti, t.tj)))
      ++ [⟨t.station, t.step, (t.ti, t.tj), t.pass, lb, false, false⟩] })
  else s

/-- Partner of the lower bench of a lockstep pair of a station. -/
def pairOf (j : Job) (st lb : Nat) : Option Nat := ((Tab.get [] j.pairs st).find? (fun p => p.1 == lb)).map Prod.snd

/-- Whether a bench runs nothing and may take a task. -/
def benchIdle (s : State) (lb : Nat) : Bool :=
  let b := getBench s lb
  present s lb && !b.failed && !b.quarantined && !b.withdrawn
    && (b.c0.running.isNone || b.c0.frozen) && (b.c1.running.isNone || b.c1.frozen)

/-- A ready task that the bench may start: a lockstep task also needs its partner idle (R99). -/
def mayStart (s : State) (jk lb : Nat) (t : Task) : Bool :=
  taskReady s jk lb t && (!taskLockstep t || (match pairOf (getJob s jk) t.station lb with
    | some h => benchIdle s h && (getBench s h).votes.isEmpty
    | none => false))

/-- Remove the first task of a queue that satisfies p. -/
def takeFirst (p : Task → Bool) (q : List Task) : Option (Task × List Task) :=
  match q with
  | [] => none
  | t :: r => if p t then some (t, r) else (takeFirst p r).map (fun x => (x.1, t :: x.2))

/-- Start a task from a bench's own queue; both benches of a pair run a lockstep task (R99). -/
def startTask (s : State) (jk lb : Nat) (t : Task) : State :=
  let c := jk % 2
  let s := startOn (noteChain s jk lb t) lb c t
  if taskLockstep t then
    match pairOf (getJob s jk) t.station lb with
    | some h => startOn s h c t
    | none => s
  else s

/-! ## Stealing -/

/-- Ready tasks of a station that may be stolen from a bench (R62, R64). -/
def stealable (s : State) (jk lb k : Nat) : List Task :=
  (getCtx s lb (jk % 2)).queue.filter (fun t => t.station == k && !taskCont t && taskReady s jk lb t)

/-- The published ready count, at most 3 (R96). -/
def readyCount (s : State) (jk lb k : Nat) : Nat :=
  min 3 ((getCtx s lb (jk % 2)).queue.countP (fun t => t.station == k && taskReady s jk lb t))

/-- Steal distance of a station (R61). -/
def hopsOf (im : Image) (st : Station) : Nat := if st.hops = 0xFF then im.stealHops else st.hops

/-- Whether a bench is a victim for a thief from a station, within `hops`, the steal distance of the thief's own station: by the published
ready count, which counts continued tasks too (R61, R62, R96, R98, R103). -/
def isVictim (s : State) (jk thief k hops v : Nat) : Bool :=
  v != thief && present s v && partOfLb s v == some (jk / 2) && !(getBench s v).failed && !(getBench s v).quarantined
    && (match benchDist thief v with | some d => decide (0 < hops ∧ d ≤ hops ∧ d ≤ 7) | none => false)
    && decide (2 ≤ readyCount s jk v k)
    && !((getBench s thief).excluded.any (fun e => e.1 / 512 == v && e.2 == readyCount s (jk / 2 * 2 + e.1 % 2) v (e.1 / 2 % 256)))
    && !(getBench s v).withdrawn

/-- Among victims: smallest distance, then the rotating pointer over logical bench numbers (R63). -/
def bestVictim (s : State) (thief : Nat) (vs : List Nat) : Option Nat :=
  let dist := fun v => (benchDist thief v).getD 99
  let m := (vs.map dist).foldl min 99
  rotatePick 576 (getBench s thief).victimPtr (fun v => vs.contains v && dist v == m)

/-- Victim and station for one of the thief's stations: its own station first, then the cached neighbours of a FLEX
station, by distance, then list position (R63). -/
def victimFor (s : State) (jk thief k : Nat) : Option (Nat × Nat) :=
  match (getJob s jk).image with
  | none => none
  | some im =>
    match im.stations[k]? with
    | none => none
    | some st =>
      let lock := bit st.flags 1
      let benches := fun (q : Nat) => match im.stations[q]? with
        | none => []
        | some sq => (presentGroup s (jk / 2) sq).filter (isVictim s jk thief q (hopsOf im st))
      let own := benches k
      if lock && !(match pairOf (getJob s jk) k thief with | some h => benchIdle s h | none => false) then none
      else if !own.isEmpty then (bestVictim s thief own).map (fun v => (v, k))
      else if bit st.flags 0 && !lock then
        let ns := st.neighbours.filter (fun q => codeHeld (getBench s thief) (jk % 2) q &&
          ((im.stations[q]?).map (fun sq => decide (1 ≤ sq.kind ∧ sq.kind ≤ 5) && !bit sq.flags 1)).getD false)
        let cands := ns.flatMap (fun q => (benches q).map (fun v => (v, q)))
        let m := (cands.map (fun c => (benchDist thief c.1).getD 99)).foldl min 99
        let near := cands.filter (fun c => (benchDist thief c.1).getD 99 == m)
        match near.head? with
        | none => none
        | some (_, q) => (bestVictim s thief ((near.filter (fun c => c.2 == q)).map Prod.fst)).map (fun v => (v, q))
      else none

/-- The first of the thief's stations of a context, ascending, at which a victim is found (R63). -/
def findSteal (s : State) (jk thief : Nat) : Option StealReq :=
  match (getJob s jk).image with
  | none => none
  | some im =>
    (List.range im.stations.length).findSome? (fun k =>
      match im.stations[k]? with
      | none => none
      | some st =>
        if (groupOf s (jk / 2) st).contains thief then
          (victimFor s jk thief k).map (fun vq => ⟨vq.1, jk % 2, vq.2, k, .none⟩)
        else none)

/-! ## Selection at a tile boundary (R26, R92, R101) -/

/-- Take and start the oldest ready task of one context. -/
def selectCtx (s : State) (lb c : Nat) : Option State :=
  match jobOf s lb c with
  | none => none
  | some jk =>
    let x := getCtx s lb c
    if x.frozen then none
    else
      match takeFirst (mayStart s jk lb) x.queue with
      | none => none
      | some (t, q) => some (startTask (modCtx s lb c (fun x => { x with queue := q })) jk lb t)

/-- Send a steal request for one context, if a victim is found. -/
def stealCtx (s : State) (lb c : Nat) : Option State :=
  if (getCtx s lb c).frozen then none
  else (jobOf s lb c).bind (fun jk => (findSteal s jk lb).map (fun r =>
    modBench s lb (fun b => { b with steal := some r, victimPtr := (r.victim + 1) % 576 })))

/-- Whether the pair partner of a bench has a vote to run: the bench then waits at its own tile boundary (R101). -/
def partnerVotes (s : State) (lb : Nat) : Bool :=
  s.jobs.any (fun e => e.2.pairs.any (fun kp => kp.2.any (fun p =>
    (p.1 == lb && !(getBench s p.2).votes.isEmpty && partOfLb s lb == some (e.1 / 2))
      || (p.2 == lb && !(getBench s p.1).votes.isEmpty && partOfLb s lb == some (e.1 / 2)))))

/-- A station of the primary job whose group contains the bench is held (R223). -/
def heldProducer (s : State) (lb : Nat) : Bool :=
  match jobOf s lb 0 with
  | none => false
  | some jk => (((getJob s jk).image.map (·.stations)).getD []).zipIdx.any (fun sk => (groupOf s (jk / 2) sk.1).contains lb && stationHeld s jk sk.2)

/-- A tile boundary comes: a cache entry that waited for it is rewritten (R77). -/
def endRewrites (s : State) (lb : Nat) : State :=
  modBench s lb (fun b => { b with cache := b.cache.map (fun e => { e with rewriting := false }) })

/-- A bench without a ready C0 task: it runs C1, and otherwise tries to steal for C0, then for C1 (R26). A bench whose station is held
steals for C0 if it can before it runs filler tasks (R22, R223; DEDUCED, log 143), and waits for the answer to a request it has sent. -/
def selectFiller (s : State) (lb : Nat) : State :=
  match (getBench s lb).steal with
  | some r => if r.ctx = 0 && heldProducer s lb then s else (selectCtx s lb 1).getD s
  | none =>
    let first := if heldProducer s lb then stealCtx s lb 0 else none
    match first.orElse (fun _ => selectCtx s lb 1) with
    | some s => s
    | none => ((stealCtx s lb 0).orElse (fun _ => stealCtx s lb 1)).getD s

/-- The bench chooses its next task at a tile boundary: a vote first, then C0, then C1 or a steal (R22, R26, R101). -/
def selectNext (s : State) (lb : Nat) : State :=
  if !benchIdle s lb || partnerVotes s lb then s
  else
    let s := endRewrites s lb
    match (getBench s lb).votes with
    | v :: _ => if (getCtx s lb v.ctx).frozen then s else startOn s lb v.ctx v.task
    | [] =>
      match selectCtx s lb 0 with
      | some s => s
      | none => selectFiller s lb

/-- The pass counter of a context follows FIRST_STATION: it is the latest pass of the step of which a task of that station is released, that
is ready or running (R57, R223). -/
def notePass (s : State) (jk : Nat) : State :=
  let j := getJob s jk
  match j.image with
  | none => s
  | some im =>
    let mine := fun (t : Task) => t.station == im.sched.first && t.step == j.step
    let passes := s.benches.flatMap (fun e =>
      if partOfLb s e.1 == some (jk / 2) then
        ((e.2.ctx (jk % 2)).running.toList.filter mine ++ (e.2.ctx (jk % 2)).queue.filter (fun t => mine t && taskReady s jk e.1 t)).map (·.pass)
      else [])
    if j.stepOpen then modJob s jk (fun j => { j with pass := passes.foldl max j.pass }) else s

/-- Let every idle present bench of a partition look for work, in ascending order; the pass counters follow what is released. -/
def wakePart (s : State) (p : Nat) : State :=
  let s := notePass (notePass s (2 * p)) (2 * p + 1)
  (s.boot.phys.map Prod.fst).foldl (fun s lb => if partOfLb s lb == some p then selectNext s lb else s) s

/-! ## Placement (R88) -/

/-- Key of a station's sequence slot. -/
def slotKey (k n : Nat) : Nat := k * 64 + n

/-- A query task that is queued for the first time: PENDING of its slot rises, and it counts among the slot's queued tiles (R316, R319). -/
def countQuery (s : State) (jk : Nat) (st : Station) (t : Task) : State :=
  let a := slotRec st t.slot + 12
  let q := slotKey t.station t.slot
  modJob (wrOwnLe s (jk / 2) a 4 (rdLe s a 4 + 1)) jk (fun j => { j with qQueued := Tab.set j.qQueued q (Tab.get 0 j.qQueued q + 1) })

/-- Queue a task at the tail of a bench's queue for its context. -/
def enqueue (s : State) (jk lb : Nat) (t : Task) : State :=
  let push := fun (s : State) (t : Task) => modCtx s lb (jk % 2) (fun x => { x with queue := x.queue ++ [t] })
  match (stationOf s jk t.station).filter (fun st => st.kind == 5 && t.node == (0, 0)) with
  | some st => push (countQuery s jk st t) { t with node := (0, 1) }
  | none => push s t

def queueRoom (s : State) (jk lb : Nat) : Bool := decide ((getCtx s lb (jk % 2)).queue.length < 256)

/-- A bench that may be dealt tasks. -/
def dealable (s : State) (lb : Nat) : Bool :=
  let b := getBench s lb
  present s lb && !b.failed && !b.quarantined && !b.withdrawn

/-- The bench that rules 1 to 3 name for a task, if one does: the chain's bench, the lower bench of a pair, or the bench
that holds the IN[0] tile. Over the pairs the rotating rule decides, by the station's pointer (DESIGN CHOICE, log 145: the rule names no
pair). A re-issued task is dealt over its group instead (R535). -/
def fixedBench (s : State) (jk : Nat) (t : Task) : Option Nat :=
  let j := getJob s jk
  if taskCont t then (j.chains.find? (fun c => c.station == t.station && c.step == t.step && c.ij == (t.ti, t.tj))).map (·.lb)
  else if taskLockstep t then
    let ps := (Tab.get [] j.pairs t.station).filter (fun p => dealable s p.1 && dealable s p.2)
    (rotatePick 576 (Tab.get 0 j.groupPtr t.station) (fun lb => ps.any (fun p => p.1 == lb)))
  else if taskReissue t then none
  else
    match t.ins.head? with
    | some i => if i.home = 0x3FF then none else if dealable s i.home then some i.home else none
    | none => none

/-- Keep a task until its bench has room (R88). -/
def waitTask (s : State) (jk : Nat) (t : Task) (o : Option Nat) : State :=
  modJob s jk (fun j => { j with waitingTasks := j.waitingTasks ++ [(t, o)] })

/-- Move a station's rotating pointer past a bench (R28). -/
def bumpGroup (s : State) (jk k lb : Nat) : State :=
  modJob s jk (fun j => { j with groupPtr := Tab.set j.groupPtr k ((lb + 1) % 576) })

/-- Free every input slot that a task still holds (R90, R92). -/
def freeInputs (s : State) (jk : Nat) (t : Task) : State :=
  t.ins.foldl (fun s i => if i.freed then s else freeSlot s jk i.conv i.home i.word) s

/-- A tile with a poison tag on every word, at a task's tile indices (R102, R122). -/
def poisonTile (s : State) (d : ConvDesc) (k lb : Nat) (t : Task) : List CWord :=
  let h := descPayload d d.tensor t.step t.pass t.ti t.tj t.slot t.probe k (sourceId s lb)
  let z := List.replicate 64 (0 : Byte)
  (List.range (convWords d)).map (fun n => if n = 0 then (mkMeta h true (convWords d == 1) true, h) else (mkMeta z false (n + 1 == convWords d) true, z))

/-- The number of a tile in transit that no TPUT of the running task sent. -/
def noTput : Nat := 2 ^ 32

/-- Put a tile on behalf of a bench: into a slot as landed, or waiting for one. -/
def putTile (s : State) (jk k lb : Nat) (ws : List CWord) : State :=
  match convDescOf s jk k with
  | none => s
  | some d =>
    if maySend s jk k d && !tputWaits s jk k then
      let (s, ph) := sendTile s jk k d ws
      match ph with
      | none => s
      | some ph => modCtx s lb (jk % 2) (fun x => { x with tputs := x.tputs ++ [⟨k, noTput, ph, ws⟩] })
    else modCtx (noteWait s jk k d) lb (jk % 2) (fun x => { x with tputs := x.tputs ++ [⟨k, noTput, .waiting (now s), ws⟩] })

/-- Complete a task of a lost chain: free its inputs without computing; the chain's last task sends the output tile
poisoned (R122). -/
def completeLost (s : State) (jk lb : Nat) (t : Task) : State :=
  let s := freeInputs s jk t
  if taskKeep t then s
  else
    let s := modJob s jk (fun j => { j with chains := j.chains.filter (fun c => !(c.station == t.station && c.step == t.step && c.ij == (t.ti, t.tj))) })
    (t.outs.take t.nout).foldl (fun s k =>
      match convDescOf s jk k with
      | none => s
      | some d => putTile s jk k lb (poisonTile s d k lb t)) s

/-- Whether a task continues a lost chain. -/
def chainLost (j : Job) (t : Task) : Bool := taskCont t && j.chains.any (fun c => c.station == t.station && c.step == t.step && c.ij == (t.ti, t.tj) && c.lost)

/-- Deal a task by R88: to its fixed bench, or by the rotating rule over the group; it waits where there is no room. A task of a lost chain
completes without computing (R122). -/
def dealTask (s : State) (jk : Nat) (t : Task) : State :=
  if chainLost (getJob s jk) t then completeLost s jk ((fixedBench s jk t).getD 0) t
  else match fixedBench s jk t with
  | some lb =>
    if queueRoom s jk lb then (if taskLockstep t then bumpGroup (enqueue s jk lb t) jk t.station lb else enqueue s jk lb t)
    else waitTask s jk t (some lb)
  | none =>
    if taskLockstep t || taskCont t then waitTask s jk t none
    else
      match stationOf s jk t.station with
      | none => s
      | some st =>
        let g := (presentGroup s (jk / 2) st).filter (fun lb => dealable s lb && queueRoom s jk lb)
        match rotatePick 576 (Tab.get 0 (getJob s jk).groupPtr t.station) (fun lb => g.contains lb) with
        | some lb => bumpGroup (enqueue s jk lb t) jk t.station lb
        | none => waitTask s jk t none

/-- Deal the tasks that waited for room, oldest first. -/
def dealWaiting (s : State) (jk : Nat) : State :=
  let ws := (getJob s jk).waitingTasks
  ws.foldl (fun s w => dealTask s jk w.1) (modJob s jk (fun j => { j with waitingTasks := [] }))

/-- The next TASK_SEQ of a station within a step (R89). -/
def nextSeq (s : State) (jk k step : Nat) : Nat × State :=
  let key := step * 256 + k
  let n := Tab.get 0 (getJob s jk).taskSeq key
  (n, modJob s jk (fun j => { j with taskSeq := Tab.set j.taskSeq key ((n + 1) % 2 ^ 32) }))

/-! ## Lost chains, torn updates, freezing -/

/-- Lose every chain of a job that lives on a bench: MXE_ACC_LOST for each, and its tasks that are queued or
wait to be complete without computing (R122). -/
def loseChains (s : State) (jk lb : Nat) : State :=
  let lost := (getJob s jk).chains.filter (fun c => c.lb == lb && !c.lost)
  let s := modJob s jk (fun j => { j with chains := j.chains.map (fun c => if c.lb == lb then { c with lost := true } else c) })
  let s := lost.foldl (fun s c => raiseBench s lb (jk % 2) c.station 0x0321 [(4, c.step), (2, c.ij.1), (2, c.ij.2)]) s
  let q := (getCtx s lb (jk % 2)).queue
  let late := (getJob s jk).waitingTasks.map Prod.fst
  let dead := (q ++ late).filter (chainLost (getJob s jk))
  let s := modCtx s lb (jk % 2) (fun x => { x with queue := x.queue.filter (fun t => !chainLost (getJob s jk) t) })
  let s := modJob s jk (fun j => { j with waitingTasks := j.waitingTasks.filter (fun w => !chainLost j w.1) })
  dead.foldl (fun s t => completeLost s jk lb t) s

def shardRanks (im : Image) : List Nat := (held im).map Prod.snd

/-- The master shard that a station names by its ID, with its rank. -/
def masterNamed (im : Image) (id : Nat) : Option (TensorEnt × Nat) := (tensorOf im id).bind (fun t => (shardRank im t).map (fun r => (t, r)))

/-- An owner's update task that stops before TEND tears its chunk: TORN is set and the task waits for the standby's copy (R301). -/
def tearUpdate (s : State) (jk : Nat) (t : Task) : State :=
  let j := getJob s jk
  match stationOf s jk t.station, j.image with
  | some st, some im =>
    if st.kind = 7 then
      match masterNamed im (fieldLe st.params 0 4) with
      | none => s
      | some (m, r) =>
        let a := j.shardBase + 64 * r + 0x0E
        let s := wrLe s a 1 (rdLe s a 1 ||| 4)
        let s := modJob s jk (fun j => { j with torn := j.torn ++ [(r, t.ti, reissued t)] })
        let standby := rdLe s (j.shardBase + 64 * r + 6) 2
        if standby = 0xFFFF then shardLost s jk m
        else sendFrame s .reinstall (moduleOf j standby) j.tag (m.id :: padTo 0 4 m.shard ++ [t.ti]) []
    else s
  | _, _ => s

/-- Discard the partly sent tiles of a context: their slots are freed and never counted (R95, R220). What the task has sent is noted. -/
def dropTputs (s : State) (jk lb : Nat) : State :=
  let x := getCtx s lb (jk % 2)
  let s := modCtx s lb (jk % 2) (fun x => { noteSent x with tputs := [] })
  x.tputs.foldl (fun s t => match t.phase with
    | .waiting _ => endWaits s jk t.conv [t]
    | .sending p => freeSlot (modConv s jk t.conv (fun c => { c with discards := satAdd 32 c.discards 1 })) jk t.conv (p / 32768) (p % 32768)
    | _ => s) s

/-- Stop a bench context as a freeze does (R95): chains on it are lost (R122), an owner's update is torn (R301). -/
def haltCtx (s : State) (lb c : Nat) : State :=
  match jobOf s lb c with
  | none => modCtx s lb c stopCtx
  | some jk =>
    let s := modCtx (dropTputs (addBusy s lb c) jk lb) lb c stopCtx
    let s := loseChains s jk lb
    match (getCtx s lb c).running with
    | none => s
    | some t => tearUpdate s jk t

/-- Freeze a bench context for a refused access: the record and MASTER_FROZEN, then the bench serves its other context
at once (R73, R95, R466). -/
def freezeBench (s : State) (lb c cause access addr : Nat) : State :=
  let s := haltCtx s lb c
  let s := recordFreeze s ⟨1, sourceId s lb, c, (partOfLb s lb).getD 0xFF, cause, access, addr, now s, 0⟩
  selectNext s lb

end Sys2Proof.Machine
end

