-- ==== Sys2Proof/Machine/Jobs.lean ====
section
/-! DEFINITION. The closing of a job (R72, R264, R494) and the scratchpad's error account (R79, R81, R82). -/

namespace Sys2Proof.Machine

/-! ## Scratchpad rows -/

/-- Bank × 256 + row of a window offset (R79). -/
def spdRow (off : Nat) : Nat :=
  if off < stationRegion then off / 256 % 18 * 256 + off / 256 / 18
  else let b := off - stationRegion; (18 + b / 65536) * 256 + b % 65536 / 256

/-- A row is due for retirement, once (R82). -/
def dueRow (l : List RowDue) (row c st : Nat) : List RowDue := if l.any (fun r => r.row == row) then l else l ++ [⟨row, c, st, false⟩]

/-- DATA of SPD_ROW_SPARED: logical bench, and the context and station of the access that made the row due, 0xFF where none did (R104;
DESIGN CHOICE, log 149). -/
def rowItems (lb : Nat) (r : Option RowDue) : List (Nat × Nat) := [(2, lb), (1, (r.map (·.ctx)).getD 0xFF), (1, (r.map (·.station)).getD 0xFF)]

/-- Count a corrected scratchpad error against its row; the fourth within a sweep makes the row due for retirement (R81, R82). -/
def spdCorrected (s : State) (lb c st off : Nat) : State :=
  modBench s lb (fun b =>
    let n := Tab.get 0 b.rowErrs (spdRow off) + 1
    { b with rowErrs := Tab.set b.rowErrs (spdRow off) n, rowDue := if 4 ≤ n then dueRow b.rowDue (spdRow off) c st else b.rowDue })

/-- An uncorrectable scratchpad error: the word is poisoned, the event raised, the row due for retirement (R81, R82). -/
def spdUncorrectable (s : State) (lb c st off : Nat) : State :=
  let s := modBench s lb (fun b => { b with tags := insertNat b.tags (off / 8), rowDue := dueRow b.rowDue (spdRow off) c st })
  raiseBench s lb c st 0x0311 []

/-- The outcome of the scratchpad's code on one word: 0 clean, 1 corrected, otherwise uncorrectable. -/
def spdEcc (s : State) (lb c st off kind : Nat) : State :=
  if kind = 0 then s else if kind = 1 then spdCorrected s lb c st off else spdUncorrectable s lb c st off

/-- The scratchpad's code finds errors in words that are read, or into which less than a word is written: address and whether uncorrectable (R81). -/
def noteSpdErrs (s : State) (c st : Nat) (errs : List (Nat × Bool)) : State :=
  errs.foldl (fun s e => if isWindow e.1 then spdEcc s (windowLb e.1) c st (windowOff e.1) (if e.2 then 2 else 1) else s) s

/-! ## Closing a job -/

/-- A bench context emptied of its job. -/
def clearCtx (x : BCtx) : BCtx :=
  { x with queue := [], running := none, mxeQ := [], vseQ := [], tputs := [], accLive := false, frozen := false }

/-- Clear COMP on the pages of an image's compressed buffers (R244). -/
def setComp (s : State) (im : Image) (on : Bool) : State :=
  let pages := (im.buffers.filter (fun b => b.compress == 1)).flatMap (fun b =>
    span (b.dpa / 0x200000) (ceilDiv (b.dpa % 0x200000 + b.size) 0x200000))
  let upd := fun (e : Nat) => if on then (if pageComp e then e else e + 2048) else if pageComp e then e - 2048 else e
  { s with mem := { s.mem with pages := pages.foldl (fun t p => Tab.mod 0 t p upd) s.mem.pages } }

/-- Stop a context on every bench of a partition: queues emptied, code cache entries freed (R494). -/
def emptyBenches (s : State) (jk : Nat) : State :=
  { s with benches := s.benches.map (fun e =>
      if partOfLb s e.1 == some (jk / 2) then
        (e.1, { (e.2.modCtx (jk % 2) clearCtx) with
          cache := e.2.cache.filter (fun t => t.ctx != jk % 2)
          steal := e.2.steal.filter (fun r => r.ctx != jk % 2)
          votes := e.2.votes.filter (fun v => v.ctx != jk % 2) })
      else e) }

/-- Remove the conveyors of a job. -/
def dropConvs (s : State) (jk : Nat) : State := { s with convs := s.convs.filter (fun e => e.1 / 4096 != jk) }

/-- End the SAVE or RESTORE of a job with a status (R563, R568). A SAVE past its snapshot goes on when its job is stopped. -/
def endCkpt (s : State) (jk status : Nat) (all : Bool) : State :=
  match s.stock.op with
  | none => s
  | some o =>
    if o.job = jk && (all || o.restore || o.phase == .waiting) then longDone { s with stock := { s.stock with op := none } } o.reply status
    else s

/-- End the long commands of a job that closes: a BOUNDARY stop with OK (R494), the others with the status given. -/
def endLong (s : State) (jk status : Nat) (all : Bool) : State :=
  let j := getJob s jk
  let s := match j.stopping with | some r => longDone s r (if status = 0x0224 then 0 else status) | none => s
  let s := match j.pausing with | some r => longDone s r status | none => s
  let s := match j.reshard with | some r => longDone s r.reply status | none => s
  endCkpt s jk status all

/-- Every board conveyor of a job breaks at this end (R234). -/
def breakAll (s : State) (jk : Nat) : State :=
  match (getJob s jk).image with
  | none => s
  | some im => (List.range im.conveyors.length).foldl (fun s k => breakConv s jk k) s

/-- The resources of a closing job are freed: its long commands end with a status, its board conveyors break, its haul contexts become
free, its conveyors and code cache entries are gone (R470, R494). -/
def freeJob (s : State) (jk status : Nat) (all : Bool) : State :=
  let s := endLong s jk status all
  let s := freeJobCtxs (breakAll s jk) jk
  let s := match (getJob s jk).image with | some im => setComp s im false | none => s
  modJob (dropConvs (emptyBenches s jk) jk) jk (fun _ => Job.reset)

/-- Close a job (R494); JOB_STOPPED names the context, the cause and the last step (R514). Its benches are then free for the partition's
other context (R26). -/
def closeJob (s : State) (jk cause : Nat) : State :=
  let j := getJob s jk
  if j.phase = .closed then s
  else wakePart (raiseFunc (freeJob s jk 0x0224 false) j.func true (some (jk / 2)) 0x0411 [(1, jk % 2), (1, cause), (4, j.step)]) (jk / 2)

/-- The course of R72: an event, the fault in the context record, and the job ends with cause 2. -/
def taskFault (s : State) (lb c st code : Nat) : State :=
  let s := raiseBench s lb c st code []
  let s := modCtx s lb c (fun x => { x with recPc := x.pc, recFlags := code })
  match jobOf s lb c with
  | some jk => closeJob s jk 2
  | none => s

end Sys2Proof.Machine
end

