-- ==== Sys2Proof/Machine/Rings.lean ====
section
/-! DEFINITION. Command rings, completion rings and event queues (R453 to R463): fetching, completions, interrupts, and the course
that every Psiam command takes (R456 to R459, R475, R476). -/

namespace Sys2Proof.Machine

/-! ## Rings -/

def Func.ring (fn : Func) (r : Nat) : Ring := if r = 0 then fn.ring0 else fn.ring1
def modRing (s : State) (f r : Nat) (g : Ring → Ring) : State :=
  modFunc s f (fun fn => if r = 0 then { fn with ring0 := g fn.ring0 } else { fn with ring1 := g fn.ring1 })
def getRing (s : State) (f r : Nat) : Ring := (getFunc s f).ring r

/-- A function's mailbox is served: after READY, or the PF's in ROM recovery mode (R516, R589). -/
def mailboxServed (s : State) (f : Nat) : Bool := decide (f < 8) && !s.boot.halted && (s.boot.ready || (s.boot.st == 3 && f == 0))

/-- A failed DMA of a ring or an event queue (2): HOST_DMA is set, ENABLE clears and the PF is told (R462). -/
def dmaError (s : State) (f r : Nat) : State :=
  let off := fun (c : Long) => c &&& ~~~(1 : Long)
  let s := setErr s 12
  let s := if r = 2 then modFunc s f (fun fn => { fn with evqCfg := off fn.evqCfg })
    else modRing s f r (fun q => { q with cfg := off q.cfg, fetched := [], heldCq := [] })
  raisePf s 0x0405 (sourceId s srcMp) [(1, f), (1, r)]

/-! ## Completions (R456, R458) -/

/-- A completion ring is full: its write index less HEAD equals its size. -/
def cqFull (q : Ring) : Bool := decide (cfgSize q.cfg ≤ (q.cqWi + 65536 - q.cqHead % 65536) % 65536)

/-- The 32 B of a completion. -/
def completionBytes (c : Completion) (r : Nat) (phase : Bool) : List Byte :=
  toLe 4 c.tag ++ toLe 2 c.status ++ toLe 1 (b2n phase + 2 * r + 4 * b2n c.long) ++ [0] ++ toLe 2 c.index ++ [0, 0] ++ toLe 4 c.outWritten
    ++ padTo 0 16 c.result

/-- Write a completion into a ring with room; it counts toward an interrupt when its descriptor had IRQ set (R463). -/
def putCq (s : State) (f r : Nat) (c : Completion) : State :=
  let q := getRing s f r
  let size := cfgSize q.cfg
  let s := hostWrite s (q.cqBase.toNat / 4096 * 4096 + 32 * (q.cqWi % size)) (completionBytes c r (q.cqWi / size % 2 == 0))
  let s := modRing s f r (fun q => { q with cqWi := q.cqWi + 1 })
  if c.irq then
    let (coal, due) := coalStep q.coal q.cfg (now s)
    let s := modRing s f r (fun q => { q with coal := coal })
    if due then fireVector s f (cfgVector q.cfg) else s
  else s

/-- Write the completions that wait, in order, while the ring has room and its function is not frozen. -/
def writeHeld (s : State) (f r fuel : Nat) : State :=
  match fuel with
  | 0 => s
  | n + 1 =>
    let q := getRing s f r
    match q.heldCq with
    | [] => s
    | c :: rest =>
      if (getFunc s f).frozen || cqFull q then s
      else writeHeld (modRing (putCq s f r c) f r (fun q => { q with heldCq := rest })) f r n

/-- A command completes: its completion is written, waits, or is discarded with ENABLE clear (R454, R456, R467). -/
def complete (s : State) (f r : Nat) (c : Completion) (fails : Bool) : State :=
  let q := getRing s f r
  if !cfgEnable q.cfg then s
  else if (getFunc s f).frozen || !q.heldCq.isEmpty || cqFull q then modRing s f r (fun q => { q with heldCq := q.heldCq ++ [c] })
  else if fails then dmaError s f r
  else putCq s f r c

/-! ## Starting commands (R456) -/

/-- Commands of a function started and unfinished: those whose completion waits. -/
def unfinished (fn : Func) : Nat := fn.ring0.heldCq.length + fn.ring1.heldCq.length

/-- Whether the front fetched command of a ring may start. -/
def mayBegin (s : State) (f r : Nat) : Bool :=
  let fn := getFunc s f
  match (fn.ring r).fetched with
  | [] => false
  | d :: _ => mailboxServed s f && !fn.frozen && decide (unfinished fn < 8) && (!bit d.flags 1 || (fn.ring r).heldCq.isEmpty)

/-- Ring 1 of every function comes before ring 0 of any. -/
def ringTurn (s : State) (r : Nat) : Bool := r == 1 || (List.range 8).all (fun f => !mayBegin s f 1)

/-- The command codes of R475. -/
def psmOpcodes : List Nat :=
  [0x0001, 0x0101, 0x0102, 0x0103, 0x0104, 0x0105, 0x0106, 0x0201, 0x0202, 0x0203, 0x0204, 0x0205, 0x0206, 0x0207, 0x0208, 0x0301, 0x0302, 0x0303,
   0x0401, 0x0402, 0x0403, 0x0501, 0x0502, 0x0503, 0x0504, 0x0505]

/-- Codes that the ROM accepts in recovery mode (R589). -/
def romOpcodes : List Nat := [0x0001, 0x0504, 0x0505]

/-- The status with which an opcode is turned away unread: CMD_UNKNOWN, or CMD_DENIED from the ROM. -/
def opcodeRefused (s : State) (op : Nat) : Option Nat :=
  if s.boot.st = 3 then (if romOpcodes.contains op then none else some 2)
  else if psmOpcodes.contains op then none else some 1

def plainCompletion (d : Desc) (status : Nat) : Completion := ⟨d.tag, status, false, d.index, 0, [], bit d.flags 0⟩

/-- Take the front command of a ring off the ring. -/
def popFetched (s : State) (f r : Nat) : State := modRing s f r (fun q => { q with fetched := q.fetched.drop 1 })

/-- Complete the front commands of a ring that no Psiam command answers. -/
def refuseUnknown (s : State) (f r fuel : Nat) : State :=
  match fuel with
  | 0 => s
  | n + 1 =>
    match (getRing s f r).fetched with
    | [] => s
    | d :: _ =>
      match opcodeRefused s d.opcode with
      | none => s
      | some st => if mayBegin s f r then refuseUnknown (complete (popFetched s f r) f r (plainCompletion d st) false) f r n else s

/-! ## The service of a ring (R455 to R457) -/

/-- A descriptor as it is fetched. -/
def parseDesc (d : List Byte) (index : Nat) : Desc :=
  ⟨fieldLe d 0 2, fieldLe d 2 1, fieldLe d 3 1, fieldLe d 4 4, fieldLe d 8 8, fieldLe d 0x10 4, fieldLe d 0x14 4, fieldLe d 0x18 8,
   padTo 0 32 ((d.drop 0x20).take 32), index⟩

/-- A ring that the MP may serve now. -/
def servable (s : State) (r f : Nat) : Bool :=
  let q := getRing s f r
  mailboxServed s f && !(getFunc s f).frozen && q.pending && cfgEnable q.cfg

/-- The ring that the MP serves next: function and ring. -/
def nextRing (s : State) : Option (Nat × Nat) :=
  match rotatePick 8 s.host.fnPtr (servable s 1) with
  | some f => some (f, 1)
  | none => (rotatePick 8 s.host.fnPtr (servable s 0)).map (fun f => (f, 0))

/-- The MP reads PI, clears PENDING and fetches descriptors CI to PI − 1; a failed fetch disables the ring (R455, R462). -/
def doRingService (f r : Nat) (descs : List (List Byte)) (fails : Bool) (s : State) : State :=
  if nextRing s != some (f, r) then s
  else
    let q := getRing s f r
    let n := (q.pi + 65536 - q.ci % 65536) % 65536
    let s := { s with host := { s.host with fnPtr := (f + 1) % 8 } }
    let s := modRing s f r (fun q => { q with pending := false })
    if fails && n != 0 then dmaError s f r
    else
      let ds := (List.range n).map (fun k => parseDesc (descs.getD k []) ((q.ci + k) % 65536))
      let s := modRing s f r (fun q => { q with ci := q.pi, fetched := q.fetched ++ ds })
      flushLost (refuseUnknown s f r (getRing s f r).fetched.length) f

def execMpRingService (func ring : Nat) (descs : List (List Byte)) (fails : Bool) (s : State) : Host.Outcome State Fault Refusal :=
  done (doRingService func ring descs fails s)

/-! ## Interrupts by time (R463) -/

/-- COAL_TIME passes since the first uncounted entry of ring 0, ring 1 or the event queue (2). -/
def doCoalTimer (f w : Nat) (s : State) : State :=
  let fn := getFunc s f
  let (c, cfg) := if w = 2 then (fn.coal, fn.evqCfg) else ((fn.ring w).coal, (fn.ring w).cfg)
  if c.count = 0 || cfgCoalTime cfg = 0 || now s < c.since + 100 * cfgCoalTime cfg then s
  else
    let s := if w = 2 then modFunc s f (fun fn => { fn with coal := ⟨0, 0⟩ }) else modRing s f w (fun q => { q with coal := ⟨0, 0⟩ })
    fireVector s f (cfgVector cfg)

def execMsixCoalTimer (func queue : Nat) (s : State) : Host.Outcome State Fault Refusal := done (doCoalTimer func queue s)

/-! ## The course of a Psiam command (R456, R459, R475) -/

/-- What a command answers: status, LONG, the inline result, and the bytes for the result buffer. -/
structure Answer where
  status : Nat
  long : Bool
  result : List Byte
  out : List Byte
deriving DecidableEq, Repr

def okA : Answer := ⟨0, false, [], []⟩
def refuseA (st : Nat) : Answer := ⟨st, false, [], []⟩
def longA : Answer := ⟨0, true, [], []⟩
def resultA (d : List Byte) : Answer := ⟨0, false, d, []⟩

/-- Scope of a command (R476). -/
inductive Scope where
  | none
  | module
  | part
deriving DecidableEq, Repr

/-- Who may issue a command, its scope, and the bytes that its buffers need. -/
structure PsmRow where
  op : Nat
  pfOnly : Bool
  scope : Scope
  inNeed : List Byte → List Byte → Nat
  outNeed : Nat

/-- What a running command sees: issuing function, ring, its descriptor, the partition it names, its buffer. -/
structure Call where
  f : Nat
  r : Nat
  d : Desc
  p : Nat
  buf : List Byte
deriving DecidableEq, Repr

/-- PARAMS field of a call. -/
def Call.par (c : Call) (off n : Nat) : Nat := fieldLe c.d.params off n
/-- Whom the end of this call's long part answers. -/
def Call.ref (c : Call) : LongRef := ⟨c.d.tag, c.d.opcode, c.d.index, c.r, c.f⟩
/-- Primary or filler job of the partition named. -/
def Call.job (c : Call) (ctx : Nat) : Nat := c.p * 2 + (if ctx = 0 then 0 else 1)

/-- The partition that a descriptor names (R457, R459): a VF's own, or PART of a PF's command. -/
def namedPart (s : State) (f : Nat) (d : Desc) : Option Nat :=
  if f = 0 then (if d.part < 4 then some d.part else none) else (getFunc s f).part

/-- The generic refusals of R459 in table order, the failed buffer last. -/
def genericRefusal (s : State) (f : Nat) (d : Desc) (w : PsmRow) (io : HostIo) : Option Nat :=
  if w.pfOnly && f != 0 then some 2
  else if w.scope == .part && (namedPart s f d).isNone then some 3
  else if w.scope == .part && (getPart s ((namedPart s f d).getD 0)).resetting then some 4
  else if d.inLen < w.inNeed d.params io.buf || d.outLen < w.outNeed then some 5
  else if (io.fail.map (fun n => decide (n < d.inLen))).getD false && w.inNeed d.params io.buf != 0 then some 6
  else none

/-- Answer a call: result buffer first, then the completion (R457). The bytes that pass before a failed write are written. -/
def answerCall (s : State) (c : Call) (a : Answer) (io : HostIo) : State :=
  let cut := match io.fail with | some n => decide (n < a.out.length) | none => false
  let out := match io.fail with | some n => a.out.take n | none => a.out
  let s := hostWrite s c.d.outAddr out
  let st := if cut && a.status = 0 then 6 else a.status
  complete s c.f c.r ⟨c.d.tag, st, a.long, c.d.index, out.length, a.result, bit c.d.flags 0⟩ io.cqFails

/-- PARAMS fields with defined codes 0 to `top`, as opcode, offset and `top` (R482, R484, R485, R491 to R496, R501 to R506). -/
def codeFields : List (Nat × Nat × Nat) :=
  [(0x0101, 0, 3), (0x0101, 1, 7), (0x0102, 0, 3), (0x0103, 0, 3), (0x0202, 4, 1), (0x0203, 0, 1), (0x0204, 0, 1), (0x0204, 1, 1), (0x0205, 0, 1),
   (0x0207, 0, 1), (0x0303, 0, 4), (0x0401, 0, 4), (0x0402, 0, 1), (0x0403, 0, 1), (0x0501, 0, 11), (0x0501, 1, 1)]

/-- A descriptor as its command acts on it: a reserved code acts as one of the defined codes of its field, and the spec does not
say as which (R515, log 85). -/
def settled (d : Desc) : Desc :=
  codeFields.foldl (fun d e =>
    let v := fieldLe d.params e.2.1 1
    if d.opcode = e.1 ∧ e.2.2 < v then
      { d with params := modAt d.params e.2.1 (fun _ => BitVec.ofNat 8 (Config.reservedCode e.1 v % (e.2.2 + 1))) }
    else d) d

/-- A descriptor is of a partition-scope command (R475): all of PSM_KEY_INSTALL but MODULE_KEY, all of PSM_CHECKPOINT but CONFIG. -/
def partScope (d : Desc) : Bool :=
  d.opcode == 0x0105 || (decide (0x0201 ≤ d.opcode) && decide (d.opcode ≤ 0x0208)) || d.opcode == 0x0301 || d.opcode == 0x0302 || d.opcode == 0x0402
    || (d.opcode == 0x0303 && fieldLe d.params 0 1 != 4) || (d.opcode == 0x0401 && fieldLe d.params 0 1 != 0)

/-- A fetched command that names a partition and that the reset of the partition turns away: one that a VF may not issue is denied first
(R459, R479). -/
def namesPart (s : State) (f p : Nat) (d : Desc) : Bool := partScope (settled d) && namedPart s f d == some p

/-- Commands of one ring that name a resetting partition and have not started complete with PART_RESET (R479). -/
def refuseNaming (s : State) (p f r : Nat) : State :=
  let q := getRing s f r
  let s := modRing s f r (fun q => { q with fetched := q.fetched.filter (fun d => !namesPart s f p d) })
  (q.fetched.filter (namesPart s f p)).foldl (fun s d => complete s f r (plainCompletion d (if d.opcode = 0x0105 ∧ f ≠ 0 then 2 else 4)) false) s

/-- Run the front command of a ring, where it is the one that a row of the table names. A path change holds the module scope
until its long part ends (R476). -/
def withCmd (w : PsmRow) (pick : Desc → Bool) (f r : Nat) (io : HostIo) (body : State → Call → State × Answer) (s : State) : State :=
  match (getRing s f r).fetched with
  | [] => s
  | d0 :: _ =>
    let d := settled d0
    if d.opcode != w.op || !pick d || !mayBegin s f r || !ringTurn s r || (w.scope != .none && s.board.leaving.isSome) then s
    else
      let s := popFetched s f r
      let c : Call := ⟨f, r, d, (namedPart s f d).getD 0xFF, padTo 0 d.inLen io.buf⟩
      let s :=
        match genericRefusal s f d w io with
        | some st => answerCall s c (refuseA st) io
        | none => match body s c with | (s, a) => answerCall s c a io
      refuseUnknown s f r (getRing s f r).fetched.length

/-- ACTION, MODE or DIR of a command: PARAMS byte `off`. -/
def actionIs (off n : Nat) (d : Desc) : Bool := fieldLe d.params off 1 == n

end Sys2Proof.Machine
end

