-- ==== Sys2Proof/Machine/Bar4.lean ====
section
/-! DEFINITION. The BAR4 aperture (R464 to R468): the check of a host function's access, its reads and its writes. -/

namespace Sys2Proof.Machine

/-! ## The check (R78, R240, R245, R464) -/

/-- Pages that [a, a + n) touches. -/
def pagesOf (a n : Nat) : List Nat := span (a / 0x200000) (ceilDiv (a % 0x200000 + n) 0x200000)

/-- The cause for which an access of function f to [a, a + n) is refused; none where it passes. -/
def hostCause (s : State) (f a n : Nat) : Option Nat :=
  let mine := fun (q : Option Nat) => if f = 0 then q.isSome else q.isSome && q == (getFunc s f).part
  if isWindow a then
    if decide (windowOff a + n ≤ stationRegion) && present s (windowLb a) && mine (partOfLb s (windowLb a)) then none else some 3
  else if partTop s < a + n then some 2
  else
    let es := (pagesOf a n).map (pageEntry s)
    if es.any (fun e => !pageOwned e || !mine (some (pagePart e))) then some 0
    else if f != 0 && es.any (fun e => !pageHost e) then some 1
    else none

/-- The access meets a page of a partition that is resetting: it is refused and freezes nothing (R471). -/
def meetsReset (s : State) (a n : Nat) : Bool :=
  if isWindow a then (match partOfLb s (windowLb a) with | some p => (getPart s p).resetting | none => false)
  else (pagesOf a n).any (fun k => pageOwned (pageEntry s k) && (getPart s (pagePart (pageEntry s k))).resetting)

/-- Freeze a virtual function (R466). -/
def freezeFunc (s : State) (f cause access addr : Nat) : State :=
  let s := modFunc s f (fun fn => { fn with frozen := true })
  recordFreeze s ⟨0, sourceId s (0x400 + f), 0, ((getFunc s f).part).getD 0xFF, cause, access, addr, now s, 0⟩

/-- A refused request: the PF is told and its count rises; a VF is frozen (R466, R468). -/
def refuseHost (s : State) (f cause access addr : Nat) : State :=
  if f = 0 then
    raisePf (modFunc s 0 (fun fn => { fn with denied := satAdd 32 fn.denied 1 })) 0x0403 (sourceId s 0x400) [(8, addr)]
  else freezeFunc s f cause access addr

/-- Whether a BAR4 request is served at all: the module is READY, the function exists and is not frozen (R467, R516). -/
def bar4Open (s : State) (f : Nat) : Bool := decide (f < 8) && s.boot.ready && !s.boot.halted && !(getFunc s f).frozen

def bar4Addr (s : State) (f off : Nat) : Nat := (getFunc s f).aperture.toNat + off

/-! ## Requests (R465) -/

def answerRead (s : State) (d : List Byte) (poisoned : Bool) : State := { s with host := { s.host with bar4Reply := (d, poisoned) } }

/-- A host function's access meets scratchpad words the code finds in error, read or merged into: no bench's context or station (R81;
DESIGN CHOICE, log 149). -/
def noteHostErrs (s : State) (errs : List (Nat × Bool)) : State := noteSpdErrs s 0xFF 0xFF errs

/-- A read of n bytes at offset off of function f's BAR4. -/
def doBar4Read (f off n : Nat) (errs : List (Nat × Bool)) (s : State) : State :=
  let a := bar4Addr s f off
  let refused := fun (s : State) => answerRead s (List.replicate n 0xFF) false
  if !bar4Open s f then refused s
  else match hostCause s f a n with
    | some c => refused (if meetsReset s a n then s else refuseHost s f c 0 a)
    | none => if meetsReset s a n then refused s else
      let s := noteHostErrs s errs
      answerRead (noteSizes s a n) (rdData s a n) (rdTagged s (a / 64 * 64) (a % 64 + n))

/-- A host read, with the scratchpad words read in which the code finds an error (R81, R464). -/
def execBar4Read (func off : Nat) (len : Met Nat) (s : State) : Host.Outcome State Fault Refusal :=
  done (doBar4Read func off len.1 len.2 s)

/-- A posted write of bytes at offset off of function f's BAR4: plain, or coded where a whole aligned block falls on a page
with COMP set (R256, R465). -/
def doBar4Write (f off : Nat) (d : List Byte) (errs : List (Nat × Bool)) (s : State) : State :=
  let a := bar4Addr s f off
  if !bar4Open s f then s
  else match hostCause s f a d.length with
    | some c => if meetsReset s a d.length then s else refuseHost s f c 1 a
    | none => if meetsReset s a d.length then s else applyComp (noteHostErrs s errs) 0 (cellsOf a d false)

/-- A host write, with such words among those that it covers in part (R81, R465). -/
def execBar4Write (func off : Nat) (data : Met (List Byte)) (s : State) : Host.Outcome State Fault Refusal :=
  done (doBar4Write func off data.1 data.2 s)

end Sys2Proof.Machine
end

