-- ==== Sys2Proof/Machine/Image.lean ====
section
/-! DEFINITION. Firmware images: the header and its checks (R579 to R581), the slots and the choice of one (R523, R588). -/

namespace Sys2Proof.Machine

def modFw (s : State) (f : FwSt → FwSt) : State := { s with fw := f s.fw }

/-- A slot's image bytes. -/
def slotMem (s : State) (n : Nat) : Mem := Tab.get [] s.fw.slots n

/-- The header of a slot. -/
def slotHeader (s : State) (n : Nat) : List Byte := Mem.read (slotMem s n) 0 256

/-- Fields of an image header (R579). -/
def fwFlags (h : List Byte) : Nat := fieldLe h 0x09 1
def fwEpoch (h : List Byte) : Nat := fieldLe h 0x0A 1
def fwKey (h : List Byte) : Nat := fieldLe h 0x0B 1
def fwVer (h : List Byte) : Nat := fieldLe h 0x0C 4
def fwSize (h : List Byte) : Nat := fieldLe h 0x10 8
def fwChunks (h : List Byte) : Nat := fieldLe h 0x18 4
def fwKeySlot (h : List Byte) : Nat := fieldLe h 0x1C 2
def fwNonce (h : List Byte) : List Byte := (h.drop 0x20).take 12
def fwEncrypted (h : List Byte) : Bool := bit (fwFlags h) 2

/-- The first check of R581 that a header fails, or 0. -/
def headerCode (floor : Nat) (h : List Byte) : Nat :=
  if fieldLe h 0 4 ≠ 0x57465350 ∨ fieldLe h 4 2 ≠ 1 then 1
  else if fieldLe h 6 2 ≠ 0x0A09 ∨ fieldLe h 8 1 ≠ 0xB0 then 2
  else if fwEpoch h < floor then 3
  else if fwSize h < 512 ∨ 134217728 < fwSize h then 4
  else if fwChunks h ≠ ceilDiv (fwSize h) 65536 then 5
  else 0

/-- The header check of a slot at ROM: R581, and the fuses of its key (R588). -/
def fwSlotOk (s : State) (n : Nat) : Bool :=
  s.fw.hdrs.contains n && headerCode s.boot.floor (slotHeader s n) == 0 && !s.boot.revoked.contains (fwKey (slotHeader s n))

/-- Verification of a whole image: the key's revocation fuse and the signature over header bytes 0x00 to 0x7F and image
bytes from 0x100 (R580). -/
def imageOk (s : State) (m : Mem) : Bool :=
  let h := Mem.read m 0 256
  !s.boot.revoked.contains (fwKey h) && decide (s.boot.floor ≤ fwEpoch h)
    && Config.fwSigOk (fwKey h) (h.take 0x80 ++ (h.drop 0x80).take 96) (Mem.read m 0x100 (fwSize h - 0x100))

/-- The other slot. -/
def otherSlot (n : Nat) : Nat := 1 - n % 2

/-- The slot that ROM chooses: the marked one, else the one that last reached READY; ALTER takes the slot other than the one
whose ROM attempt failed most recently (R522, R523). -/
def romSlot (s : State) (alter : Bool) : Nat :=
  let n := s.fw.mark.getD s.fw.lastReady
  if alter then otherSlot (s.boot.romFailed.getD (otherSlot n)) else n

/-- The section table of R580: each of types 1 to 5 exactly once, sections inside the image at multiples of 4,096. -/
def sectionsOk (m : Mem) : Bool :=
  let size := fwSize (Mem.read m 0 256)
  let es := (List.range 16).map (fun k => Mem.read m (0x100 + 16 * k) 16)
  let used := es.filter (fun e => fieldLe e 0 1 != 0)
  (span 1 5).all (fun t => used.countP (fun e => fieldLe e 0 1 == t) == 1)
    && used.all (fun e => decide (1 ≤ fieldLe e 0 1 ∧ fieldLe e 0 1 ≤ 5 ∧ fieldLe e 4 4 % 4096 = 0 ∧ 0x200 ≤ fieldLe e 4 4 ∧ fieldLe e 4 4 + fieldLe e 8 4 ≤ size)
      && (fieldLe e 0 1 != 4 || decide (fieldLe e 8 4 ≤ 524288)))

end Sys2Proof.Machine
end

