-- ==== Sys2Proof/Machine/Reset.lean ====
section
/-! DEFINITION. Fundamental reset and loss of main power (R516, R614, R622): what the module keeps, and the attempt that
they interrupt (R525). -/

namespace Sys2Proof.Machine

/-- An interrupted attempt of a step whose records are in flash: at the second consecutive start it counts as a FAIL of
both starts (R525). The records of POWER, CLOCK and FUSE are only in the buffer, so those leave no trace. -/
def noteCut (s : State) : State :=
  let n := s.boot.step
  if s.boot.st = 1 && 3 ≤ n then
    modLog s (fun l =>
      if l.cut.contains n then
        { l with cut := [n, n], fails := Tab.mod 0 l.fails n (fun f => min 15 (f + (if l.cut.length = 1 then 2 else 1))) }
      else { l with cut := [n] })
  else if s.boot.served && !(logState s).cut.isEmpty then modLog s (fun l => { l with cut := [] })
  else s

/-- The slot that an activation writes: the one not running; in recovery the one whose ROM or IMAGE attempt failed most recently (R586,
R589). -/
def fwTarget (s : State) : Nat :=
  match s.boot.runSlot with
  | some n => 1 - n % 2
  | none => s.boot.anyFailed.getD 0

/-- An activation that PERST#, a loss of power or the standby pair ends: from its step 5 on the target slot has no header,
and no slot is marked (R478, R587). -/
def cutActivation (s : State) (writing : Bool) : State :=
  match s.fw.op with
  | none => s
  | some _ =>
    let target := fwTarget s
    if writing then { s with fw := { s.fw with op := none, mark := none, hdrs := s.fw.hdrs.filter (· != target) } }
    else { s with fw := { s.fw with op := none } }

/-- The main domain after a fundamental reset: every register at its reset value. Flash, fuses, the stack map, the remap
tables and the module key are kept (R238, R249, R402, R530, R577); key slots wait for boot step CIPHER (R406), and the pointers of shared
arbitration points for READY (R29). -/
def mainReset (s : State) : State :=
  let b := s.boot
  { State.reset with
    pending := s.pending, freeCtr := s.freeCtr, out := s.out
    host := { HostSt.reset with hostMem := s.host.hostMem, fnPtr := s.host.fnPtr }
    mem := { MemSt.reset with
      stackMap := s.mem.stackMap, spare := s.mem.spare, failedLs := s.mem.failedLs
      stk := Tab.mapAll s.mem.stk (fun _ k => { k with corrected := [], badRows := [], patrol := 0 }) }
    cipher := { CipherSt.reset with
      moduleKey := s.cipher.moduleKey, slots := s.cipher.slots, encPtr := s.cipher.encPtr, decPtr := s.cipher.decPtr }
    board := { BoardSt.reset with slotId := s.board.slotId }
    boot := { BootSt.reset with
      mismatches := b.mismatches
      opPoint := b.opPoint, qualLog2 := b.qualLog2, qualBer := b.qualBer, tsyncComp := b.tsyncComp, romFailed := b.romFailed
      imgFailed := b.imgFailed, anyFailed := b.anyFailed, log := b.log, logSeq := b.logSeq, copyA := b.copyA, copyB := b.copyB
      factory := b.factory, wear := b.wear, floor := b.floor, revoked := b.revoked }
    fw := { s.fw with asm := [], op := none }
    power := { s.power with
      tThrottled := 0, tBoost := 0, tVhi := 0, tHeat := 0, energy := 0, droops := 0, holdover := false, holdNs := 0, coolant := none }
    jtag := { s.jtag with ir := if s.jtag.ir = .scan then .bypass else s.jtag.ir } }

/-- Conversion stops: the main domain loses its power, its keys with it. -/
def stopConversion (s : State) : State :=
  let s := mainReset (cutActivation (noteCut s) false)
  let s := { s with cipher := { s.cipher with slots := [] } }
  let s := modBoot s (fun b => { b with opPoint := 0, qualLog2 := 36, qualBer := 15, tsyncComp := 0 })
  modPower s (fun p => { p with
    conv := false, pgood := false, pgoodNs := 0, k := 0, vset := 0, limit := 0, boost := false, phases := [], barred := false, below := 0
    tripped := false, crit := 0, stackHot := [], bin := 0 })

end Sys2Proof.Machine
end

