-- ==== Sys2Proof/Machine/Time.lean ====
section
/-! DEFINITION. The timebase (R438 to R441): the reference edge that an idle step stands for, and the lock to the board. -/

namespace Sys2Proof.Machine

def modTime (s : State) (f : TimeSt → TimeSt) : State := { s with time := f s.time }

/-- TB after one edge of the 100 MHz reference: 10 ns, one more or one less once in 1,024 ns while it slews, none while it
holds (R438, R440). -/
def tickTime (t : TimeSt) : TimeSt :=
  if !t.run then t
  else
    let acc := t.slewAcc + 10
    let due := decide (1024 ≤ acc)
    let left := if due then acc - 1024 else acc
    match t.slew with
    | .none => { t with tb := (t.tb + 10) % 2 ^ 64 }
    | .forward n =>
      if due then { t with tb := (t.tb + 11) % 2 ^ 64, slewAcc := left, slew := if n ≤ 1 then .none else .forward (n - 1) }
      else { t with tb := (t.tb + 10) % 2 ^ 64, slewAcc := left }
    | .back n =>
      if due then { t with tb := (t.tb + 9) % 2 ^ 64, slewAcc := left, slew := if n ≤ 1 then .none else .back (n - 1) }
      else { t with tb := (t.tb + 10) % 2 ^ 64, slewAcc := left }
    | .hold n => { t with slew := if n ≤ 10 then .none else .hold (n - 10) }

/-- One edge of the 100 MHz reference (log 1): TB counts, and so do the times that the module keeps apart from TB. -/
def idle (s : State) : State :=
  let s := modTime s tickTime
  let s := modBoot s (fun b => if b.served then { b with sinceNs := b.sinceNs + 10 } else b)
  modPower s (fun p => { p with
    pgoodNs := if p.pgood then min 1000000 (p.pgoodNs + 10) else 0
    offNs := p.offNs.bind (fun t => if t + 10 < 20000000 then some (t + 10) else none)
    holdNs := if p.holdover then p.holdNs + 10 else p.holdNs })

/-! ## The board's lock (R439 to R441) -/

def interval : Nat := 2 ^ 24

/-- SLOT_IDs present to this module: its own, and those behind ports that are UP or DEGRADED (R421). -/
def presentSlots (s : State) : List Nat :=
  (List.range 8).filter (fun n => n == s.board.slotId ||
    s.board.ports.any (fun e => (s.board.slotId ^^^ (e.1 + 1)) == n && (e.2.st == .up || e.2.st == .degraded)))

/-- This module is the lowest present slot. -/
def lowestSlot (s : State) : Bool := (presentSlots s).head? == some s.board.slotId

/-- The timekeeper pulls TSYNC low at a multiple of 2^24 ns (R440); a module whose PGOOD is low leaves it released (R617). -/
def doPulseDrive (s : State) : State :=
  let t := s.time
  if t.keeper && t.run && s.power.pgood && t.tb % interval = 0 then
    let s := if 10000000000 < s.power.holdNs then raisePf s 0x03DB (sourceId s srcMp) [] else s
    modTime s (fun t => { t with lastPulse := t.tb, lastDriven := t.tb })
  else s

def execTsyncPulseDrive (s : State) : Host.Outcome State Fault Refusal := done (doPulseDrive s)

/-- The TIME frame names V; TB is loaded at the next TSYNC edge (R439). -/
def doTimeFrame (v : Nat) (s : State) : State := if s.time.keeper then s else modTime s (fun t => { t with loadV := some (v % 2 ^ 64) })

def execTimeFrameReceive (v : Nat) (s : State) : Host.Outcome State Fault Refusal := done (doTimeFrame v s)

/-- The multiple of 2^24 nearest to a count. -/
def nearest (tb : Nat) : Nat := (tb + interval / 2) / interval * interval

/-- A falling edge of TSYNC that this module did not drive (R439 to R441). TB at the edge, less TSYNC_COMP, is compared with the
multiple: it is aligned, slews, loads or holds. The edge arrives TSYNC_COMP after the timekeeper's V, so TB is loaded with V plus TSYNC_COMP
(DEDUCED, log 35). A module that drives stops when it sees a pulse it did not drive. -/
def doPulseReceive (s : State) : State :=
  let t := s.time
  if !t.run || t.lastDriven = t.tb && t.keeper then s
  else
    let s := modTime s (fun t => { t with keeper := false })
    match t.loadV with
    | some v =>
      let n := v + t.comp
      modTime s (fun t => { t with tb := max t.tb n, loadV := none, loaded := true, agreed := false, lastPulse := max t.tb n, slew := .none, slewAcc := 0 })
    | none =>
      let m := nearest (t.tb - t.comp)
      let d : Int := ((t.tb - t.comp : Nat) : Int) - (m : Int)
      let s := modTime s (fun t => { t with lastPulse := t.tb, offset := d, agreed := t.loaded && decide (d.natAbs ≤ 2) })
      let s := if 10000000000 < s.power.holdNs then raisePf s 0x03DB (sourceId s srcMp) [] else s
      if d.natAbs ≤ 2 || s.boot.unlocked then s
      else if d.natAbs ≤ 1000 then
        modTime s (fun t => { t with slewAcc := 0, slew := if d < 0 then .forward d.natAbs else .back d.natAbs })
      else
        let s := raisePf s 0x03DB (sourceId s srcMp) []
        if d < 0 then modTime s (fun t => { t with tb := (m + t.comp) % 2 ^ 64, slew := .none })
        else modTime s (fun t => { t with slew := .hold d.natAbs })

def execTsyncPulseReceive (s : State) : Host.Outcome State Fault Refusal := done (doPulseReceive s)

/-- No pulse for three intervals: the lowest slot present takes over, and TIMEKEEPER_CHANGED is raised; a
module that has driven in this start and stopped does not drive again until its next start (R441). -/
def doTakeKeeper (s : State) : State :=
  let t := s.time
  if !t.keeper && t.run && t.lastDriven = 0 && t.lastPulse + 3 * interval ≤ t.tb && lowestSlot s then
    raisePf (modTime s (fun t => { t with keeper := true, lastPulse := t.tb })) 0x03DC (sourceId s srcMp) []
  else s

def execTimekeeperChanged (s : State) : Host.Outcome State Fault Refusal := done (doTakeKeeper s)

end Sys2Proof.Machine
end

