-- ==== Sys2Proof/Machine/Power.lean ====
section
/-! DEFINITION. Power and its order (R592 to R594, R622 to R624), PERST# (R516, R614), the governor (R595 to R603), the
reference clock (R599), the coolant sensor (R626) and the pins that the module drives (R449, R615). -/

namespace Sys2Proof.Machine

/-! ## Pins -/

/-- PERST# is deasserted with effect: SLOT_ID is read, code memories are clear, the boot block is served, and the logbook counts
the start (R419, R516, R518). -/
def releasePerst (s : State) (slot : Nat) : State :=
  let s := modPower s (fun p => { p with perst := false, perstHeld := false })
  let s := { s with board := { s.board with slotId := slot % 8 }, benches := Tab.mapAll s.benches (fun _ b => { b with cache := [] }) }
  let s := modLog s (fun l => { l with starts := (l.starts + 1) % 2 ^ 32 })
  modBoot s (fun b => { b with served := true, sinceNs := 0 })

/-- Deassertion of PERST# with the SLOT_ID pins as they stand; before PGOOD has been high for 1 ms it is held (R516, R622). -/
def doPerstDeassert (slot : Nat) (s : State) : State :=
  let p := s.power
  if !p.perst || !p.conv then s
  else if !p.pgood || p.pgoodNs < 1000000 then modPower s (fun p => { p with perstHeld := true })
  else releasePerst s slot

def execPerstDeassert (slot : Nat) (s : State) : Host.Outcome State Fault Refusal := done (doPerstDeassert slot s)

/-- The 1 ms ends, and a held deassertion takes effect (R622). -/
def doHeldPerst (slot : Nat) (s : State) : State :=
  let p := s.power
  if p.perstHeld && p.pgood && decide (1000000 ≤ p.pgoodNs) then releasePerst s slot else s

def execHeldPerstDeassertion (slot : Nat) (s : State) : Host.Outcome State Fault Refusal := done (doHeldPerst slot s)

/-- Assertion of PERST#: a fundamental reset; with conversion off, as in an orderly power-down, it changes nothing but the pin
(R614, R623). `writing` says that an activation under way has reached its step 5 (R587). -/
def doPerstAssert (writing : Bool) (s : State) : State :=
  if s.power.conv then modPower (mainReset (cutActivation (noteCut s) writing)) (fun p => { p with perst := true, perstHeld := false })
  else modPower s (fun p => { p with perst := true, perstHeld := false })

def execPerstAssert (writing : Bool) (s : State) : Host.Outcome State Fault Refusal := done (doPerstAssert writing s)

/-- The FEED_HOLD[n] pin is high whenever PGOOD or PERST# is low (R615). -/
def feedPin (s : State) (hold : Bool) : Bool := !s.power.pgood || s.power.perst || hold

/-! ## The auxiliary domain (R622) -/

/-- The input has stayed above 58 V for 10 ms: the auxiliary domain starts with its reset values. -/
def doAuxStart (mv : Nat) (s : State) : State :=
  let s := modPower s (fun p => { p with vin := mv })
  if s.power.aux || mv ≤ 58000 then s
  else modPower s (fun p => { PowerSt.reset with vin := mv, pwrEn := p.pwrEn, perst := p.perst, plate := p.plate, binFull := p.binFull, aux := true })

def execInputAuxStart (mv : Nat) (s : State) : Host.Outcome State Fault Refusal := done (doAuxStart mv s)

/-- The input falls below 55 V: the auxiliary domain stops and the latch is lost. A main domain that still ran loses its power. -/
def doAuxStop (mv : Nat) (s : State) : State :=
  if 55000 ≤ mv then modPower s (fun p => { p with vin := mv })
  else
    let lost := s.power.conv
    let s := if lost then stopConversion s else s
    modPower s (fun p => { PowerSt.reset with vin := mv, pwrEn := p.pwrEn, perst := p.perst, plate := p.plate, binFull := p.binFull || lost })

def execInputAuxStop (mv : Nat) (s : State) : Host.Outcome State Fault Refusal := done (doAuxStop mv s)

/-! ## Conversion (R592, R622) -/

def execPwrEnRise (s : State) : Host.Outcome State Fault Refusal := done (modPower s (fun p => { p with pwrEn := true }))

/-- The 88 lowest-numbered usable phases (R528, R592). -/
def startPhases (s : State) : List Nat := (liftedLast s 9 ((List.range 96).filter (fun n => !unusable s (unitKey 9 n)))).take 88

/-- Whether conversion may start (R622). -/
def mayConvert (s : State) (mv plate : Nat) : Bool :=
  let p := s.power
  p.aux && p.pwrEn && !p.conv && !p.faultPin && !p.tripPin && decide (64000 ≤ mv ∧ mv ≤ 78000 ∧ plate < 45)

/-- Conversion starts once its conditions hold: the phases come up, PGOOD is released, the electrical account is full (R602), and
the wear bins are read; after a loss of power the current bin counts as full (R603). -/
def doConversionStart (mv plate : Nat) (s : State) : State :=
  let s := modPower s (fun p => { p with vin := mv, plate := plate })
  if mayConvert s mv plate then
    let full := s.power.binFull
    let s := if full then modLog s (fun l => { l with bins := (0 :: 3600000000000 :: l.bins.drop 1).take 168 }) else s
    modPower s (fun p => { p with
      conv := true, pgood := true, pgoodNs := 0, offNs := none, phases := startPhases s, acct := 60000000000, binFull := false
      bin := ((logState s).bins.head?).getD 0 })
  else s

def execConversionStart (mv plate : Nat) (s : State) : Host.Outcome State Fault Refusal := done (doConversionStart mv plate s)

/-- Time at V_HI in the window: the current bin and the 167 before it. -/
def wearNs (s : State) : Nat := s.power.bin + (((logState s).bins.drop 1).take 167).sum

/-- WEAR bars V_HI at 120,960 s, with WEAR_EXHAUSTED, and allows it again at 117,360 s (R603). -/
def checkWear (s : State) : State :=
  let w := wearNs s
  if !s.power.wearBar && decide (120960000000000 ≤ w) then raisePf (modPower s (fun p => { p with wearBar := true })) 0x0462 (sourceId s srcMp) []
  else if s.power.wearBar && decide (w ≤ 117360000000000) then modPower s (fun p => { p with wearBar := false })
  else s

/-- The bins as the governor writes them into the logbook state. -/
def writeBins (s : State) : State := modLog s (fun l => { l with bins := s.power.bin :: (l.bins.drop 1).take 167 })

/-- PWR_EN falls: an orderly power-down writes the wear bins and the logbook state, then conversion stops and PGOOD falls. After
a fault that has already stopped conversion nothing is written (R622, R623). -/
def doPwrEnFall (s : State) : State :=
  let s := modPower s (fun p => { p with pwrEn := false })
  if s.power.conv then modPower (stopConversion (writeBins (checkWear s))) (fun p => { p with offNs := some 0 }) else s

def execPwrEnFall (s : State) : Host.Outcome State Fault Refusal := done (doPwrEnFall s)

/-- PWR_EN has been low for 10 ms: the pins are released; the latch is kept for the logbook. -/
def execPwrEnLowRelease (s : State) : Host.Outcome State Fault Refusal :=
  done (if s.power.pwrEn then s else modPower s (fun p => { p with faultPin := false, tripPin := false }))

def execRailOutOfRegulation (s : State) : Host.Outcome State Fault Refusal := done (modPower s (fun p => { p with pgood := false, pgoodNs := 0 }))

/-- Conversion stops on a fault: the fault is latched and FAULT# driven; the current wear bin counts as full, also where an
orderly power-down has begun within the last 20 ms (R622, R623). -/
def faultStop (s : State) (bitNo : Nat) : State :=
  let lost := s.power.conv
  let s := if lost then stopConversion s else s
  modPower s (fun p => { p with latch := p.latch ||| 2 ^ bitNo, faultPin := true, binFull := p.binFull || lost || p.offNs.isSome, offNs := none })

/-- An event of the running main domain: with conversion off there is no event queue (R622). -/
def raiseOn (s : State) (code : Nat) (items : List (Nat × Nat)) : State :=
  if s.power.conv then raisePf s code (sourceId s srcMp) items else s

/-- The input lies in 60 to 64 V or 78 to 82 V for more than 1 ms (R593). -/
def doInputRange (mv : Nat) (s : State) : State :=
  let s := modPower s (fun p => { p with vin := mv })
  if 60000 ≤ mv ∧ mv < 64000 then raiseOn (modPower s (fun p => { p with stInput := p.stInput ||| 32 })) 0x0467 []
  else if 78000 < mv ∧ mv ≤ 82000 then raiseOn (modPower s (fun p => { p with stInput := p.stInput ||| 64 })) 0x0467 []
  else s

def execInputOutOfRange (mv : Nat) (s : State) : Host.Outcome State Fault Refusal := done (doInputRange mv s)

/-- The input has lain outside 60 to 82 V for 10 ms (R593, R622). -/
def doInputFault (mv : Nat) (s : State) : State :=
  let s := modPower s (fun p => { p with vin := mv })
  if !s.power.aux then s
  else if mv < 60000 then faultStop s 0
  else if 82000 < mv then faultStop s 1
  else s

def execInputFaultStop (mv : Nat) (s : State) : Host.Outcome State Fault Refusal := done (doInputFault mv s)

/-- A hot-spot sensor reads 110 °C or more: THERMTRIP# and FAULT#, and conversion stops in hardware (R605, R622). -/
def doThermtrip (temp : Nat) (s : State) : State :=
  if s.power.aux && decide (110 ≤ temp) then modPower (faultStop s 3) (fun p => { p with tripPin := true }) else s

def execThermtrip (temp : Nat) (s : State) : Host.Outcome State Fault Refusal := done (doThermtrip temp s)

/-! ## Regulator phases (R594) -/

/-- The lowest-numbered free spare phase. -/
def freePhase (s : State) : Option Nat := (List.range 96).find? (fun n => !s.power.phases.contains n && !unusable s (unitKey 9 n))

/-- A phase in service reports a fault: it is turned off, and a spare takes its place; without one the ratings scale down, and
below 66 phases conversion stops. -/
def doPhaseFault (ph : Nat) (s : State) : State :=
  match s.power.phases.findIdx? (· == ph) with
  | none => s
  | some pos =>
    let s := softEntry s (unitKey 9 ph)
    match freePhase s with
    | some x =>
      let s := modPower s (fun p => { p with phases := p.phases.map (fun n => if n = ph then x else n) })
      let s := repairRecord s (mapEntry 9 0 2 pos x) 0
      raisePf (noteSpares s) 0x0463 (sourceId s srcMp) [(1, ph)]
    | none =>
      let s := modPower s (fun p => { p with phases := p.phases.filter (· != ph) })
      let s := repairRecord s (mapEntry 9 2 2 pos 0) 0
      let s := raisePf (noteSpares s) 0x0464 (sourceId s srcMp) [(1, ph)]
      if s.power.phases.length < 66 then faultStop s 2 else s

def execRegPhaseFault (phase : Nat) (s : State) : Host.Outcome State Fault Refusal := done (doPhaseFault phase s)

/-! ## The governor (R595 to R603) -/

/-- A rating of R592 with the phases in service. -/
def ratingOf (s : State) (w : Nat) : Nat := w * min 88 s.power.phases.length / 88

/-- P_ENV (R601). -/
def penv (s : State) : Nat := min (min 2500 s.power.cap) (ratingOf s 2600)

/-- The smallest k that a limit asks for: at most the k applied while the quantity is within its bound, above it where it is
not, and never above the limit's largest k (R596, R600). The estimate itself is free (log 32). -/
def askFor (lim bound reading k top : Nat) : Nat :=
  let f := Config.throttleAsk lim bound reading k
  if reading ≤ bound then min (min k top) f else min top (max (k + 1) f)

def maxOf (l : List Nat) : Nat := l.foldl max 0

/-- Boost is allowed (R602). -/
def boostOk (s : State) : Bool :=
  let p := s.power
  decide (0 < p.acct) && !p.barred && p.face.all (fun t => decide (t < 95)) && !p.wearBar && p.boostEn

/-- What each limit asks for, in the order of the LIMIT bits: ENVELOPE, THERMAL, WEIGHBRIDGE, STACK, ELECTRICAL, WEAR, CURRENT (R601). -/
def governorAsks (s : State) (core : Nat) : List Nat :=
  let p := s.power
  let ok := boostOk s
  [ if ok then 0 else askFor 0 (penv s) p.pin p.k 11,
    askFor 1 100 (maxOf p.face) p.k 15,
    askFor 2 100 p.wb p.k 15,
    askFor 3 92 (maxOf p.stackTemps) p.k 15,
    askFor 4 (if ok then min 2800 (ratingOf s 2900) else ratingOf s 2600) p.pin p.k 11,
    if p.wearBar && p.op = 0 && (decide (1400 < core) || p.tripped || (decide (2 ≤ p.k) && decide (1200 ≤ core))) then 2 else 0,
    askFor 6 (if 64000 ≤ p.vin ∧ p.vin ≤ 78000 then 45000 else 43750) p.iin p.k 11 ]

/-- The set point and k of the next groups, in the order of R598: k is at 2 or more whenever the set point changes. -/
def setPoint (p : PowerSt) (core want : Nat) : Nat × Nat :=
  if p.op = 1 then (2, want)
  else if p.vset = 1 then
    if 2 ≤ want || p.wearBar || decide (10000000 ≤ p.below) then (0, max 2 want) else (1, want)
  else if want ≤ 1 && (decide (1400 < core) || p.tripped) && !p.wearBar then (1, max 2 p.k)
  else if want ≤ 1 && decide (1400 < core) then (0, 2)
  else (0, want)

/-- Readings of the last second that no later one exceeds (R608). -/
def notePeak (l : List (Nat × Nat)) (w : Nat) : List (Nat × Nat) :=
  ((l.map (fun e => (e.1, e.2 + 1))).filter (fun e => decide (w < e.1) && decide (e.2 < 20000))) ++ [(w, 0)]

/-- Raise GOV_LIMIT and GOV_RELEASED for limits that start or stop deciding k: LIMIT bits and k (R601, R609). -/
def noteLimits (s : State) (old : Nat) : State :=
  let new := s.power.limit
  let items := [(1, new), (1, s.power.k)]
  let started := (List.range 7).any (fun n => bit new n && !bit old n)
  let ended := (List.range 7).any (fun n => bit old n && !bit new n)
  let s := if started then raisePf s 0x0460 (sourceId s srcMp) items else s
  if ended then raisePf s 0x0461 (sourceId s srcMp) items else s

/-- The cold-plate reading lies in the operating range (R621). -/
def coolantIn (t : Nat) : Bool := decide (15 ≤ t ∧ t ≤ 40)

/-- Readings are taken, and the accounts that rest on them move on: boost bar, electrical account, energy, wear (R600 to R603). -/
def governorRead (g : GovIn) (s : State) : State :=
  let hot := g.face.any (fun t => decide (95 ≤ t))
  let cool := g.face.all (fun t => decide (t ≤ 85))
  checkWear (modPower s (fun p => { p with
    vin := g.vin, iin := g.iin, pin := g.pin, face := g.face, wb := g.wb, stackTemps := g.stackTemps, plate := g.plate
    peaks := notePeak p.peaks g.pin
    barred := if hot then true else if cool then false else p.barred
    acct := if 2600 < g.pin then p.acct - 50000 else min 60000000000 (p.acct + 12500)
    below := if g.core < 1200 then p.below + 50000 else 0
    bin := p.bin + (if p.vset = 1 then 50000 else 0)
    energy := p.energy + g.pin * 50
    coolant := if coolantIn g.plate then none else p.coolant }))

/-- THERMAL of ERR_SUMMARY: THERMAL, WEIGHBRIDGE, STACK or WEAR asks for the applied k (R449, R601). -/
def thermalLimit (p : PowerSt) : Bool := [1, 2, 3, 5].any (fun n => bit p.limit n)

/-- The governor's tick, every 50 µs (R600). -/
def doGovernorTick (g : GovIn) (s : State) : State :=
  if !s.power.conv then s
  else
    let s := governorRead g s
    let asks := governorAsks s g.core
    let most := maxOf asks
    let want := if s.power.k ≤ most then most else s.power.k - 1
    let (v, k) := setPoint s.power g.core want
    let lim := (asks.zipIdx.map (fun a => if a.1 = k && 0 < k then 2 ^ a.2 else 0)).sum
    let capBit := if s.power.cap < 2500 && penv s = s.power.cap then 128 else 0
    let old := s.power.limit
    let isBoost := decide (penv s < g.pin)
    let heat := bit lim 1 || bit lim 2 || bit lim 3
    let tooHot := decide (100 < g.wb) && k = 15
    let crit := if tooHot then s.power.crit + 50000 else 0
    let raise := tooHot && decide (1000000000 ≤ crit) && decide (s.power.crit < 1000000000)
    let s := modPower s (fun p => { p with
      k := k, vset := v, limit := lim + capBit, boost := isBoost, tripped := false, crit := crit
      stTemp := if heat then p.stTemp ||| 64 else p.stTemp
      tThrottled := satAdd 64 p.tThrottled (if 0 < k then 50000 else 0)
      tBoost := satAdd 64 p.tBoost (if isBoost then 50000 else 0)
      tVhi := satAdd 64 p.tVhi (if v = 1 then 50000 else 0)
      tHeat := satAdd 64 p.tHeat (if heat then 50000 else 0) })
    let s := noteLimits s old
    let s := if thermalLimit s.power && !thermalLimit { s.power with limit := old } then fireErr s 2 else s
    if raise then raisePf s 0x0465 (sourceId s srcMp) [(1, 4), (1, g.wb)] else s

/-- Core current crosses 1,400 A at V_LO with k of 1 or less: hardware sets k to 2 (R598). -/
def doCurrentTrip (s : State) : State :=
  let p := s.power
  if p.conv && p.vset = 0 && p.k ≤ 1 then modPower s (fun p => { p with k := 2, tripped := true }) else s

def execCoreCurrentTrip (s : State) : Host.Outcome State Fault Refusal := done (doCurrentTrip s)

/-- A droop detector skips core pulses of its face; only DROOP_EVENTS shows it (R597). -/
def execDroopDetect (_face : Nat) (s : State) : Host.Outcome State Fault Refusal :=
  done (modPower s (fun p => { p with droops := satAdd 32 p.droops 1 }))

/-- An hour of powered time ends: the bins go into the logbook state and the next bin begins (R603). -/
def doWearHour (s : State) : State :=
  if !s.power.conv then s
  else
    let s := modLog s (fun l => { l with bins := (0 :: s.power.bin :: l.bins.drop 1).take 168 })
    checkWear (modPower s (fun p => { p with bin := 0 }))

def execWearBinHour (s : State) : Host.Outcome State Fault Refusal := done (doWearHour s)

/-! ## The reference and the coolant -/

/-- The reference stops: holdover (R599). -/
def execClockRefLost (s : State) : Host.Outcome State Fault Refusal :=
  done (if s.power.holdover then s else raiseOn (modPower s (fun p => { p with holdover := true, holdNs := 0 })) 0x0466 [])

def execRefclkReturn (s : State) : Host.Outcome State Fault Refusal := done (modPower s (fun p => { p with holdover := false, holdNs := 0 }))

/-- The inlet reading has stayed outside 15 to 40 °C for 10 s; the event is raised again at most once per minute while the
reading stays outside (R626). -/
def doCoolant (t : Nat) (s : State) : State :=
  let s := modPower s (fun p => { p with plate := t, coolant := if coolantIn t then none else p.coolant })
  let due := match s.power.coolant with | none => true | some x => decide (x + 60000000000 ≤ now s)
  if !coolantIn t && due then raiseOn (modPower s (fun p => { p with coolant := some (now s) })) 0x0470 [(1, t)] else s

def execCoolantInletRange (temp : Nat) (s : State) : Host.Outcome State Fault Refusal := done (doCoolant temp s)

end Sys2Proof.Machine
end

