-- ==== Sys2Proof/Machine/Boot.lean ====
section
/-! DEFINITION. The boot steps (R516 to R533): GO and its refusal, plans and treatments, the attempt's records, and the work of
each step. An operand of a step is what its physical tests find. -/

namespace Sys2Proof.Machine

/-! ## Plans and treatments (R522) -/

/-- The count that the plan of step n rests on: consecutive starts, and FAILs of this start. -/
def failCount (s : State) (n : Nat) : Nat := Tab.get 0 (logState s).fails n + (Tab.get 0 s.boot.failsNow n - 1)

/-- The plan at count 1 and at count 2 or more: 0 NORMAL, 1 RETRY, 2 ALTER, 3 SKIP, 4 RECOVERY. -/
def planTable : List (Nat × Nat) :=
  [(2, 2), (1, 2), (2, 2), (2, 4), (2, 4), (2, 2), (2, 2), (2, 2), (2, 2), (1, 1), (2, 2), (1, 2), (1, 2), (0, 0)]

def planOf (s : State) (n : Nat) : Nat :=
  let p := planTable.getD n (0, 0)
  match failCount s n with
  | 0 => 0
  | 1 => p.1
  | _ => p.2

/-- The treatment of the next attempt: the override, or the plan. A reserved override code counts as none (DESIGN CHOICE log 164: R8). -/
def treatmentOf (s : State) (n : Nat) : Nat :=
  let o := bits s.boot.ovr (4 * n + 3) (4 * n)
  if 1 ≤ o ∧ o ≤ 4 then o - 1 else planOf s n

/-- Whether a step allows a treatment (R522). -/
def treatmentAllowed (n t : Nat) : Bool :=
  t == 0 || ((t == 1 || t == 2) && decide (n < 13)) || (t == 3 && [8, 9, 11, 12].contains n) || (t == 4 && (n == 3 || n == 4))

/-! ## Attempts (R519, R525) -/

/-- GO may start step n (R519). -/
def goAllowed (s : State) (n : Nat) : Bool :=
  s.boot.served && !s.boot.halted && s.boot.st != 1 && s.boot.st != 3 && n == s.boot.passed && decide (n ≤ 13) && treatmentAllowed n (treatmentOf s n)

/-- A GO that is not allowed ends at once; it changes nothing else and is not logged. -/
def refuseGo (s : State) : State := if s.boot.served && s.boot.st != 1 && s.boot.st != 3 then modBoot s (fun b => { b with st := 2, result := 5 }) else s

/-- Values that a step samples when it starts (R519). A reserved OP_POINT is taken as P-peak (DESIGN CHOICE log 164: R8). -/
def sampleFor (s : State) (n : Nat) : State :=
  if n = 1 then modPower s (fun p => { p with op := if s.boot.opPoint = 1 then 1 else 0 })
  else if n = 10 then modBoot s (fun b => { b with qual := (b.qualLog2, b.qualBer) })
  else if n = 12 then modTime s (fun t => { t with comp := s.boot.tsyncComp % 64 })
  else s

/-- GO of step n: refused, into ROM recovery mode, or RUNNING with a STEP_START record. -/
def startAttempt (s : State) (n : Nat) : State :=
  if !goAllowed s n then refuseGo s
  else
    let t := treatmentOf s n
    if t = 4 then
      let s := modBoot s (fun b => { b with st := 3 })
      if errMasked s 1 then s else fireVector s 0 63
    else
      let s := sampleFor s n
      let s := modBoot s (fun b => { b with
        st := 1, step := n, treatment := t, result := 0, reason := 0, attempts := Tab.mod 0 b.attempts n (fun a => min 255 (a + 1))
        attempt := min 255 (Tab.get 0 b.attempts n + 1), ovr := b.ovr - bits b.ovr (4 * n + 3) (4 * n) * 2 ^ (4 * n), detail := [0, 0, 0, 0] })
      addRecord s recStart n 0 0 []

/-- The outcome of a step's work. -/
inductive BootOut where
  | pass
  | degraded
  | fail (cause : Nat)
deriving DecidableEq, Repr

/-- An attempt ends: BOOT_STEP, the failure count, the STEP_END record with the details (R518, R521, R522, R525). -/
def endAttempt (s : State) (n result cause us : Nat) (detail : List Nat) : State :=
  let reason := if result = 3 then 1 + Config.bootReason n cause % 65535 else 0
  let s := modBoot s (fun b => { b with
    st := 2, result := result, reason := reason, stepUs := min us (2 ^ 32 - 1), detail := padTo 0 4 detail
    passed := if result = 3 then b.passed else n + 1, failedStep := if result = 3 then some n else none
    failsNow := if result = 3 then Tab.mod 0 b.failsNow n (· + 1) else Tab.del b.failsNow n })
  let first := Tab.get 0 s.boot.failsNow n = 1
  let s := modLog s (fun l => { l with
    last := Tab.set l.last n result
    cut := l.cut.filter (· != n)
    fails := if result = 3 then (if first then Tab.mod 0 l.fails n (fun f => min 15 (f + 1)) else l.fails) else Tab.del l.fails n })
  addRecord s recEnd n result reason ((padTo 0 4 detail).flatMap (fun d => toLe 8 d))

/-- Run the attempt of step n: it has been started by a write of GO, or this command is that GO too. -/
def runStep (n us : Nat) (work : Nat → State → State × BootOut × List Nat) (skip : State → State) (s : State) : State :=
  let s := if s.boot.st = 1 && s.boot.step = n then s else startAttempt s n
  if s.boot.st = 1 && s.boot.step = n then
    if s.boot.treatment = 3 then endAttempt (skip s) n 4 0 us []
    else
      match work s.boot.treatment s with
      | (s, .pass, d) => endAttempt s n 1 0 us d
      | (s, .degraded, d) => endAttempt s n 2 0 us d
      | (s, .fail c, d) => endAttempt s n 3 c us d
  else s

/-! ## Units tested at a step (R527) -/

/-- The step tests the units of its class that are not permanently out: a soft entry that passes is dropped and its unit becomes a spare, one
that fails is confirmed, and a unit that fails for the first time gets a soft entry. `tested`: the units that the step can test. -/
def retest (s : State) (c : Nat) (tested : Nat → Bool) (bad : List Nat) : State :=
  let mine := fun (k : Nat) => unitClass k == c && tested (unitNum k)
  let fails := fun (k : Nat) => mine k && bad.contains (unitNum k)
  let lifted := (logState s).soft.filter (fun k => mine k && !fails k)
  let s := modBoot s (fun b => { b with lifted := b.lifted ++ lifted })
  let confirmed := (logState s).soft.filter fails
  let s := modBoot s (fun b => { b with confirmed := b.confirmed ++ confirmed.filter (fun k => !b.confirmed.contains k) })
  let s := modLog s (fun l => { l with soft := l.soft.filter (fun k => !lifted.contains k) })
  bad.foldl (fun s u => softEntry s (unitKey c u)) s

/-- Some unit of a class is out of service. -/
def anyOut (s : State) (c : Nat) : Bool := !(unusableOf s c).isEmpty

def passOr (bad : Bool) : BootOut := if bad then .degraded else .pass

/-- A bit mask of numbers. -/
def maskOf (l : List Nat) : Nat := l.foldl (fun m n => m ||| 2 ^ n) 0

/-! ## POWER, CLOCK, FUSE -/

def workPower (mv : Nat) (bad : List Nat) (_t : Nat) (s : State) : State × BootOut × List Nat :=
  let s := modPower s (fun p => { p with vin := mv })
  if mv < 64000 ∨ 78000 < mv then (s, .fail 0, [mv % 65536])
  else
    let s := retest s 9 (fun _ => true) bad
    let s := modPower s (fun p => { p with phases := startPhases s })
    let out := unusableOf s 9
    let d := [mv % 65536, maskOf (out.filter (fun n => decide (n < 64))), maskOf ((out.filter (fun n => decide (64 ≤ n))).map (· - 64))]
    if s.power.phases.length < 88 then (s, .fail 1, d) else (s, passOr (!out.isEmpty), d)

def execBootStepPower (mv : Nat) (bad : List Nat) (us : Nat) (s : State) : Host.Outcome State Fault Refusal :=
  done (runStep 0 us (workPower mv bad) (fun s => s) s)

/-- The root PLL locks at an operating point, and TB starts at 0 (R17, R438). -/
def workClock (locks : List Nat) (ns t : Nat) (s : State) : State × BootOut × List Nat :=
  let op := if t = 2 then 1 else s.power.op
  if locks.contains op then
    let s := modTime s (fun _ => { TimeSt.reset with run := true, comp := s.time.comp })
    let s := modPower s (fun p => { p with op := op, vset := if op = 1 then 2 else 0, k := 0 })
    let s := if t = 2 then modBoot s (fun b => { b with clockAlter := true }) else s
    (s, passOr (t == 2), [op, ns % 2 ^ 32])
  else (s, .fail 0, [0, ns % 2 ^ 32])

def execBootStepClock (locks : List Nat) (ns us : Nat) (s : State) : Host.Outcome State Fault Refusal :=
  done (runStep 1 us (workClock locks ns) (fun s => s) s)

/-- Take the newer state copy whose CRC holds: a copy that does not hold is replaced by the other. -/
def takeCopies (s : State) (a b : Bool) : State :=
  modBoot s (fun x => if a && !b then { x with copyB := x.copyA } else if b && !a then { x with copyA := x.copyB } else x)

/-- The spare map as the fuses and the logbook give it (R528, R529). -/
def fuseMap (s : State) : List Nat :=
  let soft := (logState s).soft
  (s.boot.factory.map (fun k => mapEntry (unitClass k) 1 0 0xFFFF (unitNum k)) ++ (burnedUnits s).map (fun k => mapEntry (unitClass k) 1 1 0xFFFF (unitNum k))
    ++ soft.map (fun k => mapEntry (unitClass k) 1 2 0xFFFF (unitNum k))).take 4096

def workFuse (fuseOk a b : Bool) (t : Nat) (s : State) : State × BootOut × List Nat :=
  if !fuseOk then (s, .fail 0, [])
  else if t != 2 && !a && !b then (s, .fail 1, [])
  else
    let s := if t = 2 then
        let s := modBoot s (fun x => { x with logLost := true, mismatches := [], copyA := LogState.reset, copyB := LogState.reset })
        raisePf s 0x0436 (sourceId s srcMp) []
      else
        let s := takeCopies s a b
        modBoot s (fun x => { x with mismatches := (logState s).mismatches })
    let s := modLog s (fun l => { l with map := fuseMap s })
    let s := modBoot s (fun x => { x with wearFull := decide (2048 ≤ x.wear.length) })
    (s, .pass, [s.boot.factory.length % 65536 + s.boot.wear.length % 65536 * 65536, (logState s).soft.length % 65536])

def execBootStepFuse (fuseOk crcA crcB : Bool) (us : Nat) (s : State) : Host.Outcome State Fault Refusal :=
  done (runStep 2 us (workFuse fuseOk crcA crcB) (fun s => s) s)

/-! ## ROM, IMAGE -/

/-- The MP pair that ROM runs on: the primary pair unless it is unusable (R523). -/
def romPair (s : State) : Nat := if unusable s (unitKey 8 0) then 1 else 0

/-- ROM: the pair's self-check, the choice of a slot and its header check; the fault latch goes into the logbook (R523, R588, R624). -/
def workRom (agree : Bool) (t : Nat) (s : State) : State × BootOut × List Nat :=
  let pair := romPair s
  if !agree then
    let s := softEntry s (unitKey 8 pair)
    ({ s with host := { s.host with mpStandby := decide (romPair s = 1) } }, .fail 0, [])
  else
    let s := { s with host := { s.host with mpStandby := decide (pair = 1) } }
    let s := if s.power.latch != 0 then addRecord s recEvent 0xFF 0 0x0471 (toLe 1 s.power.latch) else s
    let n := romSlot s (t == 2)
    let d := [n + pair * 4, fwVer (slotHeader s n)]
    if fwSlotOk s n then (modBoot s (fun b => { b with chosen := some n }), passOr (pair == 1), d)
    else (modBoot s (fun b => { b with romFailed := some n, anyFailed := some n }), .fail 1, d)

def execBootStepRom (agree : Bool) (us : Nat) (s : State) : Host.Outcome State Fault Refusal :=
  done (runStep 3 us (workRom agree) (fun s => s) s)

/-- IMAGE: the slot's image is verified and Psiam started; the link engines get their firmware and the compression engines their
positions (R522, R528, R532). A slot that fails loses its mark. -/
def workImage (startOk : Bool) (t : Nat) (s : State) : State × BootOut × List Nat :=
  let c := s.boot.chosen.getD 0
  let n := if t = 2 then otherSlot (s.boot.imgFailed.getD (otherSlot c)) else c
  if (n == c || fwSlotOk s n) && imageOk s (slotMem s n) && startOk then
    let v := fwVer (slotHeader s n)
    let usable := (List.range 10).filter (fun e => !unusable s (unitKey 7 e))
    let s := modBoot s (fun b => { b with runSlot := some n, fwVersion := v, engines := (usable.take 8).zipIdx.map (fun e => (e.2, e.1)) })
    ({ s with host := { s.host with ifVersion := Config.ifVersion.toNat } }, .pass, [v, n])
  else
    let s := modFw s (fun f => { f with mark := if f.mark = some n then none else f.mark })
    (modBoot s (fun b => { b with imgFailed := some n, anyFailed := some n }), .fail 0, [fwVer (slotHeader s n), n])

def execBootStepImage (startOk : Bool) (us : Nat) (s : State) : Host.Outcome State Fault Refusal :=
  done (runStep 4 us (workImage startOk) (fun s => s) s)

/-! ## MEMORY -/

/-- The stack map after the tests (R239). A stack that passes and serves nothing, or had failed before, is a spare. A logical stack
whose physical stack fails, or had failed, takes the lowest spare but that one, and stays failed where there is none; 15 then stands for
a physical stack that has become the spare (log 157). -/
def mapStacks (s : State) : State :=
  let ok := fun (p : Nat) => decide (p < 9) && !unusable s (unitKey 2 p)
  let had := fun (p : Nat) => (Tab.get Stack.reset s.mem.stk p).failed
  let go := (List.range 8).foldl (fun (acc : List Nat × List Nat × List Nat) l =>
      let (m, spares, failed) := acc
      let p := s.mem.stackMap.getD l 0
      if ok p && !had p then (m ++ [p], spares, failed)
      else match spares.find? (· != p) with
        | some x => (m ++ [x], spares.filter (· != x), failed)
        | none => (m ++ [if ok p then 15 else p], spares, failed ++ [l]))
    ([], (List.range 9).filter (fun p => ok p && (had p || !s.mem.stackMap.contains p)), [])
  { s with mem := { s.mem with
      stackMap := go.1, spare := go.2.1.head?, failedLs := go.2.2
      stk := (List.range 9).map (fun p => (p, { Tab.get Stack.reset s.mem.stk p with failed := !ok p })) } }

/-- Every byte, flag and block state of every stack becomes 0 and PLAIN, and no page is owned (R520). -/
def zeroMemory (s : State) : State :=
  { s with mem := { s.mem with
      bytes := Mem.clear s.mem.bytes (fun a => !isWindow a), poison := s.mem.poison.filter (fun n => isWindow (64 * n)), blocks := [], pages := [] } }

/-- Remap entries become hard repairs while the stack has resources for them, each with a record (R250). -/
def repairRows (s : State) (ppr : List (Nat × Nat)) : State :=
  ppr.foldl (fun s e =>
    let k := Tab.get Stack.reset s.mem.stk e.1
    let n := min e.2 (min k.remaps (Config.pprRows e.1 - k.pprUsed))
    let s := { s with mem := { s.mem with stk := Tab.set s.mem.stk e.1 { k with remaps := k.remaps - n, rows := k.rows.drop n, pprUsed := k.pprUsed + n } } }
    (k.rows.take n).foldl (fun s row => addRecord s recRepair 5 0 0 (toLe 8 (mapEntry 3 0 2 e.1 row) ++ [0])) s) s

def workMemory (reach : Bool) (bad : List Nat) (ppr : List (Nat × Nat)) (_t : Nat) (s : State) : State × BootOut × List Nat :=
  if !reach then (s, .fail 0, [])
  else
    let s := zeroMemory (repairRows (mapStacks (retest s 2 (fun _ => true) bad)) ppr)
    let nib := fun (l : Nat) => if s.mem.failedLs.contains l then 15 else s.mem.stackMap.getD l 15
    let map := ((List.range 8).map (fun l => nib l * 2 ^ (4 * l))).sum + s.mem.spare.getD 15 * 2 ^ 32
    (s, passOr (anyOut s 2), [map, maskOf (unusableOf s 2), (ppr.map Prod.snd).sum % 2 ^ 32])

def execBootStepMemory (reach : Bool) (bad : List Nat) (ppr : List (Nat × Nat)) (us : Nat) (s : State) : Host.Outcome State Fault Refusal :=
  done (runStep 5 us (workMemory reach bad ppr) (fun s => s) s)

/-! ## FACES -/

/-- Link × 2 + direction of a wire UNIT (R526). -/
def wireSide (u : Nat) : Nat := bits u 13 10
def wireNum (u : Nat) : Nat := bits u 9 0

/-- Each unusable wire is served by the lowest free usable spare wire of its link and direction (R528). -/
def mapWires (s : State) : Tab Nat :=
  let out := unusableOf s 12
  ((List.range (16 * 512)).map (fun n => n / 512 * 1024 + n % 512)).foldl (fun (m : Tab Nat) u =>
    if out.contains u then
      match (span 512 16).find? (fun w => let x := u / 1024 * 1024 + w; !out.contains x && !(m.any (fun e => e.2 == x))) with
      | some w => Tab.set m u (u / 1024 * 1024 + w)
      | none => m
    else m) []

/-- Links on which an unusable wire has no spare left. -/
def shortLinks (s : State) (m : Tab Nat) : List Nat :=
  (List.range 8).filter (fun l => (unusableOf s 12).any (fun u => wireSide u / 2 == l && decide (wireNum u < 512) && (Tab.find m u).isNone))

def workFaces (badWires noTrain : List Nat) (t : Nat) (s : State) : State × BootOut × List Nat :=
  let s := retest s 12 (fun _ => true) badWires
  let m := mapWires s
  let fails := (noTrain ++ shortLinks s m).eraseDups.filter (fun l => decide (l < 8))
  let count := ((List.range 8).map (fun l => min 255 (m.countP (fun e => wireSide e.1 / 2 == l)) * 2 ^ (8 * l))).sum
  if !fails.isEmpty && t != 2 then (s, .fail 0, [count])
  else (modBoot s (fun b => { b with wires := m, half := fails }), passOr (anyOut s 12 || !fails.isEmpty), [count, maskOf fails])

def execBootStepFaces (badWires noTrain : List Nat) (us : Nat) (s : State) : Host.Outcome State Fault Refusal :=
  done (runStep 6 us (workFaces badWires noTrain) (fun s => s) s)

/-! ## BENCH_LOAD, BENCH_TEST -/

/-- Each usable bench fetches its image; one whose fetch fails three times gets a soft entry and is left out (R533). -/
def workLoad (placed : Bool) (bad : List Nat) (_t : Nat) (s : State) : State × BootOut × List Nat :=
  if !placed then (s, .fail 0, [])
  else
    let usable := (List.range 640).filter (fun p => !permanent s (unitKey 0 p))
    let fails := usable.filter (fun p => bad.contains p)
    let s := fails.foldl (fun s p => softEntry s (unitKey 0 p)) s
    (modBoot s (fun b => { b with pbOut := fails }), passOr (anyOut s 0), [usable.length - fails.length, fails.length])

def execBootStepBenchLoad (placed : Bool) (bad : List Nat) (us : Nat) (s : State) : Host.Outcome State Fault Refusal :=
  done (runStep 7 us (workLoad placed bad) (fun s => s) s)

/-- The bench map of R528: rows in ascending order take their own usable benches, those lifted in this start last, then the leftover of row − 1, then of row + 1
of the same face. -/
def benchMap (s : State) : Tab Nat :=
  let own := fun (r : Nat) => liftedLast s 0 (((List.range 10).map (fun c => r * 10 + c)).filter (pbUsable s))
  let go := (List.range 64).foldl (fun (acc : Tab Nat × List Nat) r =>
      let (m, lent) := acc
      let left := fun (q : Nat) => if q / 16 = r / 16 then ((own q).drop 9).filter (fun p => !lent.contains p) else []
      let mine := (own r).take 9
      let more := ((if r = 0 then [] else left (r - 1)) ++ left (r + 1)).take (9 - mine.length)
      (m ++ (mine ++ more).zipIdx.map (fun e => (r * 9 + e.2, e.1)), lent ++ more))
    ([], [])
  go.1

/-- The bench map is built, each present bench starting with the spare rows that its map uses. -/
def placeBenches (s : State) : State :=
  let m := benchMap s
  let s := modBoot s (fun b => { b with phys := m })
  { s with benches := m.map (fun e => (e.1, { Bench.reset with sparesUsed := rowsUsed s e.2 })) }

def workBenches (bad rows : List Nat) (_t : Nat) (s : State) : State × BootOut × List Nat :=
  let s := placeBenches (retest (retest s 0 (fun p => !s.boot.pbOut.contains p) bad) 1 (fun _ => true) rows)
  let absent := (List.range 576).filter (fun lb => (Tab.find s.boot.phys lb).isNone)
  let d := [(List.range 640).countP (fun p => !pbUsable s p), absent.length, maskOf (absent.filter (fun n => decide (n < 64)))]
  if (List.range 4).any (fun f => (List.range 160).all (fun k => !pbUsable s (160 * f + k))) then (s, .fail 0, d)
  else (s, passOr (!absent.isEmpty || anyOut s 0 || anyOut s 1), d)

def execBootStepBenchTest (bad rows : List Nat) (us : Nat) (s : State) : Host.Outcome State Fault Refusal :=
  done (runStep 8 us (workBenches bad rows) placeBenches s)

/-! ## CIPHER -/

/-- Positions 0 to 11 take the usable cores in ascending order, one lifted in this start last; the next one is the spare (R397, R528). -/
def placeCores (s : State) : State :=
  let usable := liftedLast s 6 ((List.range 13).filter (fun c => !unusable s (unitKey 6 c)))
  modCipher s (fun x => { x with place := (usable.take 12).zipIdx.map (fun e => (e.2, e.1)), spare := (usable.drop 12).head?, bad := unusableOf s 6, testing := none })

def workCipher (bad : List Nat) (ok : Bool) (_t : Nat) (s : State) : State × BootOut × List Nat :=
  let s := clearKeys s
  if !ok then (s, .fail 0, [])
  else
    let s := placeCores (retest s 6 (fun _ => true) bad)
    let out := (unusableOf s 6).filter (fun c => decide (c < 12))
    let empty := (List.range 12).filter (fun p => (Tab.find s.cipher.place p).isNone)
    let s := match out.head? with
      | some c => if s.cipher.place.any (fun e => e.2 == 12) then raisePf s 0x03C0 (sourceId s srcMp) [(1, c), (1, c), (1, 12)] else s
      | none => s
    let s := empty.foldl (fun s p => raisePf s 0x03C1 (sourceId s srcMp) [(1, p), (1, p)]) s
    (s, passOr (!empty.isEmpty || anyOut s 6), [maskOf ((List.range 13).filter (fun c => !unusable s (unitKey 6 c))), maskOf empty])

/-- CIPHER skipped: no core serves (R524). -/
def skipCipher (s : State) : State := modBoot (modCipher s (fun c => { c with place := [], spare := none })) (fun b => { b with cipherSkip := true })

def execBootStepCipher (bad : List Nat) (ok : Bool) (us : Nat) (s : State) : Host.Outcome State Fault Refusal :=
  done (runStep 9 us (workCipher bad ok) skipCipher s)

/-! ## BOARD -/

/-- The pre-FEC limit in units of 10^−9: 2.4 × 10^−4 at the default, otherwise free (R429, log 37). -/
def preFecLimit (ber : Nat) : Nat := if ber = 15 then 240000 else Config.qualLimit ber

/-- Whether a count of bit errors over 2^log2 bits is below the limit. -/
def belowLimit (ber log2 errs : Nat) : Bool := decide (errs * 1000000000 < preFecLimit ber * 2 ^ log2)

/-- UNIT of a board lane (R526). -/
def laneUnit (port lane : Nat) : Nat := port * 32 + lane

/-- Lanes that fail to qualify at a port (R429). -/
def failedLanes (s : State) (f : PortFind) : List Nat :=
  (List.range 18).filter (fun l => !belowLimit s.boot.qual.2 s.boot.qual.1 (f.errs.getD l 0) || f.burst.contains l)

/-- The number of lanes that a port runs on its good lanes: the largest of 16, 12, 8 and 4 that they cover (R427). -/
def laneCount (good : Nat) : Nat := if 16 ≤ good then 16 else if 12 ≤ good then 12 else if 8 ≤ good then 8 else if 4 ≤ good then 4 else 0

/-- Code of a port state (R509). -/
def stateCode (p : PortState) : Nat := match p with | .absent => 0 | .conflict => 1 | .miswired => 2 | .down => 3 | .up => 4 | .degraded => 5

/-- The first state of R421 whose condition holds, with its event. Under ALTER a port in CONFLICT or MISWIRED is left DOWN. -/
def trainPort (t : Nat) (s : State) (kf : Nat × PortFind) : State × Bool :=
  let (k, f) := kf
  let peer := s.board.slotId ^^^ (k + 1)
  let set := fun (s : State) (st : PortState) (lanes spare : List Nat) =>
    { s with board := { s.board with ports := Tab.set s.board.ports k { BPort.reset with st := st, lanes := lanes, spare := spare } } }
  if !f.signal then (set s .absent [] [], false)
  else if f.slot != peer then
    if t = 2 then (set s .down [] [], false)
    else if f.slot = s.board.slotId then (raisePf (set s .conflict [] []) 0x03D0 (sourceId s (0x300 + k)) [(1, k), (1, f.slot)], true)
    else (raisePf (set s .miswired [] []) 0x03D1 (sourceId s (0x300 + k)) [(1, k), (1, f.slot)], true)
  else if !f.trains then (raisePf (set s .down [] []) 0x03D2 (sourceId s (0x300 + k)) [(1, k), (1, peer)], false)
  else
    let s := ((List.range 18).filter (fun l => !permanent s (unitKey 4 (laneUnit k l)))).foldl (fun s l =>
      addRecord s recLanes 10 0 0 (toLe 1 k ++ toLe 1 l ++ toLe 8 (f.errs.getD l 0))) s
    let good := (List.range 18).filter (fun l => !unusable s (unitKey 4 (laneUnit k l)))
    let n := laneCount good.length
    if n = 16 then (set s .up (good.take 16) (good.drop 16), false)
    else if n = 0 then (raisePf (set s .down [] []) 0x03D2 (sourceId s (0x300 + k)) [(1, k), (1, peer)], false)
    else (raisePf (set s .degraded (good.take n) (good.drop n)) 0x03D3 (sourceId s (0x300 + k)) [(1, k), (1, peer)], false)

def workBoard (finds : List PortFind) (t : Nat) (s : State) : State × BootOut × List Nat :=
  let fs := (finds.take 7).zipIdx.map (fun e => (e.2, e.1))
  let trained := fs.filter (fun e => e.2.signal && e.2.trains && e.2.slot == (s.board.slotId ^^^ (e.1 + 1)))
  let s := retest s 4 (fun u => trained.any (fun e => e.1 == u / 32)) (trained.flatMap (fun e => (failedLanes s e.2).map (laneUnit e.1)))
  let go := fs.foldl (fun (acc : State × Bool) e => let (s, b) := trainPort t acc.1 e; (s, acc.2 || b)) (s, false)
  let s := go.1
  let st := fun (k : Nat) => (Tab.get BPort.reset s.board.ports k)
  let d := [((List.range 7).map (fun k => stateCode (st k).st * 2 ^ (4 * k))).sum, ((List.range 7).map (fun k => (st k).lanes.length * 2 ^ (8 * k))).sum]
  if go.2 then (s, .fail 0, d)
  else (s, passOr (anyOut s 4 || (List.range 7).any (fun k => (st k).st == .down || (st k).st == .degraded)), d)

def execBootStepBoard (finds : List PortFind) (us : Nat) (s : State) : Host.Outcome State Fault Refusal :=
  done (runStep 10 us (workBoard finds) (fun s => s) s)

/-! ## SITE -/

/-- Fitted site ports train; SP8 is the spare, which takes the place of the first active port that fails (R433). Under ALTER every
port is left DOWN. -/
def workSite (fitted trained : List Nat) (t : Nat) (s : State) : State × BootOut × List Nat :=
  let up := fun (n : Nat) => t != 2 && fitted.contains n && trained.contains n
  let s := if t = 2 then s else retest s 5 (fun n => fitted.contains n) (fitted.filter (fun n => decide (n < 9) && !trained.contains n))
  let ports := (List.range 9).map (fun n => (n, { SPort.reset with
    fitted := fitted.contains n, trained := up n, st := if up n then .up else .down, serves := if n < 8 then some n else none }))
  let s := { s with board := { s.board with sites := ports } }
  let down := (List.range 8).filter (fun n => fitted.contains n && !up n)
  let s := match down.head? with
    | some n => if up 8 then
        let s := { s with board := { s.board with
          sites := Tab.mod SPort.reset (Tab.mod SPort.reset s.board.sites n (fun p => { p with serves := none })) 8 (fun p => { p with serves := some n }) } }
        raisePf s 0x03D5 (sourceId s 0x318) [(1, n)]
      else s
    | none => s
  let d := [((List.range 9).map (fun n => (if up n then 4 else 3) * 2 ^ (4 * n))).sum]
  if t != 2 && !((List.range 9).any up) then (s, .fail 0, d)
  else (s, passOr (t == 2 || (List.range 9).any (fun n => fitted.contains n && !up n)), d)

/-- SITE skipped: the module has no site port (R524). -/
def skipSite (s : State) : State := { s with board := { s.board with sites := [] } }

def execBootStepSite (fitted trained : List Nat) (us : Nat) (s : State) : Host.Outcome State Fault Refusal :=
  done (runStep 11 us (workSite fitted trained) skipSite s)

/-! ## TIME -/

/-- The value that the timekeeper's TIME frame names: the smallest multiple of 2^24 exceeding TB by at least 1 ms (R439). -/
def nextPulse (tb : Nat) : Nat := ceilDiv (tb + 1000000) interval * interval

/-- TIME: the timekeeper sends a TIME frame over every UP port; any other module must have loaded V and agreed with the pulse
after it. Under ALTER the timebase runs unlocked (R524). -/
def workTime (t : Nat) (s : State) : State × BootOut × List Nat :=
  let keeper := (presentSlots s).head?.getD 0
  if t = 2 then (modBoot s (fun b => { b with unlocked := true }), .pass, [keeper])
  else if lowestSlot s then
    let v := nextPulse s.time.tb
    let s := (s.board.ports.filter (fun e => e.2.st == .up)).foldl (fun s e => sendFrame s .time (s.board.slotId ^^^ (e.1 + 1)) 0 [] (toBe 8 v)) s
    (modTime s (fun t => { t with keeper := true, loaded := true, lastPulse := t.tb }), .pass, [keeper])
  else
    let d := [keeper, (s.time.offset % 2 ^ 32).toNat]
    if !s.time.loaded then (s, .fail 0, d) else if !s.time.agreed then (s, .fail 1, d) else (s, .pass, d)

def skipTime (s : State) : State := modBoot s (fun b => { b with unlocked := true })

def execBootStepTime (us : Nat) (s : State) : Host.Outcome State Fault Refusal := done (runStep 12 us workTime skipTime s)

/-! ## READY -/

/-- Burn one confirmed unit into a wear-fuse entry (R527). -/
def burnUnit (s : State) (k : Nat) : State :=
  if 2048 ≤ s.boot.wear.length then s
  else
    let e := wearEntry k
    let s := modBoot s (fun b => { b with wear := b.wear ++ [e] })
    let s := putMap (modLog s (fun l => { l with soft := l.soft.filter (· != k) })) (mapEntry (unitClass k) 1 1 0xFFFF (unitNum k))
    let s := addRecord s recBurn 13 0 0 (toLe 5 e)
    if s.boot.wear.length = 2048 then
      raisePf (modBoot s (fun b => { b with wearFull := true })) 0x0435 (sourceId s srcMp) [(1, unitClass k), (4, unitNum k)]
    else s

/-- Fuses that the running image asks for: the floor and the revocation of keys (R588). -/
def burnImage (s : State) : State :=
  match s.boot.runSlot with
  | none => s
  | some n =>
    let h := slotHeader s n
    modBoot s (fun b => { b with
      floor := if bit (fwFlags h) 0 then max b.floor (fwEpoch h) else b.floor
      revoked := if bit (fwFlags h) 1 then (List.range (fwKey h)).foldl insertNat b.revoked else b.revoked })

/-- Shared arbitration pointers return to 0 (R29). -/
def resetPointers (s : State) : State :=
  { s with host := { s.host with fnPtr := 0 }, cipher := { s.cipher with encPtr := 0, decPtr := 0 } }

/-- READY: fuses are burned, pointers reset, the fault latch reported and cleared, self-test and counters start, and READY is set
(R506, R511, R520, R527, R588, R624). -/
def workReady (_t : Nat) (s : State) : State × BootOut × List Nat :=
  let s := (s.boot.confirmed.take 64).foldl burnUnit s
  let s := resetPointers (burnImage s)
  let s := if s.power.latch != 0 then
      modPower (raisePf s 0x0471 (sourceId s srcMp) [(1, s.power.latch)]) (fun p => { p with latch := 0 })
    else s
  let s := modPower s (fun p => { p with tThrottled := 0, tBoost := 0, tVhi := 0, tHeat := 0, energy := 0, droops := 0 })
  let s := { s with self := { SelfSt.reset with flags := 31, interval := 2000, nextTick := some (now s + 2000000000), counted := now s } }
  let s := modFw s (fun f => { f with lastReady := s.boot.runSlot.getD f.lastReady, mark := if f.mark = s.boot.runSlot then none else f.mark })
  let s := modBoot s (fun b => { b with ready := true })
  let s := if errMasked s 0 then s else fireVector s 0 63
  (noteSpares s, .pass, [])

def execBootStepReady (us : Nat) (s : State) : Host.Outcome State Fault Refusal := done (runStep 13 us workReady (fun s => s) s)

end Sys2Proof.Machine
end

