-- ==== Sys2Proof/Machine/Cc.lean ====
section
/-! DEFINITION. The control core's instructions (R68 to R75, R632). Each acts on the running task of one bench context;
where none runs, or the instruction must wait, the state stays as it is. -/

namespace Sys2Proof.Machine

/-- The instruction word that a task's program counter fetches from its station's code (R76). -/
def codeWord (s : State) (jk : Nat) (st : Station) (pc : Nat) : Nat :=
  (((getJob s jk).image.map (fun im => fieldLe im.code (st.codeOff + pc) 4)).getD 0)

/-- Opcodes 0x12 to 0x3F are reserved (R70). -/
def opReserved (w : Nat) : Bool := decide (0x12 ≤ bits w 31 26)

/-- Run one instruction of a bench context: it needs a running task that is not frozen; a fetch outside the station's
code, or of a reserved opcode, is CC_FAULT whatever is commanded (R72). -/
def ccRun (s : State) (lb c : Nat) (f : Nat → BCtx → Task → State) : State :=
  let x := getCtx s lb c
  match jobOf s lb c, x.running with
  | some jk, some t =>
    if x.frozen || (getJob s jk).phase != .running || !present s lb || (getBench s lb).failed then s
    else
      match stationOf s jk t.station with
      | none => s
      | some st =>
        if x.pc.toNat < st.codeSize && !opReserved (codeWord s jk st x.pc.toNat) then f jk x t else taskFault s lb c t.station 0x0310
  | _, _ => s

/-- Program counter after an instruction that does not branch. -/
def nextPc (x : BCtx) : BCtx := { x with pc := x.pc + 4 }

/-- Write D and go on (R632: the poison bit is that of any register read). -/
def writeD (s : State) (lb c d : Nat) (v : Long) (p : Bool) : State := modCtx s lb c (fun x => nextPc (setXreg x d v p))

/-- The result of an ALU operation; none for a reserved FN (R70). -/
def aluOp (fn : Nat) (a b : Long) : Option Long :=
  let sh := b.toNat % 64
  match fn with
  | 0x00 => some (a + b)
  | 0x01 => some (a - b)
  | 0x02 => some (a &&& b)
  | 0x03 => some (a ||| b)
  | 0x04 => some (a ^^^ b)
  | 0x05 => some (a <<< sh)
  | 0x06 => some (a >>> sh)
  | 0x07 => some (a.sshiftRight sh)
  | 0x08 => some (a * b)
  | 0x09 => some (if a.slt b then 1 else 0)
  | 0x0A => some (if a.ult b then 1 else 0)
  | 0x0B => some (if a.slt b then a else b)
  | 0x0C => some (if a.slt b then b else a)
  | _ => none

/-- ALU (R70, R632). -/
def doAlu (lb c d a b fn : Nat) (s : State) : State :=
  ccRun s lb c (fun _ x t =>
    match aluOp fn (xreg x a) (xreg x b) with
    | some v => writeD s lb c d v (xpois x a || xpois x b)
    | none => taskFault s lb c t.station 0x0310)

def execAlu (lb ctx d a b fn : Nat) (s : State) : Host.Outcome State Fault Refusal := done (doAlu lb ctx d a b fn s)

/-- ADDI: D := A + IMM14. -/
def doAddi (lb c d a imm : Nat) (s : State) : State :=
  ccRun s lb c (fun _ x _ => writeD s lb c d (xreg x a + imm14 imm) (xpois x a))

def execAddi (lb ctx d a imm : Nat) (s : State) : Host.Outcome State Fault Refusal := done (doAddi lb ctx d a imm s)

/-- ORSH: D := (D << 14) OR IMM14; it reads D itself (R632). -/
def doOrsh (lb c d imm : Nat) (s : State) : State :=
  ccRun s lb c (fun _ x _ => writeD s lb c d ((xreg x d <<< 14) ||| BitVec.ofNat 64 (imm % 16384)) (xpois x d))

def execOrsh (lb ctx d imm : Nat) (s : State) : Host.Outcome State Fault Refusal := done (doOrsh lb ctx d imm s)

/-- LD and ST after a FENCE wait for the MXE and VSE commands issued before it (R70). -/
def fenceWaits (x : BCtx) : Bool := x.mxeQ.any (fun m => decide (m.seq < x.fence)) || x.vseQ.any (fun v => decide (v.seq < x.fence))

/-- Address checks of LD and ST: a poisoned address and a misaligned one are CC_FAULT; one outside the own station
region freezes the context (R72, R73, R632). Answers the state that the access ends in, or the offset. -/
def ldstAddr (s : State) (lb c : Nat) (x : BCtx) (t : Task) (a imm access : Nat) : State ⊕ Nat :=
  let off := (xreg x a + imm14 imm).toNat
  if xpois x a || off % 8 ≠ 0 then .inl (taskFault s lb c t.station 0x0310)
  else if stationRegion ≤ off then .inl (freezeBench s lb c 3 access ((winBase + lb * winSize + off) % 2 ^ 64))
  else .inr off

/-- LD: a 64-bit load from the own station region. `ecc` is what the word's code finds: 0 clean, 1 corrected, 2 uncorrectable (R81). -/
def doLd (lb c d a imm ecc : Nat) (s : State) : State :=
  ccRun s lb c (fun jk x t =>
    if fenceWaits x then s
    else
      match ldstAddr s lb c x t a imm 0 with
      | .inl s => s
      | .inr off =>
        let s := checkReads (spdEcc s lb c t.station off ecc) jk [(windowAddr lb off, 8)]
        writeD s lb c d (BitVec.ofNat 64 (rdLe s (windowAddr lb off) 8)) (rdTagged s (windowAddr lb off) 8))

def execLd (lb ctx d a imm ecc : Nat) (s : State) : Host.Outcome State Fault Refusal := done (doLd lb ctx d a imm ecc s)

/-- ST: a 64-bit store; a poisoned register sets the word's tag (R632). -/
def doSt (lb c d a imm : Nat) (s : State) : State :=
  ccRun s lb c (fun _ x t =>
    if fenceWaits x then s
    else
      match ldstAddr s lb c x t a imm 1 with
      | .inl s => s
      | .inr off => modCtx (wrBytes s (windowAddr lb off) (toLe 8 (xreg x d).toNat) (xpois x d)) lb c nextPc)

def execSt (lb ctx d a imm : Nat) (s : State) : Host.Outcome State Fault Refusal := done (doSt lb ctx d a imm s)

/-- A conditional branch by IMM14 instructions; a poisoned operand is CC_FAULT (R69, R70, R632). -/
def branchIf (lb c d a imm : Nat) (p : Long → Long → Bool) (s : State) : State :=
  ccRun s lb c (fun _ x t =>
    if xpois x d || xpois x a then taskFault s lb c t.station 0x0310
    else modCtx s lb c (fun x => if p (xreg x d) (xreg x a) then { x with pc := x.pc + 4 * imm14 imm } else nextPc x))

def execBeq (lb ctx d a imm : Nat) (s : State) : Host.Outcome State Fault Refusal := done (branchIf lb ctx d a imm (fun u v => u == v) s)
def execBne (lb ctx d a imm : Nat) (s : State) : Host.Outcome State Fault Refusal := done (branchIf lb ctx d a imm (fun u v => u != v) s)
def execBlt (lb ctx d a imm : Nat) (s : State) : Host.Outcome State Fault Refusal := done (branchIf lb ctx d a imm BitVec.slt s)

/-- JMP: branch by OFF26 instructions. -/
def doJmp (lb c off : Nat) (s : State) : State :=
  ccRun s lb c (fun _ _ _ => modCtx s lb c (fun x => { x with pc := x.pc + 4 * off26 off }))

def execJmp (lb ctx off : Nat) (s : State) : Host.Outcome State Fault Refusal := done (doJmp lb ctx off s)

/-- The FP32 scalar of a register, the poison code where the register is poisoned (R74, R75, R632). -/
def scalar32 (x : BCtx) (n : Nat) : Word := if xpois x n then poisonF32 else (xreg x n).setWidth 32
/-- A scalar register for a stream; a poisoned one carries the poison code in bits [31:0]. -/
def scalar64 (x : BCtx) (n : Nat) : Long := if xpois x n then poisonF32.setWidth 64 else xreg x n

/-- MXE: issue a command; a full queue stalls; a reserved FN and a poisoned address are CC_FAULT (R71, R72, R107, R632). -/
def doMxe (lb c a b fn : Nat) (s : State) : State :=
  ccRun s lb c (fun _ x t =>
    if 4 ≤ fn || xpois x a then taskFault s lb c t.station 0x0310
    else if 8 ≤ x.mxeQ.length then s
    else modCtx s lb c (fun x => nextPc { x with mxeQ := x.mxeQ ++ [⟨fn, (xreg x a).toNat, scalar32 x b, x.issued⟩], issued := x.issued + 1 }))

def execMxe (lb ctx a b fn : Nat) (s : State) : Host.Outcome State Fault Refusal := done (doMxe lb ctx a b fn s)

/-- VSE: issue a stream and capture registers B to B + 3 modulo 64 (R71, R74). -/
def doVse (lb c a b : Nat) (s : State) : State :=
  ccRun s lb c (fun _ x t =>
    if xpois x a then taskFault s lb c t.station 0x0310
    else if 8 ≤ x.vseQ.length then s
    else modCtx s lb c (fun x => nextPc { x with
      vseQ := x.vseQ ++ [⟨(xreg x a).toNat, (List.range 4).map (fun n => scalar64 x (b + n)), x.issued⟩], issued := x.issued + 1 }))

def execVse (lb ctx a b : Nat) (s : State) : Host.Outcome State Fault Refusal := done (doVse lb ctx a b s)

/-- The words of a tile read from a bench's station region: descriptor word first, POISON by the tags (R91, R214). -/
def tileWordsAt (s : State) (lb off : Nat) (d : ConvDesc) (h : List Byte) : List CWord :=
  let n := convWords d
  (mkMeta h true (n == 1) false, h) :: (List.range (n - 1)).map (fun k =>
    let bs := rdBytes s (windowAddr lb (off + 64 * k)) 64
    (mkMeta (bs.map Prod.fst) false (k + 2 == n) (bs.any Prod.snd), bs.map Prod.fst))

/-- Whether both benches of a bench's pair at a station still run (R103). -/
def pairAlive (s : State) (jk k lb : Nat) : Bool :=
  (Tab.get [] (getJob s jk).pairs k).any (fun p => (p.1 == lb || p.2 == lb) && dealable s p.1 && dealable s p.2)

/-- What becomes of the TPUT numbered n of a running task: none for an ordinary one; for a lockstep pair it waits for its
signature; a voter's copy keeps only the one under vote (R100, R101). -/
def signWay (s : State) (jk lb c n : Nat) (t : Task) : Option Bool :=
  match votingNow (getBench s lb) c with
  | some v => some (v.nth == n)
  | none => if taskLockstep t && pairAlive s jk t.station lb then some true else none

/-- Put the words of a tile on their way for a context: into a slot or to the board, or into the wait where the conveyor is full or an earlier
tile waits (R48, R91, R224). `put` places it among the tiles in transit, `gone` goes on where it is complete at once. -/
def launchTile (s : State) (jk k : Nat) (d : ConvDesc) (ws : List CWord) (put : State → TputPhase → State) (gone : State → State) : State :=
  if maySend s jk k d && !tputWaits s jk k then
    match sendTile s jk k d ws with
    | (s, some ph) => put s ph
    | (s, none) => gone s
  else put (noteWait s jk k d) (.waiting (now s))

/-- TPUT: read the tile and send it; it waits where no slot or credit is free, and a lockstep task's tile waits for its signature (R72, R91,
R100, R224, R632). A tile that an earlier run of the task has sent is not sent again (log 144). `errs` are the words of the tile in which the
scratchpad's code finds errors (R81). -/
def doTput (lb c a b fn : Nat) (errs : List (Nat × Bool)) (s : State) : State :=
  ccRun s lb c (fun jk x t =>
    let k := t.outs.getD fn 0xFFFF
    if xpois x a || xpois x b || t.nout ≤ fn || k = 0xFFFF then taskFault s lb c t.station 0x0310
    else
      match convDescOf s jk k with
      | none => taskFault s lb c t.station 0x0310
      | some d =>
        let off := (xreg x a).toNat
        if stationRegion < off + 64 * (convWords d - 1) then freezeBench s lb c 3 0 ((winBase + lb * winSize + off) % 2 ^ 64)
        else
          let s := checkReads (noteSpdErrs s c t.station errs) jk [(windowAddr lb off, 64 * (convWords d - 1))]
          let bv := (xreg x b).toNat
          let h := descPayload d d.tensor t.step t.pass (bits bv 31 16) (bits bv 15 0) t.slot t.probe k (sourceId s lb)
          let ws := tileWordsAt s lb off d h
          let skip := fun (s : State) => modCtx s lb c (fun x => nextPc { x with tputN := x.tputN + 1 })
          let put := fun (s : State) (ph : TputPhase) => modCtx s lb c (fun x =>
            nextPc { x with tputs := x.tputs ++ [⟨k, x.tputN, ph, ws⟩], tputN := x.tputN + 1 })
          if t.sent.contains x.tputN then skip s
          else
            match signWay s jk lb c x.tputN t with
            | some true => put s .signing
            | some false => skip s
            | none => launchTile s jk k d ws put skip)

def execTput (lb ctx a b : Nat) (fn : Met Nat) (s : State) : Host.Outcome State Fault Refusal := done (doTput lb ctx a b fn.1 fn.2 s)

/-- A probe keeps the input slots of its feed stations (R209). -/
def keepsFeed (s : State) (jk : Nat) (t : Task) : Bool := (getJob s jk).probe.isSome && ((stationOf s jk t.station).map (·.kind)).getD 0 == 8

/-- The same task running on the other bench of a lockstep pair (R99). -/
def partnerTask (s : State) (jk lb : Nat) (t : Task) : Option Task :=
  if !taskLockstep t then none
  else
    (((Tab.get [] (getJob s jk).pairs t.station).find? (fun p => p.1 == lb || p.2 == lb)).bind (fun p =>
      (getCtx s (if p.1 = lb then p.2 else p.1) (jk % 2)).running)).filter (fun u => u.station == t.station && u.seq == t.seq && u.step == t.step)

/-- Free one input of the running task, unless a probe keeps a feed station's inputs (R90, R209). Both copies of a lockstep task run from the
same input tiles, so the slot returns when the second copy frees it, and a voter's copy frees none (R99, R101). A slot already freed stays as
it is (DESIGN CHOICE, log 146: R105 calls the error unpredictable). -/
def freeInput (s : State) (jk lb c n : Nat) (t : Task) : State :=
  match t.ins[n]? with
  | none => s
  | some i =>
    let other := match partnerTask s jk lb t with | some u => (u.ins[n]?.map (fun i => !i.freed)).getD false | none => false
    let keep := keepsFeed s jk t || other || (votingNow (getBench s lb) c).isSome
    let s := if i.freed || keep then s else freeSlot s jk i.conv i.home i.word
    modCtx s lb c (fun x => { x with running := x.running.map (fun t => { t with ins := modAt t.ins n (fun i => { i with freed := true }) }) })

/-- A tile of the running task, or of its copy on the pair's other bench, waits for its signatures: a voter may need the inputs (R101). -/
def unsettled (s : State) (lb c : Nat) (t : Task) : Bool :=
  taskLockstep t && (votingNow (getBench s lb) c).isNone && (getCtx s lb c).tputs.any (fun u => u.phase == .signing)

/-- TFREE: release input slot FN to its conveyor; one that the task does not have is CC_FAULT (R70, R72, R90). A lockstep task's TFREE waits
until the signatures of its earlier tiles are settled (DEDUCED, log 147). -/
def doTfree (lb c fn : Nat) (s : State) : State :=
  ccRun s lb c (fun jk _ t =>
    if t.ins.length ≤ fn then taskFault s lb c t.station 0x0310
    else if unsettled s lb c t then s
    else wakePart (modCtx (freeInput s jk lb c fn t) lb c nextPc) (jk / 2))

def execTfree (lb ctx fn : Nat) (s : State) : Host.Outcome State Fault Refusal := done (doTfree lb ctx fn s)

/-- Whether the work that FN names is complete: bit 0 MXE, bit 1 VSE, bit 2 TPUT (R70). -/
def workDone (x : BCtx) (fn : Nat) : Bool :=
  (!bit fn 0 || x.mxeQ.isEmpty) && (!bit fn 1 || x.vseQ.isEmpty) && (!bit fn 2 || x.tputs.isEmpty)

/-- WAIT: go on once the named work is complete. FN values above 7 are reserved and CC_FAULT (R70, R72). -/
def doWait (lb c fn : Nat) (s : State) : State :=
  ccRun s lb c (fun _ x t =>
    if 8 ≤ fn then taskFault s lb c t.station 0x0310
    else if workDone x fn then modCtx s lb c nextPc else s)

def execWait (lb ctx fn : Nat) (s : State) : Host.Outcome State Fault Refusal := done (doWait lb ctx fn s)

/-- CSRR: read STREAM_STATUS or MXE_STATUS; another index is reserved, and what it reads is open (R8, R70). -/
def doCsrr (lb c d imm : Nat) (s : State) : State :=
  ccRun s lb c (fun _ x _ =>
    if imm = 0 then writeD s lb c d (streamStatus x) false
    else if imm = 1 then writeD s lb c d (mxeStatus x) false
    else writeD (bumpFree s) lb c d (Config.freeLong s.freeCtr) false)

def execCsrr (lb ctx d imm : Nat) (s : State) : Host.Outcome State Fault Refusal := done (doCsrr lb ctx d imm s)

/-- FENCE: later LD and ST wait for every MXE and VSE command issued so far (R70). -/
def doFence (lb c : Nat) (s : State) : State :=
  ccRun s lb c (fun _ _ _ => modCtx s lb c (fun x => nextPc { x with fence := x.issued }))

def execFence (lb ctx : Nat) (s : State) : Host.Outcome State Fault Refusal := done (doFence lb ctx s)

/-- NOP: no effect but the advance (R70). -/
def doNop (lb c : Nat) (s : State) : State := ccRun s lb c (fun _ _ _ => modCtx s lb c nextPc)

def execNop (lb ctx : Nat) (s : State) : Host.Outcome State Fault Refusal := done (doNop lb ctx s)

/-- A slot or credit frees: the waiting TPUTs of a conveyor are served one per slot by the rotating rule over producer
logical bench numbers; WAIT_NS counts the wait (R221, R224, R232). -/
def doTputSlotGrant (jk k : Nat) (s : State) : State :=
  match convDescOf s jk k with
  | none => s
  | some d =>
    let c := jk % 2
    let waits := fun (lb : Nat) => partOfLb s lb == some (jk / 2) && !(waitsOn k (getCtx s lb c).tputs).isEmpty
    if !maySend s jk k d then s
    else
      match rotatePick 576 (getConv s jk k).prodPtr waits with
      | none => s
      | some lb =>
        let x := getCtx s lb c
        match x.tputs.findIdx? (fun u => u.conv == k && (waitingSince u).isSome) with
        | none => s
        | some n =>
          match x.tputs[n]? with
          | none => s
          | some u =>
            let s := modConv s jk k (fun c => { c with prodPtr := (lb + 1) % 576 })
            match sendTile s jk k d u.words with
            | (s, some ph) => endWaits (modCtx s lb c (fun x => { x with tputs := modAt x.tputs n (fun u => { u with phase := ph }) })) jk k [u]
            | (s, none) => endWaits (modCtx s lb c (fun x => { x with tputs := x.tputs.eraseIdx n })) jk k [u]

def execTputSlotGrant (job conv : Nat) (s : State) : Host.Outcome State Fault Refusal := done (doTputSlotGrant job conv s)

end Sys2Proof.Machine
end

