-- ==== Sys2Proof/Machine/Tiles.lean ====
section
/-! DEFINITION. From landed tiles to tasks: task templates (R181, R317, R633), joining (R88), reduction trees (R182,
R183), sequence slots (R315 to R319), and the frees and counts that follow a tile. -/

namespace Sys2Proof.Machine

/-! ## Templates -/

/-- The parameter block of kinds 0x01 to 0x04, 0x08 and 0x09 (R181, R633). -/
structure Template where
  trig : List Nat
  join : Nat
  axis : Nat
  count : Nat
  outs : List Nat
  chain : Bool
  arg : Nat
deriving DecidableEq, Repr

def templateOf (st : Station) : Template :=
  let p := st.params
  if st.kind = 5 then ⟨[fieldLe p 0 2], 3, 0, 0, [fieldLe p 2 2, 0xFFFF], false, 0⟩
  else ⟨trigConvs st, fieldLe p 1 1, fieldLe p 3 1, fieldLe p 0x10 2, [fieldLe p 0xC 2, fieldLe p 0xE 2],
        st.kind == 1 && bit (fieldLe p 0x12 1) 0, fieldLe p 0x14 4⟩

/-- NOUT: the output conveyors in use. -/
def outCount (outs : List Nat) : Nat := if outs.getD 1 0xFFFF ≠ 0xFFFF then 2 else if outs.getD 0 0xFFFF ≠ 0xFFFF then 1 else 0

/-- ACC_KEEP and ACC_CONT of a chained station's task (R633). -/
def chainFlags (on : Bool) (passes pass : Nat) : Nat :=
  if !on || passes < 2 then 0
  else if pass = 0 then 4
  else if pass + 1 < passes then 6
  else if pass + 1 = passes then 2
  else 0

/-- FLAGS of a new task (R89): VALID, the station's LOCKSTEP, and the chain's flags. -/
def newFlags (st : Station) (passes pass : Nat) : Nat := 1 + (if bit st.flags 1 then 8 else 0) + chainFlags (templateOf st).chain passes pass

/-! ## Joining -/

/-- A landed tile of a conveyor that no task has joined, with its coordinates. -/
abbrev Ready := Nat × CSlot × Coords

def readyTiles (s : State) (jk k : Nat) : List Ready :=
  match convDescOf s jk k with
  | none => []
  | some d => ((getConv s jk k).slots.filter (fun x => x.landed && !x.joined)).map (fun x => (k, x, slotCoords s jk d x))

/-- Two tiles match under JOIN: equal step, pass and slot, and the indices that JOIN names (R181, R311). -/
def tilesMatch (join : Nat) (a b : Coords) : Bool :=
  a.step == b.step && a.pass == b.pass && a.slot == b.slot && (join == 3 || join == 2 || a.ti == b.ti) && (join == 3 || join == 1 || a.tj == b.tj)

/-- One tile from each other trigger conveyor that matches x; none where one is missing. -/
def matchAll (join : Nat) (x : Ready) (rest : List (List Ready)) : Option (List Ready) :=
  match rest with
  | [] => some []
  | ts :: more =>
    match ts.find? (fun y => tilesMatch join x.2.2 y.2.2), matchAll join x more with
    | some y, some ys => some (y :: ys)
    | _, _ => none

/-- The first joined set, oldest IN[0] tile first. -/
def findJoin (join : Nat) (tiles : List (List Ready)) : Option (List Ready) :=
  match tiles with
  | [] => none
  | h :: rest => h.findSome? (fun x => (matchAll join x rest).map (x :: ·))

/-- A slot of a conveyor becomes joined: it leaves READY (R220). -/
def markJoined (s : State) (jk : Nat) (t : Ready) : State :=
  modConv s jk t.1 (fun c => { c with slots := c.slots.map (fun x =>
    if x.home == t.2.1.home && x.word == t.2.1.word then { x with joined := true } else x) })

/-- IN entry of a tile (R89, R219). -/
def inRefOf (s : State) (jk : Nat) (t : Ready) : InRef :=
  ⟨t.1, t.2.1.home, t.2.1.word, ((convDescOf s jk t.1).map convWords).getD 0, false⟩

/-- Form a task of station k at the coordinates of its IN[0] tile, and deal it (R88, R89, R633). The descriptor's words
carry no poison tag. -/
def formTask (s : State) (jk k : Nat) (st : Station) (c : Coords) (ins : List InRef) (node : Nat × Nat) : State :=
  let passes := ((getJob s jk).image.map (fun im => im.sched.passes)).getD 1
  let t := templateOf st
  let (n, s) := nextSeq s jk k c.step
  let task : Task :=
    ⟨k, newFlags st passes c.pass, outCount t.outs, n, c.tensor, c.step, c.pass, c.ti, c.tj, c.slot, ins, t.outs, t.arg, 0, (getJob s jk).probe.isSome, node, []⟩
  dealTask s jk task

/-! ## Reduction trees (R182, R183) -/

/-- Whether a station reduces by a combine tree over tiles. -/
def isTree (st : Station) : Bool := (st.kind == 3 && (templateOf st).axis != 3) || st.kind == 4

/-- Whether a tree reduces along the columns of its tensor: a normalisation station always forms row statistics (R182, R183). -/
def reducesCols (st : Station) : Bool := st.kind != 4 && (templateOf st).axis == 2

/-- Index of a tile along the reduced axis, and the result it belongs to: step, pass, slot, and the fixed index with the group. -/
def treePlace (st : Station) (c : Coords) : Nat × (Nat × Nat × Nat × Nat) :=
  let t := templateOf st
  let n := max t.count 1
  if reducesCols st then (c.ti % n, (c.step, c.pass, c.slot, c.tj * 65536 + c.ti / n))
  else (c.tj % n, (c.step, c.pass, c.slot, c.ti * 65536 + c.tj / n))

/-- Nodes of a level of the tree over n leaves. -/
def treeWidth (n : Nat) (level : Nat) : Nat := ceilDiv n (2 ^ level)

/-- Where a completed node's partial stands: an odd last one passes up unchanged (R174). -/
def passUp (n : Nat) (node : Nat × Nat) (fuel : Nat) : Nat × Nat :=
  match fuel with
  | 0 => node
  | f + 1 =>
    let w := treeWidth n node.1
    if 1 < w && w % 2 = 1 && node.2 + 1 = w then passUp n (node.1 + 1, node.2 / 2) f else node

/-- Coordinates of a combine task: those of the result's first tile. -/
def treeCoords (st : Station) (c : Coords) : Coords :=
  let n := max (templateOf st).count 1
  if reducesCols st then { c with ti := c.ti / n * n } else { c with tj := c.tj / n * n }

/-- Coordinates of a task. -/
def taskCoords (t : Task) : Coords := ⟨t.tensor, t.step, t.pass, t.ti, t.tj, t.slot, t.probe⟩

/-- The statistic tile that the root task of a row leaves on its bench: the root's code places it, and no rule says where in the station region
or how long it is, so SPD_WORD and WORDS are free values within their fields (R89, R183; log 23). -/
def statRef (s : State) (lb : Nat) : InRef :=
  ⟨0xFFF, lb, (Config.freeLong s.freeCtr).toNat % 18432, 1 + (Config.freeLong (s.freeCtr + 1)).toNat % 1089, true⟩

/-- The inputs of an apply task: the leaf's tile, the statistic as IN[1], then the leaf's other tiles as far as NIN reaches (R89, R183). -/
def applyIns (stat : InRef) (ins : List InRef) : List InRef :=
  (ins.take 1).map (fun i => { i with freed := false }) ++ stat :: ((ins.drop 1).take 2).map (fun i => { i with freed := false })

/-- Release the apply tasks of a normalisation row: the tile is IN[0], the statistic IN[1] (R183). A leaf's fourth tile has no place in the
descriptor, and its slot is freed. -/
def releaseApply (s : State) (jk k lb : Nat) (st : Station) (key : Nat × Nat × Nat × Nat) : State :=
  let mine := fun (t : Task) => t.station == k && (treePlace st (taskCoords t)).2 == key
  let rows := (getJob s jk).rowTasks.filter mine
  let stat := statRef s lb
  let s := modJob { s with freeCtr := s.freeCtr + 2 } jk (fun j => { j with rowTasks := j.rowTasks.filter (fun t => !mine t) })
  rows.foldl (fun s t =>
    let s := freeInputs s jk { t with ins := t.ins.drop 3 }
    formTask s jk k st (taskCoords t) (applyIns stat t.ins) (255, 0)) s

/-- A leaf or combine task of a tree has reached TEND on a bench: its parent becomes a task once both partials are
complete; the root's end releases the apply tasks of a normalisation row. -/
def treeEnded (s : State) (jk lb : Nat) (st : Station) (t : Task) : State :=
  if t.node.1 = 255 then s
  else
    let n := max (templateOf st).count 1
    let key := (treePlace st (taskCoords t)).2
    let s := if st.kind = 4 && t.node.1 = 0 then modJob s jk (fun j => { j with rowTasks := j.rowTasks ++ [t] }) else s
    let p := passUp n t.node 16
    if treeWidth n p.1 ≤ 1 then (if st.kind = 4 then releaseApply s jk t.station lb st key else s)
    else
      let other := fun (q : Partial) => q.station == t.station && q.key == key && q.node == (p.1, if p.2 % 2 = 0 then p.2 + 1 else p.2 - 1)
      if (getJob s jk).partials.any other then
        let s := modJob s jk (fun j => { j with partials := j.partials.filter (fun q => !other q) })
        formTask s jk t.station st (treeCoords st (taskCoords t)) [] (p.1 + 1, p.2 / 2)
      else modJob s jk (fun j => { j with partials := j.partials ++ [⟨t.station, key, p, lb⟩] })

/-- Whether the tile's pass runs: a probe runs pass 0 alone, and tiles of later passes wait for the repeat (R209). -/
def inProbe (j : Job) (c : Coords) : Bool := j.probe.isNone || c.pass == 0

/-! ## Chunked attention (R315 to R319) -/

/-- Query tiles of one sequence that this module queues (R316). -/
def queryTiles (s : State) (jk : Nat) (st : Station) : Nat :=
  let j := getJob s jk
  let q := fieldLe st.params 0 2
  match j.image, convDescOf s jk q with
  | some im, some d =>
    let cols := ((tensorOf im d.tensor).map (fun t => (viewOf t).2)).getD 0
    fieldLe st.params 8 4 / max j.cut.seqRanks 1 / 256 * ceilDiv cols (max d.cols 1)
  | _, _ => 0

/-- Whether a tile may enter its sequence slot: the slot is FREE, or OPEN with the tile's step and pass (R316). -/
def slotTakes (s : State) (st : Station) (c : Coords) : Bool :=
  let a := slotRec st c.slot
  decide (c.slot < 64) && (rdLe s (a + 6) 1 != 1 || (rdLe s a 4 == c.step && rdLe s (a + 4) 2 == c.pass))

/-- Open a FREE slot for a tile: its step and pass, KV_FILLED 0 and PENDING 0 (R316). -/
def openSlot (s : State) (jk k : Nat) (st : Station) (c : Coords) : State :=
  let a := slotRec st c.slot
  if rdLe s (a + 6) 1 = 1 then s
  else
    let s := wrOwn s (jk / 2) a (toLe 4 c.step ++ toLe 2 c.pass ++ [1, 0] ++ toLe 4 0 ++ toLe 4 0) false
    modJob s jk (fun j => { j with kvLanded := Tab.del j.kvLanded (slotKey k c.slot), qQueued := Tab.del j.qQueued (slotKey k c.slot) })

/-- Place of element (i, j) in the element order of a tile: row by row within each 32 × 32 sub-block, clipped to the tile (R135, R138). -/
def tilePlace (rows cols i j : Nat) : Nat :=
  let h := min 32 (rows - i / 32 * 32)
  let w := min 32 (cols - j / 32 * 32)
  i / 32 * 32 * cols + j / 32 * 32 * h + i % 32 * w + j % 32

/-- Payload bytes and trailer bytes of a tile's words, each byte with its word's tag. -/
def tileBytes (ws : List CWord) : List (Byte × Bool) := ws.flatMap (fun w => w.2.map (fun b => (b, metaPoison w.1)))

/-- Where place (r, c) of a tile stands in its payload: stripes of 32 rows, sub-blocks of 32 columns, row by row within one; the last ones
are as high and wide as the tile leaves them (R49, R135; DEDUCED, log 156). -/
def tileIndex (d : ConvDesc) (r c : Nat) : Nat :=
  32 * (r / 32) * d.cols + 32 * (c / 32) * min 32 (d.rows - 32 * (r / 32)) + r % 32 * min 32 (d.cols - 32 * (c / 32)) + c % 32

/-- Write one element code to place (i, j) of a stored tensor for partition p, beside its neighbours in the byte. -/
def putCode (s : State) (p : Nat) (g : Region) (i j code : Nat) (tag : Bool) : State :=
  let (a, n, sh) := elemAddr g i j
  let old := rdLe s a n
  wrOwn s p a (toLe n (old - old / 2 ^ sh % 2 ^ fmtWidth g.fmt * 2 ^ sh + code * 2 ^ sh)) tag

/-- Write a tile's elements and scales to rows r0 on, columns c0 on, of a catalogue tensor of its format, as far as the tensor's stored
sub-blocks reach (R243, R318). Whole sub-blocks go as they stand; a tile that does not fall on sub-blocks goes place by place. -/
def storeTile (s : State) (p : Nat) (im : Image) (t : TensorEnt) (d : ConvDesc) (ws : List CWord) (r0 c0 : Nat) : State :=
  let bs := tileBytes (ws.drop 1)
  let g := tensorRegion im t
  let fits := fun (i j : Nat) => decide (i / 32 < ceilDiv (viewOf t).1 32 ∧ j / 32 < ceilDiv (viewOf t).2 32)
  let code := fun (r c : Nat) =>
    let (off, n, sh) := elemPlace t.format (tileIndex d r c)
    let e := (bs.drop off).take n
    (leNat (e.map Prod.fst) / 2 ^ sh % 2 ^ fmtWidth t.format, e.any Prod.snd)
  let places := (List.range d.rows).flatMap (fun r => (List.range d.cols).filterMap (fun c => if fits (r0 + r) (c0 + c) then some (r, c) else none))
  let s := if d.rows % 32 = 0 && d.cols % 32 = 0 && c0 % 32 = 0 then
      let sub := subBlockBytes t.format
      applyComp s (classOfFormat t.format) (ownCells s p ((List.range (d.rows / 32)).flatMap (fun a => (List.range (d.cols / 32)).flatMap (fun b =>
        if fits (r0 + 32 * a) (c0 + 32 * b) then
          ((bs.drop ((a * (d.cols / 32) + b) * sub)).take sub).zipIdx.map (fun e => ((elemAddr g (r0 + 32 * a) (c0 + 32 * b)).1 + e.2, e.1.1, e.1.2))
        else []))))
    else places.foldl (fun s rc => let e := code rc.1 rc.2; putCode s p g (r0 + rc.1) (c0 + rc.2) e.1 e.2) s
  let group := groupSize t.format t.block
  if group = 0 then s
  else
    let tr := bs.drop (payloadBytes d.format d.rows d.cols)
    applyCells s (ownCells s p (places.filterMap (fun rc =>
      let n := tileIndex d rc.1 rc.2
      if n % group = 0 then (tr[n / group]?).map (fun e => (scaleAddr g (r0 + rc.1) (c0 + rc.2), e.1, e.2)) else none)))

/-- Positions landed contiguously from 0: the rows of 256 positions of which every key and every value column tile has landed. -/
def contiguous (kv : List (Nat × Nat × Bool)) (keys vals i fuel : Nat) : Nat :=
  match fuel with
  | 0 => i
  | f + 1 =>
    if (List.range keys).all (fun c => kv.contains (i, c, false)) && (List.range vals).all (fun c => kv.contains (i, c, true))
    then contiguous kv keys vals (i + 1) f else i

/-- The key and value conveyors of an attention station: conveyor and whether it carries values (R317). -/
def kvConvs (st : Station) : List (Nat × Bool) :=
  (List.range (min 8 (fieldLe st.params 4 1))).flatMap (fun n =>
    [(fieldLe st.params (0x20 + 4 * n) 2, false), (fieldLe st.params (0x22 + 4 * n) 2, true)])

/-- Column tiles of an attention station's keys or values: those of its tensor's view, by the first such conveyor's tiles. -/
def kvColumns (s : State) (jk : Nat) (im : Image) (st : Station) (isV : Bool) : Nat :=
  match tensorOf im (fieldLe st.params (if isV then 0x14 else 0x10) 4), ((kvConvs st).find? (fun c => c.2 == isV)).bind (fun c => convDescOf s jk c.1) with
  | some t, some d => ceilDiv (viewOf t).2 (max d.cols 1)
  | _, _ => 0

/-- A key or value tile enters its slot: it is written to its tensor, its conveyor slot is freed, and KV_FILLED rises (R318). -/
def landKv (s : State) (jk k : Nat) (st : Station) (isV : Bool) (t : Ready) : State :=
  match (getJob s jk).image, convDescOf s jk t.1 with
  | some im, some d =>
    let c := t.2.2
    match tensorOf im (fieldLe st.params (if isV then 0x14 else 0x10) 4) with
    | none => s
    | some te =>
      let seq := fieldLe st.params 8 4
      let s := checkSlotParity (openSlot s jk k st c) jk t.1 t.2.1
      let s := storeTile s (jk / 2) im te d (slotWords s jk d t.2.1) (c.slot * seq + 256 * c.ti) (c.tj * d.cols)
      let s := freeSlot s jk t.1 t.2.1.home t.2.1.word
      let kv := Tab.get [] (getJob s jk).kvLanded (slotKey k c.slot) ++ [(c.ti, c.tj, isV)]
      let s := modJob s jk (fun j => { j with kvLanded := Tab.set j.kvLanded (slotKey k c.slot) kv })
      let filled := 256 * contiguous kv (kvColumns s jk im st false) (kvColumns s jk im st true) 0 (seq / 256)
      let a := slotRec st c.slot + 8
      wrOwnLe s (jk / 2) a 4 (max (rdLe s a 4) filled)
  | _, _ => s

/-- A query tile enters its slot and becomes a task (R319). -/
def landQuery (s : State) (jk k : Nat) (st : Station) (t : Ready) : State :=
  let s := markJoined (openSlot s jk k st t.2.2) jk t
  formTask s jk k st t.2.2 [inRefOf s jk t] (0, 0)

/-- The tiles of an attention station that wait and may now enter their slots, in conveyor order. -/
def landAttention (s : State) (jk k : Nat) (st : Station) : State :=
  let q := fieldLe st.params 0 2
  let takes := fun (s : State) (c : Coords) => inProbe (getJob s jk) c && slotTakes s st c
  let s := (kvConvs st).foldl (fun s cv => (readyTiles s jk cv.1).foldl (fun s t => if takes s t.2.2 then landKv s jk k st cv.2 t else s) s) s
  (readyTiles s jk q).foldl (fun s t => if takes s t.2.2 then landQuery s jk k st t else s) s

/-- A query task has reached TEND: PENDING falls, and the slot returns to FREE once every query tile has been queued (R316). -/
def queryEnded (s : State) (jk : Nat) (st : Station) (t : Task) : State :=
  let a := slotRec st t.slot
  let p := rdLe s (a + 12) 4 - 1
  let s := wrOwnLe s (jk / 2) (a + 12) 4 p
  if p = 0 && queryTiles s jk st ≤ Tab.get 0 (getJob s jk).qQueued (slotKey t.station t.slot) then
    landAttention (wrOwnLe s (jk / 2) (a + 6) 1 0) jk t.station st
  else s

/-! ## The consumer of a landed tile -/

/-- Whether a station may join a tile: a PASS station at any time, a STEP or ROUND station once released (R45). -/
def mayJoin (j : Job) (k : Nat) (st : Station) (c : Coords) : Bool := inProbe j c && (st.phase == 0 || decide (c.step < Tab.get 0 j.released k))

/-- Form the tasks that the tiles of a trigger station allow. -/
def joinTiles (s : State) (jk k : Nat) (st : Station) (fuel : Nat) : State :=
  match fuel with
  | 0 => s
  | f + 1 =>
    let t := templateOf st
    let tiles := t.trig.map (fun q => (readyTiles s jk q).filter (fun x => mayJoin (getJob s jk) k st x.2.2))
    match findJoin t.join tiles with
    | none => s
    | some xs =>
      match xs.head? with
      | none => s
      | some x =>
        let ins := xs.map (inRefOf s jk)
        let s := xs.foldl (fun s x => markJoined s jk x) s
        joinTiles (formTask s jk k st x.2.2 ins (if isTree st then (0, (treePlace st x.2.2).1) else (0, 0))) jk k st f

/-- Slots in use of a station's trigger conveyors: no more tasks than these can be joined. -/
def trigSlots (s : State) (jk : Nat) (st : Station) : Nat := ((templateOf st).trig.map (fun q => convOcc (getConv s jk q))).sum

/-- Form the tasks of one station from its landed tiles. -/
def serveStation (s : State) (jk k : Nat) : State :=
  match stationOf s jk k with
  | none => s
  | some st =>
    if st.kind = 5 then landAttention s jk k st
    else if st.kind = 6 || st.kind = 7 then s
    else joinTiles s jk k st (trigSlots s jk st + 1)

/-- A tile has landed whole on a conveyor: its consumer forms what tasks it can. -/
def tileArrived (s : State) (jk k : Nat) : State :=
  match convDescOf s jk k with
  | none => s
  | some d => if d.consumer = 0xFFFF then s else serveStation s jk d.consumer

/-- The board conveyors of a job to a slot break (R234): a tile that the receiving end completes reaches READY, and its consumer goes on. -/
def breakTo (s : State) (jk slot : Nat) : State :=
  match (getJob s jk).image with
  | none => s
  | some im =>
    wakePart ((List.range im.conveyors.length).foldl (fun s k =>
      if ((getConv s jk k).peer.map Prod.fst) == some slot && !(getConv s jk k).broken then tileArrived (breakConv s jk k) jk k else s) s) (jk / 2)

/-- The slot's last word has landed (R220). -/
def setLanded (s : State) (jk k home word : Nat) : State := modConv s jk k (fun c => { c with slots := landSlot c.slots home word })

/-- Store a tile's words into a free slot and count it as landed: the tile of a board port or of a feed channel. -/
def landWords (s : State) (jk k : Nat) (ws : List CWord) : Option State :=
  match convDescOf s jk k with
  | none => none
  | some d =>
    match pickSlot s jk k d with
    | none => none
    | some p => some (tileArrived (setLanded (storeWords (takeSlot s jk k p) jk k p.1 p.2 ws) jk k p.1 p.2) jk k)

/-- The conveyor slots that a task's end leaves held: the tile of a normalisation leaf waits for its apply task (R183). -/
def keepsInputs (st : Station) (t : Task) : Bool := st.kind == 4 && t.node.1 == 0

end Sys2Proof.Machine
end

