-- ==== Sys2Proof/Machine/Fail.lean ====
section
/-! DEFINITION. Lockstep signatures and votes (R99 to R103), a bench that fails (R534, R535), and the steal protocol
(R97, R98). -/

namespace Sys2Proof.Machine

/-! ## A bench that fails -/

/-- Raise a repair event (R538): class, UNIT, logical number, and more items. Bench events also reach the owning
partition's function. -/
def raiseRepair (s : State) (p : Option Nat) (code cls unit logical : Nat) (more : List (Nat × Nat)) : State :=
  let items := [(1, cls), (4, unit), (2, logical)] ++ more
  raisePart (eventRecord s code items) p code (sourceId s srcMp) items

/-! ## A spare takes a failed bench's place (R225, R536) -/

/-- The spare that serves a failed logical bench: a usable physical bench that serves none, in the failed bench's physical row, then
row − 1, then row + 1 of its face, in rows of the same partition (R24, R536). -/
def spareFor (s : State) (lb pb : Nat) : Option Nat :=
  let r := pb / 10
  let mine := fun (q : Nat) => q / 16 == r / 16 && partOfRow s q == partOfLb s lb
  let rows := [r] ++ (if r = 0 then [] else [r - 1]) ++ [r + 1]
  let serving := servingPbs s
  ((rows.filter mine).flatMap (fun q => span (10 * q) 10)).find? (fun p => p != pb && !serving.contains p && pbUsable s p)

/-- A spare that is under slice is chosen: the slice is abandoned (R553). -/
def abandonSlice (s : State) (pb : Nat) : State :=
  match s.self.slice with
  | some (x, _) => if x = pb then closeSweep (countAbandoned (modSelf s (fun q => { q with slice := none })) 0) 0 else s
  | none => s

/-- A context that starts on a spare: what lies in the window store, its saved accumulators and context record, comes along; a frozen
context stays frozen. -/
def movedCtx (x : BCtx) : BCtx := if x.frozen && x.running.isSome then x else { BCtx.reset with accSave := x.accSave, recPc := x.recPc, recFlags := x.recFlags }

/-- The map switches to the spare: the window store, with its poison tags, goes with the logical bench, and so does the station code that it
held: sparing changes no result (R32, R536; DEDUCED, log 124). -/
def moveBench (s : State) (lb x : Nat) : State :=
  let s := modBoot s (fun b => { b with phys := Tab.set b.phys lb x })
  let used := rowsUsed s x
  let s := modBench s lb (fun b => { Bench.reset with c0 := movedCtx b.c0, c1 := movedCtx b.c1, cache := b.cache, tags := b.tags, sparesUsed := used })
  modSelf s (fun q => { q with saved := q.saved.filter (· != lb) })

/-- The slots of one conveyor on a bench that becomes absent: they leave SLOTS, and the tiles they hold are delivered with POISON
on every word, those still in transit when they land (R225). -/
def loseSlots (s : State) (jk k lb : Nat) (d : ConvDesc) : State :=
  let held := (getConv s jk k).slots.filter (fun x => x.home == lb)
  let s := held.foldl (fun s x =>
    let a := slotAddr s jk d x.home x.word
    applyCells s (cellsOf a (rdData s a (64 * convWords d)) true)) s
  raiseConv (modConv s jk k (fun c => { c with lostLbs := c.lostLbs ++ [lb] })) jk k d 0x0363

/-- The conveyors of a job with slots on a bench. -/
def convsOn (s : State) (jk lb : Nat) : List (Nat × ConvDesc) :=
  match (getJob s jk).image with
  | none => []
  | some im => (im.conveyors.zipIdx.filter (fun dk => dk.1.store == 0 && (storeBenches s jk dk.2 dk.1).contains lb)).map (fun dk => (dk.2, dk.1))

/-- The logical bench becomes absent: its slots are lost (R225, R536). -/
def loseBench (s : State) (lb : Nat) : State :=
  let s := match partOfLb s lb with
    | none => s
    | some p => [2 * p, 2 * p + 1].foldl (fun s jk => (convsOn s jk lb).foldl (fun s e => loseSlots s jk e.1 lb e.2) s) s
  modSelf (modBoot s (fun b => { b with phys := Tab.del b.phys lb })) (fun q => { q with saved := q.saved.filter (· != lb) })

/-- A failed logical bench is spared, or becomes absent (R536). -/
def spareBench (s : State) (lb : Nat) : State :=
  match Tab.find s.boot.phys lb with
  | none => s
  | some pb =>
    if !(getBench s lb).failed then s
    else
      let cause := (getBench s lb).cause
      let p := partOfLb s lb
      match spareFor s lb pb with
      | some x => raiseRepair (noteSpares (repairUnit (moveBench (abandonSlice s x) lb x) 0 pb lb (some x) cause)) p 0x0431 0 pb lb []
      | none => raiseRepair (noteSpares (repairUnit (loseBench s lb) 0 pb lb none cause)) p 0x0432 0 pb lb []

/-- Deal tasks again with REISSUE (R535): over the present benches of the group, or over the station's other pairs. -/
def redeal (s : State) (jk : Nat) (ts : List Task) : State := ts.foldl (fun s t => dealTask s jk (reissued t)) s

/-- Break the lockstep pairs of a bench until the next step boundary: the pair's queued tasks go to the other pairs
(R103). Answers the tasks of the partner's queue. -/
def breakPairs (s : State) (jk lb : Nat) : State × List Task :=
  let mine := ((getJob s jk).pairs.flatMap (fun e => e.2.filter (fun p => p.1 == lb || p.2 == lb)))
  let partners := (mine.map (fun p => if p.1 = lb then p.2 else p.1)).eraseDups
  let s := modJob s jk (fun j => { j with pairs := Tab.mapAll j.pairs (fun _ ps => ps.filter (fun p => p.1 != lb && p.2 != lb)) })
  partners.foldl (fun (a : State × List Task) h =>
    let q := (getCtx a.1 h (jk % 2)).queue
    (modCtx a.1 h (jk % 2) (fun x => { x with queue := q.filter (fun t => !taskLockstep t) }), a.2 ++ q.filter taskLockstep)) (s, [])

/-- Send a signed TPUT of a bench on its way: into a slot, to the board, or into the wait (R100, R224). -/
def settleTput (s : State) (jk lb n : Nat) : State :=
  let c := jk % 2
  match (getCtx s lb c).tputs[n]? with
  | none => s
  | some u =>
    match convDescOf s jk u.conv with
    | none => s
    | some d =>
      launchTile s jk u.conv d u.words (fun s ph => modCtx s lb c (fun x => { x with tputs := modAt x.tputs n (fun u => { u with phase := ph }) }))
        (fun s => modCtx s lb c (fun x => { x with tputs := x.tputs.eraseIdx n }))

/-- The other bench of a broken pair gives its copy of the running task up, for it runs no lockstep task alone (R103). Tiles of the copy whose
signatures are settled go on their way; the task that is dealt again has sent what both copies have settled and the failed bench does not
still send, and holds every input that either copy still holds. -/
def giveUpCopy (s : State) (jk h : Nat) (t : Task) : State × Task :=
  let c := jk % 2
  let y := getCtx s h c
  match y.running with
  | none => (s, t)
  | some u =>
    if u.station == t.station && u.seq == t.seq && u.step == t.step then
      let settled := fun (n : Nat) => decide (n < y.tputN) && !y.tputs.any (fun v => v.nth == n && v.phase == .signing)
      (modCtx (addBusy s h c) h c (fun y => { y with running := none, mxeQ := [], vseQ := [], tputs := y.tputs.filter (fun v => v.phase != .signing) }),
       { t with sent := t.sent.filter settled, ins := t.ins.zipIdx.map (fun i => { i.1 with freed := i.1.freed && ((u.ins[i.2]?).map (·.freed)).getD true }) })
    else (s, t)

/-- Votes on a pair with a bench that fails are called off; a voter that runs its copy drops it. -/
def dropVotes (s : State) (lb c : Nat) : State :=
  let mine := fun (v : Vote) => v.ctx == c && (v.low == lb || v.high == lb)
  let dropped := (s.benches.filter (fun e => ((votingNow e.2 c).map mine).getD false)).map Prod.fst
  let s := dropped.foldl (fun s v => addBusy s v c) s
  { s with benches := s.benches.map (fun e =>
      let runs := ((votingNow e.2 c).map mine).getD false
      let b := if runs then e.2.modCtx c (fun x => { x with running := none, mxeQ := [], vseQ := [], tputs := x.tputs.filter (fun u => u.phase != .signing) }) else e.2
      (e.1, { b with votes := b.votes.filter (fun v => !mine v) })) }

/-- The bench of the pair whose other bench is lb at a station. -/
def partnerOf (j : Job) (k lb : Nat) : Option Nat :=
  ((Tab.get [] j.pairs k).find? (fun (p : Nat × Nat) => p.1 == lb || p.2 == lb)).map (fun p => if p.1 = lb then p.2 else p.1)

/-- The pair's other bench gives up its copy of a lockstep task that stops on a bench. -/
def partCopies (s : State) (jk lb : Nat) (t : Task) : State × Task :=
  match partnerOf (getJob s jk) t.station lb with
  | some h => if taskLockstep t then giveUpCopy s jk h t else (s, t)
  | none => (s, t)

/-- A task that its bench has stopped runs again: a torn update waits for its copy (R301), a task of a lost chain completes without computing
(R122), and any other is dealt again (R95, R535). -/
def runAgain (s : State) (jk lb : Nat) (t : Task) : State × List Task :=
  if ((stationOf s jk t.station).map (·.kind)).getD 0 = 7 then (s, [])
  else if chainLost (getJob s jk) t || taskKeep t then (completeLost s jk lb t, [])
  else (s, [t])

/-- One context of a failing bench: it stops as by a freeze; its running and queued tasks are re-issued. A frozen task stays with its bench
(R95), and a vote's copy ends. -/
def failCtx (s : State) (lb c : Nat) : State :=
  match jobOf s lb c with
  | none => modCtx s lb c stopCtx
  | some jk =>
    let frozen := (getCtx s lb c).frozen
    let voting := (votingNow (getBench s lb) c).isSome
    let s := dropVotes (if frozen then s else haltCtx s lb c) lb c
    let (s, running) := match (getCtx s lb c).running with
      | some t => if voting then (s, none) else let (s, t) := partCopies s jk lb t; (s, some t)
      | none => (s, none)
    let (s, others) := breakPairs s jk lb
    let (s, again) := match running with
      | some t => if frozen then (s, []) else runAgain s jk lb t
      | none => (s, [])
    let queued := (getCtx s lb c).queue
    let s := modCtx s lb c (fun x => { x with queue := [], running := if frozen then running else none })
    redeal s jk (again ++ queued ++ others)

/-- A task that a victim has granted to a bench that fails or is withdrawn before it arrives is dealt again (R98, R535, R545). -/
def redealGranted (s : State) (lb : Nat) (f : Task → Task) : State :=
  match (getBench s lb).steal with
  | some r =>
    match r.answer, jobOf s lb r.ctx with
    | .granted t, some jk => dealTask (modBench s lb (fun b => { b with steal := none })) jk (f t)
    | _, _ => modBench s lb (fun b => { b with steal := none })
  | none => s

/-- First word index of entry n of a context's task queue (R78); the head of the queue is entry 0 (DESIGN CHOICE, log 148). -/
def queueWord (c n : Nat) : Nat := (0x128000 + 0x4000 * c + 64 * n) / 8

/-- Words of the window that a failing bench can no longer read (8 B word indices) are poisoned, those of queued descriptors too (R83, R535, R632). -/
def loseWords (b : Bench) (lost : List Nat) : Bench :=
  let mark := fun (c : Nat) (q : List Task) => q.zipIdx.map (fun t => { t.1 with
    poison := (List.range 8).foldl (fun m k => if lost.contains (queueWord c t.2 + k) then m ||| 2 ^ k else m) t.1.poison })
  { b with tags := lost.foldl insertNat b.tags, c0 := { b.c0 with queue := mark 0 b.c0.queue }, c1 := { b.c1 with queue := mark 1 b.c1.queue } }

/-- A bench fails in service (R534, R535): both contexts stop, BENCH_FAILED is raised with its cause, the votes it had to
run are lost, and its tasks are dealt again. `lost` are the words of its window that can no longer be read. A bench of a row that no
partition owns is spared at once (R536). -/
def failBench (s : State) (lb cause : Nat) (lost : List Nat) : State :=
  if (getBench s lb).failed || !present s lb then s
  else
    let unit := (Tab.find s.boot.phys lb).getD 0
    let frozen0 := (getCtx s lb 0).frozen
    let frozen1 := (getCtx s lb 1).frozen
    let s := modBench s lb (fun b => { loseWords b lost with failed := true, quarantined := b.quarantined || cause == 4, cause := cause, withdrawn := false })
    let s := raiseRepair s (partOfLb s lb) 0x0430 0 unit lb [(1, cause)]
    let s := redealGranted (failCtx (failCtx s lb 0) lb 1) lb reissued
    let s := modBench s lb (fun b => { b with votes := [], c0 := { b.c0 with frozen := frozen0 }, c1 := { b.c1 with frozen := frozen1 } })
    match partOfLb s lb with
    | some p => wakePart s p
    | none => spareBench s lb

/-! ## Lockstep -/

/-- The signature of a tile: CRC-64 over the words in order, SOURCE of the descriptor word taken as 0, for it names the
bench and not the tile (R100, R216). -/
def signature (ws : List CWord) : Nat :=
  match ws with
  | [] => 0
  | h :: r => crc64 (putBytes h.2 0x1A [0, 0] ++ r.flatMap (fun w => w.2))

/-- Index of the TPUT numbered n that waits for its signature in a context. -/
def signingAt (x : BCtx) (n : Nat) : Option Nat := x.tputs.findIdx? (fun u => u.phase == .signing && u.nth == n)

/-- The lowest number of a signing TPUT of a context. -/
def firstSigning (x : BCtx) : Option Nat := ((x.tputs.filter (fun u => u.phase == .signing)).head?).map (·.nth)

def dropTput (s : State) (lb c n : Nat) : State := modCtx s lb c (fun x => { x with tputs := x.tputs.eraseIdx n })

/-- The voter: the station's unpaired bench where it may take tasks, else the nearest present bench of the group outside the pair, lower number
first (R101). -/
def chooseVoter (s : State) (jk k low high : Nat) : Option Nat :=
  match (Tab.find (getJob s jk).unpaired k).filter (dealable s) with
  | some u => some u
  | none =>
    match stationOf s jk k with
    | none => none
    | some st =>
      let g := (presentGroup s (jk / 2) st).filter (fun b => b != low && b != high && dealable s b)
      let d := fun (b : Nat) => (benchDist low b).getD 1000
      let m := (g.map d).foldl min 1000
      g.find? (fun b => d b == m)

/-- LOCKSTEP_MISMATCH, once for a tile of a task (R100). -/
def raiseMismatch (s : State) (jk low high c n : Nat) (t : Task) : State :=
  let key := (0x313, 2 ^ 128 + t.station * 2 ^ 64 + t.seq * 2 ^ 32 + n, t.step)
  if (getJob s jk).raisedOnce.contains key then s
  else raiseBench (modJob s jk (fun j => { j with raisedOnce := j.raisedOnce ++ [key] })) low c t.station 0x0313 [(4, t.seq), (2, low), (2, high)]

/-- Call a vote on TPUT n of a pair's task, unless one is called. Where no bench can vote, the pair waits until one can, and the signatures are
compared again (DESIGN CHOICE, log 22). -/
def callVote (s : State) (jk low high c n : Nat) (t : Task) : State :=
  if s.benches.any (fun e => e.2.votes.any (fun q => q.low == low && q.ctx == c && q.nth == n)) then s
  else
    let s := raiseMismatch s jk low high c n t
    match chooseVoter s jk t.station low high with
    | none => s
    | some v => selectNext (modBench s v (fun b => { b with votes := b.votes ++ [⟨low, high, c, v, n, t⟩] })) v

/-- The signatures of a pair meet for one TPUT (R100): equal, the lower bench sends and the higher discards; different,
LOCKSTEP_MISMATCH is raised and a vote called. -/
def doLockstepSignature (low c : Nat) (s : State) : State :=
  match jobOf s low c, (getCtx s low c).running with
  | some jk, some t =>
    match pairOf (getJob s jk) t.station low, firstSigning (getCtx s low c) with
    | some high, some n =>
      match signingAt (getCtx s low c) n, signingAt (getCtx s high c) n with
      | some il, some ih =>
        let wl := ((getCtx s low c).tputs[il]?.map (·.words)).getD []
        let wh := ((getCtx s high c).tputs[ih]?.map (·.words)).getD []
        if signature wl = signature wh then settleTput (dropTput s high c ih) jk low il else callVote s jk low high c n t
      | _, _ => s
    | _, _ => s
  | _, _ => s

def execLockstepSignature (lb ctx : Nat) (s : State) : Host.Outcome State Fault Refusal := done (doLockstepSignature lb ctx s)

/-- A voter's copy ends with its vote; the voter and its partner look for work again. -/
def endVote (s : State) (voter c : Nat) : State :=
  let s := modBench s voter (fun b => { b with votes := b.votes.drop 1 })
  let s := modCtx (addBusy s voter c) voter c (fun x => { x with running := none, mxeQ := [], vseQ := [], tputs := x.tputs.filter (fun u => u.phase != .signing) })
  match partOfLb s voter with
  | some p => wakePart s p
  | none => s

/-- The vote (R102): the bench that the voter agrees with sends the tile and the other is quarantined; with three
different signatures the lower bench's tile goes out poisoned, and all three are scheduled for self-test. -/
def doLockstepVote (voter : Nat) (s : State) : State :=
  match (getBench s voter).votes with
  | [] => s
  | v :: _ =>
    let c := v.ctx
    match jobOf s voter c, votingNow (getBench s voter) c, signingAt (getCtx s voter c) v.nth,
        signingAt (getCtx s v.low c) v.nth, signingAt (getCtx s v.high c) v.nth with
    | some jk, some _, some iv, some il, some ih =>
      let sig := fun (lb n : Nat) => signature (((getCtx s lb c).tputs[n]?.map (·.words)).getD [])
      let sv := sig voter iv
      if sv = sig v.low il then
        let s := settleTput (dropTput s v.high c ih) jk v.low il
        let s := raiseBench s v.high c v.task.station 0x0314 []
        failBench (endVote s voter c) v.high 4 []
      else if sv = sig v.high ih then
        let s := settleTput (dropTput s v.low c il) jk v.high ih
        let s := raiseBench s v.low c v.task.station 0x0314 []
        failBench (endVote s voter c) v.low 4 []
      else
        let s := modCtx s v.low c (fun x => { x with tputs := modAt x.tputs il (fun u => { u with words := u.words.map (fun w => (if metaPoison w.1 then w.1 else w.1 + 32, w.2)) }) })
        let s := settleTput (dropTput s v.high c ih) jk v.low il
        let s := raiseBench s v.low c v.task.station 0x0315 []
        let s := [v.low, v.high, voter].foldl (fun s lb => requestTest s lb) s
        endVote s voter c
    | _, _, _, _, _ => s

def execLockstepVote (voter : Nat) (s : State) : Host.Outcome State Fault Refusal := done (doLockstepVote voter s)

/-- BENCH_FAILED: a bench fails for a cause of R534. -/
def execBenchFailed (lb : Nat) (cause : Losing Nat) (s : State) : Host.Outcome State Fault Refusal := done (failBench s lb cause.1 cause.2)

/-! ## Stealing -/

/-- Serve one thief at a victim: the most recently queued ready task that may be stolen goes, while two or more are ready (R64, R97). -/
def serveThief (s : State) (victim thief : Nat) : State :=
  match (getBench s thief).steal with
  | none => s
  | some r =>
    if r.victim ≠ victim || r.answer ≠ .none then s
    else
      match jobOf s victim r.ctx with
      | none => s
      | some jk =>
        let ok := fun (t : Task) => t.station == r.station && !taskCont t && taskReady s jk victim t
        let s := modBench s victim (fun b => { b with thiefPtr := (thief + 1) % 576 })
        let answer := fun (s : State) (a : StealAnswer) => modBench s thief (fun b => { b with steal := some { r with answer := a } })
        if readyCount s jk victim r.station < 2 then answer s .refused
        else
          match takeFirst ok (getCtx s victim r.ctx).queue.reverse with
          | none => answer s .refused
          | some (t, q) => answer (modCtx s victim r.ctx (fun x => { x with queue := q.reverse })) (.granted t)

/-- Serve the thieves whose requests arrive in one cycle, in rotating order over their numbers. -/
def serveThieves (s : State) (victim : Nat) (ts : List Nat) (fuel : Nat) : State :=
  match fuel with
  | 0 => s
  | f + 1 =>
    match rotatePick 576 (getBench s victim).thiefPtr (fun t => ts.contains t) with
    | none => s
    | some t => serveThieves (serveThief s victim t) victim (ts.filter (· != t)) f

/-- Steal requests arrive at a victim: it takes its own next task first where it stands at a tile boundary, then serves
the thieves (R97). -/
def doStealRequest (victim : Nat) (thieves : List Nat) (s : State) : State :=
  if !present s victim || (getBench s victim).failed then s
  else serveThieves (selectNext s victim) victim thieves 576

def execStealRequest (victim : Nat) (thieves : List Nat) (s : State) : Host.Outcome State Fault Refusal := done (doStealRequest victim thieves s)

/-- Count a steal at the thief's station (R65). -/
def countSteal (j : Job) (r : StealReq) : Job :=
  if r.home = r.station then { j with stealsOwn := Tab.mod 0 j.stealsOwn r.home (· + 1) }
  else { j with stealsFlex := Tab.mod 0 j.stealsFlex r.home (· + 1) }

/-- A grant arrives: the thief queues the stolen task behind its own (R98). -/
def doStealGrant (thief : Nat) (s : State) : State :=
  match (getBench s thief).steal with
  | some r =>
    match r.answer, jobOf s thief r.ctx with
    | .granted t, some jk =>
      let s := modBench s thief (fun b => { b with steal := none })
      selectNext (modJob (enqueue s jk thief t) jk (fun j => countSteal j r)) thief
    | _, _ => s
  | none => s

def execStealGrant (thief : Nat) (s : State) : Host.Outcome State Fault Refusal := done (doStealGrant thief s)

/-- Give a request up: the victim is excluded until its published count changes, and the thief searches again (R98). -/
def excludeVictim (s : State) (thief : Nat) (r : StealReq) : State :=
  let n := match jobOf s thief r.ctx with | some jk => readyCount s jk r.victim r.station | none => 0
  selectNext (modBench s thief (fun b => { b with
    steal := none, excluded := b.excluded.filter (fun e => e.1 / 512 != r.victim) ++ [(r.victim * 512 + r.station * 2 + r.ctx, n)] })) thief

/-- A refusal arrives. -/
def doStealRefusal (thief : Nat) (s : State) : State :=
  match (getBench s thief).steal with
  | some r => if r.answer = .refused then excludeVictim s thief r else s
  | none => s

def execStealRefusal (thief : Nat) (s : State) : Host.Outcome State Fault Refusal := done (doStealRefusal thief s)

/-- 256 fabric cycles pass without an answer: the request counts as refused. -/
def doStealTimeout (thief : Nat) (s : State) : State :=
  match (getBench s thief).steal with
  | some r => if r.answer = .none then excludeVictim s thief r else s
  | none => s

def execStealTimeout (thief : Nat) (s : State) : Host.Outcome State Fault Refusal := done (doStealTimeout thief s)

end Sys2Proof.Machine
end

