-- ==== Sys2Proof/Machine/Memctl.lean ====
section
/-! DEFINITION. The stack controllers: reads with error correction and poison (R247 to R249), plain and accumulating
writes (R248, R252 to R257), the patrol (R251), a stack that fails and its rebuilding (R263 to R266), and the stockpile's
places (R261, R262). -/

namespace Sys2Proof.Machine

/-! ## Stacks -/

def getStack (s : State) (ph : Nat) : Stack := Tab.get Stack.reset s.mem.stk ph
def modStack (s : State) (ph : Nat) (f : Stack → Stack) : State := { s with mem := { s.mem with stk := Tab.mod Stack.reset s.mem.stk ph f } }

/-- The logical stack that a physical stack serves. -/
def lsOfPhys (s : State) (ph : Nat) : Option Nat := s.mem.stackMap.findIdx? (· == ph)

/-- The working-memory address at a stack offset of a logical stack: the inverse of R241. -/
def dpaOf (l o : Nat) : Nat :=
  let hi := o / 4096
  hi * 32768 + ((l % 8) ^^^ bits (hi * 32768) 26 24 ^^^ bits (hi * 32768) 38 36) * 4096 + o % 4096

/-! ## Stockpile (R261, R262) -/

/-- First key of the spare stack's bytes in `mem`: beyond the DPA space. -/
def spareBase : Nat := 2 ^ 56

/-- The spare stack holds half of the stockpile while no logical stack is failed. -/
def spareFree (s : State) : Bool := s.mem.spare.isSome && s.mem.failedLs.isEmpty

/-- Stockpile size in GiB: the carve-out and the spare stack; the carve-out while the spare is rebuilt for the one failed stack; nothing
while a logical stack stays failed (R261, R265, R266). -/
def stockGib (s : State) : Nat :=
  if s.mem.failedLs.isEmpty then s.mem.carve + (if s.mem.spare.isSome then 64 else 0)
  else if s.mem.failedLs.length = 1 && s.mem.spare.isSome then s.mem.carve else 0

/-- Where a stockpile address lies; a rebuild takes the spare, and the carve-out alone holds the stockpile. -/
def stockPlace (s : State) (a : Nat) : Nat :=
  if spareFree s then (if a < 64 * 2 ^ 30 then spareBase + a else hostTop - s.mem.carve * 2 ^ 30 + (a - 64 * 2 ^ 30))
  else hostTop - s.mem.carve * 2 ^ 30 + a

/-- Discard the checkpoints that `p` picks, and answer how many. -/
def discardHeld (s : State) (p : Held → Bool) : State × Nat :=
  ({ s with stock := { s.stock with held := s.stock.held.filter (fun h => !p h) } }, (s.stock.held.filter p).length)

/-- The stockpile has shrunk: STOCKPILE_REDUCED with its new size and the checkpoints discarded, and word to the sender it
serves over the board port (R262, R267). -/
def stockReduced (s : State) (n : Nat) : State :=
  let s := raiseAll s 0x0376 (sourceId s srcMp) [(4, stockGib s), (4, n)]
  match s.stock.serves with
  | none => s
  | some k => sendFrame s .stockpileReduced k 0 [stockGib s, n] []

/-! ## A stack fails (R263, R264) -/

/-- A physical stack fails. Reads of the logical stack that it serves are poisoned and writes to it dropped from here on, every job
closes memory-lost, and every checkpoint in the stockpile is discarded (R264 to R266). A spare that fails serves no logical stack, which
the event names 0xFF, and takes its share of the stockpile with it. -/
def failStack (s : State) (ph : Nat) : State :=
  if 9 ≤ ph || (getStack s ph).failed then s
  else
    let held := s.mem.spare == some ph
    let l := lsOfPhys s ph
    let items := [(1, l.getD 0xFF), (1, ph)]
    let s := modStack s ph (fun k => { k with failed := true })
    let s := match l with
      | some l =>
        let s := if s.mem.failedLs.isEmpty then fireErr s 4 else s
        repairUnit (eventRecord { s with mem := { s.mem with failedLs := insertNat s.mem.failedLs l } } 0x0374 items) 2 ph l none 0
      | none => repairOut (eventRecord { s with mem := { s.mem with spare := if held then none else s.mem.spare } } 0x0374 items) 2 ph 0
    let s := raiseAll s 0x0374 (sourceId s srcMp) items
    let s := if l.isSome then
        (span 0 8).foldl (fun s jk => if (getJob s jk).phase = .closed then s else closeJob (endCkpt s jk 0x0260 true) jk 3) s
      else s
    if l.isNone && !held then s
    else
      let (s, n) := discardHeld s (fun _ => true)
      let s := stockReduced s n
      if held then noteSpares s else s

def execStackFailed (stack : Nat) (s : State) : Host.Outcome State Fault Refusal := done (failStack s stack)

/-- The governor's tick, and the stacks that it has seen above 100 °C for 10 ms: they fail (R263, R600, R601). -/
def execGovernorTick (g : GovIn) (s : State) : Host.Outcome State Fault Refusal :=
  if !s.power.conv then done s
  else
    let s := doGovernorTick g s
    let hot := (span 0 9).map (fun k => (k, if 100 < g.stackTemps.getD k 0 then Tab.get 0 s.power.stackHot k + 50000 else 0))
    let s := modPower s (fun p => { p with stackHot := hot.filter (fun e => e.2 != 0) })
    done ((hot.filter (fun e => decide (10000000 ≤ e.2))).foldl (fun s e => failStack s e.1) s)

/-- Every byte, flag and block state of a logical stack is set to 0 and PLAIN. -/
def zeroStack (s : State) (l : Nat) : State :=
  let mine := fun (a : Nat) => decide (a < memTop) && lsOf a == l
  { s with mem := { s.mem with
      bytes := Mem.clear s.mem.bytes mine
      poison := s.mem.poison.filter (fun n => !mine (64 * n))
      blocks := s.mem.blocks.filter (fun e => !mine (2048 * e.1)) } }

/-- The test and zeroing of the spare have ended: the failed logical stack maps onto it (R265). -/
def doStackRebuilt (l : Nat) (s : State) : State :=
  match s.mem.spare with
  | none => s
  | some sp =>
    if !s.mem.failedLs.contains l then s
    else
      let bytes := Mem.clear s.mem.bytes (fun a => decide (spareBase ≤ a))
      let s := zeroStack { s with mem := { s.mem with bytes := bytes } } l
      let s := { s with mem := { s.mem with
        stackMap := modAt s.mem.stackMap l (fun _ => sp), spare := none, failedLs := s.mem.failedLs.filter (· != l),
        poison := s.mem.poison.filter (fun n => decide (64 * n < spareBase)), blocks := s.mem.blocks.filter (fun e => decide (2048 * e.1 < spareBase)) } }
      let s := repairRecord (eventRecord s 0x0375 [(1, l), (1, sp)]) (mapEntry 2 0 2 l sp) 0
      noteSpares (raiseAll s 0x0375 (sourceId s srcMp) [(1, l), (1, sp)])

def execStackRebuilt (stack : Nat) (s : State) : Host.Outcome State Fault Refusal := done (doStackRebuilt stack s)

/-! ## Errors and rows (R247, R249) -/

def dayNs : Nat := 86400000000000

/-- Retire a row (R249): an entry of the remap table, MEM_ROW_REMAPPED, and MEM_REMAP_LOW at 3,584 entries; a full table
makes the stack fail. -/
def retireRow (s : State) (ph row : Nat) : State :=
  let k := getStack s ph
  if 4096 ≤ k.remaps then failStack s ph
  else
    let s := modStack s ph (fun k => { k with remaps := k.remaps + 1, rows := insertNat k.rows row, corrected := Tab.del k.corrected row })
    let items := [(1, (lsOfPhys s ph).getD 0xFF), (1, ph)]
    let s := raiseAll (noteSparesBy s 0x0372 items) 0x0372 (sourceId s srcMp) items
    if k.remaps + 1 = 3584 then raiseAll s 0x0373 (sourceId s srcMp) items else s

/-- A corrected error counts against its row; the fourth within 24 hours retires it. -/
def lineCorrected (s : State) (ph row : Nat) : State :=
  let ts := (Tab.get [] (getStack s ph).corrected row).filter (fun t => decide (now s < t + dayNs)) ++ [now s]
  if 4 ≤ ts.length then retireRow s ph row else modStack s ph (fun k => { k with corrected := Tab.set k.corrected row ts })

/-- An uncorrectable error: the line's flag is set, MEM_UNCORRECTABLE raised and the row retired; sixteen distinct rows
within 60 s fail the stack (R247, R249, R263). A line of the spare has no DPA: its event carries the stack offset (log 158). -/
def lineBad (s : State) (ph row a : Nat) : State :=
  let s := { s with mem := { s.mem with poison := insertNat s.mem.poison (a / 64) } }
  let s := if spareBase ≤ a then raiseAll s 0x0371 (sourceId s srcMp) [(1, 0xFF), (1, ph), (8, a - spareBase)] else raiseMem s 0x0371 a
  let bad := ((getStack s ph).badRows.filter (fun r => decide (now s < r.2 + 60000000000) && r.1 != row)) ++ [(row, now s)]
  let s := modStack s ph (fun k => { k with badRows := bad })
  if 16 ≤ bad.length then failStack s ph else retireRow s ph row

/-- What the code finds on one line: 0 clean, 1 corrected, otherwise uncorrectable. -/
def lineEcc (s : State) (a row ecc : Nat) : State :=
  if ecc = 0 || stackDown s a then s
  else if ecc = 1 then lineCorrected s (physOf s a) row
  else lineBad s (physOf s a) row a

/-! ## Requests -/

/-- A read of the line at a: corrected, poisoned and decoded as R247, R248, R257 and R260 lay down. -/
def doMemRead (a row ecc : Nat) (s : State) : State :=
  let a := plainAddr a / 64 * 64
  if memTop ≤ a then s
  else
    let s := noteSizes (lineEcc s a row ecc) a 64
    { s with mem := { s.mem with reply := (rdData s a 64, rdTagged s a 64) } }

def execMemRead (addr row ecc : Nat) (s : State) : Host.Outcome State Fault Refusal := done (doMemRead addr row ecc s)

/-- A plain write within one 2 KiB block; a compressing writer's whole block goes through the coder, with the element
class that it names (R248, R256, R257). -/
def doMemWrite (a : Nat) (d : List Byte) (poison : Bool) (cls : Option Nat) (s : State) : State :=
  if memTop ≤ a then s
  else match cls with
    | none => wrBytes s a d poison
    | some w => applyComp s w (cellsOf a d poison)

def execMemWrite (addr : Nat) (data : List Byte) (poison : Bool) (cls : Option Nat) (s : State) : Host.Outcome State Fault Refusal :=
  done (doMemWrite addr data poison cls s)

/-- An accumulating write of elements with the coordinates that the issuing engine supplied (R253, R254); what the reserved alias
0b11 does is unpredictable (R268, log 86). -/
def execMemAccWrite (job addr tensor : Nat) (elems : List (Nat × Bool × Nat × Nat)) (s : State) : Host.Outcome State Fault Refusal :=
  let way := if aliasOf addr = 3 then Config.reservedAlias addr else aliasOf addr
  let a := plainAddr addr
  if way = 0 || memTop ≤ a then done s
  else
    let w := if way = 1 then 4 else 2
    done (accWrite s job (min way 2) (elems.zipIdx.map (fun e => ⟨a + w * e.2, e.1.1, e.1.2.1, some (tensor, e.1.2.2.1, e.1.2.2.2)⟩)))

/-- The patrol reads the next line of a physical stack in an idle cycle (R251). -/
def doMemPatrol (ph row ecc : Nat) (s : State) : State :=
  let k := getStack s ph
  let s := modStack s ph (fun k => { k with patrol := (k.patrol + 1) % 2 ^ 30 })
  if k.failed || ecc = 0 then s
  else match lsOfPhys s ph with
    | some l => lineEcc s (dpaOf l (64 * k.patrol)) row ecc
    | none => if ecc = 1 then lineCorrected s ph row else lineBad s ph row (spareBase + 64 * k.patrol)

def execMemPatrol (stack row ecc : Nat) (s : State) : Host.Outcome State Fault Refusal := done (doMemPatrol stack row ecc s)

end Sys2Proof.Machine
end

