-- ==== Sys2Proof/Machine/Links.lean ====
section
/-! DEFINITION. What arrives at conveyors from outside: tiles of board conveyors (R215, R217, R231, R232), feed channels
(R227 to R230), and the retirement of a scratchpad row (R82, R83). -/

namespace Sys2Proof.Machine

/-! ## Ports and jobs -/

/-- Count a frame discarded for want of its job (R430). -/
def countNoJob (s : State) (port : Nat) : State := modPort s port (fun p => { p with cnt := { p.cnt with noJob := satAdd 32 p.cnt.noJob 1 } })

/-- A frame of no open job from a module is discarded and counted; a job that a partition reset closed is answered with JOB_CLOSED (R471). -/
def noJobFrame (s : State) (port src tag : Nat) : State :=
  let s := countNoJob s port
  if s.board.resetTags.contains tag then sendFrame s .jobClosed src tag [] [] else s

/-- The open job with a tag has its partition resetting: a frame for it is refused (R471). -/
def tagResetting (s : State) (tag : Nat) : Bool := match jobOfTag s tag with | some jk => (getPart s (jk / 2)).resetting | none => false

/-- A frame for a resetting partition goes back to its sender with a CONTROL frame of kind PART_RESET (R471). -/
def refuseFrame (s : State) (src tag type : Nat) : State := sendFrame s .partReset src tag [type] []

/-- Whether frames of a job arriving on a port are frozen (R466, R467). -/
def boardFrozen (s : State) (port tag : Nat) : Bool :=
  s.host.freezes.any (fun z => z.2.cls == 3 && z.2.source % 8192 == 0x300 + port && z.2.jobTag == tag)
    || s.host.freezeWait.any (fun z => z.cls == 3 && z.source % 8192 == 0x300 + port && z.jobTag == tag)

/-- Freeze a board-port source, the frames of one job on one port, for a tile whose slot lies where the job's partition may not write: the
slot is freed, the frame discarded and counted (R245, R430, R466). -/
def freezeBoard (s : State) (port tag jk k : Nat) (slot : Nat × Nat) (a n : Nat) : State :=
  let s := modConv (freeSlot s jk k slot.1 slot.2) jk k (fun c => { c with partialRx := [], rxSlot := none })
  recordFreeze (countNoJob s port) ⟨3, sourceId s (0x300 + port), 0, jk / 2, if a + n ≤ partTop s then 0 else 2, 1, a, now s, tag⟩

/-- Discard a tile of a conveyor whose slot it held: the slot is freed, DISCARDS counts it. -/
def discardTile (s : State) (jk k : Nat) (slot : Option (Nat × Nat)) : State :=
  let s := match slot with | some p => freeSlot s jk k p.1 p.2 | none => s
  modConv s jk k (fun c => { c with discards := satAdd 32 c.discards 1 })

/-- A tile has arrived whole from a port: a bad descriptor word stops the job, bad framing discards the tile, and a good
tile lands (R217). -/
def finishTile (s : State) (jk k : Nat) (d : ConvDesc) (slot : Nat × Nat) (ws : List CWord) : State :=
  match ws with
  | [] => s
  | h :: _ =>
    if !parityOk h then
      let s := raiseConv (discardTile s jk k (some slot)) jk k d 0x0361
      closeJob s jk 2
    else if !framedOk d ws then raiseConv (discardTile s jk k (some slot)) jk k d 0x0362
    else wakePart (tileArrived (landIn s jk k d slot ws) jk k) (jk / 2)

/-! ## Board conveyors -/

/-- The conveyor of a job that is the end of board conveyor index `i`. -/
def boardConv (s : State) (jk i : Nat) : Option Nat :=
  match (getJob s jk).image with
  | none => none
  | some im => im.conveyors.findIdx? (fun d => extKind d == 2 && extIndex d == i && (d.producer == 0xFFFF || d.consumer == 0xFFFF))

/-- Words of one tile that a TILE frame brings over board port `port` for the job with `tag`. CONVEYOR of the descriptor word is the board
conveyor index of the receiving end, as the sender's image gives it (R216, R231), and must name an incoming end of the job; the tile ends with
its END word or with the word count of its conveyor (R217, R430). -/
def doBoardTile (port tag index : Nat) (ws : List CWord) (s : State) : State :=
  if boardFrozen s port tag then countNoJob s port
  else if tagResetting s tag then refuseFrame s (slotBehind s port) tag typeTile
  else match jobOfTag s tag with
  | none => noJobFrame s port (slotBehind s port) tag
  | some jk =>
    match (boardConv s jk index).bind (fun k => (convDescOf s jk k).map (fun d => (k, d))) with
    | none => countNoJob s port
    | some (k, d) =>
      let c := getConv s jk k
      if !isIncoming d || c.broken then countNoJob s port
      else
        let s1 := match c.rxSlot with
          | some p => some (s, p)
          | none => (pickSlot s jk k d).map (fun p => (modConv (takeSlot s jk k p) jk k (fun c => { c with rxSlot := some p }), p))
        match s1 with
        | none => s
        | some (s, p) =>
          let a := slotAddr s jk d p.1 p.2
          if p.1 = 0x3FF && !ownsRange s (jk / 2) a (64 * convWords d) then freezeBoard s port tag jk k p a (64 * convWords d)
          else
            let all := (getConv s jk k).partialRx ++ ws
            if all.any (fun w => metaEnd w.1) || decide (convWords d ≤ all.length) then
              finishTile (modConv s jk k (fun c => { c with partialRx := [], rxSlot := none })) jk k d p all
            else modConv s jk k (fun c => { c with partialRx := all })

def execBoardTileReceive (port tag conv : Nat) (words : List (Nat × List Byte)) (s : State) : Host.Outcome State Fault Refusal :=
  done (doBoardTile port tag conv words s)

/-- Bind an end whose peer's offer names it: the sending end takes the credits that the offer grants; the receiving end
grants credits equal to its SLOTS (R231, R232). -/
def bindEnd (s : State) (jk k slots : Nat) : State :=
  match convDescOf s jk k with
  | none => s
  | some d =>
    let s := modConv s jk k (fun c => { c with bound := true, offered := true, credits := if isOutgoing d then slots else c.credits })
    match (getConv s jk k).peer with
    | some (slot, idx) => if isIncoming d then sendFrame s .bind slot (getJob s jk).tag [extIndex d, idx, convSlots s jk k d] [] else s
    | none => s

/-- A peer's binding offer for a job: the peer's slot and index, the index it names here, and the SLOTS it grants (R231).
An offer for an image that is not loaded yet is kept. -/
def doBoardBind (tag slot idx mine slots : Nat) (s : State) : State :=
  let keep := { s with board := { s.board with offers := s.board.offers ++ [(tag, slot, idx, mine, slots)] } }
  match jobOfTag s tag with
  | none => keep
  | some jk =>
    match boardConv s jk mine with
    | none => if (getJob s jk).image.isNone then keep else s
    | some k =>
      let c := getConv s jk k
      if c.broken || c.peer != some (slot, idx) || c.bound then s else bindEnd s jk k slots

def execBoardConvBind (tag slot peerIndex index slots : Nat) (s : State) : Host.Outcome State Fault Refusal :=
  done (doBoardBind tag slot peerIndex index slots s)

/-- Act on the outgoing end that a CREDIT frame names, while it is bound. -/
def creditEnd (s : State) (tag index : Nat) (f : Conv → Conv) : State :=
  match jobOfTag s tag with
  | none => s
  | some jk =>
    match boardConv s jk index with
    | none => s
    | some k =>
      match convDescOf s jk k with
      | none => s
      | some d => if isOutgoing d && (getConv s jk k).bound then wakePart (modConv s jk k f) (jk / 2) else s

/-- A credit message returns one credit (R232). -/
def execConvCreditReceive (tag index : Nat) (s : State) : Host.Outcome State Fault Refusal :=
  done (creditEnd s tag index (fun c => { c with credits := c.credits + 1 }))
/-- HOLD holds the producer station (R223, R232). -/
def execConvHoldReceive (tag index : Nat) (s : State) : Host.Outcome State Fault Refusal :=
  done (creditEnd s tag index (fun c => { c with peerHold := true }))
/-- RELEASE ends that hold. -/
def execConvReleaseReceive (tag index : Nat) (s : State) : Host.Outcome State Fault Refusal :=
  done (creditEnd s tag index (fun c => { c with peerHold := false }))

/-! ## Feed channels -/

/-- The primary job and conveyor that feed channel n serves (R227, R228). -/
def feedConv (s : State) (n : Nat) : Option (Nat × Nat) :=
  [0, 2, 4, 6].findSome? (fun jk => match (getJob s jk).image with
    | none => none
    | some im => (im.conveyors.findIdx? (fun d => d.producer == 0xFFFF && extKind d == 1 && extIndex d == n)).map (fun k => (jk, k)))

/-- The FEED_HOLD[n] pin (R228, R467, R471). -/
def feedHold (s : State) (n : Nat) : Bool :=
  match feedConv s n with
  | none => true
  | some (jk, k) => (getConv s jk k).hold || (getFeed s n).frozen || (getPart s (jk / 2)).resetting

/-- Drop from the buffer the words of a tile that has not ended. -/
def dropOpenTile (buf : List CWord) : List CWord :=
  match buf.reverse.findIdx? (fun w => metaEnd w.1) with
  | some n => buf.take (buf.length - n)
  | none => []

/-- A word lands in a feed channel's buffer; a full buffer discards the tile being received (R230). A frozen channel
discards its words and counts the tiles (R467). -/
def doFeedWord (n m : Nat) (p : List Byte) (s : State) : State :=
  match feedConv s n with
  | none => s
  | some (jk, k) =>
    let f := getFeed s n
    let count := fun (s : State) => modConv s jk k (fun c => { c with discards := satAdd 32 c.discards 1 })
    if f.frozen then (if metaDesc m then count s else s)
    else if f.discarding && !metaDesc m then s
    else if 4096 ≤ f.buf.length then
      let pending := (f.buf.getLast?.map (fun w => !metaEnd w.1)).getD false
      let inSlot := f.buf.isEmpty
      let s := modFeed s n (fun f => { f with discarding := true, buf := if pending then dropOpenTile f.buf else f.buf })
      let s := if inSlot then s else count s
      match convDescOf s jk k with
      | some d => raiseConv s jk k d 0x0364
      | none => s
    else modFeed s n (fun f => { f with discarding := false, buf := f.buf ++ [(m, p)] })

/-- The 66 B unit of a feed channel: bytes 0 and 1 are the metadata in network byte order, bytes 2 to 65 the payload (R227). -/
def feedUnit (u : List Byte) : Nat × List Byte := (beNat (u.take 2), (u.drop 2).take 64)

/-- A unit arrives as its first two bytes and the bytes after them. -/
def execFeedWordReceive (chan : Nat) (word payload : List Byte) (s : State) : Host.Outcome State Fault Refusal :=
  done (doFeedWord chan (feedUnit (word ++ payload)).1 (feedUnit (word ++ payload)).2 s)

/-- Freeze a feed channel (R466). -/
def freezeFeed (s : State) (n p cause addr : Nat) : State :=
  recordFreeze (modFeed s n (fun f => { f with frozen := true })) ⟨4, sourceId s (0x320 + n), 0, p, cause, 1, addr, now s, 0⟩

/-- The first tile of a buffer: its words up to the END word, or the words that wait. -/
def firstTile (buf : List CWord) : List CWord × List CWord :=
  match buf.findIdx? (fun w => metaEnd w.1) with
  | some n => (buf.take (n + 1), buf.drop (n + 1))
  | none => (buf, [])

/-- Waiting words of a feed channel move into a conveyor slot as one frees; a tile lands when its last word has moved (R230). -/
def doFeedDrain (n : Nat) (s : State) : State :=
  match feedConv s n with
  | none => s
  | some (jk, k) =>
    match convDescOf s jk k with
    | none => s
    | some d =>
      let f := getFeed s n
      if f.frozen || f.buf.isEmpty then s
      else
        let s1 := match f.slot with
          | some p => some (p, s)
          | none => (pickSlot s jk k d).map (fun p => (p, modFeed (takeSlot s jk k p) n (fun f => { f with slot := some p })))
        match s1 with
        | none => s
        | some (p, s) =>
          let a := slotAddr s jk d p.1 p.2
          if p.1 = 0x3FF && !ownsRange s (jk / 2) a (64 * convWords d) then
            freezeFeed (modFeed (freeSlot s jk k p.1 p.2) n (fun f => { f with slot := none, moving := [] })) n (jk / 2) (if a + 64 * convWords d ≤ partTop s then 0 else 2) a
          else
            let (ws, rest) := firstTile f.buf
            let all := f.moving ++ ws
            if all.any (fun w => metaEnd w.1) || convWords d ≤ all.length then
              finishTile (modFeed s n (fun f => { f with buf := rest, moving := [], slot := none })) jk k d p all
            else modFeed s n (fun f => { f with buf := rest, moving := all })

def execFeedBufferDrain (chan : Nat) (s : State) : Host.Outcome State Fault Refusal := done (doFeedDrain chan s)

/-! ## A scratchpad row is retired (R82, R83) -/

/-- Whether a due row may be retired now: its step boundary has come, or no job of the partition runs (R82). -/
def rowMayGo (s : State) (lb : Nat) (r : RowDue) : Bool :=
  r.atBoundary || (match partOfLb s lb with
    | some p => (getJob s (2 * p)).phase != .running && (getJob s (2 * p + 1)).phase != .running
    | none => true)

/-- A row that is due moves onto a spare row of its bank with its poison tags, at the step boundary or at once while no job runs (R82). A bank
without a spare row fails its bench with cause 3; `lost` are the words that it can no longer correct, which arrive poisoned (R83). -/
def doSpdRowSpared (lb row : Nat) (lost : List Nat) (s : State) : State :=
  match (getBench s lb).rowDue.find? (fun r => r.row == row) with
  | none => s
  | some r =>
    let pb := (Tab.find s.boot.phys lb).getD 0
    let drop := fun (b : Bench) => b.rowDue.filter (·.row != row)
    if !rowMayGo s lb r then s
    else if bankFull s pb (row / 256) then failBench (modBench s lb (fun b => { b with rowDue := drop b })) lb 3 lost
    else
      let s := modBench s lb (fun b => { b with
        rowDue := drop b, rowErrs := Tab.del b.rowErrs row, sparesUsed := Tab.mod 0 b.sparesUsed (row / 256) (· + 1) })
      let s := noteSparesBy (repairOut s 1 (rowUnit pb (row / 256) (row % 256)) 0) 0x0312 (rowItems lb (some r))
      raisePart s (partOfLb s lb) 0x0312 (sourceId s lb) (rowItems lb (some r))

def execSpdRowSpared (lb : Nat) (row : Losing Nat) (s : State) : Host.Outcome State Fault Refusal := done (doSpdRowSpared lb row.1 row.2 s)

end Sys2Proof.Machine
end

