-- ==== Sys2Proof/Machine/Shards.lean ====
section
/-! DEFINITION. Shards, chunks and records of the in-site step: catalogue lookups (R273, R285, R287), step and shard
records (R283, R290, R291), record bytes (R277, R634), the release of update tasks (R289, R292), versions,
acknowledgements and tallies (R293 to R299), replica loss and takeover (R300 to R305), and holds (R304, R570). -/

namespace Sys2Proof.Machine

/-! ## Catalogue -/

/-- Exchange station parameters (R285, R331). -/
def xMode (st : Station) : Nat := fieldLe st.params 0 1
def xBuf (st : Station) : Nat := fieldLe st.params 2 2
def xGrad (st : Station) : Nat := fieldLe st.params 4 4
def xMaster (st : Station) : Nat := if xMode st = 0 then fieldLe st.params 8 4 else fieldLe st.params 4 4
def xArg (st : Station) : Nat := if xMode st = 0 then fieldLe st.params 12 4 else fieldLe st.params 0x18 4

/-- Update station parameters (R287). -/
def uMaster (st : Station) : Nat := fieldLe st.params 0 4
def uCommit (st : Station) : Nat := fieldLe st.params 8 2
def uStates (st : Station) : List Nat := (List.range (min 4 (fieldLe st.params 0xA 1))).map (fun k => fieldLe st.params (0xC + 4 * k) 4)
def uCopies (st : Station) : List Nat := (List.range (min 2 (fieldLe st.params 0xB 1))).map (fun k => fieldLe st.params (0x1C + 4 * k) 4)
def uArg (st : Station) : Nat := fieldLe st.params 0x24 4

/-- The first station that satisfies p, with its index. -/
def findStation (im : Image) (p : Station → Bool) : Option (Nat × Station) :=
  (im.stations.findIdx? p).bind (fun k => (im.stations[k]?).map (fun st => (k, st)))

/-- The IN_SITE or ROUND exchange station of a master shard. -/
def exchangeOf (im : Image) (mode : Nat) (t : TensorEnt) : Option (Nat × Station) :=
  findStation im (fun st => st.kind == 6 && xMode st == mode && (tensorOf im (xMaster st)).any (sameShard t))
/-- The STEP (1) or ROUND (2) update station of a master shard. -/
def updateOf (im : Image) (phase : Nat) (t : TensorEnt) : Option (Nat × Station) :=
  findStation im (fun st => st.kind == 7 && st.phase == phase && (tensorOf im (uMaster st)).any (sameShard t))

/-- The master shard of a rank (R290). -/
def masterAt (im : Image) (r : Nat) : Option TensorEnt := (masters im)[r]?

/-- The held catalogue entry with a record's logical coordinates (R55). -/
def tensorByCoords (im : Image) (id : Nat) (shard : List Nat) : Option TensorEnt :=
  im.tensors.find? (fun t => t.id == id && padTo 0 4 t.shard == padTo 0 4 shard)

/-- The held master shard with logical coordinates, and its rank. -/
def masterOf (im : Image) (id : Nat) (shard : List Nat) : Option (TensorEnt × Nat) :=
  (tensorByCoords im id shard).bind (fun t => if t.cls = 2 then (shardRank im t).map (fun r => (t, r)) else none)

/-- Sub-blocks, chunks, and the sub-blocks of one chunk of a tensor (R273). -/
def subBlocks (t : TensorEnt) : Nat := ceilDiv (viewOf t).1 32 * ceilDiv (viewOf t).2 32
def chunkCount (t : TensorEnt) : Nat := ceilDiv (subBlocks t) 64
def chunkSubs (t : TensorEnt) (c : Nat) : Nat := min 64 (subBlocks t - 64 * c)

/-! ## Bytes of a chunk (R273, R634) -/

/-- The poison code of an element format (R132, R146); FP4 marks its scale instead. -/
def poisonCode (f : Nat) : Nat :=
  match f with
  | 1 => poisonF32.toNat
  | 2 => m48Code poisonF32 0
  | 3 => 0x7C01
  | 4 => 0x7F81
  | 5 => 0xFF
  | 6 => 0xFF
  | 8 => 2
  | _ => 0

/-- Element and scale bytes of sub-blocks u to u + n − 1 of a tensor laid out at `a` with scales at `sc`, as a sender
reads them: poisoned places as poison codes (R634). -/
def readSubs (s : State) (f b a sc u n : Nat) : List Byte :=
  let bs := subBlockBytes f
  let raw := rdBytes s (a + u * bs) (n * bs)
  let tagAtElem := fun (k : Nat) => let (off, w, _) := elemPlace f k; ((raw.drop off).take w).any Prod.snd
  let codes := (unpackCodes f (1024 * n) (raw.map Prod.fst)).zipIdx.map (fun (ci : Nat × Nat) => if tagAtElem ci.2 then poisonCode f else ci.1)
  let per := scalesPerSub f b
  let g := groupSize f b
  let scs := (rdBytes s (sc + u * per) (n * per)).zipIdx.map (fun bi =>
    if bi.1.2 then (if f = 3 then (0x80 : Byte) else 0xFF)
    else if f = 7 && (List.range g).any (fun k => tagAtElem (bi.2 * g + k)) then 0xFF else bi.1.1)
  packCodes f codes ++ scs

/-- Whether an element code is poison: the code of its format, or an M48 either half of which is (R132). -/
def isPoisonCode (f c : Nat) : Bool := if f = 2 then m48Poison (m48Hi c) (m48Lo c) else f != 7 && c == poisonCode f

/-- Write such bytes for partition p, whole blocks of compressed pages coded (R256); a place or scale that is a poison code sets its line's
flag (R634). -/
def writeSubs (s : State) (p f b a sc u n : Nat) (d : List Byte) : State :=
  let bs := subBlockBytes f
  let w := max 1 (fmtWidth f / 8)
  let el := padTo 0 (n * bs) d
  let tags := (unpackCodes f (1024 * n) el).map (isPoisonCode f)
  let s := applyComp s (classOfFormat f) (ownCells s p (el.zipIdx.map (fun bi => (a + u * bs + bi.2, bi.1,
    if f = 8 then (List.range 4).any (fun k => tags.getD (bi.2 * 4 + k) false) else tags.getD (bi.2 / w) false))))
  let per := scalesPerSub f b
  applyCells s (ownCells s p ((padTo 0 (n * per) (d.drop (n * bs))).zipIdx.map (fun bi => (sc + u * per + bi.2, bi.1, bi.1 == (if f = 3 then 0x80 else 0xFF)))))

/-- Bytes of chunk c of a stored tensor. -/
def readChunk (s : State) (im : Image) (t : TensorEnt) (c : Nat) : List Byte :=
  readSubs s t.format t.block (tensorAddr im t) (tensorScales im t) (64 * c) (chunkSubs t c)
def writeChunk (s : State) (p : Nat) (im : Image) (t : TensorEnt) (c : Nat) (d : List Byte) : State :=
  writeSubs s p t.format t.block (tensorAddr im t) (tensorScales im t) (64 * c) (chunkSubs t c) d
/-- How many bytes that is. -/
def chunkBytes (t : TensorEnt) (c : Nat) : Nat := chunkSubs t c * (subBlockBytes t.format + scalesPerSub t.format t.block)

/-- Chunk c of several tensors in order, as one payload. -/
def readParts (s : State) (im : Image) (ts : List TensorEnt) (c : Nat) : List Byte := ts.flatMap (fun t => readChunk s im t c)
def writeParts (s : State) (p : Nat) (im : Image) (ts : List TensorEnt) (c : Nat) (d : List Byte) : State :=
  (ts.foldl (fun (a : State × List Byte) t => (writeChunk a.1 p im t c (a.2.take (chunkBytes t c)), a.2.drop (chunkBytes t c))) (s, d)).1
def partsBytes (ts : List TensorEnt) (c : Nat) : Nat := ts.foldl (fun n t => n + chunkBytes t c) 0

/-- Master and working copies of a shard, and its optimiser state, of its update station. -/
def versionTensors (im : Image) (t : TensorEnt) : List TensorEnt :=
  t :: ((updateOf im 1 t).map (fun ks => (uCopies ks.2).filterMap (tensorOf im))).getD []
def stateTensors (im : Image) (t : TensorEnt) : List TensorEnt :=
  ((updateOf im 1 t).map (fun ks => (uStates ks.2).filterMap (tensorOf im))).getD []

/-- The tensors of the round state besides master and working copies: STATE of the ROUND update station, spoil, split anchor (R351). -/
def roundTensors (im : Image) (t : TensorEnt) : List TensorEnt :=
  let st := ((updateOf im 2 t).map (fun ks => (uStates ks.2).filterMap (tensorOf im))).getD []
  st ++ ((exchangeOf im 1 t).map (fun ks => [fieldLe ks.2.params 0xC 4, fieldLe ks.2.params 0x10 4].filterMap (tensorOf im))).getD []

/-! ## Records (R277) -/

/-- The 64 B header. -/
def recHeader (r : Rec) : List Byte :=
  toLe 4 r.tensor ++ (padTo 0 4 r.shard).flatMap (toLe 2) ++ toLe 4 r.epoch ++ toLe 4 r.step ++ toLe 2 r.chunk ++ toLe 1 r.kind ++ toLe 1 r.flags
    ++ toLe 1 r.level ++ [0] ++ toLe 2 r.node ++ toLe 2 r.count ++ toLe 2 r.sender ++ toLe 4 r.zeroed ++ toLe 4 r.version ++ toLe 8 r.stamp
    ++ toLe 8 r.tally ++ toLe 4 r.data.length ++ toLe 2 r.gblocks ++ [0, 0]

/-- A record of a shard with this module as sender. -/
def mkRec (s : State) (jk : Nat) (t : TensorEnt) (kind step chunk version flags : Nat) (d : List Byte) : Rec :=
  let j := getJob s jk
  { tensor := t.id, shard := padTo 0 4 t.shard, epoch := j.cut.epoch, step := step, chunk := chunk, kind := kind, flags := flags, level := 0,
    node := 0, count := 0, sender := j.policy.replica, zeroed := 0, version := version, stamp := now s, tally := 0,
    gblocks := if chunk = 0xFFFF then 0 else 4 * chunkSubs t chunk, data := d }

/-- Send a record to the holder in a replica. -/
def sendRec (s : State) (jk rep : Nat) (r : Rec) : State :=
  sendFrame s .record (moduleOf (getJob s jk) rep) (getJob s jk).tag [rep] (recHeader r ++ r.data)

/-- Raise COMP_SIZE for each block wrong in size that a read of chunk c of some tensors meets (R86, R260). -/
def noteParts (s : State) (im : Image) (ts : List TensorEnt) (c : Nat) : State :=
  ts.foldl (fun s t =>
    let per := scalesPerSub t.format t.block
    noteSizes (noteSizes s (tensorAddr im t + 64 * c * subBlockBytes t.format) (chunkSubs t c * subBlockBytes t.format))
      (tensorScales im t + 64 * c * per) (chunkSubs t c * per)) s

/-- Send a record with chunk c of some tensors as its payload. -/
def sendParts (s : State) (jk rep : Nat) (im : Image) (ts : List TensorEnt) (c : Nat) (r : Rec) : State :=
  sendRec (noteParts s im ts c) jk rep { r with data := readParts s im ts c }

/-! ## The replica set (R271) -/

/-- The replica set as it will be at step e. -/
def membersAt (j : Job) (e : Nat) : List Nat :=
  (j.changes.filter (fun c => decide (c.2.2 ≤ e))).foldl (fun m c => if c.2.1 then insertNat m c.1 else m.filter (· != c.1)) j.members

/-- The replica set of every chunk of step t: a later change does not touch it. -/
def setFor (j : Job) (t : Nat) : List Nat :=
  match j.oldSets.find? (fun o => decide (t < o.1)) with
  | some o => o.2
  | none => membersAt j t

/-! ## Step and shard records -/

/-- Add to a saturating count of a layer's step record (R283). -/
def bumpStep (s : State) (jk l off n : Nat) : State :=
  if hasLayer l then
    let a := stepRec (getJob s jk) l + off
    wrLe s a 4 (satAdd 32 (rdLe s a 4) n)
  else s

def shardAddr (j : Job) (r : Nat) : Nat := j.shardBase + 64 * r
def shardOwner (s : State) (j : Job) (r : Nat) : Nat := rdLe s (shardAddr j r + 4) 2
def shardStandby (s : State) (j : Job) (r : Nat) : Nat := rdLe s (shardAddr j r + 6) 2
def shardVersion (s : State) (j : Job) (r : Nat) : Nat := rdLe s (shardAddr j r + 8) 4
def shardFlags (s : State) (j : Job) (r : Nat) : Nat := rdLe s (shardAddr j r + 0xE) 1
def ownerHere (s : State) (j : Job) (r : Nat) : Bool := bit (shardFlags s j r) 0
def standbyHere (s : State) (j : Job) (r : Nat) : Bool := bit (shardFlags s j r) 1
def commitStep (s : State) (j : Job) (r q : Nat) : Nat := rdLe s (shardAddr j r + 0x18 + 4 * (q % 2)) 4
def setCommitStep (s : State) (j : Job) (r q v : Nat) : State := wrLe s (shardAddr j r + 0x18 + 4 * (q % 2)) 4 v
def noStep : Nat := 0xFFFFFFFF

/-- Version of one chunk (R291). -/
def chunkVersion (s : State) (j : Job) (r c : Nat) : Nat := rdLe s (rdLe s (shardAddr j r + 0x10) 8 + 4 * c) 4

def getShard (s : State) (jk r : Nat) : ShardSt := Tab.get ShardSt.reset (getJob s jk).shards r
def modShard (s : State) (jk r : Nat) (f : ShardSt → ShardSt) : State :=
  modJob s jk (fun j => { j with shards := Tab.mod ShardSt.reset j.shards r f })

/-! ## Commit areas (R288) -/

/-- Bytes of one slot of a commit area: the gradient tensor with its scale area, to the next multiple of 2,048. -/
def slotBytes (t : TensorEnt) : Nat := roundUp (roundUp (tensorBytes t) 2048 + tensorEntries t) 2048

/-- Element and scale addresses of slot q of a shard's commit area, with the gradient tensor. -/
def commitSlot (im : Image) (m : TensorEnt) (q : Nat) : Option (TensorEnt × Nat × Nat) :=
  match updateOf im 1 m with
  | none => none
  | some (_, st) => (tensorOf im (fieldLe st.params 4 4)).map (fun g =>
      let a := ((im.buffers[uCommit st]?).map (·.dpa)).getD 0 + q % 2 * slotBytes g
      (g, a, a + roundUp (tensorBytes g) 2048))

/-! ## Update tasks (R289, R292) -/

/-- Queue a task without an input tile (R88 rule 4): a chunk of an exchange or update station. -/
def chunkTask (s : State) (jk k : Nat) (tensor step chunk arg flags : Nat) : State :=
  let (n, s) := nextSeq s jk k step
  dealTask s jk ⟨k, 1 + flags, 0, n, tensor, step, 0, chunk, 0, 0xFF, [], [0xFFFF, 0xFFFF], arg, 0, (getJob s jk).probe.isSome, (0, 0), []⟩

/-- Whether the standby has accepted the scales of step s, or there is none to accept them. -/
def scaleReady (s : State) (jk r step : Nat) : Bool :=
  let j := getJob s jk
  let sb := shardStandby s j r
  sb == 0xFFFF || (!(getShard s jk r).standbyPending && (getShard s jk r).scaleOk == some step)

/-- Release the update tasks of a shard whose conditions hold, in order of landing; those that a takeover re-applies carry REISSUE (R289, R302). -/
def releaseUpdates (s : State) (jk r : Nat) : State :=
  let j := getJob s jk
  match j.image with
  | none => s
  | some im =>
    match masterAt im r with
    | none => s
    | some t =>
      match updateOf im 1 t with
      | none => s
      | some (k, st) =>
        if !ownerHere s j r then s
        else
          let ready := (getShard s jk r).landed.filter (fun (ct : Nat × Nat) =>
            let v := chunkVersion s j r ct.1
            commitStep s j r v == v && scaleReady s jk r v)
          ready.foldl (fun s ct =>
            let v := chunkVersion s j r ct.1
            chunkTask (modShard s jk r (fun h => { h with landed := Tab.del h.landed ct.1 })) jk k t.id v ct.1 (uArg st)
              (if (getShard s jk r).reapply.contains ct.1 then 16 else 0)) s

/-- The three scales of a shard record as a sender reads them, and as a receiver stores them: poisoned places as poison codes (R634). -/
def readScales (s : State) (a : Nat) : List Byte :=
  (List.range 3).flatMap (fun k => if rdTagged s (a + 0x2C + 4 * k) 4 then toLe 4 poisonF32.toNat else rdData s (a + 0x2C + 4 * k) 4)
def storeScales (s : State) (a : Nat) (d : List Byte) : State :=
  (List.range 3).foldl (fun s k => wrBytes s (a + 0x2C + 4 * k) ((d.drop (4 * k)).take 4) (fieldLe d (4 * k) 4 == poisonF32.toNat)) s

/-- The owner sends the standby the scales of its next update and waits for the acceptance (R292). -/
def sendScale (s : State) (jk r step : Nat) : State :=
  let j := getJob s jk
  match j.image.bind (fun im => masterAt im r) with
  | none => s
  | some t =>
    let sb := shardStandby s j r
    if !ownerHere s j r || sb = 0xFFFF then s
    else sendRec s jk sb (mkRec s jk t 7 step 0xFFFF (shardVersion s j r) 0 (readScales s (shardAddr j r)))

/-! ## Tallies (R296 to R299) -/

/-- The tally of this module's copy of a master shard. -/
def tallyOf (s : State) (im : Image) (t : TensorEnt) : Nat := crc64 (rdData s (tensorAddr im t) (tensorBytes t))

/-- Whether a version is a tally version: it begins a round, is a multiple of TALLY_EVERY, or is the step of a restore (R297, R564). -/
def isTallyVersion (j : Job) (v : Nat) : Bool :=
  (decide (0 < j.policy.tallyEvery) && v % j.policy.tallyEvery == 0) || (j.restored && v == j.start)
    || ((j.image.map (fun im => decide (0 < im.sched.roundSteps) && v % im.sched.roundSteps == 0)).getD false)

/-- Note a tally mismatch: the event at both modules, and MODULE_SUSPECT for the third within 24 hours (R298, R299). -/
def noteMismatch (s : State) (jk r rep : Nat) (t : TensorEnt) : State :=
  let s := raiseShard s jk 0x0382 (shardVersion s (getJob s jk) r) t [(2, rep)]
  let ts := (s.boot.mismatches ++ [now s]).reverse.take 3 |>.reverse
  let s := modLog { s with boot := { s.boot with mismatches := ts } } (fun l => l)
  let s := addRecord s recTally 0xFF 0 0 (packItems (coordItems t (getJob s jk).cut.epoch))
  if ts.length = 3 && (match ts.head? with | some a => decide (now s < a + 86400000000000) | none => false) then
    let v := shardVersion s (getJob s jk) r
    setErr (raiseShard (eventRecord s 0x0383 ([(4, t.layer), (4, v)] ++ coordItems t (getJob s jk).cut.epoch)) jk 0x0383 v t []) 3
  else s

/-- Whether a shard takes part in outer rounds here. -/
def inRounds (j : Job) (im : Image) (t : TensorEnt) : Bool := j.round.policy.isSome && (exchangeOf im 1 t).isSome

/-- Send every chunk of the master and working copies as REFRESH records, with the optimiser state too where the holder
is the standby, or is to be it (R298, R302). Those that bring a new standby its state carry REAPPLIED in `flags`, and the round's tensors too
where no round of the shard is between its hand-off and its end of OUTER (log 159). -/
def sendRefresh (s : State) (jk r rep flags : Nat) (t : TensorEnt) : State :=
  let j := getJob s jk
  match j.image with
  | none => s
  | some im =>
    let whole := bit flags 1 && inRounds j im t && (let st := roundState s j r; st == 0 || decide (5 ≤ st))
    let ts := if rep = shardStandby s j r then versionTensors im t ++ stateTensors im t ++ (if whole then roundTensors im t else []) else versionTensors im t
    (List.range (chunkCount t)).foldl (fun s c =>
      let v := chunkVersion s j r c
      sendParts s jk rep im ts c (mkRec s jk t 8 v c v flags [])) s

/-- The owner compares a holder's tally with its own of the same version (R298). -/
def compareTally (s : State) (jk r rep v tally : Nat) (t : TensorEnt) : State :=
  let j := getJob s jk
  let a := shardAddr j r
  if rdLe s (a + 0x28) 4 ≠ v then s
  else if rdLe s (a + 0x20) 8 = tally then s
  else sendRefresh (noteMismatch s jk r rep t) jk r rep 0 t

/-- Take the tally of a copy that has reached a tally version: the owner compares those it holds, another holder sends
its own (R297). -/
def takeTally (s : State) (jk r v : Nat) : State :=
  let j := getJob s jk
  match j.image with
  | none => s
  | some im =>
    match masterAt im r with
    | none => s
    | some t =>
      let a := shardAddr j r
      let ty := tallyOf s im t
      let s := wrBytes s (a + 0x20) (toLe 8 ty ++ toLe 4 v) false
      if ownerHere s j r then
        let got := (getShard s jk r).tallies.filter (fun e => e.2.1 == v)
        let s := modShard s jk r (fun h => { h with tallies := [] })
        got.foldl (fun s e => compareTally s jk r e.1 v e.2.2 t) s
      else sendRec s jk (shardOwner s j r) { mkRec s jk t 6 v 0xFFFF v 0 [] with tally := ty }

/-! ## Acknowledgements (R294) -/

/-- Replicas whose acknowledgements count. -/
def ackers (j : Job) : List Nat := j.members.filter (fun q => !j.lostSeen.contains q)

/-- Version that a replica has acknowledged to this module. -/
def ackOf (s : State) (jk r q : Nat) : Nat :=
  let j := getJob s jk
  if q = j.policy.replica then shardVersion s j r else Tab.get 0 (getShard s jk r).acks q

/-- Owner and standby release the commit slot of step v − 1 once every replica in the set has acknowledged v; ACK_WAIT
counts those yet to acknowledge the latest version. -/
def checkAcks (s : State) (jk r : Nat) : State :=
  let j := getJob s jk
  if !(ownerHere s j r || standbyHere s j r) then s
  else
    let m := ((ackers j).map (ackOf s jk r)).foldl min noStep
    let v := shardVersion s j r
    let s := wrLe s (shardAddr j r + 0x38) 2 ((ackers j).countP (fun q => decide (ackOf s jk r q < v)))
    [0, 1].foldl (fun s q =>
      let st := commitStep s j r q
      if st ≠ noStep && st + 1 ≤ m then setCommitStep s j r q noStep else s) s

end Sys2Proof.Machine
end

