-- ==== Sys2Proof/Machine/Write.lean ====
section
/-! DEFINITION. The writer of regions that the MXE and the VSE share: conversion place by place and block by block
(R118, R143 to R151, R159, R168), scales, tags, compression and accumulating writes, and the trees of R174. -/

namespace Sys2Proof.Machine

/-- The pairwise tree of R174 over optional values: an absent position passes its partner up. -/
def pairTreeStep {α : Type} (f : α → α → α) (l : List (Option α)) : List (Option α) :=
  match l with
  | a :: b :: r => (match a, b with
      | some x, some y => some (f x y)
      | some x, none => some x
      | none, y => y) :: pairTreeStep f r
  | l => l

def pairTree {α : Type} (f : α → α → α) (l : List (Option α)) (fuel : Nat) : Option α :=
  match fuel with
  | 0 => (l.head?).getD none
  | k + 1 => if l.length ≤ 1 then (l.head?).getD none else pairTree f (pairTreeStep f l) k

/-- What a unit writes at one place: a value with its rounding mode, or an exact code; `tag` poisons the word whatever the value. -/
structure OutPlace where
  v : Val
  mode : RoundMode
  tag : Bool
  raw : Option Nat
deriving DecidableEq, Repr

/-- What the writing of one sub-block amounts to: cells of elements, cells of scales, accumulating elements, headroom
flags by place (row, column, OVF, NAN), overflowed G-blocks, blocks poisoned by R145, and what was written. -/
structure SubOut where
  cells : List WCell
  scales : List WCell
  acc : List AccCell
  head : List (Nat × Nat × Bool × Bool)
  ovf : Nat
  nonfinite : Nat
  poison : Bool
  nan : Bool
  inf : Bool
deriving DecidableEq, Repr

def SubOut.empty : SubOut := ⟨[], [], [], [], 0, 0, false, false, false⟩

def SubOut.merge (a b : SubOut) : SubOut :=
  ⟨a.cells ++ b.cells, a.scales ++ b.scales, a.acc ++ b.acc, a.head ++ b.head, a.ovf + b.ovf, a.nonfinite + b.nonfinite,
   a.poison || b.poison, a.nan || b.nan, a.inf || b.inf⟩

def isNanV (v : Val) : Bool := match v with | .nan => true | _ => false
def isInfV (v : Val) : Bool := match v with | .inf _ => true | _ => false

/-- Bytes of n codes that start on a byte, each byte tagged where one of its elements is. -/
def codeCells (f a : Nat) (cs : List (Nat × Bool)) : List WCell :=
  let d := packCodes f (cs.map Prod.fst)
  let per := d.length
  d.zipIdx.map (fun bi => (a + bi.2, bi.1, (cs.zipIdx.any (fun ct => ct.1.2 && decide (ct.2 * fmtWidth f / 8 ≤ bi.2 ∧ bi.2 * 8 < (ct.2 + 1) * fmtWidth f ∧ bi.2 < per)))))

/-- One scale block of a narrow slot: nothing where no place of it lies in the region; otherwise it is written whole,
places outside as +0. -/
def writeNarrowBlock (r : Region) (ib jb q : Nat) (ps : List (Option OutPlace)) : SubOut :=
  if ps.all Option.isNone then SubOut.empty
  else
    let vs := ps.map (fun p => match p with | some o => (o.v, o.mode) | none => (Val.zero, RoundMode.nearest))
    let o := writeBlock r.fmt r.block vs
    let first := q * groupSize r.fmt r.block
    let base := r.addr + ib * r.pitch + jb * subBlockBytes r.fmt + first * fmtWidth r.fmt / 8
    let tags := ps.map (fun p => match p with | some o => o.tag || o.v == .poison | none => false)
    let codes := o.codes.map (fun c => elemVal r.fmt c o.scale)
    ⟨codeCells r.fmt base (o.codes.zip tags), [(scaleAddr r (32 * ib + first / 32) (32 * jb + first % 32), BitVec.ofNat 8 o.scale, false)], [],
     [], 0, b2n o.nonfinite, tags.any id || o.scale == 0xFF, codes.any isNanV, codes.any isInfV⟩

/-- One plain element under headroom exponent h: its code, its tag, and its headroom flags. -/
def plainCell (fmt h : Nat) (o : OutPlace) : Nat × Bool × Bool × Bool :=
  match o.raw with
  | some c => (c, o.tag, false, false)
  | none =>
    if fmt = 3 then
      let g := writeG16 h o.mode o.v
      (g.code, o.tag || g.code == 0x7C01, g.ovf, g.nan)
    else (plainCode fmt o.mode o.v, o.tag || o.v == .poison, false, false)

/-- One place of a plain slot. -/
def plainPlace (s : State) (r : Region) (i j : Nat) (o : OutPlace) : Nat × Bool × Bool × Bool := plainCell r.fmt (readScale s r i j) o

/-- One element of a plain slot as it is stored: its address, its row and column in the destination tensor, its G-block, and
what `plainPlace` makes of it. -/
structure PlainCell where
  addr : Nat
  row : Nat
  col : Nat
  group : Nat
  code : Nat
  tag : Bool
  ovf : Bool
  nan : Bool
deriving DecidableEq, Repr

/-- What the storing of plain elements amounts to: cells, or accumulating elements where the address is an accumulating one,
headroom flags by place and overflowed G-blocks by number (R147, R193, R253). -/
def plainOut (fmt way tensor : Nat) (cs : List PlainCell) : SubOut :=
  let vals := cs.map (fun o => codeVal fmt o.code)
  ⟨if way = 0 then cs.flatMap (fun o => cellsOf o.addr (toLe (fmtWidth fmt / 8) o.code) o.tag) else [], [],
   if way = 0 then [] else cs.map (fun o => ⟨o.addr, o.code, o.tag, some (tensor, o.row, o.col)⟩),
   (cs.filter (fun o => o.ovf || o.nan)).map (fun o => (o.row, o.col, o.ovf, o.nan)),
   (((cs.filter (·.ovf)).map (·.group)).eraseDups).length, 0, cs.any (·.tag), vals.any isNanV, vals.any isInfV⟩

/-- One sub-block of a plain slot. -/
def writePlainSub (s : State) (r : Region) (way tensor row0 col0 ib jb : Nat) (ps : List (Option OutPlace)) : SubOut :=
  plainOut r.fmt way tensor (ps.zipIdx.filterMap (fun pn => pn.1.map (fun o =>
    let i := 32 * ib + pn.2 / 32
    let j := 32 * jb + pn.2 % 32
    let (code, tag, ovf, nan) := plainPlace s r i j o
    ⟨(elemAddr r i j).1, row0 + i, col0 + j, pn.2 / 256, code, tag, ovf, nan⟩)))

/-- One 32 × 32 sub-block, its 1,024 places in element order. -/
def writeSub (s : State) (r : Region) (way tensor row0 col0 ib jb : Nat) (ps : List (Option OutPlace)) : SubOut :=
  if isNarrow r.fmt then
    ((chunksOf (groupSize r.fmt r.block) ps 64).zipIdx).foldl (fun a bq => SubOut.merge a (writeNarrowBlock r ib jb bq.2 bq.1)) SubOut.empty
  else writePlainSub s r way tensor row0 col0 ib jb ps

/-- Store what a region's writing amounts to: elements with compression, then scales, then accumulating elements, then
the headroom flags of R193. -/
def storeOut (s : State) (jk fmt tensor way : Nat) (o : SubOut) : State :=
  let s := applyComp s (classOfFormat fmt) (ownCells s (jk / 2) o.cells)
  let s := applyCells s (ownCells s (jk / 2) o.scales)
  let s := accWrite s jk way o.acc
  o.head.foldl (fun s h => headroomOr s jk tensor h.1 h.2.1 h.2.2.1 h.2.2.2) s

/-- The byte ranges of a region's sub-blocks that `used` names, elements and scales: what the isolation check looks at. -/
def regionRanges (r : Region) (rows cols : Nat) (used : Nat → Nat → Bool) : List (Nat × Nat) :=
  (List.range (ceilDiv rows 32)).flatMap (fun i => (List.range (ceilDiv cols 32)).flatMap (fun j =>
    if used i j then
      (r.addr + i * r.pitch + j * subBlockBytes r.fmt, subBlockBytes r.fmt)
        :: (if groupSize r.fmt r.block = 0 then [] else [(scaleAddr r (32 * i) (32 * j), scalesPerSub r.fmt r.block)])
    else []))

/-- The cause of a refused access of the MXE of bench lb: of the scratchpads only its own station region is open to it (R73). -/
def ownCause (s : State) (lb p a n : Nat) : Option Nat :=
  if isWindow a && windowLb a != lb then some 3 else unitCause s p a n

/-- The first refused range by a rule of causes (R73): its cause, its kind of access and its address. -/
def firstViolation (cause : Nat → Nat → Option Nat) (rs : List (Nat × Nat × Nat)) : Option (Nat × Nat × Nat) :=
  rs.findSome? (fun r => (cause r.1 r.2.1).map (fun c => (c, r.2.2, r.1)))

end Sys2Proof.Machine
end

