-- ==== Sys2Proof/Machine/Regen.lean ====
section
/-! DEFINITION. The regeneration of working copies from a master by the program WR S1, S0 (R204, R565). -/

namespace Sys2Proof.Machine

/-- One sub-block of a master as WR writes it to a copy: each place the exact hi + lo, in the copy's rounding mode (R148, R168). -/
def masterSub (s : State) (im : Image) (t : TensorEnt) (mode : Nat → Nat → RoundMode) (ib jb : Nat) : List (Option OutPlace) :=
  (List.range 1024).map (fun n =>
    let i := 32 * ib + n / 32
    let j := 32 * jb + n % 32
    if i < (viewOf t).1 && j < (viewOf t).2 then
      some ⟨readVal s (tensorRegion im t) i j, mode i j, false, none⟩
    else none)

/-- The rounding mode of a copy's places (R151, R153). The step and the pass of the regeneration program's task are free values:
no rule gives them (log 153). -/
def copyMode (s : State) (w : TensorEnt) (i j : Nat) : RoundMode :=
  if w.rounding = 1 then
    .stoch (srBits w.id i j ((Config.freeLong s.freeCtr).toNat % 2 ^ 32) ((Config.freeLong (s.freeCtr + 1)).toNat % 2 ^ 16))
  else .nearest

/-- Write one working copy from its master, sub-block by sub-block. -/
def regenCopy (s : State) (jk : Nat) (im : Image) (t w : TensorEnt) : State :=
  let mode := copyMode s w
  let s := if w.rounding = 1 then { s with freeCtr := s.freeCtr + 2 } else s
  (List.range (ceilDiv (viewOf t).1 32)).foldl (fun s ib => (List.range (ceilDiv (viewOf t).2 32)).foldl (fun s jb =>
    storeOut s jk w.format w.id 0 (writeSub s (tensorRegion im w) 0 w.id 0 0 ib jb (masterSub s im t mode ib jb))) s) s

/-- Write every working copy of a master (R360, R565). -/
def regenCopies (s : State) (jk : Nat) (im : Image) (t : TensorEnt) : State :=
  (((updateOf im 1 t).map (fun ks => (uCopies ks.2).filterMap (tensorOf im))).getD []).foldl (fun s w => regenCopy s jk im t w) s

end Sys2Proof.Machine
end

