-- ==== Sys2Proof/Machine/Mxe.lean ====
section
/-! DEFINITION. The matrix engine's commands: PRODUCT, ACC_STORE, ACC_LOAD, ACC_RELEASE (R106 to R128), with the
narrow-versus-wide audit (R205, R206). -/

namespace Sys2Proof.Machine

/-! ## The operand block (R108) -/

structure Prod where
  ctrl : Nat
  a : Region
  b : Region
  c : Region
  way : Nat
  cAddr : Nat
  m : Nat
  n : Nat
  k : Nat
  row0 : Nat
  col0 : Nat
  tensor : Nat
  maskBits : List Byte
deriving DecidableEq, Repr

/-- Parse the 128 B operand block. -/
def parseProd (d : List Byte) : Prod :=
  let blocks := fieldLe d 1 1
  ⟨fieldLe d 0 1,
   ⟨plainAddr (fieldLe d 0x10 8), fieldLe d 0x40 8, fieldLe d 0x28 4, fieldLe d 2 1, bits blocks 1 0⟩,
   ⟨plainAddr (fieldLe d 0x18 8), fieldLe d 0x48 8, fieldLe d 0x2C 4, fieldLe d 3 1, bits blocks 3 2⟩,
   ⟨plainAddr (fieldLe d 0x20 8), fieldLe d 0x50 8, fieldLe d 0x30 4, fieldLe d 4 1, bits blocks 5 4⟩,
   aliasOf (fieldLe d 0x20 8), fieldLe d 0x20 8, fieldLe d 6 2, fieldLe d 8 2, fieldLe d 0xA 2, fieldLe d 0x34 4, fieldLe d 0x38 4,
   fieldLe d 0x3C 4, d.drop 0x60⟩

def Prod.cont (p : Prod) : Bool := bit p.ctrl 7
def Prod.stoch (p : Prod) : Bool := bit p.ctrl 6
def Prod.mask (p : Prod) : Nat := bits p.ctrl 5 4
def Prod.outMode (p : Prod) : Nat := bits p.ctrl 3 2
def Prod.bT (p : Prod) : Bool := bit p.ctrl 1
def Prod.aT (p : Prod) : Bool := bit p.ctrl 0

/-- The operand pairs that the MXE accepts, in either position (R106). -/
def pairOk (f g : Nat) : Bool :=
  let one := fun (f g : Nat) =>
    (f == 8 && g == 7) || (f == 7 && g == 7) || (isFp8 f && isFp8 g) || (isFp8 f && g == 7) || (f == 3 && isFp8 g) || (f == 3 && g == 7)
      || (f == 3 && g == 8) || (f == 3 && g == 3) || (f == 4 && (g == 3 || g == 4 || isNarrow g)) || (f == 1 && g == 1)
  one f g || one g f

/-- The cases in which a PRODUCT is refused (R127), its offset apart. -/
def prodFault (p : Prod) (live : Bool) : Bool :=
  !pairOk p.a.fmt p.b.fmt || p.c.fmt == 8 || p.c.fmt == 2
    || !(decide (1 ≤ p.m ∧ p.m ≤ 256 ∧ 1 ≤ p.n ∧ p.n ≤ 256 ∧ p.k ≤ 8192 ∧ p.k % 32 = 0))
    || ((p.outMode == 2 || p.cont) && decide (64 < p.m ∨ 64 < p.n))
    || (p.cont && !live)
    || (p.outMode == 1 && p.c.fmt != 1)
    || !(decide (p.a.addr % 64 = 0 ∧ p.b.addr % 64 = 0 ∧ p.a.pitch % 64 = 0 ∧ p.b.pitch % 64 = 0))
    || ((p.outMode == 0 || p.outMode == 1) && !(decide (p.cAddr % 64 = 0 ∧ p.c.pitch % 64 = 0)))

/-- Whether output place (i, j) is masked (R108, R123). -/
def Prod.masked (p : Prod) (i j : Nat) : Bool :=
  let mb := fun (n : Nat) => ((p.maskBits.getD (n / 8) 0).toNat).testBit (n % 8)
  match p.mask with
  | 1 => mb i
  | 2 => mb (8 * (i / 32) + j / 32)
  | _ => false

def Prod.rows (p : Prod) : List Nat := List.range p.m
def Prod.cols (p : Prod) : List Nat := List.range p.n

/-- K is 0, or every output place is masked (R124). -/
def Prod.empty (p : Prod) : Bool := p.k == 0 || p.rows.all (fun i => p.cols.all (fun j => p.masked i j))

/-- Whether the block mask leaves work in the 64 × 64 output block of row group g and column block h (R123). -/
def Prod.computes (p : Prod) (g h : Nat) : Bool :=
  p.mask != 2 || (List.range 4).any (fun q => decide (64 * g + 32 * (q / 2) < p.m ∧ 64 * h + 32 * (q % 2) < p.n)
    && !p.masked (64 * g + 32 * (q / 2)) (64 * h + 32 * (q % 2)))

/-- The first n 64 × 64 blocks in the order of R125, less those that the block mask removes. -/
def Prod.blocksBefore (p : Prod) (n : Nat) : Nat :=
  (List.range n).countP (fun t => p.computes (t / ceilDiv p.n 64) (t % ceilDiv p.n 64))

/-- The 64 × 64 output blocks computed (R123, R125): the row-masked product packs its unmasked rows. -/
def Prod.blockCount (p : Prod) : Nat :=
  if p.mask = 1 then ceilDiv (p.rows.countP (fun i => !p.masked i 0)) 64 * ceilDiv p.n 64
  else p.blocksBefore (ceilDiv p.m 64 * ceilDiv p.n 64)

/-- Which of the computed blocks, in the order of R125, holds place (i, j). -/
def Prod.blockOf (p : Prod) (i j : Nat) : Nat :=
  if p.mask = 1 then (List.range i).countP (fun r => !p.masked r 0) / 64 * ceilDiv p.n 64 + j / 64
  else p.blocksBefore (i / 64 * ceilDiv p.n 64 + j / 64)

/-- Whether an accumulator is computed for place (i, j): every place of a block that the block mask does not remove,
masked sub-blocks too; under the row mask the unmasked rows (R123). -/
def Prod.inBlock (p : Prod) (i j : Nat) : Bool := if p.mask = 1 then !p.masked i j else p.computes (i / 64) (j / 64)

/-! ## Accumulation (R113 to R117) -/

/-- The fixed tree of a cell column: five levels over 32 products. -/
def cellTree (l : List Word) (fuel : Nat) : Word :=
  match fuel with
  | 0 => l.headD 0
  | k + 1 => cellTree ((chunksOf 2 l l.length).map (fun q => fadd (q.headD 0) (q.getD 1 0))) k

/-- hi(x) and lo(x) of the FP32 split (R117). -/
def splitHi (v : Val) : Val :=
  match v with
  | .fin _ _ _ => f32Val (toF32 v &&& 0xFFFF0000)
  | x => x
def splitLo (v : Val) : Val :=
  match v with
  | .fin _ _ _ => bf16Val (toBf16 .nearest (Val.sub v (splitHi v)))
  | _ => Val.zero

/-- One sub-block's sum of 32 products, added to the accumulator. -/
def cellStep (split : Bool) (acc : Word) (as bs : List Val) : Word :=
  let dot := fun (f g : Val → Val) => cellTree ((as.zip bs).map (fun ab => toF32 (Val.mul (f ab.1) (g ab.2)))) 5
  if split then fadd acc (fadd (dot splitHi splitHi) (fadd (dot splitHi splitLo) (dot splitLo splitHi)))
  else fadd acc (dot id id)

/-- The accumulator of place (i, j): sub-blocks in ascending order from its starting value. -/
def prodAcc (s : State) (p : Prod) (start : Word) (i j : Nat) : Word :=
  let split := p.a.fmt == 1 && p.b.fmt == 1
  let av := fun (k : Nat) => if p.aT then readVal s p.a k i else readVal s p.a i k
  let bv := fun (k : Nat) => if p.bT then readVal s p.b j k else readVal s p.b k j
  (List.range (p.k / 32)).foldl (fun acc q => cellStep split acc ((span (32 * q) 32).map av) ((span (32 * q) 32).map bv)) start

/-! ## Addresses touched (R73, R123) -/

/-- Ranges that a PRODUCT reads or writes, with the access kind: 0 read, 1 write. -/
def prodRanges (p : Prod) : List (Nat × Nat × Nat) :=
  let rowUsed := fun (t : Nat) => (span (32 * t) 32).any (fun i => decide (i < p.m) && p.cols.any (p.inBlock i))
  let colUsed := fun (t : Nat) => (span (32 * t) 32).any (fun j => decide (j < p.n) && p.rows.any (fun i => p.inBlock i j))
  let kind := fun (k : Nat) (l : List (Nat × Nat)) => l.map (fun r => ((r.1, r.2, k) : Nat × Nat × Nat))
  let a := if p.empty then [] else if p.aT then regionRanges p.a p.k p.m (fun _ u => rowUsed u) else regionRanges p.a p.m p.k (fun t _ => rowUsed t)
  let b := if p.empty then [] else if p.bT then regionRanges p.b p.n p.k (fun t _ => colUsed t) else regionRanges p.b p.k p.n (fun _ u => colUsed u)
  let c := if p.outMode = 2 || (p.outMode = 1 && p.empty) then [] else regionRanges p.c p.m p.n (fun _ _ => true)
  kind 0 a ++ kind 0 b ++ (if p.outMode = 1 then kind 0 c else []) ++ kind 1 c

/-! ## Disposal of the results (R118, R119, R124) -/

/-- Rounding mode of place (i, j) of C (R119, R151). -/
def Prod.mode (p : Prod) (t : Task) (i j : Nat) : RoundMode :=
  if p.stoch then .stoch (srBits p.tensor (p.row0 + i) (p.col0 + j) t.step t.pass) else .nearest

/-- The places of one sub-block of C under WRITE or ADD, by the accumulator table. -/
def cPlaces (s : State) (p : Prod) (t : Task) (alpha : Word) (acc : Tab Word) (bad : Nat → Bool) (ib jb : Nat) : List (Option OutPlace) :=
  (List.range 1024).map (fun n =>
    let i := 32 * ib + n / 32
    let j := 32 * jb + n % 32
    if p.m ≤ i || p.n ≤ j then none
    else if p.outMode = 1 then
      if p.masked i j || p.empty then none
      else
        let v := fadd (let (c, tg) := readCode s p.c i j; if tg then poisonF32 else BitVec.ofNat 32 c) (fmul alpha (Tab.get 0 acc (i * 256 + j)))
        some ⟨f32Val v, .nearest, bad (p.blockOf i j), none⟩
    else if p.masked i j || p.empty then some ⟨Val.zero, .nearest, !p.empty && p.inBlock i j && bad (p.blockOf i j), none⟩
    else some ⟨f32Val (fmul alpha (Tab.get 0 acc (i * 256 + j))), p.mode t i j, bad (p.blockOf i j), none⟩)

/-- All of C. -/
def cOut (s : State) (p : Prod) (t : Task) (alpha : Word) (acc : Tab Word) (bad : Nat → Bool) : SubOut :=
  (List.range (ceilDiv p.m 32)).foldl (fun o ib => (List.range (ceilDiv p.n 32)).foldl (fun o jb =>
    SubOut.merge o (writeSub s p.c p.way p.tensor p.row0 p.col0 ib jb (cPlaces s p t alpha acc bad ib jb))) o) SubOut.empty

/-- Accumulators of the computed places, by i × 256 + j; the masked places of a computed block have theirs too. -/
def accTable (s : State) (x : BCtx) (p : Prod) : Tab Word :=
  p.rows.flatMap (fun i => (p.cols.filter (p.inBlock i)).map (fun j =>
    (i * 256 + j, prodAcc s p (if p.cont then Tab.get 0 x.acc (i * 64 + j) else 0) i j)))

/-- The accumulators that KEEP leaves live: the computed ones of unmasked places, the others as they stood; those of an empty
product at their starting value (R118, R124). -/
def keptAcc (x : BCtx) (p : Prod) (acc : Tab Word) : Tab Word :=
  if !p.empty then (acc.filter (fun e => !p.masked (e.1 / 256) (e.1 % 256))).foldl (fun a e => Tab.set a (e.1 / 256 * 64 + e.1 % 256) e.2) x.acc
  else if p.cont then x.acc
  else (p.rows.flatMap (fun i => p.cols.map (fun j => i * 64 + j))).foldl (fun a k => Tab.set a k 0) x.acc

/-- The accumulator values that NAN and INF report (R110, R115): under KEEP those of all output places, else the computed ones. -/
def finalAcc (p : Prod) (acc kept : Tab Word) : List Val :=
  if p.outMode = 2 then p.rows.flatMap (fun i => p.cols.map (fun j => f32Val (Tab.get 0 kept (i * 64 + j)))) else acc.map (fun e => f32Val e.2)

/-- 4,096 free accumulator values: what the accumulators hold after a WRITE or ADD, when they are not live. -/
def freeAcc (s : State) : Tab Word := (List.range 4096).map (fun n => (n, (Config.freeLong (s.freeCtr + n)).setWidth 32))

/-! ## The audit (R205, R206) -/

/-- Whether a command qualifies and is sampled: narrow operands, C FP8 or FP4, WRITE, and the draw's top bits all 0. -/
def auditSampled (s : State) (jk : Nat) (st : Station) (p : Prod) (t : Task) : Bool :=
  let a := layerRec (getJob s jk) st.layer
  let rate := rdLe s (a + 0x14) 1
  jk % 2 == 0 && hasLayer st.layer && isNarrow p.a.fmt && isNarrow p.b.fmt && (isFp8 p.c.fmt || p.c.fmt == 7) && p.outMode == 0
    && bit (rdLe s (a + 4) 1) 3 && rate != 0 && srBits p.tensor p.row0 p.col0 t.step (t.pass + 65536) / 2 ^ (16 - min rate 16) == 0

/-- e of R205: the sums over the unmasked, unpoisoned places of the blocks whose two paths agree. -/
def auditError (s : State) (p : Prod) (alpha : Word) (acc : Tab Word) (bad : Nat → Bool) : Word :=
  let places := p.rows.flatMap (fun i => p.cols.map (fun j =>
    let y := readVal s p.c i j
    let r := bf16Val (toBf16 .nearest (f32Val (fmul alpha (Tab.get 0 acc (i * 256 + j)))))
    if p.masked i j || bad (p.blockOf i j) || y == .poison || r == .poison then none else some (toF32 (Val.abs (Val.sub y r)), toF32 (Val.abs r))))
  let num := (pairTree fadd (places.map (fun o => o.map Prod.fst)) 20).getD 0
  let den := (pairTree fadd (places.map (fun o => o.map Prod.snd)) 20).getD 0
  if (f32Val den).isZero then (if (f32Val num).isZero then 0 else 0x7F800000) else fdiv num den

/-- Count an audited command and report what it found. -/
def auditEnd (s : State) (lb c jk : Nat) (st : Station) (p : Prod) (t : Task) (alpha : Word) (acc : Tab Word) (bad : Nat → Bool) (faulty : Bool) : State :=
  let a := layerRec (getJob s jk) st.layer
  let s := wrLe s (a + 0x58) 4 (rdLe s (a + 0x58) 4 + 1)
  let s := if faulty then
      requestTest (raisePart s (partOfLb s lb) 0x0355 (sourceId s lb) [(4, st.layer), (4, t.step), (2, lb), (1, c), (1, t.station)]) lb
    else s
  let e := auditError s p alpha acc bad
  let tol : Word := BitVec.ofNat 32 (rdLe s (a + (if p.c.fmt = 7 then 0x18 else 0x1C)) 4)
  if fgt e tol then
    let s := wrLe s (a + 0x5C) 4 (rdLe s (a + 0x5C) 4 + 1)
    if (getJob s jk).raisedOnce.contains (2, st.layer, t.step) then s
    else
      let s := modJob s jk (fun j => { j with raisedOnce := j.raisedOnce ++ [(2, st.layer, t.step)] })
      raisePart s (partOfLb s lb) 0x0354 (sourceId s lb)
        [(4, st.layer), (4, t.step), (2, lb), (1, c), (1, t.station), (8, e.toNat), (4, p.tensor), (4, p.row0), (4, p.col0)]
  else s

/-! ## Running a command -/

/-- A stream of the context that reads the accumulators and stands before an MXE command in issue order (R121). -/
def streamReadsAcc (s : State) (lb off : Nat) : Bool :=
  let d := rdData s (windowAddr lb off) 384
  (List.range 8).any (fun n => decide (1 ≤ fieldLe d (0x80 + 32 * n + 0x16) 1) && fieldLe d (0x80 + 32 * n + 0x17) 1 == 1)

/-- Run the front MXE command of a context, if it is of function fn and may start. -/
def mxeRun (s : State) (lb c fn : Nat) (f : Nat → BCtx → Task → Station → MxeCmd → State → State) : State :=
  let x := getCtx s lb c
  match jobOf s lb c, x.running, x.mxeQ with
  | some jk, some t, m :: _ =>
    if x.frozen || m.fn != fn || !present s lb || (getBench s lb).failed || x.vseQ.any (fun v => decide (v.seq < m.seq) && streamReadsAcc s lb v.off) then s
    else
      match stationOf s jk t.station with
      | none => s
      | some st => f jk x t st m s
  | _, _, _ => s

/-- The front command leaves the queue. -/
def mxeDone (x : BCtx) : BCtx := { x with mxeQ := x.mxeQ.drop 1 }

/-- The scratchpad and memory ranges that a PRODUCT reads, its operand block first. -/
def prodReads (lb off : Nat) (p : Prod) : List (Nat × Nat) :=
  (windowAddr lb off, 128) :: ((prodRanges p).filter (fun r => r.2.2 == 0)).map (fun r => (r.1, r.2.1))

/-- The effect of a PRODUCT that no check refuses. `bad` names the output blocks that the audit found faulty. -/
def runProduct (s : State) (lb c jk : Nat) (x : BCtx) (t : Task) (st : Station) (alpha : Word) (p : Prod) (pathFault : List Nat) : State :=
  let acc := if p.empty then [] else accTable s x p
  let kept := keptAcc x p acc
  let sampled := auditSampled s jk st p t
  let bad := fun (n : Nat) => sampled && pathFault.contains n
  let out := if p.outMode = 2 then SubOut.empty else cOut s p t alpha acc bad
  let s := if p.outMode = 2 then s else storeOut s jk p.c.fmt p.tensor p.way out
  let faulty := !p.empty && pathFault.any (fun n => decide (n < p.blockCount))
  let s := if sampled then auditEnd s lb c jk st p t alpha acc bad faulty else s
  let s := if out.nonfinite = 0 then s else raiseBench s lb c t.station 0x0330 [(4, p.tensor), (2, min out.nonfinite 0xFFFF)]
  let vals := finalAcc p acc kept
  let poison := if p.outMode = 2 then vals.any (· == .poison) else out.cells.any (·.2.2) || out.acc.any (·.tag)
  let flags : MxeFlags := ⟨out.ovf, if p.empty then 0 else p.blockCount, p.empty, poison, vals.any isNanV, vals.any isInfV⟩
  let free := freeAcc s
  let s := if p.outMode = 2 then s else { s with freeCtr := s.freeCtr + 4096 }
  modCtx s lb c (fun x => mxeDone { setMxeStatus x flags with accLive := p.outMode == 2, acc := if p.outMode = 2 then kept else free })

/-- PRODUCT. `errs` are the scratchpad words in which the code finds an error, `pathFault` the output blocks of a
sampled command on which the audit's two datapaths disagree. The offset is checked first, then the block's place, the other
cases of R127 and last the addresses in the block, in the order of their fields (log 151). -/
def doProduct (lb c : Nat) (errs : List (Nat × Bool)) (pathFault : List Nat) (s : State) : State :=
  mxeRun s lb c 0 (fun jk x t st m s =>
    if m.off % 64 ≠ 0 then taskFault s lb c t.station 0x0320
    else if stationRegion < m.off + 128 then freezeBench s lb c 3 0 ((winBase + lb * winSize + m.off) % 2 ^ 64)
    else
      let p := parseProd (rdData s (windowAddr lb m.off) 128)
      if prodFault p x.accLive then taskFault s lb c t.station 0x0320
      else
        match firstViolation (ownCause s lb (jk / 2)) (prodRanges p) with
        | some (cause, access, addr) => freezeBench s lb c cause access addr
        | none =>
          let s := checkReads (noteSpdErrs s c t.station errs) jk (prodReads lb m.off p)
          let s := (prodReads lb m.off p).foldl (fun s r => noteSizes s r.1 r.2) s
          runProduct s lb c jk x t st m.alpha p pathFault)

def execProduct (lb ctx : Nat) (errs : List (Nat × Bool)) (pathFault : List Nat) (s : State) : Host.Outcome State Fault Refusal :=
  done (doProduct lb ctx errs pathFault s)

/-- Checks on the 16 KiB area of ACC_STORE and ACC_LOAD: alignment (R127), then the own station region (R73, R107; log 151). -/
def accArea (s : State) (lb c : Nat) (t : Task) (m : MxeCmd) (access : Nat) : Option State :=
  if m.off % 64 ≠ 0 then some (taskFault s lb c t.station 0x0320)
  else if stationRegion < m.off + 16384 then some (freezeBench s lb c 3 access ((winBase + lb * winSize + m.off) % 2 ^ 64))
  else none

/-- ACC_STORE: the accumulators go to the area row-major; a poisoned one tags its word (R107, R116). -/
def doAccStore (lb c : Nat) (s : State) : State :=
  mxeRun s lb c 1 (fun _ x t _ m s =>
    match accArea s lb c t m 1 with
    | some s => s
    | none =>
      let cells := (List.range 4096).flatMap (fun n =>
        let w := Tab.get 0 x.acc n
        cellsOf (windowAddr lb (m.off + 4 * n)) (toLe 4 w.toNat) (isPoisonF w))
      modCtx (applyCells s cells) lb c mxeDone)

def execAccStore (lb ctx : Nat) (s : State) : Host.Outcome State Fault Refusal := done (doAccStore lb ctx s)

/-- ACC_LOAD: the accumulators are loaded row-major and become live; a tagged word poisons its two values (R107, R116). -/
def doAccLoad (lb c : Nat) (errs : List (Nat × Bool)) (s : State) : State :=
  mxeRun s lb c 2 (fun jk _ t _ m s =>
    match accArea s lb c t m 0 with
    | some s => s
    | none =>
      let s := checkReads (noteSpdErrs s c t.station errs) jk [(windowAddr lb m.off, 16384)]
      let acc := (List.range 4096).map (fun n =>
        let a := windowAddr lb (m.off + 4 * n)
        (n, if rdTagged s a 4 then poisonF32 else BitVec.ofNat 32 (rdLe s a 4)))
      modCtx s lb c (fun x => mxeDone { x with acc := acc, accLive := true }))

def execAccLoad (lb ctx : Nat) (errs : List (Nat × Bool)) (s : State) : Host.Outcome State Fault Refusal := done (doAccLoad lb ctx errs s)

/-- ACC_RELEASE: ACC_LIVE clears. -/
def doAccRelease (lb c : Nat) (s : State) : State :=
  mxeRun s lb c 3 (fun _ _ _ _ _ s => modCtx s lb c (fun x => mxeDone { x with accLive := false }))

def execAccRelease (lb ctx : Nat) (s : State) : Host.Outcome State Fault Refusal := done (doAccRelease lb ctx s)

end Sys2Proof.Machine
end

