-- ==== Sys2Proof/Machine/Transc.lean ====
section
/-! DEFINITION. EXP, LOG and TANH of the VSE: the exact value rounded down by a fixed-point evaluation with 192
fraction bits, moved by a free offset of Config, so that the result is within 2 ulp (R173) and otherwise open. -/

namespace Sys2Proof.Machine

/-- Fraction bits of the evaluation. -/
def tBits : Nat := 192
def tOne : Nat := 2 ^ tBits
/-- ln 2 with 192 fraction bits, rounded down. -/
def tLn2 : Nat := 4350955369971217654477563090224794165364344896676135745069

/-- A magnitude m · 2^e in fixed point, rounded down. -/
def tFix (m : Nat) (e : Int) : Nat :=
  let k : Int := e + (tBits : Nat)
  if 0 ≤ k then m * 2 ^ k.toNat else m / 2 ^ (-k).toNat

/-- The Taylor sum of e^r for r below 1, terms from k on. -/
def expSum (r term k fuel : Nat) : Nat :=
  match fuel with
  | 0 => 0
  | f + 1 => term + expSum r (term * r / tOne / (k + 1)) (k + 1) f

/-- e^x for a fixed-point x ≥ 0: a significand with 192 fraction bits in [1, 2) or near, and a power of two. -/
def expPos (x : Nat) : Nat × Nat := (expSum (x % tLn2) tOne 0 64, x / tLn2)

/-- The sum of z^(2j+1) / (2j+1), twice of which is ln((1+z)/(1−z)). -/
def artanhSum (z2 term j fuel : Nat) : Nat :=
  match fuel with
  | 0 => 0
  | f + 1 => term / (2 * j + 1) + artanhSum z2 (term * z2 / tOne) (j + 1) f

/-- ln y for a fixed-point y in [1, 2). -/
def lnUnit (y : Nat) : Nat :=
  let z := (y - tOne) * tOne / (y + tOne)
  2 * artanhSum (z * z / tOne) z 0 72

/-- The largest FP32 magnitude code not above m · 2^e, the exponent range unbounded above. -/
def floorCode (m : Nat) (e : Int) : Nat :=
  if m = 0 then 0
  else
    let q := FloatFmt.lastPlace fmtFp32 m e
    let k := if q ≤ e then m * 2 ^ (e - q).toNat else m / 2 ^ (q - e).toNat
    (q - (1 - (fmtFp32.bias : Nat) - (fmtFp32.mb : Nat))).toNat * 2 ^ fmtFp32.mb + k

/-- A result within 2 ulp of a value that is not a code itself: its code rounded down, less one to plus two; what exceeds the
largest finite code is an infinity. -/
def nearCode (op : Nat) (a : Word) (neg : Bool) (code : Nat) : Word :=
  BitVec.ofNat 32 ((if neg then 2 ^ 31 else 0) + min (code + Config.transcUlp op a % 4 - 1) 0x7F800000)

/-- A result within 2 ulp of an exact positive code. -/
def nearExact (op : Nat) (a : Word) (neg : Bool) (code : Nat) : Word :=
  BitVec.ofNat 32 ((if neg then 2 ^ 31 else 0) + min (code + Config.transcUlp op a % 5 - 2) 0x7F800000)

/-- A result within 2 ulp of an exact zero, of either sign. -/
def nearZero (op : Nat) (a : Word) (neg : Bool) : Word :=
  let k := Config.transcUlp op a % 5
  if k = 0 then BitVec.ofNat 32 (if neg then 2 ^ 31 else 0)
  else BitVec.ofNat 32 ((if k < 3 then 2 ^ 31 else 0) + (k - 1) % 2 + 1)

/-- e^A (R172, R173). -/
def fexp (a : Word) : Word :=
  match f32Val a with
  | .poison => poisonF32
  | .nan => nanF32
  | .inf s => if s then 0 else 0x7F800000
  | .fin s m e =>
    if m = 0 then nearExact 14 a false 0x3F800000
    else
      let x := tFix m e
      if 256 * tOne ≤ x then (if s then nearZero 14 a false else 0x7F800000)
      else
        let (v, n) := expPos x
        if s then nearCode 14 a false (floorCode (tOne * tOne / v) (-(tBits : Nat) - (n : Nat)))
        else nearCode 14 a false (floorCode v ((n : Nat) - (tBits : Nat)))

/-- ln A. -/
def flog (a : Word) : Word :=
  match f32Val a with
  | .poison => poisonF32
  | .nan => nanF32
  | .inf s => if s then nanF32 else 0x7F800000
  | .fin s m e =>
    if m = 0 then (let w := Config.logOfZero a; if isNanF w || isPoisonF w then nanF32 else w)
    else if s then nanF32
    else
      let k : Int := e + (Nat.log2 m : Nat)
      let v : Int := (lnUnit (tFix m (e - k)) : Nat) + k * (tLn2 : Nat)
      if v = 0 then nearZero 15 a false
      else nearCode 15 a (decide (v < 0)) (floorCode v.natAbs (-(tBits : Nat)))

/-- tanh A. -/
def ftanh (a : Word) : Word :=
  match f32Val a with
  | .poison => poisonF32
  | .nan => nanF32
  | .inf s => nearExact 16 a s 0x3F800000
  | .fin s m e =>
    if m = 0 then nearZero 16 a s
    else
      let x := tFix m e
      if 64 * tOne ≤ x then nearCode 16 a s 0x3F7FFFFF
      else if x < 2 ^ (tBits - 24) then nearCode 16 a s ((toF32 (.fin false m e)).toNat - 1)
      else
        let (v, n) := expPos (2 * x)
        let big := v * 2 ^ n
        nearCode 16 a s (floorCode ((big - tOne) * tOne / (big + tOne)) (-(tBits : Nat)))

end Sys2Proof.Machine
end

