-- ==== Sys2Proof/Machine/Vse.lean ====
section
/-! DEFINITION. The vector stream engine: stream descriptors (R162, R163), the checks at a stream's start (R185), the
lanes (R158 to R176), the writes (R168, R169, R177) and STREAM_STATUS (R178). -/

namespace Sys2Proof.Machine

/-! ## Descriptor and program -/

/-- One slot of a stream descriptor (R163). -/
structure Slot where
  r : Region
  way : Nat
  dir : Nat
  src : Nat
  tensor : Nat
  stoch : Bool
deriving DecidableEq, Repr

/-- A stream descriptor (R162). -/
structure Stream where
  prog : Nat
  plen : Nat
  nscal : Nat
  mode : Nat
  gblock : Nat
  redOp : Nat
  redAxis : Nat
  rows : Nat
  cols : Nat
  row0 : Nat
  col0 : Nat
  maskSlot : Nat
  redDst : Nat
  flags : Nat
  consts : List Word
  histAddr : Nat
  slots : List Slot
deriving DecidableEq, Repr

def parseSlot (d : List Byte) : Slot :=
  ⟨⟨plainAddr (fieldLe d 0 8), fieldLe d 8 8, fieldLe d 0x10 4, fieldLe d 0x14 1, fieldLe d 0x15 1⟩, aliasOf (fieldLe d 0 8),
   fieldLe d 0x16 1, fieldLe d 0x17 1, fieldLe d 0x18 4, fieldLe d 0x1C 1 == 1⟩

def parseStream (d : List Byte) : Stream :=
  ⟨fieldLe d 0 2, fieldLe d 2 1, fieldLe d 3 1, fieldLe d 4 1, fieldLe d 5 1, fieldLe d 6 1, fieldLe d 7 1, fieldLe d 8 4, fieldLe d 0xC 4,
   fieldLe d 0x10 4, fieldLe d 0x14 4, fieldLe d 0x18 1, fieldLe d 0x19 1, fieldLe d 0x1A 1,
   (List.range 8).map (fun n => BitVec.ofNat 32 (fieldLe d (0x20 + 4 * n) 4)), fieldLe d 0x40 8,
   (List.range 8).map (fun n => parseSlot ((d.drop (0x80 + 32 * n)).take 32))⟩

/-- The stream descriptor at an address: a constant in a tagged word is poisoned (R81, R165). -/
def readStream (s : State) (a : Nat) : Stream :=
  let t := parseStream (rdData s a 384)
  { t with consts := t.consts.zipIdx.map (fun kn => if rdTagged s (a + 0x20 + 4 * kn.2) 4 then poisonF32 else kn.1) }

def Stream.histEn (t : Stream) : Bool := bit t.flags 1
def Stream.accRelease (t : Stream) : Bool := bit t.flags 0
def Stream.slot (t : Stream) (n : Nat) : Option Slot := t.slots[n]?

/-- A VSE instruction (R170). -/
structure VInstr where
  op : Nat
  d : Nat
  a : Nat
  b : Nat
  c : Nat
  imm : Word
deriving DecidableEq, Repr

def parseVInstr (w : Nat) : VInstr := ⟨bits w 63 56, bits w 55 50, bits w 49 44, bits w 43 38, bits w 37 32, BitVec.ofNat 32 w⟩

/-- The program of a stream, from the station's code in the image. -/
def programOf (im : Image) (st : Station) (t : Stream) : List VInstr :=
  (List.range t.plen).map (fun n => parseVInstr (fieldLe im.code (st.codeOff + t.prog + 8 * n) 8))

/-- How many of A, B, C an opcode reads; none for a reserved opcode (R172). -/
def opArity (op : Nat) : Option Nat :=
  match op with
  | 0x01 => some 2 | 0x02 => some 2 | 0x03 => some 2 | 0x04 => some 3 | 0x05 => some 2 | 0x06 => some 1 | 0x07 => some 1
  | 0x08 => some 2 | 0x09 => some 2 | 0x0A => some 1 | 0x0B => some 1 | 0x0C => some 3 | 0x0D => some 2 | 0x0E => some 1
  | 0x0F => some 1 | 0x10 => some 1 | 0x11 => some 2 | 0x12 => some 1 | 0x13 => some 1 | 0x18 => some 1 | 0x19 => some 1
  | 0x1A => some 1 | 0x1B => some 1 | 0x20 => some 1 | 0x21 => some 1
  | _ => none

/-- The operand selectors that an instruction uses. -/
def VInstr.uses (i : VInstr) : List Nat := [i.a, i.b, i.c].take ((opArity i.op).getD 0)
def VInstr.writesSlot (i : VInstr) : Bool := i.op == 0x20 || i.op == 0x21
def VInstr.isBlock (i : VInstr) : Bool := i.op == 0x18 || i.op == 0x19

/-! ## The checks of R185 -/

/-- Whether a slot is in use. -/
def slotUsed (x : Slot) : Bool := x.dir != 0
def isOutDir (x : Slot) : Bool := x.dir == 2 || x.dir == 3

/-- An operand selector that may be read: not a mask or unused slot, an OUT slot only once written and not narrow, a
scalar within NSCAL. -/
def readSelOk (t : Stream) (written : List Nat) (sel : Nat) : Bool :=
  if sel < 8 then
    match t.slot sel with
    | none => false
    | some x => slotUsed x && x.src != 2 && sel != t.maskSlot && (x.dir != 2 || (written.contains sel && !isNarrow x.r.fmt))
  else if sel < 0x10 then true
  else if sel < 0x14 then decide (sel - 0x10 < t.nscal)
  else decide (sel ≤ 0x1C)

/-- A destination that fits: a temporary, or a slot that is OUT or INOUT and not yet written; MADD48 needs an M48 INOUT slot. -/
def destOk (t : Stream) (written : List Nat) (i : VInstr) : Bool :=
  if i.op = 0x1A || i.op = 0x1B then true
  else if i.writesSlot then
    decide (i.d < 8) && !written.contains i.d && i.d != t.maskSlot && !(t.mode == 2 && i.d == t.redDst)
      && (match t.slot i.d with
          | none => false
          | some x => x.src == 0 && isOutDir x && (i.op == 0x20 || (x.dir == 3 && x.r.fmt == 2)))
  else decide (8 ≤ i.d ∧ i.d < 0x10)

/-- The program's checks, in program order. -/
def progOk (t : Stream) (written : List Nat) (l : List VInstr) : Bool :=
  match l with
  | [] => true
  | i :: r =>
    (opArity i.op).isSome && i.uses.all (readSelOk t written) && destOk t written i && (!i.isBlock || t.mode == 1)
      && (i.op != 0x1B || t.mode == 2) && progOk t (if i.writesSlot then i.d :: written else written) r

/-- The slots' checks: reserved values, alignment of the fields in use, narrow INOUT, accumulator slots (R180, R185). -/
def slotOk (t : Stream) (live : Bool) (n : Nat) (x : Slot) : Bool :=
  if !slotUsed x then true
  else
    decide (x.dir ≤ 3 ∧ x.src ≤ 2)
      && (x.src == 1 || decide (x.r.addr % 64 = 0))
      && (x.src != 0 || (if groupSize x.r.fmt x.r.block = 0 then true else decide (x.r.sc % 64 = 0)))
      && (x.src != 0 || (t.mode == 2 && n == t.redDst) || decide (x.r.pitch % 64 = 0))
      && (x.src != 0 || !(isNarrow x.r.fmt && x.dir == 3))
      && (x.src != 1 || (live && x.dir == 1 && decide (t.rows ≤ 64 ∧ t.cols ≤ 64)))

/-- Whether a stream starts (R162, R185). -/
def streamOk (t : Stream) (st : Station) (live : Bool) (p : List VInstr) : Bool :=
  decide (1 ≤ t.plen ∧ t.plen ≤ 64 ∧ t.prog % 8 = 0 ∧ t.prog + 8 * t.plen ≤ st.codeSize)
    && decide (t.mode ≤ 2 ∧ t.gblock ≤ 4 ∧ t.redAxis ≤ 2)
    && decide (1 ≤ t.rows ∧ t.rows ≤ 16777216 ∧ 1 ≤ t.cols ∧ t.cols ≤ 16777216 ∧ t.rows * t.cols ≤ 2 ^ 31 ∧ t.row0 % 32 = 0 ∧ t.col0 % 32 = 0)
    && (t.slots.zipIdx.all (fun xn => slotOk t live xn.2 xn.1))
    && progOk t [] p
    && decide (p.countP (fun i => i.op == 0x1A) ≤ 1)
    && (!t.histEn || decide (t.histAddr % 64 = 0))
    && (t.mode != 2 || (p.countP (fun i => i.op == 0x1B) == 1 && decide (t.redOp < 8)
          && (match t.slot t.redDst with
              | none => false
              | some x => x.dir == 2 && x.src == 0 && (!(t.redOp == 5 || t.redOp == 6 || t.redOp == 7) || x.r.fmt == 1))))

/-! ## Lanes -/

/-- One place in the lanes: temporaries, what was written to each slot, whether it is present, an edge place or masked,
and whether an instruction made a NaN from numbers. -/
structure Lane where
  i : Nat
  j : Nat
  edge : Bool
  masked : Bool
  temps : List Word
  outs : Tab OutPlace
  hist : Option Word
  red : Option Word
  invalid : Bool
deriving DecidableEq, Repr

def Lane.present (l : Lane) : Bool := !l.edge && !l.masked

/-- What a stream works on: the state at its start, its descriptor, scalars and task. -/
structure VEnv where
  s : State
  t : Stream
  x : BCtx
  task : Task
  scal : List Long

/-- The M48 code that a slot holds for a place: written, or stored; a tagged word is poison. -/
def slotM48 (e : VEnv) (x : Slot) (n : Nat) (l : Lane) : Nat :=
  match Tab.find l.outs n with
  | some o => (plainPlace e.s x.r l.i l.j o).1
  | none =>
    if l.edge then 0
    else
      let (c, tg) := readCode e.s x.r l.i l.j
      if tg then m48Code poisonF32 0 else c

/-- The FP32 value that a slot supplies for a place (R164, R169). -/
def slotValue (e : VEnv) (n : Nat) (l : Lane) : Word :=
  match e.t.slot n with
  | none => 0
  | some x =>
    if x.r.fmt = 2 && x.src = 0 then m48ReadHi (slotM48 e x n l)
    else
      match Tab.find l.outs n with
      | some o =>
        let c := (plainPlace e.s x.r l.i l.j o)
        if c.2.1 then poisonF32
        else if x.r.fmt = 1 then BitVec.ofNat 32 c.1
        else toF32 (elemVal x.r.fmt c.1 (readScale e.s x.r l.i l.j))
      | none =>
        if l.edge then 0
        else if x.src = 1 then Tab.get 0 e.x.acc (l.i * 64 + l.j)
        else if x.r.fmt = 1 then
          let (c, tg) := readCode e.s x.r l.i l.j
          if tg then poisonF32 else BitVec.ofNat 32 c
        else toF32 (readVal e.s x.r l.i l.j)

/-- The FP32 value of an operand selector (R171). -/
def selValue (e : VEnv) (i : VInstr) (sel : Nat) (l : Lane) : Word :=
  if sel < 8 then slotValue e sel l
  else if sel < 0x10 then l.temps.getD (sel - 8) 0
  else if sel < 0x14 then ((e.scal.getD (sel - 0x10) 0).setWidth 32)
  else if sel < 0x1C then e.t.consts.getD (sel - 0x14) 0
  else i.imm

/-- A × 2^n with n the truncation of B, clamped to −300 to 300 (R172). -/
def fscale2 (a b : Word) : Word :=
  if isPoisonF a || isPoisonF b then poisonF32
  else
    match f32Val b with
    | .inf s => toF32 (Val.scale (f32Val a) (if s then -300 else 300))
    | .fin s m e =>
      let k : Nat := if 0 ≤ e then m * 2 ^ (min e.toNat 16) else m / 2 ^ (-e).toNat
      let n : Int := min k 300
      toF32 (Val.scale (f32Val a) (if s then -n else n))
    | _ => nanF32

/-- The result of an element instruction (R172, R173). -/
def vOp (op : Nat) (a b c : Word) : Word :=
  match op with
  | 0x01 => fadd a b
  | 0x02 => fsub a b
  | 0x03 => fmul a b
  | 0x04 => ffma a b c
  | 0x05 => fdiv a b
  | 0x06 => fsqrt a
  | 0x07 => frsqrt a
  | 0x08 => fmin a b
  | 0x09 => fmax a b
  | 0x0A => fabs a
  | 0x0B => fneg a
  | 0x0C => if isPoisonF a || isPoisonF b || isPoisonF c then poisonF32 else if fgt c 0 then (if isNanF a then nanF32 else a) else if isNanF b then nanF32 else b
  | 0x0D => if isPoisonF a || isPoisonF b then poisonF32 else if fgt a b then oneF32 else 0
  | 0x0E => fexp a
  | 0x0F => flog a
  | 0x10 => ftanh a
  | 0x11 => fscale2 a b
  | 0x12 => toF32 (g16Val (toG16 .nearest (f32Val a)))
  | _ => toF32 (bf16Val (toBf16 .nearest (f32Val a)))

/-- Rounding mode of a written place (R168). -/
def slotMode (e : VEnv) (x : Slot) (l : Lane) : RoundMode :=
  if x.stoch then .stoch (srBits x.tensor (e.t.row0 + l.i) (e.t.col0 + l.j) e.task.step e.task.pass) else .nearest

/-- What WR puts into a slot for a place (R168): an M48 operand keeps its exact value, FP32 is written as it stands, and a
NaN that becomes an M48 the canonical one (R148). -/
def wrPlace (e : VEnv) (x : Slot) (i : VInstr) (l : Lane) : OutPlace :=
  match (if i.a < 8 then e.t.slot i.a else none).filter (fun y => y.r.fmt == 2 && y.src == 0) with
  | some y => ⟨codeVal 2 (slotM48 e y i.a l), slotMode e x l, false, none⟩
  | none =>
    let w := selValue e i i.a l
    if x.r.fmt = 1 then ⟨f32Val w, .nearest, isPoisonF w, some w.toNat⟩ else ⟨f32Val w, slotMode e x l, false, none⟩

/-- What MADD48 puts into an M48 slot (R149, R169). -/
def maddPlace (e : VEnv) (x : Slot) (i : VInstr) (l : Lane) : OutPlace :=
  let c := m48Add (slotM48 e x i.d l) (selValue e i i.a l)
  ⟨codeVal 2 c, .nearest, m48Poison (m48Hi c) (m48Lo c), some c⟩

/-- Whether MADD48 makes a NaN from an M48 value and an increment neither of which is one (R173). -/
def maddInvalid (e : VEnv) (x : Slot) (i : VInstr) (l : Lane) : Bool :=
  isNanV (maddPlace e x i l).v && !isNanV (codeVal 2 (slotM48 e x i.d l)) && !isNanF (selValue e i i.a l)

/-- One instruction on one place; block instructions are `vBlock`'s. -/
def vLane (e : VEnv) (i : VInstr) (l : Lane) : Lane :=
  let a := selValue e i i.a l
  if i.op = 0x20 then (match e.t.slot i.d with | some x => { l with outs := Tab.set l.outs i.d (wrPlace e x i l) } | none => l)
  else if i.op = 0x21 then (match e.t.slot i.d with | some x => { l with outs := Tab.set l.outs i.d (maddPlace e x i l), invalid := l.invalid || (l.present && maddInvalid e x i l) } | none => l)
  else if i.op = 0x1A then { l with hist := some a }
  else if i.op = 0x1B then { l with red := some a }
  else
    let ops := i.uses.map (fun q => selValue e i q l)
    let r := vOp i.op (ops.getD 0 0) (ops.getD 1 0) (ops.getD 2 0)
    { l with temps := modAt l.temps (i.d - 8) (fun _ => r),
             invalid := l.invalid || (l.present && isNanF r && ops.all (fun w => !isNanF w)) }

/-- The larger magnitude, a NaN or poison winning (R174). -/
def amaxF (a b : Word) : Word := fmax a b

/-- One block instruction over the places of one block (R174). -/
def vBlock (e : VEnv) (i : VInstr) (ls : List Lane) : List Lane :=
  let vals := ls.map (fun l => if l.present then some (selValue e i i.a l) else none)
  let r := if i.op = 0x18 then (pairTree fadd vals 12).getD 0 else (pairTree amaxF (vals.map (fun o => o.map fabs)) 12).getD 0
  let bad := i.op == 0x18 && isNanF r && vals.all (fun o => match o with | some w => !isNanF w | none => true)
  ls.map (fun l => { l with temps := modAt l.temps (i.d - 8) (fun _ => r), invalid := l.invalid || (l.present && bad) })

/-- The program over the 1,024 places of one sub-block. -/
def runLanes (e : VEnv) (p : List VInstr) (ls : List Lane) : List Lane :=
  p.foldl (fun ls i => if i.isBlock then (chunksOf (16 * 2 ^ e.t.gblock) ls 64).flatMap (vBlock e i) else ls.map (vLane e i)) ls

/-- The mask bit of walk position q (R167). -/
def maskBit (s : State) (t : Stream) (q : Nat) : Bool :=
  match (if t.maskSlot = 0xFF then none else t.slot t.maskSlot) with
  | none => false
  | some x => ((rdByte s (x.r.addr + q / 8)).1.toNat).testBit (q % 8)

/-- The lanes of sub-block number k of the walk (R158, R159). -/
def lanesOf (s : State) (t : Stream) (k : Nat) : List Lane :=
  let w := ceilDiv t.cols 32
  (List.range 1024).map (fun n =>
    let i := 32 * (k / w) + n / 32
    let j := 32 * (k % w) + n % 32
    ⟨i, j, decide (t.rows ≤ i ∨ t.cols ≤ j), maskBit s t (1024 * k + n), List.replicate 8 0, [], none, none, false⟩)

/-- What a slot's writing of one sub-block amounts to: plain slots skip edge and masked places; narrow slots write +0 there. -/
def slotOut (e : VEnv) (n k : Nat) (x : Slot) (ls : List Lane) : SubOut :=
  let w := ceilDiv e.t.cols 32
  let places := ls.map (fun l =>
    match Tab.find l.outs n with
    | none => none
    | some o => if l.present then some o else if isNarrow x.r.fmt then some ⟨Val.zero, .nearest, false, none⟩ else none)
  writeSub e.s x.r x.way x.tensor e.t.row0 e.t.col0 (k / w) (k % w) places

/-! ## Histogram and reduction -/

/-- The bin of a magnitude (R175). -/
def histBin (a : Word) : Nat := max 87 (min 150 (bits (fabs a).toNat 30 23)) - 87

/-- Counts of the present, unpoisoned places, and whether a poisoned one was met. -/
def histCounts (vs : List Word) : List Nat :=
  (List.range 64).map (fun b => min (vs.countP (fun a => !isPoisonF a && histBin a == b)) 0xFFFFFFFF)

/-- A leaf of a reduction on its way up the tree: value, exact count, index. -/
structure Leaf where
  v : Word
  n : Nat
  idx : Nat
deriving DecidableEq, Repr

/-- Whether leaf a wins over b for ARGMAX (or ARGMIN): poison, then a NaN, beats any number; ties go to the lower index. -/
def argWins (most : Bool) (a b : Leaf) : Bool :=
  if isPoisonF a.v || isPoisonF b.v then isPoisonF a.v
  else if isNanF a.v then true
  else if isNanF b.v then false
  else if most then !fgt b.v a.v else !fgt a.v b.v

/-- A node of the reduction tree (R176). -/
def redNode (op : Nat) (a b : Leaf) : Leaf :=
  match op with
  | 0 => ⟨fadd a.v b.v, a.n + b.n, a.idx⟩
  | 1 => ⟨fmul a.v b.v, a.n + b.n, a.idx⟩
  | 2 => ⟨fmax a.v b.v, a.n + b.n, a.idx⟩
  | 3 => ⟨fmin a.v b.v, a.n + b.n, a.idx⟩
  | 4 => ⟨fadd a.v b.v, a.n + b.n, a.idx⟩
  | 5 => if argWins true a b then { a with n := a.n + b.n } else { b with n := a.n + b.n }
  | 6 => if argWins false a b then { a with n := a.n + b.n } else { b with n := a.n + b.n }
  | _ => ⟨if isPoisonF a.v || isPoisonF b.v then poisonF32 else 0, a.n + b.n, a.idx⟩

/-- One result of a reduction: its FP32 value or integer code, whether it is an identity, and whether it is poisoned. -/
structure Red where
  w : Word
  ident : Bool
  poison : Bool
deriving DecidableEq, Repr

/-- The identity of an operation (R177). -/
def redIdentity (op : Nat) : Word :=
  match op with
  | 1 => oneF32 | 2 => 0xFF800000 | 3 => 0x7F800000 | 5 => 0xFFFFFFFF | 6 => 0xFFFFFFFF | _ => 0

/-- The result of a line of leaves (R176, R177). -/
def redResult (op : Nat) (o : Option Leaf) : Red :=
  match o with
  | none => ⟨redIdentity op, true, false⟩
  | some l =>
    if isPoisonF l.v then ⟨poisonF32, false, true⟩
    else
      ⟨match op with
       | 4 => fdiv l.v (toF32 (Val.ofNat l.n))
       | 5 => BitVec.ofNat 32 l.idx
       | 6 => BitVec.ofNat 32 l.idx
       | 7 => BitVec.ofNat 32 l.n
       | _ => l.v, false, false⟩

/-- Whether an operation's results are 32-bit integers (R176). -/
def redInt (op : Nat) : Bool := op == 5 || op == 6 || op == 7
/-- Whether a result is a NaN, and whether it is an infinity (R178). -/
def Red.isNan (op : Nat) (r : Red) : Bool := !redInt op && isNanF r.w
def Red.isInf (op : Nat) (r : Red) : Bool := !redInt op && isInfF r.w

/-- Number of results, and the line and leaf index of a place (R176). -/
def redLines (t : Stream) : Nat := match t.redAxis with | 0 => 1 | 1 => t.rows | _ => t.cols
def redLen (t : Stream) : Nat := match t.redAxis with | 0 => t.rows * t.cols | 1 => t.cols | _ => t.rows
def redPlace (t : Stream) (i j : Nat) : Nat × Nat := match t.redAxis with | 0 => (0, i * t.cols + j) | 1 => (i, j) | _ => (j, i)

/-- The results of a REDUCE stream over all present places (line, index, value). -/
def redAll (t : Stream) (vs : List (Nat × Nat × Word)) : List Red :=
  (List.range (redLines t)).map (fun n =>
    let mine : Tab Word := (vs.filter (fun v => v.1 == n)).map Prod.snd
    let leaves := (List.range (redLen t)).map (fun k => (Tab.find mine k).map (fun w => (⟨w, 1, k⟩ : Leaf)))
    let tree := pairTree (redNode t.redOp) leaves 32
    redResult t.redOp tree)

/-- The code of an identity of MAX or MIN in a format without infinities (R177). -/
def identityCode (f : Nat) (neg : Bool) : Nat := if f = 5 then (if neg then 0xFE else 0x7E) else if neg then 0xF else 0x7

/-- The rounding mode of result n of slot RED_DST: the draw is at row 0, column n (R176). -/
def redMode (e : VEnv) (x : Slot) (n : Nat) : RoundMode :=
  if x.stoch then .stoch (srBits x.tensor 0 n e.task.step e.task.pass) else .nearest

/-- One group of narrow results that shares a scale entry; infinite identities take no part in its scale (R176, R177). -/
def redNarrow (e : VEnv) (x : Slot) (first : Nat) (rs : List Red) : SubOut :=
  let infIdent := fun (r : Red) => r.ident && isInfF r.w
  let o := writeBlock x.r.fmt x.r.block (rs.zipIdx.map (fun rn => (if infIdent rn.1 then Val.zero else f32Val rn.1.w, redMode e x (first + rn.2))))
  let scale := if rs.all infIdent then 0xFE else o.scale
  let codes := (o.codes.zip rs).map (fun cr =>
    if infIdent cr.2 && o.scale != 0xFF then
      (if x.r.fmt = 6 then (if Val.isNeg (f32Val cr.2.w) then 0xFC else 0x7C) else identityCode x.r.fmt (Val.isNeg (f32Val cr.2.w)))
    else cr.1)
  let vals := codes.map (fun c => elemVal x.r.fmt c scale)
  ⟨codeCells x.r.fmt (x.r.addr + first * fmtWidth x.r.fmt / 8) (codes.zip (rs.map (·.poison))),
   [(x.r.sc + first / groupSize x.r.fmt x.r.block, BitVec.ofNat 8 scale, false)], [], [], 0, b2n o.nonfinite,
   rs.any (·.poison) || scale == 0xFF, vals.any isNanV, vals.any isInfV⟩

/-- One plain result: integers and FP32 as they stand, other formats converted; its place in the destination tensor is row 0,
column n (R176, log 152). -/
def redPlain (e : VEnv) (x : Slot) (n : Nat) (r : Red) : PlainCell :=
  let o : OutPlace := ⟨f32Val r.w, redMode e x n, r.poison, if x.r.fmt = 1 then some r.w.toNat else none⟩
  let h := if x.r.fmt = 3 then (let (b, t) := rdByte e.s (x.r.sc + n / 256); if t then 0x80 else b.toNat) else 0
  let (code, tag, ovf, nan) := plainCell x.r.fmt h o
  ⟨x.r.addr + n * (fmtWidth x.r.fmt / 8), 0, n, n / 256, code, tag, ovf, nan⟩

/-- All results into slot RED_DST; NAN and INF speak of the results and of what was written for them (R178). -/
def redOut (e : VEnv) (x : Slot) (rs : List Red) : SubOut :=
  let o := if isNarrow x.r.fmt then
      ((chunksOf (groupSize x.r.fmt x.r.block) rs rs.length).zipIdx).foldl (fun a q =>
        SubOut.merge a (redNarrow e x (q.2 * groupSize x.r.fmt x.r.block) q.1)) SubOut.empty
    else plainOut x.r.fmt x.way x.tensor (rs.zipIdx.map (fun rn => redPlain e x rn.2 rn.1))
  { o with nan := !redInt e.t.redOp && (o.nan || rs.any (Red.isNan e.t.redOp)), inf := !redInt e.t.redOp && (o.inf || rs.any (Red.isInf e.t.redOp)) }

/-! ## A stream -/

/-- Sub-blocks of the walk. -/
def Stream.subs (t : Stream) : Nat := ceilDiv t.rows 32 * ceilDiv t.cols 32

/-- The ranges that slot n names (R163, R167, R176), with the access kind: whatever the program does with the slot. -/
def slotRanges (t : Stream) (n : Nat) (x : Slot) : List (Nat × Nat × Nat) :=
  let kind := fun (k : Nat) (l : List (Nat × Nat)) => l.map (fun r => ((r.1, r.2, k) : Nat × Nat × Nat))
  if n = t.maskSlot || (slotUsed x && x.src == 2) then [(x.r.addr, t.subs * 128, 0)]
  else if !slotUsed x || x.src == 1 then []
  else if t.mode = 2 && n = t.redDst then
    let k := redLines t
    kind 1 ((x.r.addr, ceilDiv (k * fmtWidth x.r.fmt) 8) :: (if groupSize x.r.fmt x.r.block = 0 then [] else [(x.r.sc, ceilDiv k (groupSize x.r.fmt x.r.block))]))
  else
    let rs := regionRanges x.r t.rows t.cols (fun _ _ => true)
    (if x.dir != 2 then kind 0 rs else []) ++ (if isOutDir x then kind 1 rs else [])

/-- Every range that a stream's descriptor names (R73). -/
def streamRanges (t : Stream) : List (Nat × Nat × Nat) :=
  t.slots.zipIdx.flatMap (fun xn => slotRanges t xn.2 xn.1) ++ (if t.histEn then [(t.histAddr, 256, 1)] else [])

/-- The ranges that a stream reads: its mask, and the slots that its program reads. -/
def streamReads (t : Stream) (p : List VInstr) : List (Nat × Nat) :=
  let used := p.flatMap (fun i => if i.op = 0x21 then i.d :: i.uses else i.uses)
  t.slots.zipIdx.flatMap (fun xn => if xn.2 = t.maskSlot || used.contains xn.2 then
    ((slotRanges t xn.2 xn.1).filter (fun r => r.2.2 == 0)).map (fun r => (r.1, r.2.1)) else [])

/-- Whether a task's WR and MADD48 writes are discarded: an update stream of a probe step, whose histogram still counts (R209). -/
def discardsWrites (t : Task) (st : Station) : Bool := t.probe && st.kind == 7

/-- Everything a stream does to the state once it may run. -/
def streamEffect (s : State) (lb c jk : Nat) (x : BCtx) (t : Task) (st : Station) (v : VseCmd) (d : Stream) (p : List VInstr) : State :=
  let e : VEnv := ⟨s, d, x, t, v.scal⟩
  let lanes := (List.range d.subs).map (fun k => (k, runLanes e p (lanesOf s d k)))
  let present := lanes.foldl (fun n kl => n + kl.2.countP Lane.present) 0
  let written := p.filterMap (fun i => if i.writesSlot then some i.d else none)
  let outs := written.filterMap (fun n => (d.slot n).map (fun sl =>
    (n, sl, lanes.foldl (fun o kl => SubOut.merge o (slotOut e n kl.1 sl kl.2)) SubOut.empty)))
  let reds := if d.mode = 2 then redAll d (lanes.flatMap (fun kl => kl.2.filterMap (fun l =>
    if l.present then l.red.map (fun w => ((redPlace d l.i l.j).1, (redPlace d l.i l.j).2, w)) else none))) else []
  let outs := outs ++ (if d.mode = 2 then (match d.slot d.redDst with | some sl => [(d.redDst, sl, redOut e sl reds)] | none => []) else [])
  let hist := lanes.flatMap (fun kl => kl.2.filterMap (fun l => if l.present then l.hist else none))
  let keep := fun (n : Nat) => !discardsWrites t st || (d.mode == 2 && n == d.redDst)
  let s := outs.foldl (fun s o => if keep o.1 then storeOut s jk o.2.1.r.fmt o.2.1.tensor o.2.1.way o.2.2 else s) s
  let s := if d.histEn then wrBytes s d.histAddr ((histCounts hist).flatMap (toLe 4)) false else s
  let all := outs.foldl (fun a o => SubOut.merge a o.2.2) SubOut.empty
  let nf := outs.filter (fun o => o.2.2.nonfinite != 0)
  let s := match nf.head? with
    | some o => raiseBench s lb c t.station 0x0330 [(4, o.2.1.tensor), (2, min all.nonfinite 0xFFFF)]
    | none => s
  let accRead := d.slots.any (fun sl => slotUsed sl && sl.src == 1)
  let flags : StreamFlags := ⟨present, all.ovf, all.nonfinite, accRead, (d.mode != 2 && present == 0) || reds.any (·.ident),
    all.poison, all.nan, all.inf, lanes.any (fun kl => kl.2.any (·.invalid))⟩
  modCtx s lb c (fun x => { x with vseQ := x.vseQ.drop 1, stream := streamWord flags, accLive := x.accLive && !(d.accRelease && accRead) })

/-- A stream whose offset is in order: the checks of R185, then the addresses that its descriptor names (R73), then the
stream; the code's errors in the descriptor's words count at its start, the others once it runs. -/
def startStream (s : State) (lb c jk : Nat) (x : BCtx) (t : Task) (st : Station) (im : Image) (v : VseCmd) (errs : List (Nat × Bool)) : State :=
  let a := windowAddr lb v.off
  let inDesc := fun (e : Nat × Bool) => decide (a ≤ e.1 ∧ e.1 < a + 384)
  let s := checkReads (noteSpdErrs s c t.station (errs.filter inDesc)) jk [(a, 384)]
  let d := readStream s a
  let p := programOf im st d
  if !streamOk d st x.accLive p then taskFault s lb c t.station 0x0340
  else
    match firstViolation (unitCause s (jk / 2)) (streamRanges d) with
    | some (cause, access, addr) => freezeBench s lb c cause access addr
    | none =>
      let s := checkReads (noteSpdErrs s c t.station (errs.filter (fun e => !inDesc e))) jk (streamReads d p)
      streamEffect ((streamReads d p).foldl (fun s r => noteSizes s r.1 r.2) s) lb c jk x t st v d p

/-- VSE_STREAM: the front stream of a context runs from start to completion (R161). A stream that reads the accumulators
waits for older MXE commands (R121). `errs` are scratchpad words in which the code finds an error. -/
def doVseStream (lb c : Nat) (errs : List (Nat × Bool)) (s : State) : State :=
  let x := getCtx s lb c
  match jobOf s lb c, x.running, x.vseQ with
  | some jk, some t, v :: _ =>
    if x.frozen || !present s lb || (getBench s lb).failed then s
    else
      match stationOf s jk t.station, (getJob s jk).image with
      | some st, some im =>
        if v.off % 64 ≠ 0 then taskFault s lb c t.station 0x0340
        else if stationRegion < v.off + 384 then freezeBench s lb c 3 0 ((winBase + lb * winSize + v.off) % 2 ^ 64)
        else if streamReadsAcc s lb v.off && x.mxeQ.any (fun m => decide (m.seq < v.seq)) then s
        else startStream s lb c jk x t st im v errs
      | _, _ => s
  | _, _, _ => s

def execVseStream (lb ctx : Nat) (errs : List (Nat × Bool)) (s : State) : Host.Outcome State Fault Refusal := done (doVseStream lb ctx errs s)

end Sys2Proof.Machine
end

