-- ==== Sys2Proof/Machine/Hauls.lean ====
section
/-! DEFINITION. Haul blocks and hauls (R369 to R375, R385, R387): selection, quantisation, position codes, and the decoding
of what a partner sent. -/

namespace Sys2Proof.Machine

/-! ## Places (R369) -/

def blockCount (t : TensorEnt) : Nat := ceilDiv (subBlocks t) 4
/-- Places of block b. -/
def blockPlaces (t : TensorEnt) (b : Nat) : Nat := 1024 * min 4 (subBlocks t - 4 * b)

/-- Row and column of place n of a shard in its two-dimensional view. -/
def shardPlace (t : TensorEnt) (n : Nat) : Nat × Nat :=
  let w := max 1 (ceilDiv (viewOf t).2 32)
  (n / 1024 / w * 32 + n % 1024 / 32, n / 1024 % w * 32 + n % 32)

/-- Whether a place lies in the view, and is no padding. -/
def placeInView (t : TensorEnt) (n : Nat) : Bool := let p := shardPlace t n; decide (p.1 < (viewOf t).1 ∧ p.2 < (viewOf t).2)

/-- The value of place n of a stored tensor. -/
def placeVal (s : State) (im : Image) (t : TensorEnt) (n : Nat) : Val := let p := shardPlace t n; readVal s (tensorRegion im t) p.1 p.2

/-- The cells of an FP32 or M48 value at place n of a stored tensor; poison sets the line's flag. -/
def placeCells (im : Image) (t : TensorEnt) (n : Nat) (w : Word) : List WCell :=
  let p := shardPlace t n
  let a := (elemAddr (tensorRegion im t) p.1 p.2).1
  if t.format = 2 then cellsOf a (toLe 6 (m48Of (f32Val w))) (isPoisonF w) else cellsOf a (toLe 4 w.toNat) (isPoisonF w)

/-- Write a value at each of some places of a stored tensor, for partition p; whole blocks of compressed pages are coded (R256). -/
def putPlaces (s : State) (p : Nat) (im : Image) (t : TensorEnt) (ns : List Nat) (v : Nat → Word) : State :=
  applyComp s (classOfFormat t.format) (ownCells s p (ns.flatMap (fun n => placeCells im t n (v n))))

/-- The places of a stored shard within its view. -/
def viewPlaces (t : TensorEnt) : List Nat := (List.range (1024 * subBlocks t)).filter (placeInView t)

/-! ## Selection (R370, R371) -/

/-- Threshold bin of a block for k places: the bin and the places above it. -/
def selectBin (counts : List Nat) (k b above : Nat) : Nat × Nat :=
  match b with
  | 0 => (0, above)
  | n + 1 => if k ≤ above + counts.getD (n + 1) 0 then (n + 1, above) else selectBin counts k n (above + counts.getD (n + 1) 0)

/-- Which places of a block are selected. -/
def selectPlaces (frac : Nat) (vs : List Word) : List Bool :=
  if frac = 0 then vs.map (fun _ => true)
  else
    let k := vs.length / 2 ^ (frac + 1)
    let bins := vs.map histBin
    let counts := (List.range 64).map (fun b => bins.countP (fun x => x == b))
    let (t, above) := selectBin counts k 63 0
    if t = 0 then bins.map (fun b => decide (1 ≤ b))
    else (bins.foldl (fun (a : List Bool × Nat) b =>
      if t < b then (true :: a.1, a.2) else if b = t && a.2 < k - above then (true :: a.1, a.2 + 1) else (false :: a.1, a.2)) ([], 0)).1.reverse

/-! ## Position codes (R373) -/

/-- Bits of a bitmap, eight to a byte. -/
def bitmapBytes (sel : List Bool) : List Byte :=
  (chunksOf 8 sel sel.length).map (fun q => BitVec.ofNat 8 (q.zipIdx.foldl (fun n b => n + b2n b.1 * 2 ^ b.2) 0))

/-- Index codes of the selected places. -/
def indexBytes (sel : List Bool) : List Byte :=
  (sel.foldl (fun (a : List Byte × Nat) b =>
    if b then (a.1 ++ (if a.2 < 128 then [BitVec.ofNat 8 a.2] else [BitVec.ofNat 8 (0x80 + a.2 / 256), BitVec.ofNat 8 (a.2 % 256)]), 0)
    else (a.1, a.2 + 1)) ([], 0)).1

/-- Read n index codes: the selected places, and the bytes left; none past the last place. -/
def readIndex (p n next : Nat) (d : List Byte) : Option (List Nat × List Byte) :=
  match n with
  | 0 => some ([], d)
  | k + 1 =>
    match d with
    | [] => none
    | b :: r =>
      let two := 128 ≤ b.toNat
      let (g, r) := if two then ((b.toNat - 128) * 256 + (r.headD 0).toNat, r.drop 1) else (b.toNat, r)
      if (two && d.length < 2) || p ≤ next + g then none
      else (readIndex p k (next + g + 1) r).map (fun x => ((next + g) :: x.1, x.2))

/-! ## Blocks (R372, R374) -/

/-- A formed block: its bytes, the decoded value of each place, and whether it was sent empty by R333. -/
structure HBlock where
  bytes : List Byte
  q : List Word
  empty : Bool
deriving DecidableEq, Repr

def blockHeader (b form flags sel pos : Nat) : List Byte := toLe 2 b ++ toLe 1 form ++ toLe 1 flags ++ toLe 2 sel ++ toLe 2 pos

/-- Pad to a multiple of eight bytes. -/
def pad8 (d : List Byte) : List Byte := padTo 0 (roundUp d.length 8) d

/-- The block that R333 sends: no selected place. -/
def emptyBlock (b : Nat) (vs : List Word) (bad : Bool) : HBlock := ⟨blockHeader b 0 (b2n bad) 0 0, vs.map (fun _ => 0), bad⟩

/-- FP4 groups of 32 of the values, always rounded to nearest: scales and codes (R372). -/
def quantise (vs : List Word) : List BlockOut := (chunksOf 32 vs (vs.length + 1)).map (fun g => writeNarrow 7 (g.map (fun w => (f32Val w, RoundMode.nearest))))

/-- Decoded values of quantised groups. -/
def dequantise (gs : List BlockOut) : List Word := gs.flatMap (fun g => g.codes.map (fun c => toF32 (elemVal 7 c g.scale)))

/-- Spread the decoded values of the selected places over the block, +0 elsewhere. -/
def spreadSel (sel : List Bool) (qs : List Word) : List Word :=
  match sel with
  | [] => []
  | false :: r => 0 :: spreadSel r qs
  | true :: r => qs.headD 0 :: spreadSel r (qs.drop 1)

/-- Whether v holds a NaN, an infinity or poison (R333). -/
def badValues (vs : List Word) : Bool := vs.any (fun w => match f32Val w with | .fin _ _ _ => false | _ => true)

/-- A DIFF block of GNORAM mode (R370 to R374). -/
def formBlock (frac b : Nat) (vs : List Word) : HBlock :=
  if badValues vs then emptyBlock b vs true
  else
    let sel := selectPlaces frac vs
    let chosen := ((vs.zip sel).filter Prod.snd).map Prod.fst
    let gs := quantise chosen
    let body := gs.map (fun g => BitVec.ofNat 8 g.scale) ++ packCodes 7 (gs.flatMap (·.codes))
    let q := spreadSel sel (dequantise gs)
    if frac = 0 then ⟨pad8 (blockHeader b 3 0 chosen.length 0 ++ body), q, false⟩
    else if chosen.isEmpty then emptyBlock b vs false
    else
      let bm := bitmapBytes sel
      let ix := indexBytes sel
      if bm.length ≤ ix.length then ⟨pad8 (blockHeader b 1 0 chosen.length bm.length ++ bm ++ body), q, false⟩
      else ⟨pad8 (blockHeader b 2 0 chosen.length ix.length ++ ix ++ body), q, false⟩

/-- The smallest headroom exponent h with amax ≤ 32,768 × 2^h, clamped; 0 for an all-zero G-block (R353). -/
def denseHexp (vs : List Val) : Nat :=
  if hasNonfinite vs || hasPoison vs then ofInt8 127
  else match amaxVal vs with
    | .fin _ 0 _ => 0
    | .fin _ m e =>
      let f : Int := e + (Nat.log2 m : Nat)
      let h := if m = 2 ^ Nat.log2 m then f - 15 else f - 14
      ofInt8 (max (-127) (min 127 h))
    | _ => 0

/-- A dense G16 block (R353, R364). -/
def denseBlock (b : Nat) (vs : List Word) : HBlock :=
  let gs := (chunksOf 256 vs (vs.length + 1)).map (fun g => (denseHexp (g.map f32Val), g))
  let cs := gs.map (fun hg => hg.2.map (fun w => (writeG16 hg.1 .nearest (f32Val w)).code))
  ⟨pad8 (blockHeader b 4 0 vs.length 0 ++ gs.map (fun hg => BitVec.ofNat 8 hg.1) ++ packCodes 3 (cs.flatMap id)),
   (gs.zip cs).flatMap (fun gc => gc.2.map (fun c => toF32 (elemVal 3 c gc.1.1))), false⟩

/-- A DIFF block by MODE: TM5 sends dense G16. -/
def diffBlock (mode frac b : Nat) (vs : List Word) : HBlock :=
  if mode = 1 then (if badValues vs then emptyBlock b vs true else denseBlock b vs) else formBlock frac b vs

/-- A dense FP32 block of a bootstrap. -/
def fp32Block (b : Nat) (vs : List Word) : List Byte := blockHeader b 5 0 vs.length 0 ++ vs.flatMap (fun w => toLe 4 w.toNat)

/-! ## Hauls (R375) -/

/-- Header and blocks of a haul. -/
def haulBytes (t : TensorEnt) (frac content round epoch nonfinite : Nat) (blocks : List (List Byte)) : List Byte :=
  toLe 2 0x4C48 ++ toLe 1 frac ++ toLe 1 content ++ toLe 4 (blockCount t) ++ toLe 4 (1024 * subBlocks t) ++ toLe 4 round ++ toLe 4 t.id ++ toLe 4 epoch
    ++ toLe 4 nonfinite ++ toLe 4 0 ++ blocks.flatMap id

/-! ## Decoding (R349, R385, R387) -/

/-- Forms that a content allows. -/
def formAllowed (mode frac content form : Nat) : Bool :=
  match content with
  | 0 => if mode = 1 then frac == 0 && (form == 4 || form == 0) else if frac = 0 then form == 0 || form == 3 else decide (frac ≤ 5) && decide (form ≤ 2)
  | 1 => form == 4
  | 2 => form == 5
  | 3 => form == 5
  | _ => false

/-- Values of a block from its scales and codes; a poison scale gives +0 everywhere, and is told. -/
def fp4Values (scales : List Byte) (codes : List Nat) : List Word × Bool :=
  if scales.any (fun b => b == 0xFF) then (codes.map (fun _ => 0), true)
  else (codes.zipIdx.map (fun ci => toF32 (elemVal 7 ci.1 (scales.getD (ci.2 / 32) 0).toNat)), false)

/-- Decode one block at the head of the bytes: values, whether it is poisoned, and the bytes after it. -/
def decodeBlock (mode frac content b p : Nat) (d : List Byte) : Option (List Word × Bool × List Byte) :=
  let form := fieldLe d 2 1
  let sel := fieldLe d 4 2
  let pos := fieldLe d 6 2
  let body := d.drop 8
  let fin := fun (n : Nat) (r : List Word × Bool) => if roundUp (8 + n) 8 ≤ d.length then some (r.1, r.2, d.drop (roundUp (8 + n) 8)) else none
  if d.length < 8 || fieldLe d 0 2 ≠ b || !formAllowed mode frac content form then none
  else
    let sc := ceilDiv sel 32
    let tail := fun (r : List Byte) => fp4Values (r.take sc) (unpackCodes 7 sel ((r.drop sc).take (ceilDiv sel 2)))
    match form with
    | 0 => if sel = 0 && pos = 0 then fin 0 ((List.range p).map (fun _ => 0), false) else none
    | 1 =>
      let bm := (List.range p).map (fun n => bit (body.getD (n / 8) 0).toNat (n % 8))
      if pos ≠ p / 8 || bm.countP id ≠ sel || body.length < pos + sc + ceilDiv sel 2 then none
      else
        let (qs, bad) := tail (body.drop pos)
        fin (pos + sc + ceilDiv sel 2) (spreadSel bm qs, bad)
    | 2 =>
      match readIndex p sel 0 (body.take pos) with
      | some (ns, []) =>
        if body.length < pos + sc + ceilDiv sel 2 then none
        else
          let (qs, bad) := tail (body.drop pos)
          fin (pos + sc + ceilDiv sel 2) (spreadSel ((List.range p).map (fun n => ns.contains n)) qs, bad)
      | _ => none
    | 3 => if pos ≠ 0 || body.length < p / 32 + p / 2 then none
      else fin (p / 32 + p / 2) (fp4Values (body.take (p / 32)) (unpackCodes 7 p ((body.drop (p / 32)).take (p / 2))))
    | 4 =>
      let hs := body.take (p / 256)
      if pos ≠ 0 || body.length < p / 256 + 2 * p then none
      else if hs.any (fun h => h == 0x80) then fin (p / 256 + 2 * p) ((List.range p).map (fun _ => 0), true)
      else fin (p / 256 + 2 * p) ((unpackCodes 3 p ((body.drop (p / 256)).take (2 * p))).zipIdx.map (fun ci =>
        toF32 (elemVal 3 ci.1 (hs.getD (ci.2 / 256) 0).toNat)), false)
    | _ =>
      let vs := (List.range p).map (fun n => (BitVec.ofNat 32 (fieldLe body (4 * n) 4) : Word))
      if pos ≠ 0 || body.length < 4 * p then none
      else if vs.any isPoisonF then fin (4 * p) (vs.map (fun _ => 0), true) else fin (4 * p) (vs, false)

/-- Decode blocks b, b + 1, … to the end. -/
def decodeBlocks (t : TensorEnt) (mode frac content b n : Nat) (d : List Byte) : Option (List (List Word) × Nat × List Byte) :=
  match n with
  | 0 => some ([], 0, d)
  | k + 1 =>
    match decodeBlock mode frac content b (blockPlaces t b) d with
    | none => none
    | some (vs, bad, r) => (decodeBlocks t mode frac content (b + 1) k r).map (fun x => (vs :: x.1, x.2.1 + b2n bad, x.2.2))

/-- The values of every place of a haul, block by block, and its poisoned blocks; none where R385 rejects it. -/
def decodeHaul (t : TensorEnt) (mode content round epoch : Nat) (d : List Byte) : Option (List (List Word) × Nat) :=
  let frac := fieldLe d 2 1
  if d.length < 32 || fieldLe d 0 2 ≠ 0x4C48 || fieldLe d 3 1 ≠ content || fieldLe d 4 4 ≠ blockCount t || fieldLe d 8 4 ≠ 1024 * subBlocks t
      || fieldLe d 0xC 4 ≠ round || fieldLe d 0x10 4 ≠ t.id || (mode ≠ 1 && fieldLe d 0x14 4 ≠ epoch) then none
  else match decodeBlocks t mode frac content 0 (blockCount t) (d.drop 32) with
    | some (vs, bad, []) => some (vs, bad)
    | _ => none

/-- A segment of a haul held in memory, with the poison of R387 put into it: the bytes of every block that holds a
tagged byte carry poison scales; none where a block header is tagged. -/
def poisonBlock (p : Nat) (bs : List (Byte × Bool)) : Option (List Byte) :=
  let d := bs.map Prod.fst
  if !bs.any Prod.snd then some d
  else if (bs.take 8).any Prod.snd then none
  else
    let form := fieldLe d 2 1
    let sel := fieldLe d 4 2
    let pos := fieldLe d 6 2
    some (match form with
      | 1 => putBytes d (8 + pos) (List.replicate (ceilDiv sel 32) 0xFF)
      | 2 => putBytes d (8 + pos) (List.replicate (ceilDiv sel 32) 0xFF)
      | 3 => putBytes d 8 (List.replicate (p / 32) 0xFF)
      | 4 => putBytes d 8 (List.replicate (p / 256) 0x80)
      | 5 => putBytes d 8 ((List.replicate p (0 : Nat)).flatMap (fun _ => toLe 4 0x7F810000))
      | _ => d)

/-- Bytes of one block at the head of haul bytes, by its header. -/
def blockBytes (p : Nat) (d : List Byte) : Nat :=
  let sel := fieldLe d 4 2
  let n := match fieldLe d 2 1 with
    | 0 => 0
    | 1 => fieldLe d 6 2 + ceilDiv sel 32 + ceilDiv sel 2
    | 2 => fieldLe d 6 2 + ceilDiv sel 32 + ceilDiv sel 2
    | 3 => p / 32 + p / 2
    | 4 => p / 256 + 2 * p
    | _ => 4 * p
  roundUp (8 + n) 8

/-- A haul as it is read from ROUND_BUF for sending, with R387 applied; none where a header is poisoned. -/
def sendBlocks (t : TensorEnt) (b n : Nat) (bs : List (Byte × Bool)) : Option (List Byte) :=
  match n with
  | 0 => some []
  | k + 1 =>
    let p := blockPlaces t b
    let w := blockBytes p ((bs.take 8).map Prod.fst)
    match poisonBlock p (bs.take w), sendBlocks t (b + 1) k (bs.drop w) with
    | some d, some r => some (d ++ r)
    | _, _ => none

def readHaul (s : State) (t : TensorEnt) (a len : Nat) : Option (List Byte) :=
  let bs := rdBytes s a len
  if (bs.take 32).any Prod.snd then none
  else (sendBlocks t 0 (blockCount t) (bs.drop 32)).map (fun d => (bs.take 32).map Prod.fst ++ d)

end Sys2Proof.Machine
end

