-- ==== Sys2Proof/Machine/Install.lean ====
section
/-! DEFINITION. What a shard's round holds, sends and installs: a shard's round data and events (R331, R367), hauls in ROUND_BUF and
catch-ups (R346, R353), the round result, the divergence pause, the bootstrap stream and the end of INSTALL (R351, R356, R358, R359). -/

namespace Sys2Proof.Machine

/-! ## A shard of a round -/

/-- Job, shard and partner data that a round's work needs. -/
def roundParts (s : State) (jk r : Nat) : Option (Image × TensorEnt × Nat × Station) :=
  let j := getJob s jk
  match j.image with
  | none => none
  | some im =>
    match masterAt im r with
    | none => none
    | some t => (exchangeOf im 1 t).map (fun ks => (im, t, ks.1, ks.2))

/-- Tensors of a ROUND exchange station: anchor, spoil, split anchor, merge (R331). -/
def xAnchor (im : Image) (st : Station) : Option TensorEnt := tensorOf im (fieldLe st.params 8 4)
def xSpoil (im : Image) (st : Station) : Option TensorEnt := tensorOf im (fieldLe st.params 0xC 4)
def xSplit (im : Image) (st : Station) : Option TensorEnt := tensorOf im (fieldLe st.params 0x10 4)
def xMerge (im : Image) (st : Station) : Option TensorEnt := tensorOf im (fieldLe st.params 0x14 4)
/-- First byte of a shard's ROUND_BUF. -/
def roundBuf (im : Image) (st : Station) : Nat := ((im.buffers[xBuf st]?).map (·.dpa)).getD 0

def lossExp (s : State) (j : Job) (l : Nat) : Nat := if hasLayer l then rdLe s (layerRec j l + 5) 1 else 0
def setRoundState (s : State) (jk r v : Nat) : State := wrLe s (roundShard (getJob s jk) r + 4) 1 v

/-- A round event: the round, the partner site where one is concerned, the shard's coordinates (R367, R392). SOURCE is the MP (DESIGN CHOICE
log 162: no rule names the unit that raises it). -/
def raiseRound (s : State) (jk code round : Nat) (site : Option Nat) (t : Option TensorEnt) : State :=
  raisePart s (some (jk / 2)) code (sourceId s srcMp)
    ((4, round) :: (match site with | some x => [(1, x)] | none => []) ++ (match t with | some t => coordItems t (getJob s jk).cut.epoch | none => []))

/-- HAUL_NONFINITE, once per round per shard (R333, R367, R387). -/
def raiseNonfinite (s : State) (jk r round : Nat) (t : Option TensorEnt) : State :=
  if (getRShard (getJob s jk) r).nonfinite.contains round then s
  else raiseRound (modRShard s jk r (fun x => { x with nonfinite := round :: x.nonfinite.filter (fun n => decide (round < n + 256)) })) jk 0x03A1 round none t

/-- Places of block b of a shard, as shard place numbers. -/
def placesOf (t : TensorEnt) (b : Nat) : List Nat := span (4096 * b) (blockPlaces t b)

/-- Every place value of a stored tensor in a block, as FP32 values of f; padding is +0. -/
def blockVals (t : TensorEnt) (b : Nat) (f : Nat → Word) : List Word := (placesOf t b).map (fun n => if placeInView t n then f n else 0)

/-! ## Hauls held in ROUND_BUF (R346, R353, R375) -/

/-- Ranges of a shard's ROUND_BUF in use. -/
def bufUse (j : Job) (r : Nat) : List (Nat × Nat) := (partnersOf j r).flatMap (fun q => (getHaul j r q.2).sends.map (fun h => (h.off, h.len)))

/-- The lowest free place for n bytes, a multiple of 64 (DESIGN CHOICE log 29). -/
def bufPlace (used : List (Nat × Nat)) (n : Nat) : Nat :=
  let fits := fun (o : Nat) => used.all (fun u => decide (o + n ≤ u.1) || decide (u.1 + u.2 ≤ o))
  let cands := (0 :: used.map (fun u => roundUp (u.1 + u.2) 64)).filter fits
  cands.foldl min (cands.headD 0)

/-- Number that stands for a haul whose first segment has not been sent. -/
def unsent : Nat := 2 ^ 64

def newSend (content round full off len : Nat) : SendHaul :=
  { content := content, round := round, full := full, off := off, len := len, next := 0, seq0 := unsent, acked := [], parity := [] }

/-- Write a haul into ROUND_BUF: its offset. -/
def storeHaul (s : State) (jk r : Nat) (im : Image) (st : Station) (d : List Byte) : State × Nat :=
  let off := bufPlace (bufUse (getJob s jk) r) d.length
  (wrOwn s (jk / 2) (roundBuf im st + off) d false, off)

def queueSend (s : State) (jk r p : Nat) (h : SendHaul) : State := modHaul s jk r p (fun x => { x with sends := x.sends ++ [h] })

/-- Form this site's catch-up for a partner: split anchor less anchor in dense G16; the held hauls it covers are released (R353). -/
def formCatchup (s : State) (jk r p round : Nat) (im : Image) (t : TensorEnt) (st : Station) : State :=
  match xAnchor im st, xSplit im st with
  | some an, some sa =>
    let j := getJob s jk
    let bs := (List.range (blockCount t)).map (fun b =>
      denseBlock b (blockVals t b (fun n => toF32 (Val.sub (placeVal s im sa n) (placeVal s im an n)))))
    let full := rdLe s (roundShard j r + 0xC) 4
    let d := haulBytes t (((shardPolicy j r).map (·.fraction)).getD 0) 1 round j.cut.epoch 0 (bs.map (·.bytes))
    let s := releaseHauls s jk r p (fun h => h.content == 0 && decide (h.round < round))
    let (s, off) := storeHaul s jk r im st d
    let s := queueSend s jk r p (newSend 1 round full off d.length)
    modHaul s jk r p (fun x => { x with own := some (round, (bs.flatMap (·.q)).map (·.toNat), []) })
  | _, _ => s

/-- Form the catch-ups of a shard's CATCHUP contexts that have none yet; TM5 mode exchanges none (R353, R364). -/
def formCatchups (s : State) (jk r round : Nat) (im : Image) (t : TensorEnt) (st : Station) : State :=
  let j := getJob s jk
  if ((shardPolicy j r).map (·.mode)).getD 0 = 1 then s
  else (partnersOf j r).foldl (fun s q =>
    if ctxState s (getJob s jk) r q.2 == 3 && (getHaul (getJob s jk) r q.2).own.isNone then formCatchup s jk r q.2 round im t st else s) s

/-- Whether a CATCHUP context is ready to be merged: the partner's catch-up is complete and the own one acknowledged. -/
def catchupReady (s : State) (j : Job) (r p : Nat) : Bool :=
  ctxState s j r p == 3 && (let f := rdLe s (jobCtx j r p + 1) 1; bit f 2 && bit f 1)

/-! ## Install (R351, R361, R390) -/

/-- Copy a tensor's values to another, place by place. -/
def copyTensor (s : State) (p : Nat) (im : Image) (t src dst : TensorEnt) : State :=
  putPlaces s p im dst (viewPlaces t) (fun n => toF32 (placeVal s im src n))

/-- REFRESH records of the master and working copies at the round's version, to the holders but the standby (R351). -/
def sendResult (s : State) (jk r : Nat) (im : Image) (t : TensorEnt) : State :=
  let j := getJob s jk
  let v := shardVersion s j r
  let sb := shardStandby s j r
  (ackers j).foldl (fun s q => if q = j.policy.replica || q = sb then s
    else (List.range (chunkCount t)).foldl (fun s c => sendParts s jk q im (versionTensors im t) c (mkRec s jk t 8 v c v 0 [])) s) s

/-- The coordinator of a job: the module of stage, rank and sequence 0 in the lowest replica of the set (R324). -/
def coordinatorOf (j : Job) : Nat := (j.replicaMap.getD ((j.members.min?).getD 0) []).getD 0 0xFFFFFFFF
def thisModule (j : Job) : Nat := moduleOf j j.policy.replica

/-- Whether every context that caused a pause has its catch-ups in place, or is FREE (R358). -/
def pauseReady (s : State) (j : Job) (r : Nat) : Bool := (getRShard j r).causes.all (fun p => ctxState s j r p == 0 || catchupReady s j r p)

/-- Resume the shards that are PAUSED, into LOCAL of the next round (R334, R358). -/
def resumeShards (s : State) (jk : Nat) (im : Image) : State :=
  (shardRanks im).foldl (fun s r =>
    let j := getJob s jk
    if roundState s j r = 6 && ownerHere s j r then
      let s := wrLe (setRoundState s jk r 0) (roundShard j r + 8) 4 (roundOf s j r + 1)
      modRShard s jk r (fun x => { x with pause := false, causes := [], ready := false })
    else s) s

/-- A resume of the divergence hold at this module: ROUND_RESUME, and the held step is released (R358). -/
def resumeRound (s : State) (jk : Nat) : State :=
  let j := getJob s jk
  match j.image with
  | none => s
  | some im =>
    let s := resumeShards s jk im
    let s := if j.round.policy.isSome then wrLe s (roundRec j + 4) 1 0 else s
    let s := modRound s jk (fun q => { q with reports := [], pausers := [] })
    let s := raiseRound s jk 0x03A6 (rdLe s (roundRec j) 4) none none
    wakePart (endHold s jk .divergence) (jk / 2)

/-- The coordinator sends the resume notice once every pausing module has reported ready. -/
def tryResume (s : State) (jk : Nat) : State :=
  let j := getJob s jk
  if coordinatorOf j = thisModule j && !j.round.pausers.isEmpty && j.round.pausers.all (fun m => j.round.reports.contains m) then
    resumeRound (notifyAll s jk .resume [1]) jk
  else s

/-- Report ready to the coordinator once every PAUSED shard owned here is ready (R358). -/
def reportReady (s : State) (jk : Nat) : State :=
  let j := getJob s jk
  match j.image with
  | none => s
  | some im =>
    let ps := (shardRanks im).filter (fun r => ownerHere s j r && roundState s j r == 6)
    if ps.isEmpty || !(ps.all (pauseReady s j)) || ps.all (fun r => (getRShard j r).ready) then s
    else
      let s := ps.foldl (fun s r => modRShard s jk r (fun x => { x with ready := true })) s
      let me := thisModule j
      if coordinatorOf j = me then tryResume (modRound s jk (fun q => { q with reports := insertNat q.reports me })) jk
      else sendFrame s .ready (coordinatorOf j) j.tag [me] []

/-- The sponsor's bootstrap stream to a joining site: anchor and outer momentum in FP32 (R359). -/
def startBootstrap (s : State) (jk r p round : Nat) (im : Image) (t : TensorEnt) (st : Station) : State :=
  match xAnchor im st with
  | none => s
  | some an =>
    let mom := (((updateOf im 2 t).map (fun ks => (uStates ks.2).filter (· != an.id))).getD []).filterMap (tensorOf im)
    let j := getJob s jk
    let haul := fun (s : State) (content : Nat) (te : TensorEnt) =>
      haulBytes t 0 content round j.cut.epoch 0 ((List.range (blockCount t)).map (fun b => fp32Block b (blockVals t b (fun n => toF32 (placeVal s im te n)))))
    let s := openCtx s jk r p 4 (rdLe s (roundShard j r + 0x30) 4)
    let put := fun (s : State) (content : Nat) (te : TensorEnt) =>
      let d := haul s content te
      let (s, off) := storeHaul s jk r im st d
      queueSend s jk r p (newSend content round 0 off d.length)
    match mom.head? with
    | some m => put (put s 2 an) 3 m
    | none => put s 2 an

/-- The end of INSTALL: the next round, or PAUSED (R334, R356, R359). -/
def endInstall (s : State) (jk r : Nat) (im : Image) (t : TensorEnt) (st : Station) : State :=
  let j := getJob s jk
  let a := roundShard j r
  let round := roundOf s j r
  let pol := shardPolicy j r
  let s := (partnersOf j r).foldl (fun s q =>
    if bit q.1.flags 2 && bit q.1.flags 1 && q.1.joinRound == round && ctxState s j r q.2 == 0 && !bit ((pol.map (·.flags)).getD 0) 2
    then startBootstrap s jk r q.2 round im t st else s) s
  if (getRShard j r).pause then
    let s := wrLe (setRoundState s jk r 6) (roundRec j + 4) 1 1
    let s := raiseRound s jk 0x03A5 round none (some t)
    let me := thisModule j
    let s := notifyAll s jk .pause [1, me]
    let s := modRound s jk (fun q => { q with pausers := insertNat q.pausers me })
    let s := announceHold s jk .divergence true
    reportReady (formCatchups s jk r (round + 1) im t st) jk
  else wakePart (wrLe (setRoundState s jk r 0) (a + 8) 4 (round + 1)) (jk / 2)

/-- Bytes of the owner's round shard record with the TX_SEQ of each context, as the standby mirrors them. -/
def roundMirror (s : State) (j : Job) (r : Nat) : List Byte :=
  rdData s (roundShard j r) 64 ++ (partnersOf j r).flatMap (fun q => rdData s (jobCtx j r q.2 + 0x18) 8)

/-- Send the standby the round state as REFRESH records at the shard's version (R351 step 1). -/
def sendRoundState (s : State) (jk r : Nat) (im : Image) (t : TensorEnt) : State :=
  let j := getJob s jk
  let v := shardVersion s j r
  let sb := shardStandby s j r
  let s := (List.range (chunkCount t)).foldl (fun s c => sendParts s jk sb im (versionTensors im t ++ roundTensors im t) c (mkRec s jk t 8 v c v 0 [])) s
  sendRec s jk sb (mkRec s jk t 8 v 0xFFFF v 0 (roundMirror s j r))

end Sys2Proof.Machine
end

