-- ==== Sys2Proof/Machine/Holders.lean ====
section
/-! DEFINITION. Holders of a shard: versions and the round boundary (R291 to R293, R330), takeover and new standbys (R302, R303, R361), the
loss of a replica (R300, R304), and old shards of a re-shard (R325, R327). -/

namespace Sys2Proof.Machine

/-! ## Versions (R291 to R293, R330) -/

/-- Whether version v of a shard begins a round whose result the shard awaits. -/
def roundHere (im : Image) (t : TensorEnt) (v : Nat) : Bool :=
  decide (0 < im.sched.roundSteps) && v % im.sched.roundSteps == 0 && (exchangeOf im 1 t).isSome

/-- Policies that wait for no owned shard any more come into force for the job, in the order of acceptance (R339). -/
def settlePolicies (s : State) (jk : Nat) : State :=
  let j := getJob s jk
  let next := j.round.next.map (fun n => (n.1, n.2.filter (ownerHere s j)))
  match (next.filter (fun n => n.2.isEmpty)).getLast?, j.image with
  | some (q, _), some im =>
    let s := match j.round.policy with | some old => moveRounds s old q (held im).length | none => s
    modRound s jk (fun o => { o with policy := some q, next := next.filter (fun n => !n.2.isEmpty) })
  | _, _ => modRound s jk (fun o => { o with next := next })

/-- The latest policy accepted while the job runs takes effect on a shard at its round boundary: a partner that is no longer named or valid
becomes FREE, and one that is valid now ACTIVE (R339, R340); a sponsor's joiner waits for the end of INSTALL of its join round (R359). -/
def takePolicy (s : State) (jk r : Nat) : State :=
  let j := getJob s jk
  match (j.round.next.filter (fun n => n.2.contains r)).getLast? with
  | none => s
  | some (q, _) =>
    let stays := fun (x : Partner × Nat) => match q.partners[x.2]? with | some y => partnerOk y && y.site == x.1.site | none => false
    let s := (partnersOf j r).foldl (fun s x => if stays x then s else freeCtx s jk r x.2) s
    let s := modRound s jk (fun o => { o with next := o.next.map (fun n => (n.1, n.2.filter (· != r))) })
    let inc := rdLe s (roundShard j r + 0x30) 4
    let s := (q.partners.zipIdx).foldl (fun s x =>
      if partnerOk x.1 && ctxState s (getJob s jk) r x.2 == 0 && !(bit x.1.flags 1 && bit x.1.flags 2) then openCtx s jk r x.2 1 inc else s) s
    settlePolicies s jk

/-- The round boundary of an owned shard: at the owner's VERSION (r + 1) × H the ROUND exchange tasks are queued, one a
chunk, with the round's last step as their STEP, and a policy accepted meanwhile takes effect (R330, R332, R339). -/
def startHandoff (s : State) (jk r : Nat) (t : TensorEnt) (im : Image) : State :=
  match exchangeOf im 1 t with
  | none => s
  | some (k, st) =>
    let s := takePolicy s jk r
    let a := roundShard (getJob s jk) r
    let s := wrLe s (a + 4) 1 1
    let s := modRShard s jk r (fun x => { x with formed := [], own := [], merged := [], outer := [], full := false, pause := false,
                                                 causes := [], ready := false,
                                                 lam := if hasLayer t.layer then rdLe s (layerRec (getJob s jk) t.layer + 5) 1 else 0 })
    (List.range (chunkCount t)).foldl (fun s c => chunkTask s jk k t.id (shardVersion s (getJob s jk) r - 1) c (xArg st) 0) s

/-- VERSION of the shard and of its layer's step record follow the chunk versions (R283, R290). -/
def putVersion (s : State) (jk r : Nat) (t : TensorEnt) (im : Image) : State :=
  let j := getJob s jk
  let v := ((List.range (chunkCount t)).map (chunkVersion s j r)).foldl min noStep
  let s := wrLe s (shardAddr j r + 8) 4 v
  if hasLayer t.layer then
    let vs := ((held im).filter (fun tr => tr.1.layer == t.layer)).map (fun tr => shardVersion s j tr.2)
    wrLe s (stepRec j t.layer + 4) 4 (vs.foldl min noStep)
  else s

/-- What follows when a shard's VERSION reaches v: the acknowledgement, the tally of a copy that is v in every chunk, the round boundary at
the owner. -/
def versionReached (s : State) (jk r v : Nat) (t : TensorEnt) (im : Image) : State :=
  let j := getJob s jk
  let s := if ownerHere s j r then s else sendRec s jk (shardOwner s j r) (mkRec s jk t 5 v 0xFFFF v 0 [])
  let sb := shardStandby s j r
  let s := if sb = 0xFFFF || sb = j.policy.replica then s else sendRec s jk sb (mkRec s jk t 5 v 0xFFFF v 0 [])
  let s := checkAcks s jk r
  let round := roundHere im t v
  let whole := (List.range (chunkCount t)).all (fun c => chunkVersion s j r c == v)
  let s := if isTallyVersion j v && !round && whole then takeTally s jk r v else s
  if round && ownerHere s j r && !j.probe.isSome then startHandoff s jk r t im else s

/-- Set a chunk's version, and act on what the shard's VERSION becomes. -/
def setChunkVersion (s : State) (jk r c v : Nat) (t : TensorEnt) (im : Image) : State :=
  let j := getJob s jk
  let old := shardVersion s j r
  let s := wrOwnLe s (jk / 2) (rdLe s (shardAddr j r + 0x10) 8 + 4 * c) 4 v
  let s := putVersion s jk r t im
  let new := shardVersion s j r
  if old < new then versionReached s jk r new t im else s

/-- Send a holder a chunk of the new weights: a VERSION record, and to the standby the STATE record that it also awaits (R292, R293). -/
def sendVersion (s : State) (jk q r : Nat) (im : Image) (t : TensorEnt) (c step v flags : Nat) : State :=
  let s := sendParts s jk q im (versionTensors im t) c (mkRec s jk t 3 step c v flags [])
  if q = shardStandby s (getJob s jk) r then sendParts s jk q im (stateTensors im t) c (mkRec s jk t 4 step c v flags []) else s

/-- The owner's update of a chunk has reached TEND: its version becomes s + 1, VERSION records go to every holder in the
set and STATE to the standby (R292). -/
def updateEnded (s : State) (jk : Nat) (t : Task) : State :=
  let j := getJob s jk
  match j.image, stationOf s jk t.station with
  | some im, some st =>
    match masterNamed im (uMaster st) with
    | some (m, r) =>
      if t.probe then s
      else
        let re := if (getShard s jk r).reapply.contains t.ti then 2 else 0
        let s := j.members.foldl (fun s q => if q = j.policy.replica then s else sendVersion s jk q r im m t.ti t.step (t.step + 1) re) s
        let s := modShard s jk r (fun h => { h with lastSent := some (now s), resent := false, reapply := h.reapply.filter (· != t.ti) })
        setChunkVersion s jk r t.ti (t.step + 1) m im
    | none => s
  | _, _ => s

/-! ## Takeover (R302, R303) -/

/-- The first replica after `from` in ascending order with wrap-around that is in the set and is not `not`. -/
def nextReplica (j : Job) (from' no : Nat) : Option Nat :=
  rotatePick (max 1 j.policy.replicas) (from' + 1) (fun q => (ackers j).contains q && q != no && q != from')

/-- Choose a new standby and send it the master, working copies, optimiser state, commit slots and scales (R302, R303), and of a shard in
outer rounds the round state with the round shard record (log 159). An INSTALL that waited for the former standby goes on: it waits for the
new one, or, where there is none, for no acceptance (R351). -/
def newStandby (s : State) (jk r : Nat) (t : TensorEnt) (no : Nat) : State :=
  let j := getJob s jk
  match j.image, nextReplica j j.policy.replica no with
  | some im, some q =>
    let s := wrLe s (shardAddr j r + 6) 2 q
    let s := sendRefresh s jk r q 2 t
    let s := if inRounds j im t then sendRec s jk q (mkRec s jk t 8 (shardVersion s j r) 0xFFFF (shardVersion s j r) 2 (roundMirror s j r)) else s
    let s := [0, 1].foldl (fun s k =>
      let st := commitStep s j r k
      if st = noStep then s
      else match commitSlot im t k with
        | none => s
        | some (g, a, sc) => (List.range (chunkCount g)).foldl (fun s c =>
            sendRec s jk q (mkRec s jk g 2 st c 0 2 (readSubs s g.format g.block a sc (64 * c) (chunkSubs g c)))) s) s
    let s := sendScale s jk r (shardVersion s j r)
    let s := modShard s jk r (fun h => { h with standbyPending := true })
    checkAcks (raiseShard s jk 0x0387 j.step t [(2, q)]) jk r
  | _, _ =>
    let s := modShard (wrLe s (shardAddr j r + 6) 2 0xFFFF) jk r (fun h => { h with standbyPending := false })
    let s := releaseUpdates (checkAcks s jk r) jk r
    match roundParts s jk r with
    | some (im, t, _, st) => if j.round.policy.isSome && roundState s j r == 5 then endInstall (sendResult s jk r im t) jk r im t st else s
    | none => s

/-- Bytes 0 and 1 of FLAGS: TORN kept, the roles set. -/
def setRoles (s : State) (jk r : Nat) (own stand : Bool) : State :=
  let a := shardAddr (getJob s jk) r + 0xE
  wrLe s a 1 (rdLe s a 1 / 4 * 4 + b2n own + 2 * b2n stand)

/-- Rounds of a shard that a standby takes over (R361): its contexts open at the next incarnation, in TM5 mode with the
mirrored sequence numbers (R390); the round goes on in LOCAL, or is run again from HANDOFF where its result was not installed. Where no round
state was mirrored, VERSION tells the round: at a multiple of H beyond the start, the round that it ends (DEDUCED log 163). -/
def roundTakeOver (s : State) (jk r : Nat) (t : TensorEnt) (im : Image) : State :=
  let j := getJob s jk
  match j.round.policy with
  | none => s
  | some pol =>
    let m := (getRShard j r).mirror
    let h := max 1 im.sched.roundSteps
    let v := shardVersion s j r
    let cur := match m with | some x => x.1 | none => if v % h = 0 && decide (j.start < v) then v / h - 1 else v / h
    let inc := (match m with | some x => x.2.1 | none => 0) + 1
    let a := roundShard j r
    let s := wrLe (wrLe s (a + 4) 1 0) (a + 8) 4 cur
    let s := wrLe (wrLe s (a + 6) 1 (rdLe s (a + 6) 1 / 2 * 2 + 1)) (a + 0x30) 4 inc
    let s := openShardCtxs s jk r inc
    let s := if pol.mode = 1 then
        (partnersOf j r).foldl (fun s q =>
          let v := (match m with | some x => x.2.2 | none => []).getD q.2 0
          let s := wrBytes s (jobCtx j r q.2 + 0x18) (toLe 8 v ++ toLe 8 v) false
          modHaul s jk r q.2 (fun h => { h with anySeq := true })) s
      else s
    if v = (cur + 1) * h then startHandoff s jk r t im
    else if m.isSome && v = cur * h then
      j.members.foldl (fun s q => if q = j.policy.replica then s else
        (List.range (chunkCount t)).foldl (fun s c => sendParts s jk q im (versionTensors im t) c (mkRec s jk t 8 v c v 0 [])) s) s
    else s

/-- The standby takes a shard over from its owner (R302). A chunk still at version s while a slot holds step s is updated
again with REISSUE set, one whose RESULT has yet to land as soon as it does; chunks already at s + 1 are sent on, and their
acknowledgements timed (R300). -/
def takeOver (s : State) (jk r : Nat) (t : TensorEnt) : State :=
  let j := getJob s jk
  match j.image with
  | none => s
  | some im =>
    let former := shardOwner s j r
    let me := j.policy.replica
    let s := wrLe (setRoles s jk r true false) (shardAddr j r + 4) 2 me
    let s := notifyAll s jk .ownerTakeover (t.id :: padTo 0 4 t.shard ++ [former, me])
    let s := raiseShard s jk 0x0386 j.step t [(2, me)]
    let s := bumpStep s jk t.layer 0x28 1
    let held := [commitStep s j r 0, commitStep s j r 1].filter (· != noStep)
    let cs := List.range (chunkCount t)
    let s := modShard s jk r (fun h => { h with
      scaleOk := held.head?, landed := h.landed.filter (fun e => held.contains (chunkVersion s j r e.1)),
      reapply := cs.filter (fun c => held.contains (chunkVersion s j r c)) })
    let sent := cs.filter (fun c => held.any (fun v => chunkVersion s j r c == v + 1))
    let s := if sent.isEmpty then s else modShard s jk r (fun h => { h with lastSent := some (now s), resent := false })
    let s := sent.foldl (fun s c =>
      let v := chunkVersion s j r c
      j.members.foldl (fun s q => if q = me then s else sendVersion s jk q r im t c (v - 1) v 2) s) s
    let s := wrLe s (shardAddr j r + 6) 2 0xFFFF
    let s := releaseUpdates s jk r
    newStandby (roundTakeOver s jk r t im) jk r t former

/-- Where a job keeps what the RESULT headers of a layer bring for a step. -/
def resultKey (l step : Nat) : Nat := l * 2 ^ 32 + step % 2 ^ 32

/-- What the RESULT headers of a layer have brought for a step. -/
def resultOf (j : Job) (l step : Nat) : LayerRes := Tab.get ⟨step, 0, 0, 0xFFFF, 0, []⟩ j.results (resultKey l step)

/-- Whether a commit slot of a shard is held whose update has not completed: the RESULT of some chunk's version is known here, and the chunk
is not at the next version (R304). -/
def updatePending (s : State) (jk r : Nat) (t : TensorEnt) : Bool :=
  let j := getJob s jk
  (List.range (chunkCount t)).any (fun c =>
    let v := chunkVersion s j r c
    let red := if hasLayer t.layer then rdLe s (stepRec j t.layer + 8) 4 else noStep
    commitStep s j r v == v || (resultOf j t.layer v).held.contains (r, c) || (red != noStep && decide (v ≤ red)))

/-- What the loss of a replica does to each shard held here: a takeover by the standby, a new standby by the owner, or
the loss of the shard, where both are lost before the update of a held commit slot completes (R302 to R304). -/
def shardsAfterLoss (s : State) (jk q : Nat) : State :=
  match (getJob s jk).image with
  | none => s
  | some im =>
    (held im).foldl (fun s tr =>
      let j := getJob s jk
      let o := shardOwner s j tr.2
      let sb := shardStandby s j tr.2
      let lost := fun (x : Nat) => j.lostSeen.contains x
      let both := (q == o && (sb == 0xFFFF || lost sb)) || (q == sb && lost o)
      if both then (if j.policy.replicas = 1 || updatePending s jk tr.2 tr.1 then shardLost s jk tr.1 else checkAcks s jk tr.2)
      else if q = o && standbyHere s j tr.2 then takeOver s jk tr.2 tr.1
      else if q = sb && ownerHere s j tr.2 then newStandby s jk tr.2 tr.1 q
      else
        let s := if q = sb then wrLe s (shardAddr j tr.2 + 6) 2 ((nextReplica j o q).getD 0xFFFF) else s
        checkAcks s jk tr.2) s

/-! ## Chunks of old shards in a re-shard (R325, R327) -/

/-- Master, working copies, optimiser state and round state of a shard: what a re-shard carries over (R325, R363). -/
def keptTensors (im : Image) (t : TensorEnt) : List TensorEnt := versionTensors im t ++ stateTensors im t ++ roundTensors im t

/-- Ask for one chunk of an old shard by its old coordinates: the old owner first, then the old standby, then the lowest replica. Where none is
left the shard is lost. -/
def askOld (s : State) (jk ro c : Nat) : State :=
  let j := getJob s jk
  match j.reshard, j.oldImage with
  | some x, some (oi, owners, epoch) =>
    match masterAt oi ro with
    | none => s
    | some t =>
      let o := owners.getD ro (0xFFFF, 0xFFFF)
      let up := fun (q : Nat) => (ackers j).contains q && q != j.policy.replica
      let to' := if up o.1 then some o.1 else if up o.2 then some o.2 else ((ackers j).filter (· != j.policy.replica)).min?
      match to' with
      | none => shardLost s jk t
      | some q => sendRec s jk q { mkRec s jk t 9 x.step c x.step 0 [] with epoch := epoch }
  | _, _ => s

/-- Ask for every chunk that is still to come: after the switch, and again when a replica is lost. -/
def askAllOld (s : State) (jk : Nat) : State :=
  (((getJob s jk).reshard.bind (·.missing)).getD []).foldl (fun s m => askOld s jk m.1 m.2) s

/-! ## Loss of a replica (R300) -/

/-- A replica is to leave the set at step e: the earliest step named and not passed applies; REPLICA_LOST once. -/
def applyLoss (s : State) (jk q e : Nat) : State :=
  let j := getJob s jk
  if !j.members.contains q then s
  else
    let old := j.changes.find? (fun c => c.1 == q && !c.2.1)
    let e := match old with | some o => if j.step < e then min e o.2.2 else o.2.2 | none => e
    let s := modJob s jk (fun j => { j with changes := j.changes.filter (fun c => !(c.1 == q && !c.2.1)) ++ [(q, false, e)] })
    if j.lostSeen.contains q then s
    else
      let s := modJob s jk (fun j => { j with lostSeen := j.lostSeen ++ [q] })
      let s := raisePart s (some (jk / 2)) 0x0384 (sourceId s srcMp) [(4, 0xFFFFFFFF), (4, j.step), (4, 0xFFFFFFFF), (2, 0), (2, 0), (2, 0), (2, 0), (4, j.cut.epoch), (2, q)]
      askAllOld (shardsAfterLoss s jk q) jk

/-- This module declares a replica lost, with effective step the step counter plus 2, and tells every module of the job. -/
def declareLost (s : State) (jk q : Nat) : State :=
  let j := getJob s jk
  if !j.members.contains q || j.lostSeen.contains q then s
  else applyLoss (notifyAll s jk .replicaLost [q, j.step + 2]) jk q (j.step + 2)

end Sys2Proof.Machine
end

