-- ==== Sys2Proof/Machine/Reduce.lean ====
section
/-! DEFINITION. The fixed reduction tree (R273 to R282): nodes, windows, late and folded inputs, the node arithmetic, the
root's result, and the landing of a RESULT (R288, R294). -/

namespace Sys2Proof.Machine

/-! ## The tree (R274) -/

/-- D: levels above the leaves. -/
def treeDepth (r : Nat) : Nat := if r ≤ 1 then 0 else Nat.log2 (r - 1) + 1

/-- The lowest member of a set in the range of node (l, n): the holder that hosts it. -/
def nodeHost (ms : List Nat) (l n : Nat) : Option Nat := (ms.filter (fun q => decide (n * 2 ^ l ≤ q ∧ q < (n + 1) * 2 ^ l))).min?

/-- Children of a node that are expected: 0 and 1, where their range holds a member. The leaf that is a root has itself. -/
def expectedChildren (ms : List Nat) (d : NodeId) : List Nat :=
  if d.level = 0 then [0] else [0, 1].filter (fun c => (nodeHost ms (d.level - 1) (2 * d.node + c)).isSome)

/-- The replica that sends an input of a node: the host of its child. -/
def childHost (ms : List Nat) (d : NodeId) (c : Nat) : Option Nat :=
  if d.level = 0 then ms.min? else nodeHost ms (d.level - 1) (2 * d.node + c)

def RNode.is (nd : RNode) (d : NodeId) (step : Nat) (probe : Bool) : Bool := nd.id == d && nd.step == step && nd.probe == probe

def findNode (j : Job) (d : NodeId) (step : Nat) (probe : Bool) : Option RNode := j.nodes.find? (fun nd => nd.is d step probe)

def newNode (d : NodeId) (step : Nat) (probe : Bool) : RNode :=
  { id := d, step := step, probe := probe, buffered := false, opened := none, inputs := [], folds := [], early := [], forwarded := false, done := false }

/-- Change the chunk of a step at a node, or make it. -/
def modNode (s : State) (jk : Nat) (d : NodeId) (step : Nat) (probe : Bool) (f : RNode → RNode) : State :=
  modJob s jk (fun j =>
    if j.nodes.any (fun nd => nd.is d step probe) then { j with nodes := j.nodes.map (fun nd => if nd.is d step probe then f nd else nd) }
    else { j with nodes := j.nodes ++ [f (newNode d step probe)] })

/-- Gradient tensor of an exchange station of a job. -/
def gradOf (s : State) (jk k : Nat) : Option (Image × Station × TensorEnt) :=
  match (getJob s jk).image, stationOf s jk k with
  | some im, some st => (tensorOf im (xGrad st)).map (fun t => (im, st, t))
  | _, _ => none

/-! ## Inputs (R278 to R281) -/

/-- The end of a node's window (R279); the single leaf of R = 1 has none. -/
def nodeClose (j : Job) (nd : RNode) : Nat := nd.opened.getD 0 + nd.id.level * j.policy.windowNs

/-- Every expected input is present. -/
def nodeFull (j : Job) (nd : RNode) : Bool :=
  (expectedChildren (setFor j nd.step) nd.id).all (fun c => nd.inputs.any (fun i => i.child == c))

/-- Forward once all is present. -/
def tryForward (s : State) (jk : Nat) (d : NodeId) (step : Nat) (probe : Bool) : State :=
  let j := getJob s jk
  modNode s jk d step probe (fun nd => if nd.opened.isSome && !nd.forwarded && nodeFull j nd then { nd with forwarded := true } else nd)

/-- Count a case of R280 in the step record of the gradient's layer. -/
def countCase (s : State) (jk k off : Nat) : State :=
  match gradOf s jk k with
  | some (_, _, t) => bumpStep s jk t.layer off 1
  | none => s

/-- Node buffers of an exchange station: 270,336 B each after the chunk version table (R286). -/
def nodeBuffers (im : Image) (st : Station) : Nat :=
  match im.buffers[xBuf st]?, tensorOf im (xMaster st) with
  | some b, some m => (b.size - roundUp (4 * chunkCount m) 4096) / 270336
  | _, _ => 0

/-- Give the chunk of a step at a node a buffer, where one is free. -/
def grantBuffer (s : State) (jk : Nat) (d : NodeId) (step : Nat) (probe : Bool) : State :=
  let used := (getJob s jk).nodes.countP (fun nd => nd.id.station == d.station && nd.buffered)
  let free := match gradOf s jk d.station with | some (im, st, _) => decide (used < nodeBuffers im st) | none => false
  modNode s jk d step probe (fun nd => { nd with buffered := nd.buffered || free })

/-- Whether a chunk of a step at a node holds a buffer. -/
def hasBuffer (s : State) (jk : Nat) (d : NodeId) (step : Nat) (probe : Bool) : Bool := (findNode (getJob s jk) d step probe).any (·.buffered)

/-- An input waits at the chunk of a step: for its open, or at its sender for a node buffer (R279, R286). -/
def waitInput (s : State) (jk : Nat) (d : NodeId) (step : Nat) (probe : Bool) (i : RInput) : State :=
  grantBuffer (modNode s jk d step probe (fun nd => { nd with early := nd.early ++ [i] })) jk d step probe

/-- A late input (R280): dropped by the first case that applies, or held as a folded input of the next step, which takes a buffer. -/
def lateInput (s : State) (jk : Nat) (d : NodeId) (i : RInput) : State :=
  let ns := (getJob s jk).nodes.filter (fun nd => nd.id == d && nd.opened.isSome && !nd.probe)
  if i.probe then countCase s jk d.station 0x14
  else if ns.any (fun nd => (nd.forwarded && decide (i.step < nd.step)) || decide (i.step + 1 < nd.step)) then countCase s jk d.station 0x18
  else if (getJob s jk).policy.late = 1 then countCase s jk d.station 0x14
  else
    let s := grantBuffer s jk d (i.step + 1) false
    if !hasBuffer s jk d (i.step + 1) false then waitInput s jk d (i.step + 1) false i
    else
      let s := countCase s jk d.station 0x10
      tryForward (modNode s jk d (i.step + 1) false (fun nd => { nd with folds := nd.folds ++ [{ i with folded := true }] })) jk d (i.step + 1) false

/-- Whether this module runs its nodes without the probe flag: a replica that rejoins without owned or standby shards (R572). -/
def rejoins (j : Job) : Bool := j.cold && j.owners.all (fun o => o.1 != j.policy.replica && o.2 != j.policy.replica)

/-- Whether a chunk that opens now is formed as a probe (R280). -/
def formsProbe (j : Job) : Bool := j.probe.isSome && !rejoins j

/-- The chunk of a step that a node has opened: that of the step itself, where it has begun, before its probe. -/
def openChunk (j : Job) (d : NodeId) (step : Nat) : Option RNode :=
  let ns := j.nodes.filter (fun nd => nd.id == d && nd.step == step && nd.opened.isSome)
  match ns.find? (fun nd => !nd.probe) with
  | some nd => some nd
  | none => ns.head?

/-- An input of this epoch reaches its node: it waits, is dropped, is included, or is late (R271, R279, R280). Only the host of a child
whose range holds a member of the step's set sends an input that counts. -/
def addInput (s : State) (jk : Nat) (d : NodeId) (i : RInput) : State :=
  let j := getJob s jk
  let ms := setFor j i.step
  let sent := (expectedChildren ms d).contains i.child && childHost ms d i.child == some i.sender
  match openChunk j d i.step with
  | some nd =>
    if !sent then s
    else if i.probe != nd.probe then
      if nd.probe && !formsProbe j then waitInput s jk d i.step i.probe i
      else
        let s := countCase s jk d.station 0x14
        if nd.probe then countCase s jk d.station 0x20 else s
    else if !nd.forwarded && (d.level = 0 || max i.stamp (nd.opened.getD 0) < nodeClose j nd) then
      if nd.inputs.any (fun x => x.child == i.child) then s
      else if !nd.buffered then waitInput s jk d nd.step nd.probe i
      else tryForward (modNode s jk d nd.step nd.probe (fun nd => { nd with inputs := nd.inputs ++ [i] })) jk d nd.step nd.probe
    else lateInput s jk d i
  | none =>
    if j.nodes.any (fun nd => nd.id == d && nd.opened.isSome && decide (i.step < nd.step)) then (if sent then lateInput s jk d i else s)
    else waitInput s jk d i.step i.probe i

/-- What waits at the chunk of a step at a node comes in, where it has a buffer. -/
def feedEarly (s : State) (jk : Nat) (d : NodeId) (step : Nat) (probe : Bool) : State :=
  match findNode (getJob s jk) d step probe with
  | none => s
  | some nd =>
    if !nd.buffered && !nd.forwarded then s
    else nd.early.foldl (fun s i => addInput s jk d i) (modNode s jk d step probe (fun nd => { nd with early := [] }))

/-- A node buffer of an exchange station has become free: the first open chunk without one takes it, and what waits for it comes in. -/
def passBuffer (s : State) (jk k : Nat) : State :=
  match (getJob s jk).nodes.find? (fun nd => nd.id.station == k && !nd.buffered && !nd.forwarded && (nd.opened.isSome || !nd.early.isEmpty)) with
  | none => s
  | some nd =>
    let s := grantBuffer s jk nd.id nd.step nd.probe
    if nd.opened.isSome then feedEarly s jk nd.id nd.step nd.probe else s

/-- A hosted node opens for a step at the release of the host's exchange task (R279). Chunks that are done and too old to matter to a late
input go. -/
def openNode (s : State) (jk : Nat) (d : NodeId) (step : Nat) : State :=
  let probe := formsProbe (getJob s jk)
  let s := modJob s jk (fun j => { j with nodes := j.nodes.filter (fun nd => !(nd.id == d && nd.done && decide (nd.step + 1 < step))) })
  let s := modNode s jk d step probe (fun nd => { nd with opened := some (now s), inputs := [], forwarded := false, done := false })
  feedEarly (grantBuffer s jk d step probe) jk d step probe

/-- Open every node of a chunk that this module hosts: the leaf itself when R = 1. -/
def openNodes (s : State) (jk k chunk step : Nat) : State :=
  let j := getJob s jk
  let depth := treeDepth j.policy.replicas
  if depth = 0 then openNode s jk ⟨k, chunk, 0, 0⟩ step
  else (span 1 depth).foldl (fun s l =>
    let n := j.policy.replica / 2 ^ l
    if nodeHost (setFor j step) l n = some j.policy.replica then openNode s jk ⟨k, chunk, l, n⟩ step else s) s

/-! ## Contributions (R194, R286) -/

/-- Whether a G16 code is an infinity or a NaN that is not poison. -/
def badG16 (c : Nat) : Bool := match g16Val c with | .nan => true | .inf _ => true | _ => false

/-- The codes of a chunk with overflowed G-blocks as +0, and how many there were (R194). -/
def cleanBlocks (codes : List Nat) : List Nat × Nat :=
  let gs := chunksOf 256 codes (codes.length + 1)
  (gs.flatMap (fun g => if g.any badG16 then g.map (fun _ => 0) else g), gs.countP (fun g => g.any badG16))

/-- G16 codes and headroom exponents of a record's payload (R277, R634). -/
def splitG16 (g : Nat) (d : List Byte) : List Nat × List Nat :=
  (unpackCodes 3 (256 * g) (d.take (512 * g)), (padTo 0 g (d.drop (512 * g))).map (·.toNat))
/-- FP32 codes and headroom exponents. -/
def splitF32 (g : Nat) (d : List Byte) : List Nat × List Nat :=
  (unpackCodes 1 (256 * g) (d.take (1024 * g)), (padTo 0 g (d.drop (1024 * g))).map (·.toNat))

/-- Send an output to its node: into one hosted here, or as a record to its host. -/
def toNode (s : State) (jk : Nat) (d : NodeId) (t : TensorEnt) (i : RInput) (r : Rec) : State :=
  let j := getJob s jk
  match nodeHost (setFor j i.step) d.level d.node with
  | some q => if q = j.policy.replica then addInput s jk d i else sendRec s jk q { r with tensor := t.id }
  | none => s

/-- The exchange task of a chunk has reached TEND: a module in the step's set reads the chunk and contributes it (R271, R286). -/
def contribute (s : State) (jk : Nat) (t : Task) : State :=
  match gradOf s jk t.station with
  | none => s
  | some (im, _, g) =>
    let j := getJob s jk
    let me := j.policy.replica
    if !(setFor j t.step).contains me then s
    else
      let s := noteParts s im [g] t.ti
      let gb := 4 * chunkSubs g t.ti
      let (codes, hexps) := splitG16 gb (readChunk s im g t.ti)
      let (codes, z) := cleanBlocks codes
      let i : RInput := ⟨me % 2, me, t.step, true, t.probe, 1, z, false, now s, codes, hexps⟩
      let r := { mkRec s jk g 0 t.step t.ti 0 (if t.probe then 4 else 0) (packCodes 3 codes ++ hexps.map (BitVec.ofNat 8)) with
        count := 1, zeroed := z, node := me }
      if treeDepth j.policy.replicas = 0 then addInput s jk ⟨t.station, t.ti, 0, 0⟩ { i with child := 0 }
      else toNode s jk ⟨t.station, t.ti, 1, me / 2⟩ g i r

/-- Payload bytes that a record's kind and GBLOCKS call for (R277). -/
def payloadFits (r : Rec) : Bool :=
  match r.kind with
  | 0 => r.data.length == 513 * r.gblocks
  | 1 => r.data.length == 1025 * r.gblocks
  | 2 => r.data.length == 513 * r.gblocks || r.data.isEmpty
  | 7 => r.data.length == 12
  | 3 => true
  | 4 => true
  | 8 => true
  | _ => r.data.isEmpty

/-- A record of a wrong size is discarded and counted in MISSING (R277). -/
def wrongSize (s : State) (jk : Nat) (t : TensorEnt) : State := bumpStep s jk t.layer 0x20 1

/-- The IN_SITE exchange station of the gradient shard that a record of kind 0 to 2 names (R55, R277). -/
def gradNamed (im : Image) (x : Rec) : Option (Nat × Station) :=
  (tensorByCoords im x.tensor x.shard).bind (fun g => findStation im (fun st => st.kind == 6 && xMode st == 0 && (tensorOf im (xGrad st)).any (sameShard g)))

/-- A CONTRIB or PARTIAL record arrives; its stamp is the sender's on the same board, else that of its landing (R278). One of an older epoch
is dropped and counted in the record of its tensor's layer, one of a newer epoch waits for the switch (R280, R326). One of a wrong size is
discarded; the node counts it at its close as an input that never arrived (R277). -/
def reduceInput (s : State) (jk : Nat) (r : Rec) (local' : Bool) : State :=
  let j := getJob s jk
  let r := if local' then r else { r with stamp := now s }
  if j.cut.epoch < r.epoch then modJob s jk (fun j => { j with ahead := j.ahead ++ [r] })
  else if r.epoch < j.cut.epoch then
    let layer := ((j.image.toList ++ (j.oldImage.map Prod.fst).toList).findSome? (fun im => (tensorByCoords im r.tensor r.shard).map (·.layer))).getD noStep
    bumpStep s jk layer 0x1C 1
  else
    match j.image.bind (fun im => gradNamed im r) with
    | none => s
    | some (k, _) =>
      if !payloadFits r then s
      else
        let (codes, hexps) := if r.kind = 0 then splitG16 r.gblocks r.data else splitF32 r.gblocks r.data
        addInput s jk ⟨k, r.chunk, r.level + 1, r.node / 2⟩
          ⟨r.node % 2, r.sender, r.step, r.kind == 0, bit r.flags 2, r.count, r.zeroed, bit r.flags 3, r.stamp, codes, hexps⟩

/-- A record of a job that is not open here has no effect. -/
def withJob (s : State) (tag : Nat) (f : Nat → State) : State :=
  match jobOfTag s tag with
  | some jk => f jk
  | none => s

def execContribReceive (tag : Nat) (r : Rec) (sameBoard : Bool) (s : State) : Host.Outcome State Fault Refusal :=
  done (withJob s tag (fun jk => reduceInput s jk { r with kind := 0, level := 0 } sameBoard))

def execPartialReceive (tag : Nat) (r : Rec) (sameBoard : Bool) (s : State) : Host.Outcome State Fault Refusal :=
  done (withJob s tag (fun jk => reduceInput s jk { r with kind := 1 } sameBoard))

/-- Count a replica's absence at close: MISS_LIMIT steps in a row make it lost (R300). -/
def noteMiss (s : State) (jk q step : Nat) : State :=
  let j := getJob s jk
  let v := Tab.get 0 j.misses q
  let n := if v / 256 = step + 1 then v % 256 else if v / 256 = step then v % 256 + 1 else 1
  let s := modJob s jk (fun j => { j with misses := Tab.set j.misses q ((step + 1) * 256 + min n 255) })
  if j.policy.missLimit ≤ n && q != j.policy.replica then declareLost s jk q else s

/-- The window of a node's oldest chunk not yet forwarded closes: it forwards with the inputs present, and counts those missing, but for a
probe (R209, R279, R280). What still waits at its senders comes late. -/
def doWindowClose (jk : Nat) (d : NodeId) (s : State) : State :=
  let j := getJob s jk
  match j.nodes.find? (fun nd => nd.id == d && nd.opened.isSome && !nd.forwarded && decide (d.level ≠ 0) && decide (nodeClose j nd ≤ now s)) with
  | none => s
  | some nd =>
    let ms := setFor j nd.step
    let absent := (expectedChildren ms d).filter (fun c => !(nd.inputs.any (fun i => i.child == c)))
    let s := modNode s jk d nd.step nd.probe (fun nd => { nd with forwarded := true })
    let s := if nd.probe then s else absent.foldl (fun s c =>
      let s := countCase s jk d.station 0x20
      match childHost ms d c with
      | some q => noteMiss s jk q nd.step
      | none => s) s
    feedEarly s jk d nd.step nd.probe

def execReduceWindowClose (job station chunk level node : Nat) (s : State) : Host.Outcome State Fault Refusal :=
  done (doWindowClose job ⟨station, chunk, level, node⟩ s)

/-! ## Node arithmetic (R275, R276, R282) -/

/-- Element value of place m of an input. -/
def inputVal (i : RInput) (m : Nat) : Val :=
  if i.g16 then elemVal 3 (i.codes.getD m 0) (i.hexps.getD (m / 256) 0) else f32Val (BitVec.ofNat 32 (i.codes.getD m 0))

/-- Inputs that take part: those of COUNT above 0, children in order, then folded inputs by sender. -/
def takingPart (nd : RNode) : List RInput × List RInput :=
  let some' := fun (l : List RInput) => l.filter (fun i => i.count != 0)
  let ins := some' nd.inputs
  (ins.filter (fun i => i.child == 0) ++ ins.filter (fun i => i.child == 1), (some' nd.folds).mergeSort (fun a b => decide (a.sender ≤ b.sender)))

/-- One place of a node: an exact sum of both children rounded once, then each folded input in order. -/
def placeSum (ins folds : List RInput) (m : Nat) : Option Word :=
  let p := match ins with
    | [a, b] => some (toF32 (Val.add (inputVal a m) (inputVal b m)))
    | [a] => some (toF32 (inputVal a m))
    | _ => none
  folds.foldl (fun p f => match p with
    | none => some (toF32 (inputVal f m))
    | some x => some (toF32 (Val.add (f32Val x) (inputVal f m)))) p

/-- The largest headroom exponent that any of the inputs carries for a G-block. -/
def maxHexp (is : List RInput) (g : Nat) : Nat :=
  match is.map (fun i => int8 (i.hexps.getD g 0)) with
  | [] => 0
  | h :: r => ofInt8 (r.foldl max h)

/-- What a node puts out: FP32 places, exponents, count, zeroed blocks, whether a fold took part. -/
structure NodeOut where
  places : List Word
  hexps : List Nat
  count : Nat
  zeroed : Nat
  folded : Bool
deriving DecidableEq, Repr

def nodeArith (nd : RNode) (g : Nat) : NodeOut :=
  let (ins, folds) := takingPart nd
  let all := ins ++ folds
  { places := (List.range (256 * g)).map (fun m => (placeSum ins folds m).getD 0)
    hexps := (List.range g).map (maxHexp all)
    count := all.foldl (fun n i => n + i.count) 0
    zeroed := min 0xFFFFFFFF (all.foldl (fun n i => n + i.zeroed) 0)
    folded := !folds.isEmpty || all.any (·.folded) }

/-- Row and column of place m of chunk c in a tensor's two-dimensional view. -/
def chunkPlace (t : TensorEnt) (c m : Nat) : Nat × Nat :=
  let u := 64 * c + m / 1024
  let w := max 1 (ceilDiv (viewOf t).2 32)
  (u / w * 32 + m % 1024 / 32, u % w * 32 + m % 32)

/-- The reduced gradient of a chunk in G16: the mean of each place, rounded by the tensor's ROUNDING (R276). -/
def rootCodes (t : TensorEnt) (step pass c : Nat) (o : NodeOut) : List Nat :=
  if o.count = 0 then o.places.map (fun _ => 0)
  else
    let n := toF32 (Val.ofNat o.count)
    o.places.zipIdx.map (fun pm =>
      let (row, col) := chunkPlace t c pm.2
      let mode : RoundMode := if t.rounding = 1 then .stoch (srBits t.id row col step pass) else .nearest
      (writeG16 (o.hexps.getD (pm.2 / 256) 0) mode (f32Val (fdiv pm.1 n))).code)

/-! ## RESULT (R276, R283, R288, R294) -/

/-- Chunks of every in-site reduced shard of a layer on this module. -/
def layerChunks (im : Image) (l : Nat) : Nat :=
  ((held im).filter (fun tr => tr.1.layer == l && (exchangeOf im 0 tr.1).isSome)).foldl (fun n tr => n + chunkCount tr.1) 0

/-- Note a RESULT header: Z and T of R199, COUNT_MIN and COUNT_MAX, and REDUCED_STEP once every chunk is held (R283). -/
def noteResult (s : State) (jk rank chunk step count zeroed gblocks : Nat) (t : TensorEnt) : State :=
  let j := getJob s jk
  match j.image with
  | none => s
  | some im =>
    let l := t.layer
    let o := resultOf j l step
    if o.held.contains (rank, chunk) then s
    else
      let o := { o with z := o.z + zeroed, t := o.t + gblocks * count, countMin := min o.countMin count, countMax := max o.countMax count,
                        held := o.held ++ [(rank, chunk)] }
      let s := modJob s jk (fun j => { j with results := Tab.set j.results (resultKey l step) o })
      if hasLayer l && o.held.length = layerChunks im l then
        let a := stepRec j l
        wrBytes s (a + 8) (toLe 4 step ++ toLe 2 o.countMin ++ toLe 2 o.countMax) false
      else s

/-- Whether an owner or standby refuses a RESULT of step s: its slot s mod 2 still holds another step. -/
def slotRefuses (s : State) (j : Job) (r step : Nat) : Bool := let h := commitStep s j r step; h != noStep && h != step

/-- Write a RESULT's payload into its commit slot, and release what it allows. -/
def landResult (s : State) (jk r chunk step : Nat) (m : TensorEnt) (im : Image) (d : List Byte) : State :=
  match commitSlot im m step with
  | none => s
  | some (g, a, sc) =>
    let s := writeSubs s (jk / 2) g.format g.block a sc (64 * chunk) (chunkSubs g chunk) d
    let s := setCommitStep s (getJob s jk) r step step
    let s := modShard s jk r (fun h => { h with landed := Tab.del h.landed chunk ++ [(chunk, now s)] })
    wakePart (releaseUpdates s jk r) (jk / 2)

/-- A RESULT of the in-site reduction reaches this module (R294). Answers whether it was refused. One that brings a new standby a commit slot
carries REAPPLIED and is only stored (R302, log 159). -/
def takeResult (s : State) (jk : Nat) (r : Rec) : State × Bool :=
  let j := getJob s jk
  match j.image with
  | none => (s, false)
  | some im =>
    match gradNamed im r with
    | none => (s, false)
    | some (_, st) =>
      match masterNamed im (xMaster st) with
      | some (m, rank) =>
        if r.epoch != j.cut.epoch then (if j.cut.epoch < r.epoch then modJob s jk (fun j => { j with ahead := j.ahead ++ [r] }) else s, false)
        else if !payloadFits r then (wrongSize s jk m, false)
        else
          let holder := ownerHere s j rank || standbyHere s j rank
          if holder && !r.data.isEmpty && slotRefuses s j rank r.step then (s, true)
          else
            let s := if bit r.flags 1 then s else noteResult s jk rank r.chunk r.step r.count r.zeroed r.gblocks m
            if holder && !r.data.isEmpty then (landResult s jk rank r.chunk r.step m im r.data, false) else (s, false)
      | none => (s, false)

/-- COMMIT_STALL: a refused chunk counts at the root's host; the event comes once per layer and step (R294). -/
def noteStall (s : State) (jk step : Nat) (t : TensorEnt) : State :=
  let s := bumpStep s jk t.layer 0x38 1
  if (getJob s jk).raisedOnce.contains (t.layer, 1, step) then s
  else raiseShard (modJob s jk (fun j => { j with raisedOnce := j.raisedOnce ++ [(t.layer, 1, step)] })) jk 0x0381 step t []

/-- The arithmetic of a node's oldest forwarded chunk has completed: a PARTIAL to its parent, or the root's RESULT to the owner and the
standby, and its header to the other holders in the set. Its buffer is free again. `refusing` names the replicas whose module refuses the
RESULT. -/
def doNodeDone (jk : Nat) (d : NodeId) (refusing : List Nat) (s : State) : State :=
  let j := getJob s jk
  match j.nodes.find? (fun nd => nd.id == d && nd.forwarded && !nd.done), gradOf s jk d.station with
  | some nd, some (im, st, g) =>
    let o := nodeArith nd (4 * chunkSubs g d.chunk)
    let s := modNode s jk d nd.step nd.probe (fun nd => { nd with done := true, buffered := false, inputs := [], folds := [] })
    let fl := (if nd.probe then 4 else 0) + (if o.folded then 8 else 0) + (if o.count = 0 then 1 else 0)
    let head := fun (kind : Nat) (codes : List Byte) =>
      { mkRec s jk g kind nd.step d.chunk 0 fl (codes ++ o.hexps.map (BitVec.ofNat 8)) with
        level := d.level, node := d.node, count := o.count, zeroed := o.zeroed }
    if d.level < treeDepth j.policy.replicas then
      let codes := o.places.map (·.toNat)
      let i : RInput := ⟨d.node % 2, j.policy.replica, nd.step, false, nd.probe, o.count, o.zeroed, o.folded, now s, codes, o.hexps⟩
      passBuffer (toNode s jk ⟨d.station, d.chunk, d.level + 1, d.node / 2⟩ g i (head 1 (packCodes 1 codes))) jk d.station
    else
      match masterNamed im (xMaster st) with
      | some (m, rank) =>
        let r := head 2 (packCodes 3 (rootCodes g nd.step im.sched.passes d.chunk o))
        let s := if o.count = 0 then
            let s := bumpStep s jk g.layer 0x24 1
            if (getJob s jk).raisedOnce.contains (g.layer, 0, nd.step) then s
            else raiseShard (modJob s jk (fun j => { j with raisedOnce := j.raisedOnce ++ [(g.layer, 0, nd.step)] })) jk 0x0380 nd.step m []
          else s
        let ow := shardOwner s j rank
        let sb := shardStandby s j rank
        let s := (setFor j nd.step).foldl (fun s q =>
          let full := q == ow || q == sb
          let r := if full then r else { r with data := [] }
          let hold := fun (s : State) =>
            noteStall (modJob s jk (fun j => { j with heldResults := j.heldResults ++ [⟨q, d.station, recHeader r ++ r.data, now s⟩] })) jk nd.step m
          if q = j.policy.replica then
            match takeResult s jk r with
            | (s, true) => hold s
            | (s, false) => s
          else
            let s := sendRec s jk q r
            if full && refusing.contains q then hold s else s) s
        passBuffer s jk d.station
      | none => passBuffer s jk d.station
  | _, _ => s

def execReduceNodeDone (job station chunk level node : Nat) (refusing : List Nat) (s : State) : Host.Outcome State Fault Refusal :=
  done (doNodeDone job ⟨station, chunk, level, node⟩ refusing s)

/-- A RESULT record from a root on another module; a refusal goes back to the root (R294). -/
def execResultReceive (tag : Nat) (r : Rec) (s : State) : Host.Outcome State Fault Refusal :=
  done (withJob s tag (fun jk =>
    match takeResult s jk { r with kind := 2 } with
    | (s, true) => sendFrame s .refuse (moduleOf (getJob s jk) r.sender) tag [r.tensor, r.chunk, r.step] []
    | (s, false) => s))

/-- The record whose header and payload the bytes hold. -/
def parseRec (b : List Byte) : Rec :=
  { tensor := fieldLe b 0 4, shard := (List.range 4).map (fun k => fieldLe b (4 + 2 * k) 2), epoch := fieldLe b 0xC 4, step := fieldLe b 0x10 4,
    chunk := fieldLe b 0x14 2, kind := fieldLe b 0x16 1, flags := fieldLe b 0x17 1, level := fieldLe b 0x18 1, node := fieldLe b 0x1A 2,
    count := fieldLe b 0x1C 2, sender := fieldLe b 0x1E 2, zeroed := fieldLe b 0x20 4, version := fieldLe b 0x24 4, stamp := fieldLe b 0x28 8,
    tally := fieldLe b 0x30 8, gblocks := fieldLe b 0x3C 2, data := b.drop 64 }

/-- Ten microseconds after its last sending the root sends a refused RESULT again; `refusing` names the replicas that
still refuse it (R294). -/
def doResultResend (jk : Nat) (refusing : List Nat) (s : State) : State :=
  let j := getJob s jk
  let due := j.heldResults.filter (fun h => decide (h.sent + 10000 ≤ now s))
  let s := modJob s jk (fun j => { j with heldResults := j.heldResults.filter (fun h => decide (now s < h.sent + 10000)) })
  due.foldl (fun s h =>
    let r := parseRec h.bytes
    let hold := fun (s : State) => modJob s jk (fun j => { j with heldResults := j.heldResults ++ [{ h with sent := now s }] })
    if h.dst = j.policy.replica then
      match takeResult s jk r with
      | (s, true) => hold s
      | (s, false) => s
    else
      let s := sendRec s jk h.dst r
      if refusing.contains h.dst then hold s else s) s

def execResultResend (job : Nat) (refusing : List Nat) (s : State) : Host.Outcome State Fault Refusal := done (doResultResend job refusing s)

end Sys2Proof.Machine
end

