-- ==== Sys2Proof/Machine/Commit.lean ====
section
/-! DEFINITION. The layer commit (R196 to R203, R207), the cold-scale start and its probes (R208 to R210). -/

namespace Sys2Proof.Machine

/-! ## Layer record fields (R189) -/

/-- Write one byte of a record. -/
def wr1 (s : State) (a v : Nat) : State := wrLe s a 1 v

/-- Raise a numerics event: layer and step, and more (R211). -/
def raiseNum (s : State) (jk code l step : Nat) (more : List (Nat × Nat)) : State :=
  raisePart s (some (jk / 2)) code (sourceId s srcMp) ([(4, l), (4, step)] ++ more)

/-- Add to a 32-bit count of a layer record, which saturates (DESIGN CHOICE, log 154: R189 gives the width and no behaviour at the largest value). -/
def bumpRec (s : State) (a n : Nat) : State := wrLe s a 4 (satAdd 32 (rdLe s a 4) n)

/-- LSCALE, INV_LSCALE, USCALE and INV_USCALE from λ and k (R189, R197). -/
def putScales (s : State) (a : Nat) (lam k : Int) : State :=
  wrBytes s (a + 0x70) ([lam, -lam, k, -k].flatMap (fun e => toLe 4 (toF32 (Val.pow2 e)).toNat)) false

/-- The layers of a catalogue that have a record (R188). -/
def layersOf (im : Image) : List Nat := (im.tensors.map (·.layer)).foldl (fun l x => if hasLayer x then insertNat l x else l) []

/-- A table's base, where every part of the table lies in pages of partition p, and else an address without memory (R3, R188, R283, R290). -/
def tableBase (s : State) (p base : Nat) (parts : List (Nat × Nat)) : Nat :=
  if parts.all (fun r => ownsRange s p (base + r.1) r.2) then base else nowhere

/-- The parts of a table with k bytes for each layer. -/
def layerParts (im : Image) (k : Nat) : List (Nat × Nat) := (layersOf im).map (fun l => (k * l, k))

/-- A round policy with its record bases confined to the partition (R3). -/
def ownPolicy (s : State) (p : Nat) (im : Image) (q : RoundPolicy) : RoundPolicy :=
  { q with roundBase := tableBase s p q.roundBase [(0, 2112)], rshardBase := tableBase s p q.rshardBase [(0, 64 * (masters im).length)] }

/-- The record bases of a job confined to its partition, at a load and at the switch to another image (R3, log 155). -/
def ownTables (s : State) (jk : Nat) : State :=
  match (getJob s jk).image with
  | none => s
  | some im => modJob s jk (fun j => { j with
      numBase := tableBase s (jk / 2) j.numBase (layerParts im 128), stepBase := tableBase s (jk / 2) j.stepBase (layerParts im 64)
      shardBase := tableBase s (jk / 2) j.shardBase [(0, 64 * (masters im).length)]
      round := { j.round with policy := j.round.policy.map (ownPolicy s (jk / 2) im), next := j.round.next.map (fun n => (ownPolicy s (jk / 2) im n.1, n.2)) } })

/-! ## Headroom (R198, R210) -/

/-- One state entry and its headroom exponent by R198: new h, new entry, whether flagged, and the event raised. -/
def headroomStep (h e floor cleanSteps : Nat) : Nat × Nat × Bool × Option Nat :=
  let clean := e % 16384
  if h = 0x80 then (floor, 0, false, some 0x035A)
  else if bit e 15 then
    if int8 h < 127 then (ofInt8 (int8 h + 1), 0, true, none) else (h, 0, true, some 0x0351)
  else if bit e 14 then (h, 0, false, none)
  else if cleanSteps ≤ clean + 1 then (if int8 floor < int8 h then ofInt8 (int8 h - 1) else h, 0, false, none)
  else (h, clean + 1, false, none)

/-- A probe's change of one entry: h rises by 4 where OVF was set; CLEAN stays (R209, R210). -/
def probeStep (h e : Nat) : Nat × Nat × Bool × Option Nat :=
  if bit e 15 then (if h = 0x80 then h else ofInt8 (min 127 (int8 h + 4)), e % 16384, true, none) else (h, e % 16384, false, none)

/-- Apply a rule to every state entry of a tensor; answers the entries flagged. -/
def headroomTensor (s : State) (jk l step : Nat) (im : Image) (t : TensorEnt) (probe : Bool) : State × Nat :=
  let a := layerRec (getJob s jk) l
  let floor := rdLe s (a + 0xE) 1
  let cs := rdLe s (a + 0xC) 2
  (List.range (tensorEntries t)).foldl (fun (acc : State × Nat) g =>
    let ha := tensorScales im t + g
    let ea := tensorStates im t + 2 * g
    let h := rdLe acc.1 ha 1
    let e := rdLe acc.1 ea 2
    let (h', e', fl, ev) := if probe then probeStep h e else headroomStep h e floor cs
    let s := if h' = h then acc.1 else wrOwnLe acc.1 (jk / 2) ha 1 h'
    let s := if e' = e then s else wrOwnLe s (jk / 2) ea 2 e'
    let s := match ev with | some c => raiseNum s jk c l step [(4, t.id), (4, g)] | none => s
    (s, acc.2 + b2n fl)) (s, 0)

/-- Apply it to the listed tensors of the classes that `p` picks. -/
def headroomLayer (s : State) (jk l step : Nat) (im : Image) (probe : Bool) (p : Nat → Bool) : State × Nat :=
  (listedTensors s (getJob s jk) l).foldl (fun (acc : State × Nat) id =>
    match tensorOf im id with
    | none => acc
    | some t => if p t.cls then
        let (s, n) := headroomTensor acc.1 jk l step im t probe
        (s, acc.2 + n) else acc) (s, 0)

/-! ## Histograms (R197, R201, R202) -/

/-- The sum of a layer's histogram areas, bin by bin, at offset 0 (updates) or 256 (masters). -/
def sumHist (s : State) (a off : Nat) : List Nat :=
  let n := rdLe s (a + 0x22) 2
  let base := rdLe s (a + 0x28) 8
  (List.range 64).map (fun b => (List.range n).foldl (fun t k => t + rdLe s (base + 512 * k + off + 4 * b) 4) 0)

def histTotal (h : List Nat) : Nat := h.foldl (· + ·) 0
/-- The smallest bin b with num × cum(b) ≥ den × n. -/
def percentile (h : List Nat) (num den : Nat) : Nat :=
  ((List.range 64).find? (fun b => decide (den * histTotal h ≤ num * histTotal (h.take (b + 1))))).getD 63
def medBin (h : List Nat) : Nat := percentile h 2 1
def topBin (h : List Nat) : Nat := percentile h 1000 999

/-- Zero a layer's histogram areas. -/
def zeroHist (s : State) (jk a : Nat) : State :=
  let n := rdLe s (a + 0x22) 2
  if n = 0 then s else wrOwn s (jk / 2) (rdLe s (a + 0x28) 8) (List.replicate (512 * n) 0) false

/-! ## Rules (R199, R202, R207) -/

def clampInt (v lo hi : Int) : Int := min (max v lo) hi

/-- The loss-scale rule (R199). -/
def lossRule (s : State) (jk l step z t : Nat) : State :=
  let a := layerRec (getJob s jk) l
  let lam := int8 (rdLe s (a + 5) 1)
  let grow := rdLe s (a + 0xA) 2
  let fixed := bit (rdLe s (a + 4) 1) 1
  let s :=
    if fixed then s
    else if t < z * 2 ^ rdLe s (a + 0x11) 1 then
      let s := wr1 s (a + 5) (ofInt8 (max (lam - 1) (int8 (rdLe s (a + 0x13) 1))))
      raiseNum (bumpRec (wrLe s (a + 0xA) 2 0) (a + 0x60) 1) jk 0x0350 l step []
    else if z = 0 then
      if rdLe s (a + 8) 2 ≤ grow + 1 then
        wrLe (wr1 s (a + 5) (ofInt8 (min (lam + 1) (int8 (rdLe s (a + 0x12) 1))))) (a + 0xA) 2 0
      else wrLe s (a + 0xA) 2 (grow + 1)
    else wrLe s (a + 0xA) 2 0
  bumpRec s (a + 0x50) z

/-- Set k, counting a change. -/
def setK (s : State) (a : Nat) (k : Int) : State :=
  let k := clampInt k (-64) 63
  if int8 (rdLe s (a + 6) 1) = k then s else bumpRec (wr1 s (a + 6) (ofInt8 k)) (a + 0x64) 1

/-- UPDATE_NONFINITE: no task of a later step is released, and the job is held (R203). -/
def updateNonfinite (s : State) (jk l step : Nat) : State :=
  let s := modJob (raiseNum s jk 0x0353 l step []) jk (fun j => { j with stopFrom := some (min (step + 1) (j.stopFrom.getD (step + 1))) })
  announceHold s jk .lost false

/-- The update-exponent rule (R202), and UPDATE_NONFINITE (R203). -/
def updRule (s : State) (jk l step : Nat) (h : List Nat) : State :=
  let a := layerRec (getJob s jk) l
  let k := int8 (rdLe s (a + 6) 1)
  let run := rdLe s (a + 0x10) 1
  let s :=
    if bit (rdLe s (a + 4) 1) 2 || histTotal h = 0 then s
    else
      let med := medBin h
      let top := topBin h
      let s :=
        if 52 < top then wr1 (setK s a (k - ((top : Int) - 50))) (a + 0x10) 0
        else if med < 26 && top ≤ 51 then
          if rdLe s (a + 0xF) 1 ≤ run + 1 then wr1 (setK s a (k + 1)) (a + 0x10) 0 else wr1 s (a + 0x10) (run + 1)
        else wr1 s (a + 0x10) 0
      if 26 < top - med then raiseNum s jk 0x0352 l step [] else s
  if h.getD 63 0 ≠ 0 then updateNonfinite s jk l step else s

/-- A probe's whole correction of k at once (R210). -/
def probeK (s : State) (jk l : Nat) (h : List Nat) : State :=
  let a := layerRec (getJob s jk) l
  let k := int8 (rdLe s (a + 6) 1)
  if histTotal h = 0 || bit (rdLe s (a + 4) 1) 2 then s
  else
    let med : Int := medBin h
    let top : Int := topBin h
    if 52 < top then setK s a (k - (top - 50)) else if med < 26 then setK s a (k + min (26 - med) (52 - top)) else s

/-- The ratio watcher (R207), with the k that step used. -/
def ratioRule (s : State) (jk l step : Nat) (k : Int) (hu hw : List Nat) : State :=
  let a := layerRec (getJob s jk) l
  if !bit (rdLe s (a + 4) 1) 4 || step % 2 ^ rdLe s (a + 0x15) 1 != 0 || histTotal hu == 0 || histTotal hw == 0 then s
  else
    let ratio : Int := (medBin hu : Int) - k - (medBin hw : Int)
    let s := wr1 s (a + 0x6C) (ofInt8 (clampInt ratio (-128) 127))
    let hi := int8 (rdLe s (a + 0x16) 1)
    let lo := int8 (rdLe s (a + 0x17) 1)
    let st := rdLe s (a + 0x21) 1
    let high := bit st 1
    let low := bit st 0
    let s := if hi < ratio && !high then raiseNum s jk 0x0356 l step [] else s
    let high' := if hi < ratio then true else if ratio ≤ hi - 1 then false else high
    let s := if ratio < lo && !low then raiseNum s jk 0x0357 l step [] else s
    let low' := if ratio < lo then true else if lo + 1 ≤ ratio then false else low
    wr1 s (a + 0x21) (st / 4 * 4 + b2n high' * 2 + b2n low')

/-! ## Probes (R208 to R210) -/

/-- Begin a cold-scale start: λ 12 within its bounds, k at K_INIT, probes set up, headroom back to H_FLOOR (R208). -/
def coldScale (s : State) (jk : Nat) : State :=
  match (getJob s jk).image with
  | none => s
  | some im =>
    let s := (layersOf im).foldl (fun s l =>
      let a := layerRec (getJob s jk) l
      let lam := clampInt 12 (int8 (rdLe s (a + 0x13) 1)) (int8 (rdLe s (a + 0x12) 1))
      let k := int8 (rdLe s (a + 0x6D) 1)
      let s := wr1 (wr1 s (a + 5) (ofInt8 lam)) (a + 6) (ofInt8 k)
      let s := wr1 (wrLe (wr1 s (a + 0x10) 0) (a + 0xA) 2 0) (a + 7) 1
      let s := putScales s a lam k
      let s := (listedTensors s (getJob s jk) l).foldl (fun s id =>
        match tensorOf im id with
        | none => s
        | some t =>
          let n := tensorEntries t
          let s := wrOwn s (jk / 2) (tensorScales im t) (List.replicate n (BitVec.ofNat 8 (rdLe s (a + 0xE) 1))) false
          wrOwn s (jk / 2) (tensorStates im t) (List.replicate (2 * n) 0) false) s
      raiseNum s jk 0x0358 l (getJob s jk).step []) s
    modJob s jk (fun j => { j with probe := if (layersOf im).isEmpty then none else some 0, probeSeen := ([], false) })

/-- Set a step back to its beginning, for the repeat after a probe: its task numbers, station releases, chains, results
and commit slots start again. -/
def restartStep (s : State) (jk : Nat) : State :=
  let j := getJob s jk
  let s := modJob s jk (fun j => { j with
    pass := 0, taskSeq := j.taskSeq.filter (fun e => e.1 / 256 != j.step), released := List.map (fun (e : Nat × Nat) => (e.1, min e.2 j.step)) j.released,
    passEnd := List.map (fun (e : Nat × Nat) => (e.1, if e.2 / 65536 = j.step then 0 else e.2)) j.passEnd,
    chains := j.chains.filter (fun c => c.step != j.step), results := j.results.filter (fun e => e.2.step != j.step),
    partials := j.partials.filter (fun p => p.key.1 != j.step), shards := List.map (fun (e : Nat × ShardSt) => (e.1, { e.2 with landed := [] })) j.shards,
    raisedOnce := j.raisedOnce.filter (fun x => x.2.2 != j.step) })
  match j.image with
  | none => s
  | some im => (shardRanks im).foldl (fun s r => [0, 1].foldl (fun s q => if commitStep s j r q = j.step then setCommitStep s j r q noStep else s) s) s

/-- Deal the feed tasks that a probe kept, once more (R209). -/
def reissueFeeds (s : State) (jk : Nat) : State :=
  let ts := (getJob s jk).probeFeeds
  let p := (getJob s jk).probe.isSome
  ts.foldl (fun s t => dealTask s jk { reissued t with probe := p }) (modJob s jk (fun j => { j with probeFeeds := [] }))

/-- All layers have committed a probe: it repeats while an entry had OVF set, up to four in all; then step s runs (R210). -/
def probeEnd (s : State) (jk : Nat) (im : Image) : State :=
  let j := getJob s jk
  let n := j.probe.getD 0 + 1
  let again := j.probeSeen.2 && decide (n < 4)
  let s := if again then s else (layersOf im).foldl (fun s l => wr1 s (layerRec (getJob s jk) l + 7) 0) s
  let s := if !again && j.probeSeen.2 then raiseNum s jk 0x0359 ((layersOf im).headD 0) j.step [] else s
  let s := modJob s jk (fun j => { j with probe := if again then some n else none, probeSeen := ([], false) })
  wakePart (reissueFeeds (restartStep s jk) jk) (jk / 2)

/-! ## The commit (R196, R197) -/

/-- Every queued, waiting or running task of a job. -/
def jobTasks (s : State) (jk : Nat) : List Task :=
  (getJob s jk).waitingTasks.map Prod.fst ++ s.benches.flatMap (fun e =>
    if jobOf s e.1 (jk % 2) == some jk then let x := e.2.ctx (jk % 2); x.queue ++ x.running.toList else [])

/-- Conveyors into a station. -/
def inConvs (im : Image) (k : Nat) : List Nat := (im.conveyors.zipIdx.filter (fun dq => dq.1.consumer == k)).map Prod.snd

/-- A station and the local stations whose tiles reach it, of no later phase. -/
def upstream (im : Image) (ks : List Nat) (fuel : Nat) : List Nat :=
  match fuel with
  | 0 => ks
  | f + 1 =>
    let more := ks.flatMap (fun k => (inConvs im k).filterMap (fun q => (im.conveyors[q]?).bind (fun d =>
      match im.stations[k]?, im.stations[d.producer]? with
      | some st, some sp => if sp.phase ≤ st.phase then some d.producer else none
      | _, _ => none)))
    let new := (more.filter (fun k => !ks.contains k)).eraseDups
    if new.isEmpty then ks else upstream im (ks ++ new) f

/-- Whether a station is quiet for a step: its passes or its release have come, and no task or open tile of it remains. -/
def stationQuiet (s : State) (jk k : Nat) (im : Image) (st : Station) (step passes : Nat) : Bool :=
  let j := getJob s jk
  (if st.phase = 0 then decide (step * 65536 + passes ≤ Tab.get 0 j.passEnd k) else decide (step < Tab.get 0 j.released k))
    && !((jobTasks s jk).any (fun t => t.station == k && t.step == step))
    && (j.rowTasks.all (fun t => t.station != k || t.step != step))
    && ((inConvs im k).all (fun q => (getConv s jk q).slots.all (fun x => x.joined || x.landed)
          && (readyTiles s jk q).all (fun x => x.2.2.step != step)))

/-- Whether a station's work of a step is over (R196): it and every station upstream of it are quiet (DESIGN CHOICE log 31). -/
def stationOver (s : State) (jk k : Nat) (_st : Station) (step passes : Nat) : Bool :=
  match (getJob s jk).image with
  | none => false
  | some im => (upstream im [k] 256).all (fun q => match im.stations[q]? with | some sq => stationQuiet s jk q im sq step passes | none => true)

/-- Whether every update of step s owned here for a layer's STEP update stations has reached TEND (R196). -/
def updatesOver (s : State) (jk l step : Nat) (im : Image) (probe : Bool) : Bool :=
  let j := getJob s jk
  im.stations.all (fun st =>
    st.kind != 7 || st.phase != 1 || st.layer != l ||
      (match masterNamed im (uMaster st) with
       | some (t, r) => !ownerHere s j r || (if probe then (getShard s jk r).landed.isEmpty && decide (0 < (resultOf j l step).held.length)
           else (List.range (chunkCount t)).all (fun c => decide (step + 1 ≤ chunkVersion s j r c)))
       | none => true))

/-- Whether the commit of layer l may run, and the step that it commits. -/
def commitStepOf (s : State) (jk l : Nat) : Option Nat :=
  let j := getJob s jk
  match j.image with
  | none => none
  | some im =>
    let a := layerRec j l
    let step := if j.probe.isSome then j.step else (rdLe s (a + 0x24) 4 + 1) % 2 ^ 32
    let seen := j.probe.isSome && j.probeSeen.1.contains l
    let passes := if j.probe.isSome then 1 else im.sched.passes
    if j.phase = .running && (layersOf im).contains l && decide (step ≤ j.step) && j.stepOpen && !seen
        && ((im.stations.zipIdx).all (fun sk => sk.1.layer != l || sk.1.kind == 7 || (sk.1.kind == 6 && xMode sk.1 == 1) || stationOver s jk sk.2 sk.1 step passes))
        && updatesOver s jk l step im j.probe.isSome
        && (!reducesLayer im l || !holdsLayer im l || (resultOf j l step).held.length == layerChunks im l)
    then some step else none

/-- The scales of a layer go into the shard records it owns, and to their standbys (R290, R292). -/
def copyScales (s : State) (jk l next : Nat) (im : Image) : State :=
  let a := layerRec (getJob s jk) l
  (held im).foldl (fun s tr =>
    let j := getJob s jk
    if tr.1.layer == l && ownerHere s j tr.2 then
      let sa := shardAddr j tr.2
      sendScale (wrBytes s (sa + 0x2C) (rdData s (a + 0x78) 8 ++ rdData s (a + 0x74) 4) false) jk tr.2 next
    else s) s

/-- The commit of layer l (R197), or of its probe (R210). -/
def doLayerCommit (jk l : Nat) (s : State) : State :=
  match commitStepOf s jk l, (getJob s jk).image with
  | some step, some im =>
    let j := getJob s jk
    let a := layerRec j l
    let hu := sumHist s a 0
    let hw := sumHist s a 256
    if j.probe.isSome then
      let (s, n) := headroomLayer s jk l step im true (fun c => c == 0 || c == 1)
      let s := bumpRec (probeK s jk l hu) (a + 0x68) 1
      let s := zeroHist (putScales s a (int8 (rdLe s (a + 5) 1)) (int8 (rdLe s (a + 6) 1))) jk a
      let s := copyScales s jk l step im
      let s := modJob s jk (fun j => { j with probeSeen := (j.probeSeen.1 ++ [l], j.probeSeen.2 || decide (0 < n)) })
      if (layersOf im).all (fun x => (getJob s jk).probeSeen.1.contains x) then probeEnd s jk im else s
    else
      let (s, n) := headroomLayer s jk l step im false (fun c => c == 0 || c == 1)
      let s := bumpRec s (a + 0x54) n
      let res := resultOf j l step
      let zt := if reducesLayer im l then (res.z, res.t) else (0, 0)
      let k := int8 (rdLe s (a + 6) 1)
      let s := lossRule s jk l step zt.1 zt.2
      let s := updRule s jk l step hu
      let s := ratioRule s jk l step k hu hw
      let s := putScales s a (int8 (rdLe s (a + 5) 1)) (int8 (rdLe s (a + 6) 1))
      let s := zeroHist (wrLe s (a + 0x24) 4 step) jk a
      let s := modJob s jk (fun j => { j with results := j.results.filter (fun e => e.1 / 2 ^ 32 != l || decide (step < e.2.step)) })
      wakePart (copyScales s jk l (step + 1) im) (jk / 2)
  | _, _ => s

end Sys2Proof.Machine
end

