-- ==== Sys2Proof/Machine/Reshard.lean ====
section
/-! DEFINITION. Shard records and round shard records at their setting up (R290, R335, R365), what the module has still to do
of the steps before a boundary (R324, R560), and the re-shard: draining, the switch, the building of new shards (R323 to R327,
R363). -/

namespace Sys2Proof.Machine

/-! ## Setting up records -/

/-- The chunk version table of a master shard: the start of its exchange station's REDUCE_BUF (R286, R290). -/
def vtabOf (im : Image) (t : TensorEnt) : Nat :=
  match exchangeOf im 0 t with
  | some (_, st) => ((im.buffers[xBuf st]?).map (·.dpa)).getD nowhere
  | none => nowhere

/-- Write a shard record and its chunk version table (R290, R291). A shard of no layer holds 1.0 in its scales. -/
def initShard (s : State) (jk r : Nat) (im : Image) (t : TensorEnt) (version owner standby : Nat) : State :=
  let j := getJob s jk
  let me := j.policy.replica
  let one := toLe 4 oneF32.toNat
  let scales := if hasLayer t.layer then rdData s (layerRec j t.layer + 0x78) 8 ++ rdData s (layerRec j t.layer + 0x74) 4 else one ++ one ++ one
  let s := wrBytes s (shardAddr j r) (toLe 4 t.id ++ toLe 2 owner ++ toLe 2 standby ++ toLe 4 version ++ toLe 2 (chunkCount t)
    ++ toLe 1 (b2n (owner == me) + 2 * b2n (standby == me)) ++ [0] ++ toLe 8 (vtabOf im t) ++ toLe 4 noStep ++ toLe 4 noStep ++ toLe 8 0 ++ toLe 4 version
    ++ scales ++ toLe 2 0 ++ List.replicate 6 0) false
  wrOwn s (jk / 2) (vtabOf im t) ((List.range (chunkCount t)).flatMap (fun _ => toLe 4 version)) false

/-- Write a round shard record in LOCAL of a round (R334, R335, R365). -/
def initRoundShard (s : State) (jk r round full : Nat) (t : TensorEnt) : State :=
  let j := getJob s jk
  let own := ownerHere s j r
  let lam := if hasLayer t.layer then rdLe s (layerRec j t.layer + 5) 1 else 0
  let s := wrBytes s (roundShard j r) (toLe 4 t.id ++ toLe 1 0 ++ toLe 1 lam ++ toLe 1 (b2n own) ++ [0] ++ toLe 4 round ++ toLe 4 full ++ List.replicate 48 0) false
  modRShard s jk r (fun _ => { RoundShard.reset with installed := round })

/-! ## What is left of the steps before a boundary -/

/-- Every station's work of step e − 1 is over, and no task of an earlier step is left (R324, R560). -/
def tasksBefore (s : State) (jk e : Nat) : Bool :=
  let j := getJob s jk
  match j.image with
  | none => true
  | some im =>
    decide (e ≤ j.start) ||
      (!((jobTasks s jk).any (fun t => decide (t.step < e))) && j.rowTasks.all (fun t => decide (e ≤ t.step))
        && ((im.stations.zipIdx).all (fun sk => sk.1.kind == 7 || (sk.1.kind == 6 && xMode sk.1 == 1) || sk.1.phase == 2 || stationOver s jk sk.2 sk.1 (e - 1) im.sched.passes)))

/-- Every node hosted here has forwarded its chunks of the steps before e. -/
def nodesBefore (j : Job) (e : Nat) : Bool := j.nodes.all (fun n => n.opened.isNone || n.done || decide (e ≤ n.step))

/-- Every held shard with an update station has VERSION e, and no commit slot of a step before e is held here. -/
def versionsAt (s : State) (jk e : Nat) : Bool :=
  let j := getJob s jk
  match j.image with
  | none => true
  | some im => (held im).all (fun tr => (updateOf im 1 tr.1).isNone ||
      (shardVersion s j tr.2 == e && [0, 1].all (fun q => let c := commitStep s j tr.2 q; c == noStep || decide (e ≤ c))))

def drainedBefore (s : State) (jk e : Nat) : Bool := tasksBefore s jk e && nodesBefore (getJob s jk) e && versionsAt s jk e

/-- Where a boundary ends a round, the hand-off of every owned shard is complete (R324). -/
def handoffsDone (s : State) (jk e : Nat) : Bool :=
  let j := getJob s jk
  match j.image with
  | none => true
  | some im =>
    let h := im.sched.roundSteps
    h == 0 || e % h != 0 || e ≤ j.start || j.round.policy.isNone ||
      (held im).all (fun tr => (exchangeOf im 1 tr.1).isNone || !ownerHere s j tr.2 ||
        (decide (2 ≤ roundState s j tr.2) || roundOf s j tr.2 == e / h))

/-- Every round shard record of an owned shard is LOCAL of the round that step e begins or goes on with, or PAUSED. -/
def roundsQuiet (s : State) (jk e : Nat) : Bool :=
  let j := getJob s jk
  match j.image with
  | none => true
  | some im =>
    let h := im.sched.roundSteps
    h == 0 || j.round.policy.isNone || (held im).all (fun tr => (exchangeOf im 1 tr.1).isNone || !ownerHere s j tr.2 ||
      roundState s j tr.2 == 6 || (roundState s j tr.2 == 0 && roundOf s j tr.2 == e / h))

/-- The snapshot point of R560 at the boundary into step e, its re-shard and probe conditions included. -/
def snapshotPoint (s : State) (jk e : Nat) : Bool :=
  let j := getJob s jk
  drainedBefore s jk e && roundsQuiet s jk e && j.probe.isNone && j.reshard.isNone
    && (match j.image with | none => true | some im => (layersOf im).all (fun l => decide (e ≤ j.start) || commitDone s j l e))

/-! ## The re-shard -/

/-- The replicas whose DRAINED a re-shard at step e awaits: those in the set at e, but for any declared lost meanwhile, whose removal no step
boundary before the switch could bring (R325, R327; DEDUCED, log 160). -/
def drainSet (j : Job) (e : Nat) : List Nat := (membersAt j e).filter (fun q => !j.lostSeen.contains q)

/-- The coordinator of a re-shard at step e, or the module that would be it without the replicas lost (R324, R327). -/
def coordinatorAt (j : Job) (e : Nat) : Nat := (j.replicaMap.getD (((drainSet j e).min?).getD 0) []).getD 0 0xFFFFFFFF

/-- Modules of a replica, by index. -/
def modulesOf (j : Job) (rep : Nat) : List Nat := (List.range 8).filter (fun k => (j.replicaMap.getD rep []).getD k 0xFFFFFFFF != 0xFFFFFFFF)

/-! ### Where the places of a new shard come from (R325) -/

/-- The position of SHARD that tells the row shards of a tensor apart: the first in which held entries of its ID differ (log 161). -/
def rowPos (im : Image) (t : TensorEnt) : Nat :=
  let at' := fun (u : TensorEnt) (k : Nat) => (padTo 0 4 u.shard).getD k 0
  ((List.range 4).find? (fun k => (held im).any (fun u => u.1.id == t.id && at' u.1 k != at' t k))).getD 0

/-- The first row of a shard in its tensor: the rows of the held shards of lower index, or, where some of these are not held, that many times
its own rows. -/
def rowStart (im : Image) (t : TensorEnt) : Nat :=
  let k := rowPos im t
  let idx := fun (u : TensorEnt) => (padTo 0 4 u.shard).getD k 0
  let lower := (held im).filter (fun u => u.1.id == t.id && decide (idx u.1 < idx t))
  if lower.length = idx t then lower.foldl (fun n u => n + (viewOf u.1).1) 0 else idx t * (viewOf t).1

/-- An old shard of the same coordinates and shape is the new shard. -/
def sameOld (oi : Image) (t : TensorEnt) : Option (TensorEnt × Nat) :=
  (masterOf oi t.id t.shard).bind (fun o => if viewOf o.1 = viewOf t then some o else none)

/-- The old shard, its rank and its row that held a row of a new shard. -/
def oldRow (oi ni : Image) (t : TensorEnt) (row : Nat) : Option (TensorEnt × Nat × Nat) :=
  match sameOld oi t with
  | some (o, ro) => some (o, ro, row)
  | none =>
    let g := rowStart ni t + row
    ((held oi).find? (fun o => o.1.id == t.id && (viewOf o.1).2 == (viewOf t).2
      && decide (rowStart oi o.1 ≤ g) && decide (g < rowStart oi o.1 + (viewOf o.1).1))).map (fun o => (o.1, o.2, g - rowStart oi o.1))

/-- The old shards that rows of a new shard come from, by rank; none where some row has none. -/
def oldRanks (oi ni : Image) (t : TensorEnt) : Option (List Nat) :=
  let rs := (List.range (viewOf t).1).map (oldRow oi ni t)
  if rs.all (·.isSome) then some ((rs.filterMap (fun r => r.map (fun x => x.2.1))).eraseDups) else none

/-- The tensors whose places move: all that are kept, or, where the shard itself is another, all but the working copies, which follow from
the master (R204). -/
def movedTensors (im : Image) (t : TensorEnt) (same : Bool) : List TensorEnt := (keptTensors im t).filter (fun w => same || w.cls != 3)

/-- Element codes and scale bytes of one sub-block in a payload of chunk c of a tensor. -/
def subOf (t : TensorEnt) (c u : Nat) (d : List Byte) : List Nat × List Byte :=
  let bs := subBlockBytes t.format
  let per := scalesPerSub t.format t.block
  let k := u - 64 * c
  (unpackCodes t.format 1024 ((d.drop (k * bs)).take bs), (d.drop (chunkSubs t c * bs + k * per)).take per)

/-- Put into chunk c of a tensor what `src` gives for a row: a sub-block, as its element codes and scale bytes, and the place's row in the old
tensor. Places for which it gives none stay as they are; the scales of a sub-block are those of its first place. -/
def mergeChunk (s : State) (p : Nat) (im : Image) (t : TensorEnt) (c : Nat) (src : Nat → Nat → Option (List Nat × List Byte × Nat)) : State :=
  let n := chunkSubs t c
  let d := readChunk s im t c
  let bs := subBlockBytes t.format
  let per := scalesPerSub t.format t.block
  let codes := (unpackCodes t.format (1024 * n) (d.take (n * bs))).zipIdx.map (fun cm =>
    let (row, col) := chunkPlace t c cm.2
    if (viewOf t).1 ≤ row || (viewOf t).2 ≤ col then cm.1
    else match src row col with
      | some (cs, _, r) => cs.getD (r % 32 * 32 + col % 32) cm.1
      | none => cm.1)
  let scales := (List.range n).flatMap (fun k =>
    let (row, col) := chunkPlace t c (1024 * k)
    match src row col with
    | some (_, sc, _) => sc
    | none => (d.drop (n * bs + k * per)).take per)
  writeChunk s p im t c (packCodes t.format codes ++ scales)

/-- Write the places of a new shard that an old shard's data holds: `get` gives the bytes of a chunk of one of its moved tensors, where they
are at hand. -/
def buildShard (s : State) (jk : Nat) (oi ni : Image) (t : TensorEnt) (get : Nat → TensorEnt → Nat → Nat → Option (List Byte)) : State :=
  let same := (sameOld oi t).isSome
  let s := (movedTensors ni t same).zipIdx.foldl (fun s wn =>
    (List.range (chunkCount wn.1)).foldl (fun s c =>
      mergeChunk s (jk / 2) ni wn.1 c (fun row col =>
        (oldRow oi ni t row).bind (fun o => ((movedTensors oi o.1 same)[wn.2]?).bind (fun w =>
          let u := o.2.2 / 32 * max 1 (ceilDiv (viewOf w).2 32) + col / 32
          (get o.2.1 w wn.2 (u / 64)).map (fun d => let b := subOf w (u / 64) u d; (b.1, b.2, o.2.2)))))) s) s
  if same then s else regenCopies s jk ni t

/-- What waited for the new epoch comes in (R326). -/
def feedAhead (s : State) (jk : Nat) : State :=
  let xs := (getJob s jk).ahead
  xs.foldl (fun s x => if x.kind = 2 then (takeResult s jk x).1 else reduceInput s jk x true) (modJob s jk (fun j => { j with ahead := [] }))

/-- Every new shard is whole: the tallies of e are taken, RESHARD_DONE is raised, and step e may be released (R325). -/
def finishReshard (s : State) (jk : Nat) (x : Reshard) : State :=
  let j := getJob s jk
  match j.image with
  | none => s
  | some im =>
    let s := modJob s jk (fun j => { j with reshard := none })
    let s := (shardRanks im).foldl (fun s r => takeTally s jk r x.step) s
    let h := max 1 im.sched.roundSteps
    let s := if j.round.policy.isNone then s
      else (held im).foldl (fun s tr =>
        if (exchangeOf im 1 tr.1).isNone then s
        else
          let s := initRoundShard s jk tr.2 (x.step / h) (x.step / h) tr.1
          if ownerHere s (getJob s jk) tr.2 then openShardCtxs s jk tr.2 0 else s) (settlePolicies (modRound s jk (fun o => { o with next := o.next.map (fun n => (n.1, [])) })) jk)
    let s := raisePart s (some (jk / 2)) 0x0391 (sourceId s srcMp) [(4, x.epoch), (4, x.step)]
    wakePart (longDone (feedAhead s jk) x.reply 0) (jk / 2)

/-- SWITCH (R325): held folded inputs go, the new catalogue comes, and each new shard is built from the data of the old shards here; what an
owner or standby still lacks is asked for. -/
def doSwitch (s : State) (jk : Nat) : State :=
  let j := getJob s jk
  match j.reshard, j.image with
  | some x, some oi =>
    if x.missing.isSome || !x.drained then s
    else
      let old := s
      let folded := (j.nodes.filter (fun n => !n.forwarded)).flatMap (fun n => n.folds.map (fun _ => n.id.station))
      let s := folded.foldl (fun s k => countCase s jk k 0x1C) s
      let s := modJob (freeJobCtxs s jk) jk (fun j => { j with
        oldImage := some (oi, j.owners, j.cut.epoch), image := some x.image, cut := x.cut, owners := x.owners, shards := [], heldResults := [], nodes := [] })
      let s := ownTables (setComp (setComp s oi false) x.image true) jk
      let s := (held x.image).foldl (fun s tr =>
        let o := x.owners.getD tr.2 (0xFFFF, 0xFFFF)
        initShard s jk tr.2 x.image tr.1 x.step o.1 o.2) s
      let s := (held x.image).foldl (fun s tr => buildShard s jk oi x.image tr.1 (fun _ w _ c => some (readChunk old oi w c))) s
      let j' := getJob s jk
      let lacks := (held x.image).flatMap (fun tr =>
        if ownerHere s j' tr.2 || standbyHere s j' tr.2 then
          ((oldRanks oi x.image tr.1).getD []).filter (fun ro => !(ownerHere old j ro || standbyHere old j ro))
        else [])
      let missing := lacks.eraseDups.flatMap (fun ro => match masterAt oi ro with
        | some o => (List.range (chunkCount o)).map (fun c => (ro, c))
        | none => [])
      let x := { x with missing := some missing }
      let s := modJob s jk (fun j => { j with reshard := some x })
      let s := (held x.image).foldl (fun s tr => if (oldRanks oi x.image tr.1).isNone then shardLost s jk tr.1 else s) s
      if missing.isEmpty then finishReshard s jk x else askAllOld s jk
  | _, _ => s

/-- A REFRESH record of the old epoch brings a chunk of an old shard, for the new shards that want it (R325). -/
def reshardChunk (s : State) (jk : Nat) (x : Rec) : State :=
  let j := getJob s jk
  match j.reshard, j.oldImage, j.image with
  | some rs, some (oi, _, ep), some ni =>
    match rs.missing, masterOf oi x.tensor x.shard with
    | some m, some (o, ro) =>
      let kept := keptTensors oi o
      if x.epoch != ep || !m.contains (ro, x.chunk) then s
      else if x.data.length != partsBytes kept x.chunk then wrongSize s jk o
      else
        let part := fun (w : TensorEnt) => match kept.findIdx? (· == w) with
          | some n => some ((x.data.drop (partsBytes (kept.take n) x.chunk)).take (chunkBytes w x.chunk))
          | none => none
        let s := (held ni).foldl (fun s tr => buildShard s jk oi ni tr.1 (fun r w _ c => if r = ro ∧ c = x.chunk then part w else none)) s
        let left := m.filter (· != (ro, x.chunk))
        let rs := { rs with missing := some left }
        let s := modJob s jk (fun j => { j with reshard := some rs })
        if left.isEmpty then finishReshard s jk rs else s
    | _, _ => s
  | _, _, _ => s

/-- Answer a request of the old epoch from the data of the old shards (R325). -/
def serveOld (s : State) (jk : Nat) (x : Rec) : State :=
  let j := getJob s jk
  let src := match j.oldImage with
    | some (oi, _, ep) => if ep = x.epoch then some oi else none
    | none => none
  let src := if x.epoch = j.cut.epoch then j.image else src
  match src with
  | none => s
  | some oi =>
    match tensorByCoords oi x.tensor x.shard with
    | none => s
    | some t => if t.cls ≠ 2 then s
        else sendParts s jk x.sender oi (keptTensors oi t) x.chunk { mkRec s jk t 8 x.step x.chunk x.version 0 [] with epoch := x.epoch }

/-- Whether this module has drained the steps before e, and stands at the boundary into it. -/
def reshardReady (s : State) (jk : Nat) (x : Reshard) : Bool :=
  let j := getJob s jk
  j.phase == .running && j.stepOpen && j.step + 1 == x.step && x.missing.isNone && drainedBefore s jk x.step && handoffsDone s jk x.step

/-- The coordinator holds every DRAINED: SWITCH goes to all (R325, R327). -/
def trySwitch (s : State) (jk : Nat) : State :=
  let j := getJob s jk
  match j.reshard with
  | none => s
  | some x =>
    let all := (drainSet j x.step).flatMap (fun q => (modulesOf j q).map (fun k => (q, k)))
    if coordinatorAt j x.step == moduleOf j j.policy.replica && x.drained && x.missing.isNone && all.all (fun p => x.drains.contains p) then
      doSwitch (notifyAll s jk .switchEpoch [x.epoch]) jk
    else s

/-- The module has drained the old epoch: RESHARD_DRAINED, and DRAINED to the coordinator, or again to a new one (R324, R327). -/
def doReshardDrained (jk : Nat) (s : State) : State :=
  let j := getJob s jk
  match j.reshard with
  | none => s
  | some x =>
    let co := coordinatorAt j x.step
    if !(x.drained || reshardReady s jk x) || x.missing.isSome || x.sentTo = co then s
    else
      let s := if x.drained then s else raisePart s (some (jk / 2)) 0x0390 (sourceId s srcMp) [(4, x.epoch), (4, x.step)]
      let me := (j.policy.replica, cutIndex j.cut)
      let mine := co == moduleOf j j.policy.replica
      let s := modJob s jk (fun j => { j with reshard := some { x with drained := true, sentTo := co, drains := if mine then x.drains ++ [me] else x.drains } })
      if mine then trySwitch s jk else sendFrame s .drained co j.tag [x.epoch, me.1, me.2] []

def execReshardDrained (job : Nat) (s : State) : Host.Outcome State Fault Refusal := done (doReshardDrained job s)

/-- DRAINED of a module reaches the coordinator. -/
def execDrainedReceive (tag epoch replica index : Nat) (s : State) : Host.Outcome State Fault Refusal :=
  done (withJob s tag (fun jk => match (getJob s jk).reshard with
    | some x => if x.epoch = epoch && !x.drains.contains (replica, index) then
        trySwitch (modJob s jk (fun j => { j with reshard := some { x with drains := x.drains ++ [(replica, index)] } })) jk
      else s
    | none => s))

/-- SWITCH arrives. -/
def execReshardSwitch (tag epoch : Nat) (s : State) : Host.Outcome State Fault Refusal :=
  done (withJob s tag (fun jk => match (getJob s jk).reshard with
    | some x => if x.epoch = epoch then doSwitch s jk else s
    | none => s))

end Sys2Proof.Machine
end

