-- ==== Sys2Proof/Machine/Owners.lean ====
section
/-! DEFINITION. What the holders of a shard tell each other: scales (R292), versions and states (R293), acknowledgements
(R294), tallies (R297 to R299), the timeouts and notices of R300 to R305, and pause notices (R304, R495). -/

namespace Sys2Proof.Machine

/-- The held master shard that a record names (R55). -/
def recShard (s : State) (jk : Nat) (x : Rec) : Option (Image × TensorEnt × Nat) :=
  (getJob s jk).image.bind (fun im => (masterOf im x.tensor x.shard).map (fun tr => (im, tr.1, tr.2)))

/-- Act on the held shard that a record names, in a job that is open here and whose epoch the record carries. -/
def withShard (s : State) (tag : Nat) (x : Rec) (f : Nat → Image → TensorEnt → Nat → State) : State :=
  withJob s tag (fun jk => match recShard s jk x with
    | some (im, t, r) => if x.epoch = (getJob s jk).cut.epoch then f jk im t r else s
    | none => s)

/-! ## Scales (R292, R572) -/

/-- The scales of a SCALE record go into the shard record of the standby, which accepts them, or of a replica that rejoins. -/
def doScale (tag : Nat) (x : Rec) (s : State) : State :=
  withShard s tag x (fun jk _ t r =>
    let j := getJob s jk
    if !payloadFits x then wrongSize s jk t
    else if standbyHere s j r then
      sendFrame (storeScales s (shardAddr j r) x.data) .scaleAccept (moduleOf j (shardOwner s j r)) j.tag (x.tensor :: padTo 0 4 x.shard ++ [x.step, j.policy.replica]) []
    else if rejoins j then storeScales s (shardAddr j r) x.data
    else s)

def execScaleReceive (tag : Nat) (r : Rec) (s : State) : Host.Outcome State Fault Refusal := done (doScale tag { r with kind := 7 } s)

/-- The standby's acceptance of the scales of a step; it also says that a new standby holds the state sent before (R303). -/
def doScaleAccept (tag tensor : Nat) (shard : List Nat) (step replica : Nat) (s : State) : State :=
  withJob s tag (fun jk => match (getJob s jk).image.bind (fun im => masterOf im tensor shard) with
    | none => s
    | some (_, r) =>
      let j := getJob s jk
      if !ownerHere s j r || shardStandby s j r ≠ replica then s
      else
        let s := modShard s jk r (fun h => { h with scaleOk := some step, standbyPending := false })
        wakePart (releaseUpdates s jk r) (jk / 2))

def execScaleAcceptReceive (tag : Nat) (tensor : ShardName) (step replica : Nat) (s : State) : Host.Outcome State Fault Refusal :=
  done (doScaleAccept tag tensor.1 tensor.2 step replica s)

/-! ## Installing VERSION, STATE and REFRESH records (R293, R297, R351, R561) -/

/-- Whether a SAVE reads this job's memory now (R561). -/
def snapshotReads (s : State) (jk : Nat) : Bool :=
  match s.stock.op with
  | some o => o.job == jk && !o.restore && (match o.phase with | .reading => true | _ => false)
  | none => false

/-- A record of version v for chunk c waits for a tally (R297): the chunk is at or past a tally version that the copy can still reach whole
and has not been tallied at. -/
def tallyFirst (s : State) (jk r c v : Nat) (t : TensorEnt) : Bool :=
  let j := getJob s jk
  let least := shardVersion s j r
  (span least (chunkVersion s j r c + 1 - least)).any (fun w =>
    decide (w < v) && decide (j.start < w) && isTallyVersion j w && decide (rdLe s (shardAddr j r + 0x28) 4 < w)
      && (List.range (chunkCount t)).all (fun k => decide (chunkVersion s j r k ≤ w)))

/-- The round that version v ends, where its result is not yet installed here. -/
def roundAwaited (s : State) (jk r v : Nat) (im : Image) (t : TensorEnt) : Option Nat :=
  let j := getJob s jk
  if roundHere im t v && decide (j.start ≤ v) && j.round.policy.isSome && decide ((getRShard j r).installed < v / im.sched.roundSteps) then some (v / im.sched.roundSteps - 1) else none

/-- The result of round q is installed on a shard: the tally is taken, and held tasks may be released (R297, R352). -/
def roundInstalled (s : State) (jk r q v : Nat) : State :=
  let s := modRShard s jk r (fun x => { x with installed := q + 1, refreshed := [] })
  wakePart (takeTally s jk r v) (jk / 2)

/-- The round shard record of the owner, mirrored at the standby, with the TX_SEQ of each context after it (R351, R361, R390). Of an owner in
INSTALL it brings a round's result, which the standby accepts. -/
def mirrorRound (s : State) (jk r v : Nat) (awaited : Bool) (t : TensorEnt) (d : List Byte) : State :=
  let j := getJob s jk
  let fl := fieldLe d 6 1
  let st := fieldLe d 4 1
  let round := fieldLe d 8 4
  let s := wrBytes s (roundShard j r) (putBytes (d.take 64) 6 [BitVec.ofNat 8 (fl / 2 * 2)]) false
  let n := (d.length - 64) / 8
  let next := if st = 5 || st = 6 then round + 1 else round
  let s := modRShard s jk r (fun x => { x with mirror := some (next, fieldLe d 0x30 4, (List.range n).map (fun k => fieldLe d (64 + 8 * k) 8)) })
  if st = 5 then
    let s := if awaited then roundInstalled s jk r round v else s
    sendFrame s .roundAccept (moduleOf j (shardOwner s j r)) j.tag (t.id :: padTo 0 4 t.shard ++ [round, j.policy.replica]) []
  else s

/-- An update task that tore its chunk runs again once the standby's copy is in place (R301). -/
def mendTorn (s : State) (jk r c : Nat) (t : TensorEnt) : State :=
  let j := getJob s jk
  let mine := j.torn.filter (fun x => x.1 == r && x.2.1 == c)
  if mine.isEmpty then s
  else
    let s := modJob s jk (fun j => { j with torn := j.torn.filter (fun x => !(x.1 == r && x.2.1 == c)) })
    let s := if (getJob s jk).torn.any (fun x => x.1 == r) then s else
      let a := shardAddr (getJob s jk) r + 0xE
      wrLe s a 1 (let f := rdLe s a 1; if bit f 2 then f - 4 else f)
    let s := raiseShard s jk 0x0385 j.step t []
    wakePart (mine.foldl (fun s x => dealTask s jk x.2.2) s) (jk / 2)

/-- A VERSION record, with the STATE record that the standby also awaits, is installed (R293). -/
def installVersion (s : State) (jk r c v : Nat) (t : TensorEnt) (im : Image) (d : List Byte) (st : Option (List Byte)) : State :=
  let s := writeParts s (jk / 2) im (versionTensors im t) c d
  let s := match st with | some e => writeParts s (jk / 2) im (stateTensors im t) c e | none => s
  let h := getShard s jk r
  let s := if h.asked then bumpStep s jk t.layer 0x2C 1 else s
  let s := modShard s jk r (fun h => { h with landed := Tab.del h.landed c })
  let s := setChunkVersion s jk r c v t im
  let s := if h.asked && decide ((getJob s jk).step ≤ shardVersion s (getJob s jk) r) then modShard s jk r (fun h => { h with asked := false }) else s
  wakePart s (jk / 2)

/-- A REFRESH record is installed, even at equal version (R293, R298, R302, R351). With REAPPLIED it brings a new standby its state, and makes
this holder the standby (log 159). Without, it brings a round's result where one is awaited, and else mends a mismatch. -/
def installRefresh (s : State) (jk r : Nat) (x : Rec) (t : TensorEnt) (im : Image) : State :=
  let j := getJob s jk
  let sb := standbyHere s j r
  let own := ownerHere s j r
  let takes := bit x.flags 1 && !own
  let awaited := if own then none else roundAwaited s jk r x.version im t
  if x.chunk = 0xFFFF then (if sb then mirrorRound s jk r x.version awaited.isSome t x.data else s)
  else
    let c := x.chunk
    let vt := versionTensors im t
    let st := stateTensors im t
    let rt := roundTensors im t
    let fits := fun (ts : List TensorEnt) => x.data.length == partsBytes ts c
    let ts := if takes then (if fits (vt ++ st ++ rt) then vt ++ st ++ rt else vt ++ st)
      else if sb && awaited.isSome then vt ++ rt
      else if fits (vt ++ st) then vt ++ st else vt
    if x.version < chunkVersion s j r c then s
    else if !fits ts then wrongSize s jk t
    else
      let s := writeParts s (jk / 2) im ts c x.data
      let s := if takes then wrLe (setRoles s jk r false true) (shardAddr j r + 6) 2 j.policy.replica else s
      let s := if chunkVersion s j r c < x.version then setChunkVersion s jk r c x.version t im else s
      let s := mendTorn s jk r c t
      if takes || own then s
      else match awaited with
        | some q =>
          if sb then s
          else
            let s := modRShard s jk r (fun y => { y with refreshed := insertNat y.refreshed c })
            if (getRShard (getJob s jk) r).refreshed.length = chunkCount t then roundInstalled s jk r q x.version else s
        | none =>
          if c + 1 == chunkCount t then noteMismatch (bumpStep (bumpStep s jk t.layer 0x30 1) jk t.layer 0x34 1) jk r j.policy.replica t
          else s

/-- What becomes of a record at the ingress: it waits (none), or leaves with its effect. `rest` are the others that wait. -/
def ingressOne (s : State) (jk : Nat) (x : Rec) (rest : List Rec) : Option (State × List Rec) :=
  match recShard s jk x with
  | none => some (s, rest)
  | some (im, t, r) =>
    let j := getJob s jk
    if snapshotReads s jk then none
    else if x.epoch ≠ j.cut.epoch then (if j.cut.epoch < x.epoch then none else some (s, rest))
    else if x.chunk ≠ 0xFFFF && tallyFirst s jk r x.chunk x.version t then none
    else if x.kind = 8 then some (installRefresh s jk r x t im, rest)
    else if x.version ≤ chunkVersion s j r x.chunk then some (s, rest)
    else if x.kind = 4 then
      if x.data.length ≠ partsBytes (stateTensors im t) x.chunk then some (wrongSize s jk t, rest)
      else if standbyHere s j r then none else some (s, rest)
    else if x.data.length ≠ partsBytes (versionTensors im t) x.chunk then some (wrongSize s jk t, rest)
    else if standbyHere s j r then
      match rest.find? (fun y => y.kind == 4 && y.tensor == x.tensor && y.shard == x.shard && y.chunk == x.chunk && y.version == x.version) with
      | none => none
      | some y => some (installVersion s jk r x.chunk x.version t im x.data (some y.data), rest.filter (· != y))
    else some (installVersion s jk r x.chunk x.version t im x.data none, rest)

/-- One pass over the records that wait, in order of arrival. -/
def ingressPass (s : State) (jk : Nat) (kept todo : List Rec) (fuel : Nat) : State × List Rec :=
  match fuel with
  | 0 => (s, kept ++ todo)
  | n + 1 =>
    match todo with
    | [] => (s, kept)
    | x :: rest =>
      match ingressOne s jk x (kept ++ rest) with
      | none => ingressPass s jk (kept ++ [x]) rest n
      | some (s, left) => ingressPass s jk (kept.filter (fun y => left.contains y)) (rest.filter (fun y => left.contains y)) n

/-- Install what can be installed, until no pass changes anything. -/
def drainIngress (s : State) (jk fuel : Nat) : State :=
  match fuel with
  | 0 => s
  | n + 1 =>
    let w := (getJob s jk).ingress
    let (s1, left) := ingressPass (modJob s jk (fun j => { j with ingress := [] })) jk [] w w.length
    let s1 := modJob s1 jk (fun j => { j with ingress := left ++ j.ingress })
    if left.length = w.length then s1 else drainIngress s1 jk n

/-- A record arrives for installation. -/
def arriveRec (s : State) (tag : Nat) (x : Rec) : State :=
  withJob s tag (fun jk =>
    if x.kind = 8 && x.epoch < (getJob s jk).cut.epoch then reshardChunk s jk x
    else
    let s := match recShard s jk x with
      | some (_, _, r) => if x.kind = 3 then modShard s jk r (fun h => { h with lastVersion := some (now s) }) else s
      | none => s
    let s := modJob s jk (fun j => { j with ingress := j.ingress ++ [x] })
    drainIngress s jk ((getJob s jk).ingress.length + 1))

def execVersionReceive (tag : Nat) (r : Rec) (s : State) : Host.Outcome State Fault Refusal := done (arriveRec s tag { r with kind := 3 })
def execStateReceive (tag : Nat) (r : Rec) (s : State) : Host.Outcome State Fault Refusal := done (arriveRec s tag { r with kind := 4 })
def execRefreshReceive (tag : Nat) (r : Rec) (s : State) : Host.Outcome State Fault Refusal := done (arriveRec s tag { r with kind := 8 })

/-! ## Acknowledgements and tallies -/

/-- An ACK reaches the owner or the standby (R294). -/
def doVersionAck (tag : Nat) (x : Rec) (s : State) : State :=
  withShard s tag x (fun jk _ t r =>
    if !payloadFits x then wrongSize s jk t
    else checkAcks (modShard s jk r (fun h => { h with acks := Tab.set h.acks x.sender (max (Tab.get 0 h.acks x.sender) x.version) })) jk r)

def execVersionAckReceive (tag : Nat) (r : Rec) (s : State) : Host.Outcome State Fault Refusal := done (doVersionAck tag { r with kind := 5 } s)

/-- A TALLY reaches the owner: compared with its own of the same version, kept until the owner has taken its own, or
ignored after the owner's next tally version (R297, R298). -/
def doTally (tag : Nat) (x : Rec) (s : State) : State :=
  withShard s tag x (fun jk _ t r =>
    let j := getJob s jk
    if !payloadFits x then wrongSize s jk t
    else if !ownerHere s j r then s
    else if rdLe s (shardAddr j r + 0x28) 4 < x.version then modShard s jk r (fun h => { h with tallies := Tab.set h.tallies x.sender (x.version, x.tally) })
    else compareTally s jk r x.sender x.version x.tally t)

def execTallyReceive (tag : Nat) (r : Rec) (s : State) : Host.Outcome State Fault Refusal := done (doTally tag { r with kind := 6 } s)

/-! ## Reinstallation (R305) -/

/-- Ask the owner for every chunk of a shard. -/
def askReinstall (s : State) (jk r : Nat) (t : TensorEnt) : State :=
  let j := getJob s jk
  let s := modShard s jk r (fun h => { h with asked := true, lastVersion := some (now s) })
  sendRec s jk (shardOwner s j r) (mkRec s jk t 9 j.step 0xFFFF (shardVersion s j r) 0 [])

/-- A holder behind the version that its next step needs, which has received no VERSION record for ACK_NS, asks the owner. -/
def doReinstallTimeout (jk rank : Nat) (s : State) : State :=
  let j := getJob s jk
  match j.image.bind (fun im => masterAt im rank) with
  | none => s
  | some t =>
    let need := if j.stepOpen then j.step + 1 else j.step
    let since := ((getShard s jk rank).lastVersion).getD j.stepStart
    if j.phase ≠ .running || ownerHere s j rank || need ≤ shardVersion s j rank || now s < since + j.policy.ackNs then s
    else askReinstall s jk rank t

def execReinstallTimeout (job rank : Nat) (s : State) : Host.Outcome State Fault Refusal := done (doReinstallTimeout job rank s)

/-- The owner answers a REINSTALL request with VERSION records at its current chunk versions, and with the SCALE record
(R305, R572); the standby answers the owner of a torn chunk with its copy (R301); a request of an old epoch is answered from
the old shards (R325). -/
def doReinstall (tag : Nat) (x : Rec) (s : State) : State :=
  if (jobOfTag s tag).any (fun jk => let j := getJob s jk
      decide (x.epoch < j.cut.epoch) || (x.epoch == j.cut.epoch && x.chunk != 0xFFFF && j.reshard.any (fun rs => rs.step == x.step && rs.missing.isNone && rs.drained)))
  then withJob s tag (fun jk => serveOld s jk x)
  else withShard s tag x (fun jk im t r =>
    let j := getJob s jk
    let cs := if x.chunk = 0xFFFF then List.range (chunkCount t) else [x.chunk]
    if !payloadFits { x with kind := 9 } then wrongSize s jk t
    else if ownerHere s j r then
      let s := cs.foldl (fun s c =>
        let v := chunkVersion s j r c
        sendVersion s jk x.sender r im t c v v 0) s
      sendRec s jk x.sender (mkRec s jk t 7 (shardVersion s j r) 0xFFFF (shardVersion s j r) 0 (readScales s (shardAddr j r)))
    else if standbyHere s j r then
      cs.foldl (fun s c =>
        let v := chunkVersion s j r c
        sendParts s jk x.sender im (versionTensors im t ++ stateTensors im t) c (mkRec s jk t 8 v c v 0 [])) s
    else s)

def execReinstallReceive (tag : Nat) (r : Rec) (s : State) : Host.Outcome State Fault Refusal := done (doReinstall tag r s)

/-! ## Timeouts (R300, R302) -/

/-- Replicas that have not acknowledged the owner's latest version. -/
def unacked (s : State) (jk r : Nat) : List Nat :=
  let j := getJob s jk
  (ackers j).filter (fun q => decide (ackOf s jk r q < shardVersion s j r))

/-- ACK_NS after the owner's VERSION record it sends once more; after 2 × ACK_NS the replica is declared lost. -/
def doAckTimeout (jk rank : Nat) (s : State) : State :=
  let j := getJob s jk
  let h := getShard s jk rank
  match j.image, j.image.bind (fun im => masterAt im rank), h.lastSent with
  | some im, some t, some at' =>
    let qs := unacked s jk rank
    if !ownerHere s j rank || qs.isEmpty || now s < at' + j.policy.ackNs then s
    else if h.resent then
      if now s < at' + 2 * j.policy.ackNs then s else qs.foldl (fun s q => declareLost s jk q) s
    else
      let s := modShard s jk rank (fun h => { h with resent := true })
      qs.foldl (fun s q => (List.range (chunkCount t)).foldl (fun s c =>
        let v := chunkVersion s j rank c
        sendVersion s jk q rank im t c v v 0) s) s
  | _, _, _ => s

def execAckTimeout (job rank : Nat) (s : State) : Host.Outcome State Fault Refusal := done (doAckTimeout job rank s)

/-- Whether the paths to a site module have been down for 1 ms: the board port named, or, with none named, every flow to
it, or every port of the partition's path set (R300, R436). -/
def pathsDown (s : State) (jk m : Nat) (port : Option Nat) : Bool :=
  let long := fun (o : Option Nat) => match o with | some t => decide (t + 1000000 ≤ now s) | none => false
  match port with
  | some k => long (getPort s k).downSince
  | none =>
    let fs := s.board.flows.filter (fun f => f.peer == m)
    let ports := (List.range 9).filter (fun k => bit (fieldLe (Tab.get SPort.reset s.board.sites k).entry 2 1) (jk / 2))
    (!fs.isEmpty && fs.all (fun f => long f.downSince)) || ports.all (fun k => long (Tab.get SPort.reset s.board.sites k).downSince)

/-- The paths to the holder of a replica have stayed down for 1 ms. -/
def doPeerDown (jk replica : Nat) (port : Option Nat) (s : State) : State :=
  let j := getJob s jk
  if j.phase = .closed || !pathsDown s jk (moduleOf j replica) port then s else declareLost s jk replica

def execPeerDownTimeout (job replica : Nat) (port : Option Nat) (s : State) : Host.Outcome State Fault Refusal := done (doPeerDown job replica port s)

/-- TAKEOVER_NS after a chunk's RESULT landed, without the owner's VERSION of it, the standby takes over. -/
def doTakeoverTimeout (jk rank : Nat) (s : State) : State :=
  let j := getJob s jk
  match j.image.bind (fun im => masterAt im rank) with
  | none => s
  | some t =>
    if standbyHere s j rank && (getShard s jk rank).landed.any (fun (ct : Nat × Nat) =>
        decide (ct.2 + j.policy.takeoverNs ≤ now s) && (let v := chunkVersion s j rank ct.1; commitStep s j rank v == v)) then
      wakePart (takeOver s jk rank t) (jk / 2)
    else s

def execTakeoverTimeout (job rank : Nat) (s : State) : Host.Outcome State Fault Refusal := done (doTakeoverTimeout job rank s)

/-! ## Notices -/

def execReplicaLostNotice (tag replica step : Nat) (s : State) : Host.Outcome State Fault Refusal :=
  done (withJob s tag (fun jk => wakePart (applyLoss s jk replica step) (jk / 2)))

/-- A replica rejoins the set at an effective step; the rejoining module first requests every chunk (R271, R305). -/
def readmit (s : State) (jk replica step : Nat) : State :=
  let j := getJob s jk
  let s := modJob s jk (fun j => { j with changes := j.changes.filter (fun c => !(c.1 == replica && c.2.1)) ++ [(replica, true, step)] })
  if replica ≠ j.policy.replica then s
  else match j.image with
    | none => s
    | some im => (held im).foldl (fun s tr => askReinstall s jk tr.2 tr.1) s

def execReplicaReadmitNotice (tag replica step : Nat) (s : State) : Host.Outcome State Fault Refusal :=
  done (withJob s tag (fun jk => readmit s jk replica step))

/-- A holder follows the new owner; a former owner that still runs clears OWNER_HERE, and its contexts become FREE (R302, R340). -/
def doTakeoverNotice (tag tensor : Nat) (shard : List Nat) (former owner : Nat) (s : State) : State :=
  withJob s tag (fun jk => match (getJob s jk).image.bind (fun im => masterOf im tensor shard) with
    | none => s
    | some (_, r) =>
      let j := getJob s jk
      let was := ownerHere s j r
      let s := wrLe s (shardAddr j r + 4) 2 owner
      let s := wrLe s (shardAddr j r + 6) 2 ((nextReplica j owner former).getD 0xFFFF)
      let s := setRoles s jk r false (standbyHere s j r && !was)
      if was then
        let s := settlePolicies (freeShardCtxs s jk r) jk
        if j.round.policy.isSome then let a := roundShard j r + 6; wrLe s a 1 (rdLe s a 1 / 2 * 2) else s
      else s)

def execOwnerTakeoverNotice (tag : Nat) (tensor : ShardName) (former owner : Nat) (s : State) : Host.Outcome State Fault Refusal :=
  done (doTakeoverNotice tag tensor.1 tensor.2 former owner s)

/-- Hold cause of a pause notice: 0 PSM_JOB_PAUSE, 1 the divergence bound, otherwise a lost shard. -/
def noticeCause (c : Nat) : HoldCause := match c with | 0 => .hostPause | 1 => .divergence | _ => .lost

/-- A pause notice: the module holds at its next step or round boundary (R304, R356, R495). A notice of a lost shard also
ends a pending re-shard (R327). -/
def doPauseNotice (tag cause : Nat) (round : Bool) (module' : Nat) (s : State) : State :=
  withJob s tag (fun jk =>
    let s := if cause = 1 then
        let s := modRound s jk (fun q => { q with pausers := insertNat q.pausers module' })
        if (getJob s jk).round.policy.isSome then wrLe s (roundRec (getJob s jk) + 4) 1 1 else s
      else s
    let s := match noticeCause cause, (getJob s jk).reshard with
      | .lost, some r => if r.missing.isNone then
          longDone (raisePart (modJob s jk (fun j => { j with reshard := none })) (some (jk / 2)) 0x0392 (sourceId s srcMp) [(4, r.epoch), (4, r.step)]) r.reply 0x0234
        else s
      | _, _ => s
    announceHold s jk (noticeCause cause) round)

def execPauseNoticeReceive (tag cause : Nat) (round : Bool) (module' : Nat) (s : State) : Host.Outcome State Fault Refusal :=
  done (doPauseNotice tag cause round module' s)

end Sys2Proof.Machine
end

