-- ==== Sys2Proof/Machine/Rounds.lean ====
section
/-! DEFINITION. Outer rounds of a shard (R332 to R334, R347 to R358): the hand-off of a chunk, its end, catch-ups, the
close, the outer update's end, the install, the pause and the resume. -/

namespace Sys2Proof.Machine

/-! ## Hand-off of a chunk (R332, R333) -/

/-- One place's v: the difference from the anchor and the spoil without its loss scale. -/
def handoffVal (s : State) (im : Image) (t an sp : TensorEnt) (tm5 : Bool) (e : Int) (n : Nat) : Word :=
  let d := toF32 (Val.sub (placeVal s im an n) (placeVal s im t n))
  if tm5 then d else toF32 (Val.add (f32Val d) (Val.scale (placeVal s im sp n) (-e)))

/-- Write the spoil of one place: what the haul did not carry, at the layer's loss scale (R147, R332). -/
def putSpoil (s : State) (jk : Nat) (im : Image) (sp : TensorEnt) (step : Nat) (lam : Int) (n : Nat) (rho : Word) : State :=
  let (row, col) := shardPlace sp n
  let reg := tensorRegion im sp
  let mode : RoundMode := if sp.rounding = 1 then .stoch (srBits sp.id row col step 0) else .nearest
  let o := writeG16 (readScale s reg row col) mode (Val.scale (f32Val rho) lam)
  headroomOr (wrOwn s (jk / 2) (elemAddr reg row col).1 (toLe 2 o.code) (o.code == 0x7C01)) jk sp.id row col o.ovf o.nan

/-- Form one haul block and write its spoil. -/
def formHaulBlock (s : State) (jk r step : Nat) (im : Image) (t an sp : TensorEnt) (pol : RoundPolicy) (b : Nat) : State :=
  let j := getJob s jk
  let tm5 := pol.mode == 1
  let vs := blockVals t b (handoffVal s im t an sp tm5 (int8 (rdLe s (roundShard j r + 5) 1)))
  let h := diffBlock pol.mode pol.fraction b vs
  let s := modRShard s jk r (fun x => { x with own := Tab.set x.own b h.bytes })
  let s := if h.empty then raiseNonfinite (bumpRound s jk 0x28 1) jk r (roundOf s j r) (some t) else s
  if tm5 then s
  else
    let lam := int8 (getRShard (getJob s jk) r).lam
    ((placesOf t b).zip (vs.zip h.q)).foldl (fun s nv =>
      if placeInView t nv.1 then putSpoil s jk im sp step lam nv.1 (if h.empty then 0 else fsub nv.2.1 nv.2.2) else s) s

/-- A ROUND exchange task has reached TEND: the GXE takes its chunk. -/
def handoffChunk (s : State) (jk : Nat) (t : Task) (st : Station) : State :=
  match (getJob s jk).image with
  | none => s
  | some im =>
    match masterNamed im (xMaster st), xAnchor im st, xSpoil im st with
    | some (m, r), some an, some sp =>
      match shardPolicy (getJob s jk) r with
      | none => s
      | some pol =>
        if roundState s (getJob s jk) r ≠ 1 then s
        else
          let n := blockCount m
          let s := ((span (16 * t.ti) 16).filter (· < n)).foldl (fun s b => formHaulBlock s jk r t.step im m an sp pol b) s
          modRShard s jk r (fun x => { x with formed := insertNat x.formed t.ti })
    | _, _, _ => s

/-- Whether the partner takes the haul of a round: it is not FREE, and has joined (R359). -/
def takesHaul (s : State) (j : Job) (r round : Nat) (q : Partner × Nat) : Bool :=
  ctxState s j r q.2 != 0 && (!bit q.1.flags 1 || decide (q.1.joinRound < round))

/-- The hand-off is complete (R332): the spoil takes its new exponent and commits (R200), the hauls are queued for every
partner, the stamp is set, and the shard is OPEN. -/
def doHandoffDone (jk r : Nat) (s : State) : State :=
  match roundParts s jk r, shardPolicy (getJob s jk) r with
  | some (im, t, _, st), some pol =>
    let j := getJob s jk
    let x := getRShard j r
    if roundState s j r ≠ 1 || x.formed.length ≠ chunkCount t then s
    else
      let a := roundShard j r
      let round := roundOf s j r
      let s := if pol.mode = 1 then s
        else
          let s := wrLe s (a + 5) 1 x.lam
          match xSpoil im st with
          | some sp =>
            if (listedTensors s j t.layer).contains sp.id && hasLayer t.layer then
              let (s, n) := headroomTensor s jk t.layer ((round + 1) * im.sched.roundSteps - 1) im sp false
              bumpRec s (layerRec j t.layer + 0x54) n
            else s
          | none => s
      let s := formCatchups s jk r round im t st
      let blocks := (List.range (blockCount t)).map (fun b => Tab.get [] x.own b)
      let bad := blocks.countP (fun d => bit (fieldLe d 3 1) 0)
      let d := haulBytes t (if pol.mode = 1 then 0 else pol.fraction) 0 round (if pol.mode = 1 then 0 else j.cut.epoch) bad blocks
      let (s, off) := storeHaul s jk r im st d
      let s := (partnersOf j r).foldl (fun s q =>
        if takesHaul s j r round q then queueSend s jk r q.2 (newSend 0 round 0 off d.length) else s) s
      wrLe (setRoundState s jk r 2) (a + 0x10) 8 (now s)
  | _, _ => s

def execRoundHandoffDone (job rank : Nat) (s : State) : Host.Outcome State Fault Refusal := done (doHandoffDone job rank s)

/-! ## The close (R347 to R350, R355, R356) -/

/-- The first round a partner contributes. -/
def firstRound (j : Job) (im : Image) (q : Partner) : Nat :=
  if bit q.flags 1 then q.joinRound + 1 else j.start / max 1 im.sched.roundSteps

/-- Whether a partner is expected at the close of a round (R347). -/
def expectedAt (s : State) (j : Job) (im : Image) (pol : RoundPolicy) (r round : Nat) (q : Partner × Nat) : Bool :=
  ctxState s j r q.2 == 1 && decide (firstRound j im q.1 + pol.lag ≤ round)

/-- The completion stamp of a partner's haul of a round. -/
def haulStamp (h : HaulCtx) (type round : Nat) : Option Nat := (h.recvs.find? (fun v => v.type == type && v.round == round)).bind (·.complete)

/-- The bytes of a complete stream. -/
def recvBytes (v : RecvHaul) : List Byte := (List.range (segCount v.len)).flatMap (fun k => Tab.get [] v.segs k)

/-- Values, place by place, and poisoned blocks of a received stream. -/
def recvVals (t : TensorEnt) (mode content epoch : Nat) (v : RecvHaul) : List Word × Nat :=
  match decodeHaul t mode content v.round epoch (recvBytes v) with
  | some (bs, n) => (bs.flatMap id, n)
  | none => ([], 0)

/-- A term of a close: site, round, age, values. -/
structure MergeTerm where
  site : Nat
  round : Nat
  age : Nat
  vals : List Word
deriving DecidableEq, Repr

/-- The hauls of one partner that a close includes (R349): complete before the close, of an age from LAG to STALE, not
included before, and not before the partner's CATCHUP_ROUND. -/
def includable (s : State) (j : Job) (pol : RoundPolicy) (r round close : Nat) (q : Partner × Nat) : List RecvHaul :=
  let h := getHaul j r q.2
  let cr := rdLe s (jobCtx j r q.2 + 0x10) 4
  let st := ctxState s j r q.2
  if st ≠ 1 && st ≠ 3 then []
  else h.recvs.filter (fun v => v.type == 1 && !v.bad && (match v.complete with | some c => decide (c < close) | none => false)
    && decide (v.round + pol.lag ≤ round ∧ round ≤ v.round + pol.stale) && !h.included.contains v.round
    && (cr == 0xFFFFFFFF || decide (cr ≤ v.round)))

/-- One place of MERGE_TENSOR (R350). -/
def mergePlace (w : List Word) (ts : List MergeTerm) (n : Nat) : Word :=
  let (acc, ws) := ts.foldl (fun (a : Word × Word) t =>
    let wt := w.getD t.age 0
    (fadd a.1 (fmul wt (t.vals.getD n 0)), fadd a.2 wt)) ((0 : Word), (0 : Word))
  fdiv acc ws

/-- The catch-up correction of one place of the anchor (R355). -/
def correction (wSelf : Word) (ms : List (Word × List Word × List Word)) (n : Nat) : Word :=
  let (num, den) := ms.foldl (fun (a : Word × Word) m =>
    (fadd a.1 (fmul m.1 (fsub (m.2.1.getD n 0) (m.2.2.getD n 0))), fadd a.2 m.1)) ((0 : Word), wSelf)
  fdiv num den

/-- A context returns to ACTIVE: its catch-up data go, and LAST_INCLUDED is set (R354, R355). -/
def backToActive (s : State) (jk r p last : Nat) : State :=
  let a := jobCtx (getJob s jk) r p
  let s := wrLe (wrLe (wrLe s (a + 1) 1 0) (a + 0xC) 4 last) (a + 0x10) 4 0xFFFFFFFF
  let s := modHaul s jk r p (fun h => { h with own := none, sends := h.sends.filter (fun x => x.content != 1), recvs := h.recvs.filter (fun v => v.type != 2) })
  setCtxState s jk r p 1

/-- Merge the ready catch-ups into the anchor; in TM5 mode every CATCHUP context turns ACTIVE (R355, R364). -/
def mergeCatchups (s : State) (jk r round : Nat) (im : Image) (t : TensorEnt) (st : Station) (pol : RoundPolicy) : State :=
  let j := getJob s jk
  let qs := (partnersOf j r).filter (fun q => if pol.mode = 1 then ctxState s j r q.2 == 3 else catchupReady s j r q.2)
  if qs.isEmpty then s
  else
    let qs := qs.mergeSort (fun a b => decide (a.1.site ≤ b.1.site))
    let s := if pol.mode = 1 then s
      else
        let ms := qs.map (fun q =>
          let h := getHaul j r q.2
          let own := (h.own.map (fun o => o.2.1.map (BitVec.ofNat 32))).getD []
          let theirs := ((h.recvs.find? (fun v => v.type == 2 && v.complete.isSome)).map (fun v => (recvVals t pol.mode 1 j.cut.epoch v).1)).getD []
          (q.1.wCatch, own, theirs))
        match xAnchor im st with
        | none => s
        | some an => putPlaces s (jk / 2) im an (viewPlaces t) (fun n => toF32 (Val.add (placeVal s im an n) (f32Val (correction pol.wSelf ms n))))
    qs.foldl (fun s q =>
      let s := bumpRound (backToActive s jk r q.2 round) jk 0x24 1
      if pol.mode = 1 then s else raiseRound s jk 0x03A4 round (some q.1.site) (some t)) s

/-- ROUND of the round record: the latest round closed on every owned shard. -/
def putClosed (s : State) (jk : Nat) (im : Image) : State :=
  let j := getJob s jk
  let rs := (shardRanks im).filter (fun r => ownerHere s j r && ((masterAt im r).bind (fun t => exchangeOf im 1 t)).isSome)
  let closed := rs.map (fun r => let st := roundState s j r; if 3 ≤ st && st ≤ 6 then roundOf s j r + 1 else roundOf s j r)
  match closed with
  | [] => s
  | c :: cs => let m := cs.foldl min c; if m = 0 then s else wrLe s (roundRec j) 4 (m - 1)

/-- Contexts that turn SPLIT at the close (R340), with PARTNER_SPLIT once per partner per round. -/
def turnSplit (s : State) (jk r round : Nat) (t : TensorEnt) (q : Partner × Nat) : State :=
  let s := setCtxState s jk r q.2 2
  if Tab.get 0 (getJob s jk).round.split q.2 = round + 1 then s
  else raiseRound (modRound s jk (fun o => { o with split := Tab.set o.split q.2 (round + 1) })) jk 0x03A2 round (some q.1.site) (some t)

/-- Queue the ROUND update tasks, one a chunk (R334). -/
def startOuter (s : State) (jk r : Nat) (im : Image) (t : TensorEnt) (step : Nat) : State :=
  match updateOf im 2 t with
  | none => s
  | some (k, st) => (List.range (chunkCount t)).foldl (fun s c => chunkTask s jk k t.id step c (uArg st) 0) (setRoundState s jk r 4)

/-- The close of a round on a shard: the terms of R349 into MERGE_TENSOR, the masks and counts, catch-ups, splits and the
divergence bound; then OUTER. -/
def doRoundClose (jk r : Nat) (s : State) : State :=
  match roundParts s jk r, shardPolicy (getJob s jk) r with
  | some (im, t, _, st), some pol =>
    let j := getJob s jk
    let a := roundShard j r
    let round := roundOf s j r
    let deadline := rdLe s (a + 0x10) 8 + pol.waitNs
    let ex := (partnersOf j r).filter (expectedAt s j im pol r round)
    let full := ex.all (fun q => (haulStamp (getHaul j r q.2) 1 (round - pol.lag)).isSome)
    if roundState s j r ≠ 2 || !(full || decide (deadline ≤ now s)) then s
    else
      let close := min deadline (now s + 1)
      let inc := (partnersOf j r).map (fun q => (q, includable s j pol r round close q))
      let own : MergeTerm := ⟨pol.site, round, 0, ((List.range (blockCount t)).flatMap (fun b =>
        match decodeBlock pol.mode (if pol.mode = 1 then 0 else pol.fraction) 0 b (blockPlaces t b) (Tab.get [] (getRShard j r).own b) with
        | some (vs, _, _) => vs
        | none => []))⟩
      let terms := own :: inc.flatMap (fun qv => qv.2.map (fun v => ⟨qv.1.1.site, v.round, round - v.round, (recvVals t pol.mode 0 j.cut.epoch v).1⟩))
      let terms := terms.mergeSort (fun x y => decide (x.site < y.site) || (x.site == y.site && decide (x.round ≤ y.round)))
      let poisoned := inc.foldl (fun n qv => qv.2.foldl (fun n v => n + (recvVals t pol.mode 0 j.cut.epoch v).2) n) 0
      let s := setRoundState s jk r 3
      let s := mergeCatchups s jk r round im t st pol
      let s := match xMerge im st with
        | none => s
        | some mt => putPlaces s (jk / 2) im mt (viewPlaces t) (mergePlace pol.w terms)
      let s := bumpRound s jk 0x28 poisoned
      let s := inc.foldl (fun s qv =>
        let p := qv.1.2
        let s := bumpRound (bumpRound s jk 0xC qv.2.length) jk 0x10 (qv.2.countP (fun v => decide (v.round + pol.lag < round)))
        let s := if qv.2.isEmpty then s else wrLe s (jobCtx j r p + 0xC) 4 round
        let gone := fun (v : RecvHaul) => v.type == 1 && v.complete.isSome && decide (v.round + pol.stale < round + 1)
        let h := getHaul (getJob s jk) r p
        let stale := h.recvs.countP (fun v => gone v && !(qv.2.any (fun x => x.round == v.round)) && !h.included.contains v.round)
        let s := bumpRound s jk 0x14 stale
        modHaul s jk r p (fun h => { h with
          included := (h.included ++ qv.2.map (·.round)).filter (fun x => decide (round < x + 256))
          recvs := h.recvs.filter (fun v => !gone v && !(v.type == 1 && qv.2.any (fun x => x.round == v.round))) })) s
      let got := (inc.filter (fun qv => !qv.2.isEmpty)).map (fun qv => qv.1.2)
      let s := wrLe s (a + 0x28) 8 (got.foldl (fun m p => m + 2 ^ p) 0)
      let lacks := (partnersOf j r).any (fun q => ctxState s (getJob s jk) r q.2 != 0 && !got.contains q.2)
      let s := if lacks then
          let s := bumpRound s jk 0x20 1
          if (getJob s jk).round.short = round + 1 then s
          else raiseRound (modRound s jk (fun o => { o with short := round + 1 })) jk 0x03A0 round none (some t)
        else s
      let s := ex.foldl (fun s q => if pol.stale < round - rdLe s (jobCtx j r q.2 + 0xC) 4 then turnSplit s jk r round t q else s) s
      let j' := getJob s jk
      let apart := (partnersOf j' r).filter (fun q => let c := ctxState s j' r q.2; c == 2 || c == 3)
      let isFull := ex.all (fun q => got.contains q.2) && apart.isEmpty
      let s := if isFull then wrLe s (a + 0xC) 4 round else s
      let causes := (apart.filter (fun q => decide (pol.dMax ≤ round - rdLe s (jobCtx j' r q.2 + 0xC) 4))).map Prod.snd
      let s := modRShard s jk r (fun x => { x with full := isFull, pause := !causes.isEmpty, causes := causes, merged := List.range (chunkCount t), outer := [] })
      wakePart (putClosed (startOuter s jk r im t ((round + 1) * max 1 im.sched.roundSteps - 1)) jk im) (jk / 2)
  | _, _ => s

def execRoundClose (job rank : Nat) (s : State) : Host.Outcome State Fault Refusal := done (doRoundClose job rank s)

/-! ## Install (R351, R361, R390) -/

/-- Every ROUND update task of a shard has reached TEND: INSTALL begins (R351); with a full close the split anchor takes
the new anchor (R350). -/
def startInstall (s : State) (jk r : Nat) (im : Image) (t : TensorEnt) (st : Station) : State :=
  let j := getJob s jk
  let s := setRoundState s jk r 5
  let s := if (getRShard j r).full then
      match xAnchor im st, xSplit im st with
      | some an, some sa => copyTensor s (jk / 2) im t an sa
      | _, _ => s
    else s
  let v := shardVersion s j r
  let s := takeTally (modRShard s jk r (fun x => { x with installed := v / max 1 im.sched.roundSteps })) jk r v
  let sb := shardStandby s j r
  if sb = 0xFFFF || sb = j.policy.replica then endInstall (sendResult s jk r im t) jk r im t st
  else sendRoundState s jk r im t

/-- A ROUND update task has reached TEND. -/
def roundUpdateEnded (s : State) (jk : Nat) (tk : Task) (u : Station) : State :=
  match (getJob s jk).image with
  | none => s
  | some im =>
    match masterNamed im (uMaster u) with
    | none => s
    | some (_, r) =>
      match roundParts s jk r with
      | none => s
      | some (_, t, _, st) =>
        if roundState s (getJob s jk) r ≠ 4 then s
        else
          let s := modRShard s jk r (fun x => { x with outer := insertNat x.outer tk.ti })
          if (getRShard (getJob s jk) r).outer.length = chunkCount t then startInstall s jk r im t st else s

/-- The standby has accepted the round state: the result goes to the other holders (R351). -/
def doRoundAccept (tag tensor : Nat) (shard : List Nat) (round replica : Nat) (s : State) : State :=
  withJob s tag (fun jk =>
    let j := getJob s jk
    match j.image with
    | none => s
    | some im =>
      match masterOf im tensor shard with
      | none => s
      | some (_, r) =>
        match roundParts s jk r with
        | none => s
        | some (_, t, _, st) =>
          if roundState s j r = 5 && roundOf s j r == round && shardStandby s j r == replica && ownerHere s j r then
            endInstall (sendResult s jk r im t) jk r im t st
          else s)

def execRoundStateAcceptReceive (tag : Nat) (tensor : ShardName) (round replica : Nat) (s : State) : Host.Outcome State Fault Refusal :=
  done (doRoundAccept tag tensor.1 tensor.2 round replica s)

/-- A ready report reaches the coordinator (R358). -/
def execRoundReadyReport (tag site : Nat) (s : State) : Host.Outcome State Fault Refusal :=
  done (withJob s tag (fun jk => tryResume (modRound s jk (fun q => { q with reports := insertNat q.reports site, pausers := insertNat q.pausers site })) jk))

/-- A resume notice arrives: of a pause at the divergence bound (cause 1), or of PSM_JOB_RESUME (cause 0) (R358, R495). -/
def execRoundResume (tag cause : Nat) (s : State) : Host.Outcome State Fault Refusal :=
  done (withJob s tag (fun jk => if cause = 1 then resumeRound s jk else wakePart (endHold s jk .hostPause) (jk / 2)))

end Sys2Proof.Machine
end

