-- ==== Sys2Proof/Machine/Gxe.lean ====
section
/-! DEFINITION. The Gnoram exchange engine: packets (R377 to R384, R386, R389), sending and retransmission (R343 to R346),
receiving and assembly (R341, R342, R379, R380, R382), acknowledgements, keepalives, refusals, timers, and the bootstrap of a
joining site (R359, R360). -/

namespace Sys2Proof.Machine

/-! ## Partners -/

def Rtt.reset : Rtt := ⟨false, [], false, 0, 0, 0⟩
def getRtt (j : Job) (p : Nat) : Rtt := Tab.get Rtt.reset j.round.rtt p
def modRtt (s : State) (jk p : Nat) (f : Rtt → Rtt) : State := modRound s jk (fun q => { q with rtt := Tab.mod Rtt.reset q.rtt p f })

/-- Add to a saturating 16-bit count of a context record (R391). -/
def bumpCtx (s : State) (jk r p off : Nat) : State :=
  let a := jobCtx (getJob s jk) r p + off
  wrLe s a 2 (satAdd 16 (rdLe s a 2) 1)

/-- Last closed round of a shard; 0xFFFFFFFF where none has closed. -/
def lastClosed (s : State) (j : Job) (r : Nat) : Nat :=
  let st := roundState s j r
  if 3 ≤ st && st ≤ 6 then roundOf s j r else (roundOf s j r + 2 ^ 32 - 1) % 2 ^ 32

/-- CIPHER_CLEAR_USED once per partner per round; the packet is counted (R413). -/
def noteClear (s : State) (jk r p site : Nat) : State :=
  let round := roundOf s (getJob s jk) r
  let old := (getRtt (getJob s jk) p).clearRound
  let s := modRtt s jk p (fun x => { x with clears := x.clears + 1, clearRound := round + 1 })
  if old = round + 1 then s else raisePart s (some (jk / 2)) 0x03C6 (sourceId s srcMp) [(1, site)]

/-! ## Packets (R378, R383) -/

/-- What a packet says beside its addressing. -/
structure Pkt where
  type : Nat
  last : Bool
  groupN : Nat
  round : Nat
  full : Nat
  seq : Nat
  seg : Nat
  len : Nat
  body : List Byte
deriving DecidableEq, Repr

/-- The 64 B header, in network byte order, with the nonce in place. -/
def pktHeader (tm5 clear : Bool) (site dst inc : Nat) (t : TensorEnt) (epoch : Nat) (k : Pkt) (nonce : List Byte) : List Byte :=
  toBe 2 0x474E ++ toBe 1 (if tm5 then 1 else 2) ++ toBe 1 k.type ++ toBe 1 (b2n clear * 128 + b2n k.last * 64) ++ toBe 1 site ++ toBe 1 dst ++ toBe 1 k.groupN
    ++ toBe 4 t.id ++ (padTo 0 4 t.shard).flatMap (toBe 2) ++ toBe 4 (if tm5 then 0 else epoch) ++ toBe 4 k.round ++ toBe 4 (if tm5 then 0 else k.full)
    ++ toBe 4 (if tm5 then 0 else inc) ++ padTo 0 12 nonce ++ toBe 8 k.seq ++ toBe 2 k.seg ++ toBe 2 0 ++ toBe 4 k.len

/-- Nanoseconds that a packet takes at PATH_MBPS: its IP packet (R346, R377). -/
def packetNs (mbps body : Nat) (v4 : Bool) : Nat := ceilDiv ((body + 84 + 8 + (if v4 then 20 else 40)) * 8000) (max 1 mbps)

/-- Send one packet of a context: encrypted under the partner's slot, in cleartext where R413 allows it, or lost where the
slot is EMPTY (R406). None where the slot's nonces have run out and the packet waits (R409). -/
def sendPkt (s : State) (jk r p : Nat) (k : Pkt) : Option State :=
  let j := getJob s jk
  match j.image.bind (fun im => masterAt im r), shardPolicy j r with
  | some t, some pol =>
    match pol.partners[p]? with
    | none => none
    | some q =>
      let tm5 := pol.mode == 1
      let inc := rdLe s (jobCtx j r p + 4) 4
      let ai := rdLe s (jobCtx j r p + 2) 2
      let addr := pol.addrs.getD ai (0, 0, 0, 0)
      let s := modRtt s jk p (fun x => { x with paced := max x.paced (now s) + packetNs q.mbps k.body.length (bit addr.2.2.2 0) })
      let out := fun (s : State) (h ct tag : List Byte) =>
        let d := h ++ ct ++ tag
        emit s .haul q.site [addr.1, addr.2.1] (d ++ toLe 4 (crc32c d))
      let s := expireSlot s q.keySlot
      let slot := getSlot s q.keySlot
      if slot.st ≠ 1 && bit pol.flags 0 then
        some (noteClear (out s (pktHeader tm5 true pol.site q.site inc t j.cut.epoch k []) k.body (List.replicate 16 0)) jk r p q.site)
      else if slot.st = 0 then some s
      else
        match sealSlot s q.keySlot (decide (q.site < pol.site)) (pktHeader tm5 false pol.site q.site inc t j.cut.epoch k) k.body with
        | (_, none) => none
        | (s, some (nonce, ct, tag)) => some (out s (pktHeader tm5 false pol.site q.site inc t j.cut.epoch k nonce) ct tag)
  | _, _ => none

/-- A packet without a body of a haul: an acknowledgement, a keepalive or a refusal. -/
def plainPkt (type round : Nat) (body : List Byte) : Pkt :=
  { type := type, last := false, groupN := 0, round := round, full := 0, seq := 0, seg := 0, len := 0, body := body }

/-- Send an ACK: RX_BASE and RX_MAP (R379, R380). -/
def sendAck (s : State) (jk r p : Nat) : State :=
  let j := getJob s jk
  let d := rdData s (jobCtx j r p + 0x28) 16
  let s := modHaul s jk r p (fun h => { h with ackDue := (0, 0) })
  (sendPkt s jk r p (plainPkt 6 (lastClosed s j r) d)).getD s

/-- TYPE of a data packet by its haul's content (R379). -/
def typeOf (content : Nat) : Nat := content + 1

/-- Segments of a held haul as they are read from ROUND_BUF; none where a block header is poisoned (R387). -/
def haulSegment (s : State) (j : Job) (r : Nat) (h : SendHaul) (seg : Nat) : Option (List Byte) :=
  match j.image with
  | none => none
  | some im =>
    match masterAt im r, (masterAt im r).bind (fun t => exchangeOf im 1 t) with
    | some t, some (_, st) => (readHaul s t (roundBuf im st + h.off) h.len).map (fun d => (d.drop (8192 * seg)).take 8192)
    | _, _ => none

/-- Exclusive OR of segments, each padded to 8,192 B (R381). -/
def xorSegs (ds : List (List Byte)) : List Byte :=
  ds.foldl (fun a d => (a.zip (padTo 0 8192 d)).map (fun x => x.1 ^^^ x.2)) (List.replicate 8192 0)

/-- A haul whose header or block header is poisoned cannot be sent: HAUL_NONFINITE, and it counts as abandoned (R387). -/
def abandonHaul (s : State) (jk r p : Nat) (h : SendHaul) : State :=
  let j := getJob s jk
  raiseNonfinite (releaseHauls s jk r p (fun x => x == h)) jk r h.round (j.image.bind (fun im => masterAt im r))

/-- A group of a haul whose data packets have all been sent once and whose parity packet has not (R381). -/
def parityDue (h : SendHaul) : Option Nat :=
  (List.range (ceilDiv (segCount h.len) 16)).find? (fun g => decide (min (16 * (g + 1)) (segCount h.len) ≤ h.next) && !h.parity.contains g)

def modSend (s : State) (jk r p n : Nat) (f : SendHaul → SendHaul) : State := modHaul s jk r p (fun x => { x with sends := modAt x.sends n f })

/-- The data packet of one segment. -/
def dataPkt (h : SendHaul) (seq seg : Nat) (d : List Byte) : Pkt :=
  { type := typeOf h.content, last := decide (seg + 1 = segCount h.len), groupN := 0, round := h.round, full := h.full, seq := seq, seg := seg, len := h.len, body := d }

/-- The held haul whose packet leaves next: one whose sending has begun goes on, so that its numbers stay consecutive (R343, R382). -/
def nextSend (h : HaulCtx) (par : Bool) : Option Nat :=
  let wants := fun (x : SendHaul) => decide (x.next < segCount x.len) || (par && x.seq0 != unsent && (parityDue x).isSome)
  match h.sends.findIdx? (fun x => wants x && decide (0 < x.next)) with
  | some n => some n
  | none => h.sends.findIdx? wants

/-- Send the next packet of a context whose pace allows it (R346, R380, R381). Nothing leaves while a SAVE reads (R561). -/
def doHaulSend (jk r p : Nat) (s : State) : State :=
  let j := getJob s jk
  let a := jobCtx j r p
  if j.phase != .running || j.round.policy.isNone || snapshotReads s jk || ctxState s j r p == 0 || decide (now s < (getRtt j p).paced) then s
  else
    let h := getHaul j r p
    let par := ((shardPolicy j r).map (fun q => bit q.flags 1)).getD false
    match nextSend h par with
    | none => s
    | some n =>
      match h.sends[n]? with
      | none => s
      | some x =>
        match (if par && x.seq0 != unsent then parityDue x else none) with
        | some g =>
          let segs := (span (16 * g) 16).filter (· < segCount x.len)
          match segs.mapM (haulSegment s j r x) with
          | none => abandonHaul s jk r p x
          | some ds =>
            let k : Pkt := { type := 5, last := false, groupN := segs.length, round := x.round, full := 0, seq := x.seq0 + 16 * g, seg := g, len := x.len, body := xorSegs ds }
            match sendPkt s jk r p k with
            | none => s
            | some s => modSend s jk r p n (fun x => { x with parity := x.parity ++ [g] })
        | none =>
          let seq := rdLe s (a + 0x18) 8
          if 64 ≤ seq - rdLe s (a + 0x20) 8 then s
          else
            match haulSegment s j r x x.next with
            | none => abandonHaul s jk r p x
            | some d =>
              match sendPkt s jk r p (dataPkt x seq x.next d) with
              | none => s
              | some s =>
                let rto := if (getRtt j p).any then rdLe s (partnerRec j p + 8) 4 else 1000000000
                let s := modSend s jk r p n (fun x => { x with seq0 := if x.next = 0 then seq else x.seq0, next := x.next + 1 })
                let s := modHaul s jk r p (fun y => { y with flight := y.flight ++ [⟨seq, (x.content, x.round, x.next), now s, now s, 0, false, rto⟩] })
                wrLe s (a + 0x18) 8 (seq + 1)

def execHaulPacketSend (job rank partner : Nat) (s : State) : Host.Outcome State Fault Refusal := done (doHaulSend job rank partner s)

/-! ## Retransmission (R344) -/

/-- Send one packet in flight again, with a fresh nonce. -/
def resend (s : State) (jk r p seq : Nat) (fast : Bool) : State :=
  let j := getJob s jk
  let h := getHaul j r p
  match h.flight.find? (fun f => f.seq == seq), h.sends.find? (fun x => decide (x.seq0 ≤ seq ∧ seq < x.seq0 + segCount x.len)) with
  | some f, some x =>
    match haulSegment s j r x f.what.2.2 with
    | none => abandonHaul s jk r p x
    | some d =>
      match sendPkt s jk r p (dataPkt x seq f.what.2.2 d) with
      | none => s
      | some s =>
        let s := modHaul s jk r p (fun y => { y with flight := y.flight.map (fun g =>
          if g.seq == seq then { g with last := now s, tries := g.tries + 1, fast := g.fast || fast, rto := if fast then g.rto else min 8000000000 (2 * g.rto) } else g) })
        let s := bumpRound s jk 0x2C 1
        let b := partnerRec j p + 0x10
        wrLe s b 4 (satAdd 32 (rdLe s b 4) 1)
  | _, _ => s

/-- The RTO of a packet expires (R344). -/
def doRto (jk r p seq : Nat) (s : State) : State :=
  let j := getJob s jk
  if snapshotReads s jk || decide (now s < (getRtt j p).paced) then s
  else
    match (getHaul j r p).flight.find? (fun f => f.seq == seq) with
    | some f => if decide (f.last + f.rto ≤ now s) then resend s jk r p seq false else s
    | none => s

def execHaulRtoExpire (job rank partner seq : Nat) (s : State) : Host.Outcome State Fault Refusal := done (doRto job rank partner seq s)

/-! ## Round trips (R344, R345) -/

/-- Take one round-trip sample of a partner. -/
def rttSample (s : State) (jk p m stepNs : Nat) (site : Nat) : State :=
  let j := getJob s jk
  let a := partnerRec j p
  let x := getRtt j p
  let srtt := rdLe s a 4
  let var := rdLe s (a + 4) 4
  let thr := if stepNs = 0 then 1000000 else stepNs
  let put := fun (s : State) (srtt var : Nat) => wrBytes s a (toLe 4 srtt ++ toLe 4 var ++ toLe 4 (max (srtt + 4 * var) 2000000)) false
  if !x.any then put (modRtt s jk p (fun x => { x with any := true, run := [] })) m (m / 2)
  else
    let away := decide (thr < max m srtt - min m srtt)
    let above := decide (srtt < m)
    let run := if !away then [] else if x.run.isEmpty || x.above == above then x.run ++ [m] else [m]
    let var' := (3 * var + (max m srtt - min m srtt)) / 4
    let srtt' := (7 * srtt + m) / 8
    if run.length < 8 then put (modRtt s jk p (fun x => { x with run := run, above := above })) srtt' var'
    else
      let so := run.mergeSort (fun a b => decide (a ≤ b))
      let mid := (so.getD 3 0 + so.getD 4 0) / 2
      let s := put (modRtt s jk p (fun x => { x with run := [] })) mid (mid / 4)
      let s := wrBytes s (a + 0x14) (toLe 4 (satAdd 32 (rdLe s (a + 0x14) 4) 1) ++ toLe 4 ((mid + 2 ^ 32 - srtt') % 2 ^ 32)) false
      raiseRound (bumpRound s jk 0x38 1) jk 0x03A7 (rdLe s (roundRec j) 4) (some site) none

/-! ## Finding the context (R384) -/

/-- A received packet's header fields. -/
structure PktHdr where
  type : Nat
  clear : Bool
  src : Nat
  groupN : Nat
  round : Nat
  full : Nat
  inc : Nat
  seq : Nat
  seg : Nat
  len : Nat
deriving DecidableEq, Repr

def parseHdr (d : List Byte) : PktHdr :=
  { type := fieldBe d 3 1, clear := bit (fieldBe d 4 1) 7, src := fieldBe d 5 1, groupN := fieldBe d 7 1, round := fieldBe d 0x18 4, full := fieldBe d 0x1C 4,
    inc := fieldBe d 0x20 4, seq := fieldBe d 0x30 8, seg := fieldBe d 0x38 2, len := fieldBe d 0x3C 4 }

/-- Every job, shard and partner index that a packet's source site, tensor and shard indices name. -/
def findCtxs (s : State) (d : List Byte) : List (Nat × Nat × Nat) :=
  (List.range 8).flatMap (fun jk =>
    let j := getJob s jk
    match j.phase, j.image with
    | .running, some im => (held im).flatMap (fun tr =>
        if tr.1.id == fieldBe d 8 4 && (padTo 0 4 tr.1.shard) == (List.range 4).map (fun k => fieldBe d (0xC + 2 * k) 2) then
          (partnersOf j tr.2).filterMap (fun q => if q.1.site == fieldBe d 5 1 && partnerOk q.1 then some (jk, tr.2, q.2) else none)
        else [])
    | _, _ => [])

/-- The job that a packet of an older epoch belongs to, where no shard of the present catalogue is the one it names: a partner's site and a
master's tensor ID, of the present or the former catalogue (R363). -/
def olderEpoch (s : State) (d : List Byte) : Option Nat :=
  (List.range 8).find? (fun jk =>
    let j := getJob s jk
    match j.round.policy with
    | some pol =>
      j.phase == .running && pol.mode != 1 && pol.partners.any (fun q => q.site == fieldBe d 5 1 && partnerOk q) && fieldBe d 6 1 == pol.site
        && fieldBe d 0 2 == 0x474E && fieldBe d 2 1 == 2 && decide (1 ≤ fieldBe d 3 1 ∧ fieldBe d 3 1 ≤ 8) && decide (fieldBe d 0x14 4 < j.cut.epoch)
        && (j.image.toList ++ (j.oldImage.map Prod.fst).toList).any (fun im => (masters im).any (fun t => t.id == fieldBe d 8 4))
    | none => false)

/-- The fate of a packet at the checks of R384: the state after counts and events, and the context with its plaintext where
it passed check 7. -/
def checkPkt (s : State) (d : List Byte) : State × Option (Nat × Nat × Nat × List Byte) :=
  if d.length < 84 then (s, none)
  else
    match findCtxs s d with
    | [] =>
      match olderEpoch s d with
      | some jk => if snapshotReads s jk || crc32c (d.take (d.length - 4)) ≠ fieldLe d (d.length - 4) 4 then (s, none) else (bumpRound s jk 0x1C 1, none)
      | none => (s, none)
    | (jk, r, p) :: _ =>
      let j := getJob s jk
      match shardPolicy j r, (partnersOf j r)[p]? with
      | some pol, some (q, _) =>
        let tm5 := pol.mode == 1
        let h := d.take (d.length - 4)
        let t := j.image.bind (fun im => masterAt im r)
        let ep := fieldBe d 0x14 4
        let ty := fieldBe d 3 1
        if snapshotReads s jk || (getPart s (jk / 2)).resetting then (s, none)
        else if crc32c h ≠ fieldLe d (d.length - 4) 4 then (bumpCtx s jk r p 0x3A, none)
        else if fieldBe d 0 2 ≠ 0x474E || fieldBe d 2 1 ≠ (if tm5 then 1 else 2) || fieldBe d 6 1 ≠ pol.site || ty = 0 || 8 < ty
            || (tm5 && ((2 ≤ ty && ty ≤ 5) || ty == 8)) then (bumpCtx s jk r p 0x3E, none)
        else if !tm5 && ep < j.cut.epoch then (bumpRound s jk 0x1C 1, none)
        else if !tm5 && j.cut.epoch < ep then (s, none)
        else if ctxState s j r p = 0 then (s, none)
        else
          let hd := d.take 64
          let body := (h.drop 64).take (h.length - 80)
          let tag := h.drop (h.length - 16)
          if bit (fieldBe d 4 1) 7 then
            if bit pol.flags 0 then (noteClear s jk r p q.site, some (jk, r, p, body))
            else
              let s := bumpCtx s jk r p 0x3C
              if (getHaul j r p).raised.2 = roundOf s j r + 1 then (s, none)
              else (raiseRound (modHaul s jk r p (fun x => { x with raised := (x.raised.1, roundOf s j r + 1) })) jk 0x03B2 (roundOf s j r) (some q.site) t, none)
          else
            match openSlotGcm s q.keySlot ((hd.drop 0x24).take 12) hd body tag with
            | some pt => (s, some (jk, r, p, pt))
            | none =>
              let s := bumpCtx s jk r p 0x38
              if (getHaul j r p).raised.1 = roundOf s j r + 1 then (s, none)
              else (raiseRound (modHaul s jk r p (fun x => { x with raised := (roundOf s j r + 1, x.raised.2) })) jk 0x03B0 (roundOf s j r) (some q.site) t, none)
      | _, _ => (s, none)

/-! ## What every authenticated packet does (R340, R341, R362) -/

/-- SPLIT turns CATCHUP at any authenticated packet (R340); the own catch-up is formed at once where the shard is PAUSED. -/
def heardFrom (s : State) (jk r p site : Nat) : State :=
  let s := modHaul s jk r p (fun h => { h with heard := now s })
  let j := getJob s jk
  if ctxState s j r p ≠ 2 then s
  else
    let s := wrLe (setCtxState s jk r p 3) (jobCtx j r p + 1) 1 0
    let s := modHaul s jk r p (fun h => { h with own := none })
    match roundParts s jk r with
    | none => s
    | some (im, t, _, st) =>
      let s := raiseRound s jk 0x03A3 (roundOf s j r) (some site) (some t)
      if roundState s j r = 6 then formCatchups s jk r (roundOf s j r + 1) im t st else s

/-- A held haul is sent again from its first segment. -/
def sendAgain (x : SendHaul) : SendHaul := { x with next := 0, seq0 := unsent, acked := [], parity := [] }

/-- Adopt a higher incarnation: receive state and partial streams go, the mirror's address follows the packet's source, and numbers start
from 0 (R341, log 30). Held hauls that the former mirror had not acknowledged whole are sent again; the others wait for the last closed round
that the new mirror reports (R362). -/
def adopt (s : State) (jk r p site inc : Nat) (src : Nat × Nat) : State :=
  let j := getJob s jk
  let a := jobCtx j r p
  let s := wrBytes (wrLe s (a + 8) 4 inc) (a + 0x28) (List.replicate 16 0) false
  let addrs := ((shardPolicy j r).map (·.addrs)).getD []
  let s := match addrs.findIdx? (fun x => x.1 == src.1 && x.2.1 == src.2 && x.2.2.1 == site) with
    | some n => wrLe s (a + 2) 2 n
    | none => s
  let s := modHaul s jk r p (fun h => { h with
    recvs := h.recvs.filter (fun v => v.complete.isSome), parity := [], ackDue := (0, 0), flight := [], newMirror := true
    sends := h.sends.map (fun x => if haulSent x then { x with seq0 := unsent } else sendAgain x) })
  let s := wrBytes s (a + 0x18) (List.replicate 16 0) false
  raiseRound s jk 0x03A9 (roundOf s j r) (some site) (j.image.bind (fun im => masterAt im r))

/-- Checks 1 to 8 of R384 on a packet of one TYPE; the rest is done where it passes. A packet of another TYPE is the work of
that TYPE's own command; one of a reserved TYPE is refused under any. -/
def withPkt (s : State) (want : Nat) (src : Nat × Nat) (d : List Byte) (f : State → Nat → Nat → Nat → Partner → RoundPolicy → PktHdr → List Byte → State) : State :=
  let ty := fieldBe d 3 1
  if ty ≠ want && 1 ≤ ty && ty ≤ 8 then s
  else
    match checkPkt s d with
    | (s, none) => s
    | (s, some (jk, r, p, body)) =>
      let j := getJob s jk
      match shardPolicy j r, (partnersOf j r)[p]? with
      | some pol, some (q, _) =>
        let h := parseHdr d
        let s := heardFrom s jk r p q.site
        let known := rdLe s (jobCtx j r p + 8) 4
        if pol.mode ≠ 1 && h.inc < known then s
        else
          let s := if pol.mode ≠ 1 && known < h.inc then adopt s jk r p q.site h.inc src else s
          f s jk r p q pol h body
      | _, _ => s

/-! ## Sequence numbers (R343, R380, R390) -/

inductive SeqFate where
  | fresh | duplicate | beyond
deriving DecidableEq, Repr

def seqFate (base map seq : Nat) : SeqFate :=
  if seq < base then .duplicate
  else if base + 64 < seq then .beyond
  else if base < seq && bit map (seq - base - 1) then .duplicate
  else .fresh

/-- RX_BASE and RX_MAP with one more number received; `fuel` bounds the advance. -/
def advance (base map fuel : Nat) : Nat × Nat :=
  match fuel with
  | 0 => (base, map)
  | f + 1 => if map % 2 = 1 then advance (base + 1) (map / 2) f else (base + 1, map / 2)

/-- A number is received: bit 0 of the map stands for RX_BASE + 1. -/
def markSeq (base map seq : Nat) : Nat × Nat :=
  if seq = base then advance base map 65 else (base, map ||| 2 ^ (seq - base - 1))

def setRx (s : State) (a base map : Nat) : State := wrBytes s (a + 0x28) (toLe 8 base ++ toLe 8 map) false

/-- One more data packet to acknowledge: at once after the fourth (R380). -/
def dueAck (s : State) (jk r p : Nat) : State :=
  let h := getHaul (getJob s jk) r p
  if 4 ≤ h.ackDue.1 + 1 then sendAck s jk r p
  else modHaul s jk r p (fun h => { h with ackDue := (h.ackDue.1 + 1, if h.ackDue.1 = 0 then now s else h.ackDue.2) })

/-- Check 9: none where the packet is discarded. -/
def takeSeq (s : State) (jk r p seq : Nat) : State × Bool :=
  let j := getJob s jk
  let a := jobCtx j r p
  let s := if (getHaul j r p).anySeq then modHaul (setRx s a seq 0) jk r p (fun h => { h with anySeq := false }) else s
  let base := rdLe s (a + 0x28) 8
  let map := rdLe s (a + 0x30) 8
  match seqFate base map seq with
  | .duplicate => (sendAck (bumpRound s jk 0x34 1) jk r p, false)
  | .beyond => (s, false)
  | .fresh => let (b, m) := markSeq base map seq; (setRx s a b m, true)

/-! ## Assembly (R342, R343, R349, R382, R385) -/

def newRecv (type round full len : Nat) : RecvHaul :=
  { type := type, round := round, full := full, len := len, segs := [], seqs := [], complete := none, bad := false }

/-- Change the stream of a type and round, or make it. -/
def modRecv (s : State) (jk r p type round full len : Nat) (f : RecvHaul → RecvHaul) : State :=
  modHaul s jk r p (fun h =>
    if h.recvs.any (fun v => v.type == type && v.round == round) then { h with recvs := h.recvs.map (fun v => if v.type == type && v.round == round then f v else v) }
    else { h with recvs := h.recvs ++ [f (newRecv type round full len)] })

def findRecv (j : Job) (r p type round : Nat) : Option RecvHaul := (getHaul j r p).recvs.find? (fun v => v.type == type && v.round == round)
def dropRecv (s : State) (jk r p type round : Nat) : State := modHaul s jk r p (fun h => { h with recvs := h.recvs.filter (fun v => !(v.type == type && v.round == round)) })

/-- A DIFF haul is complete: a round already included is a duplicate, one too old for every later close is stale. -/
def diffComplete (s : State) (jk r p round : Nat) (pol : RoundPolicy) : State :=
  let j := getJob s jk
  let cr := rdLe s (jobCtx j r p + 0x10) 4
  if (getHaul j r p).included.contains round then dropRecv (bumpRound s jk 0x34 1) jk r p 1 round
  else if round + pol.stale < roundOf s j r || (cr != 0xFFFFFFFF && round < cr) then dropRecv (bumpRound s jk 0x14 1) jk r p 1 round
  else s

/-- A partner's catch-up is complete: its rounds before CATCHUP_ROUND go (R353). -/
def catchupComplete (s : State) (jk r p round : Nat) : State :=
  let j := getJob s jk
  let a := jobCtx j r p
  let s := wrLe (wrLe s (a + 0x10) 4 round) (a + 1) 1 (rdLe s (a + 1) 1 ||| 4)
  let old := fun (v : RecvHaul) => v.type == 1 && decide (v.round < round)
  let n := (getHaul j r p).recvs.countP (fun v => old v && v.complete.isSome)
  let s := modHaul (bumpRound s jk 0x14 n) jk r p (fun h => { h with recvs := h.recvs.filter (fun v => !old v) })
  reportReady s jk

/-- Install a complete bootstrap (R360): anchor, split anchor and momentum; the master from the anchor; spoil and inner state
+0; the working copies; then the result goes to every holder. -/
def installBootstrap (s : State) (jk r p : Nat) (pol : RoundPolicy) : State :=
  let j := getJob s jk
  match roundParts s jk r with
  | none => s
  | some (im, t, _, st) =>
    match (getHaul j r p).recvs.find? (fun v => v.type == 3 && v.complete.isSome), (getHaul j r p).recvs.find? (fun v => v.type == 4 && v.complete.isSome), xAnchor im st with
    | some va, some vm, some an =>
      let anc := (recvVals t pol.mode 2 j.cut.epoch va).1
      let mom := (recvVals t pol.mode 3 j.cut.epoch vm).1
      let put := fun (s : State) (te : TensorEnt) (vs : List Word) => putPlaces s (jk / 2) im te (viewPlaces t) (fun n => vs.getD n 0)
      let zero := fun (s : State) (te : TensorEnt) => wrOwn s (jk / 2) (tensorAddr im te) (List.replicate (tensorBytes te) 0) false
      let moms := (((updateOf im 2 t).map (fun ks => (uStates ks.2).filter (· != an.id))).getD []).filterMap (tensorOf im)
      let s := put s an anc
      let s := match xSplit im st with | some sa => put s sa anc | none => s
      let s := moms.foldl (fun s m => put s m mom) s
      let s := put s t anc
      let s := match xSpoil im st with | some sp => zero s sp | none => s
      let s := (stateTensors im t).foldl zero s
      let s := regenCopies s jk im t
      let s := modHaul s jk r p (fun h => { h with recvs := h.recvs.filter (fun v => v.type != 3 && v.type != 4) })
      let a := jobCtx j r p
      let s := setCtxState (wrLe s (a + 1) 1 (rdLe s (a + 1) 1 ||| 1)) jk r p 1
      let s := startInstall (wrLe s (roundShard j r + 8) 4 pol.joinRound) jk r im t st
      let j := getJob s jk
      if (shardRanks im).all (fun q => !ownerHere s j q || roundState s j q != 7) then
        raiseRound s jk 0x03A8 pol.joinRound (some pol.site) none
      else s
    | _, _, _ => s

/-- A stream all of whose segments are held is decoded (R385), and acted on. -/
def tryComplete (s : State) (jk r p type round : Nat) (pol : RoundPolicy) (site : Nat) : State :=
  let j := getJob s jk
  match findRecv j r p type round, j.image.bind (fun im => masterAt im r) with
  | some v, some t =>
    if v.complete.isSome || v.bad || v.segs.length < segCount v.len || segCount v.len = 0 then s
    else
      match decodeHaul t pol.mode (type - 1) round j.cut.epoch (recvBytes v) with
      | none =>
        let s := modRecv s jk r p type round v.full v.len (fun v => { v with bad := true })
        raiseRound (bumpCtx s jk r p 0x3E) jk 0x03B1 round (some site) (some t)
      | some _ =>
        let s := modRecv s jk r p type round v.full v.len (fun v => { v with complete := some (now s) })
        match type with
        | 1 => diffComplete s jk r p round pol
        | 2 => catchupComplete s jk r p round
        | _ => if ctxState s j r p = 4 && roundState s j r = 7 then installBootstrap s jk r p pol else s
  | _, _ => s

/-- Length of a segment. -/
def segLen (len k : Nat) : Nat := min 8192 (len - 8192 * k)

/-- Numbers of a parity packet's group that have not been received. -/
def missingOf (base map : Nat) (g : ParityPkt) : List Nat := (span g.seq g.groupN).filter (fun q => seqFate base map q != .duplicate)

/-- The stream that a parity packet belongs to: the one whose segments carry the numbers of its groups. -/
def parityStream (h : HaulCtx) (g : ParityPkt) : Option RecvHaul :=
  h.recvs.find? (fun v => v.round == g.round && v.len == g.len && v.complete.isNone && !v.bad && v.seqs.any (fun e => e.2 + 16 * g.group == g.seq + e.1))

/-- What a parity packet rebuilds (R382): TYPE of the stream, segment, number and bytes, where one packet of its group is missing and the others
are held. A group of one packet that is its haul's first rebuilds the haul header, whose CONTENT tells the TYPE. -/
def rebuilt (h : HaulCtx) (base map : Nat) (g : ParityPkt) : Option (Nat × Nat × Nat × List Byte) :=
  match missingOf base map g with
  | [q] =>
    let k := 16 * g.group + (q - g.seq)
    let others := (span (16 * g.group) g.groupN).filter (· != k)
    match parityStream h g with
    | some v =>
      if others.all (fun i => (Tab.find v.segs i).isSome) then some (v.type, k, q, (xorSegs (g.body :: others.map (Tab.get [] v.segs))).take (segLen g.len k))
      else none
    | none =>
      let ty := fieldLe g.body 3 1 + 1
      if k = 0 && others.isEmpty && ty ≤ 4 then some (ty, 0, q, (xorSegs [g.body]).take (segLen g.len 0)) else none
  | _ => none

/-- Rebuild missing segments from the parity packets held (R382); those of whole groups go. -/
def tryRepair (s : State) (jk r p : Nat) (pol : RoundPolicy) (site : Nat) : State :=
  let rx := fun (s : State) => let a := jobCtx (getJob s jk) r p + 0x28; (rdLe s a 8, rdLe s (a + 8) 8)
  let s := (getHaul (getJob s jk) r p).parity.foldl (fun s g =>
    let (base, map) := rx s
    match rebuilt (getHaul (getJob s jk) r p) base map g with
    | none => s
    | some (ty, k, q, d) =>
      let s := match seqFate base map q with
        | .fresh => let (b, m) := markSeq base map q; setRx s (jobCtx (getJob s jk) r p) b m
        | _ => s
      let s := modRecv s jk r p ty g.round 0 g.len (fun v => { v with segs := Tab.set v.segs k d, seqs := Tab.set v.seqs k q })
      tryComplete (sendAck (bumpRound s jk 0x30 1) jk r p) jk r p ty g.round pol site) s
  let (base, map) := rx s
  modHaul s jk r p (fun h => { h with parity := h.parity.filter (fun g => !(missingOf base map g).isEmpty) })

/-- A data packet of one TYPE. A catch-up that reaches an ACTIVE context is refused and discarded (R354). -/
def doData (type : Nat) (src : Nat × Nat) (d : List Byte) (s : State) : State :=
  withPkt s type src d (fun s jk r p q pol h body =>
    match takeSeq s jk r p h.seq with
    | (s, false) => s
    | (s, true) =>
      if h.type = 2 && ctxState s (getJob s jk) r p = 1 then
        let s := dueAck s jk r p
        (sendPkt s jk r p (plainPkt 8 h.round [])).getD s
      else
        let s := modRecv s jk r p h.type h.round h.full h.len (fun v => { v with segs := Tab.set v.segs h.seg body, seqs := Tab.set v.seqs h.seg h.seq })
        tryRepair (tryComplete (dueAck s jk r p) jk r p h.type h.round pol q.site) jk r p pol q.site)

def execHaulDiffReceive (addr sport : Nat) (payload : List Byte) (s : State) : Host.Outcome State Fault Refusal := done (doData 1 (addr, sport) payload s)
def execHaulCatchupReceive (addr sport : Nat) (payload : List Byte) (s : State) : Host.Outcome State Fault Refusal := done (doData 2 (addr, sport) payload s)
def execHaulBootAnchorReceive (addr sport : Nat) (payload : List Byte) (s : State) : Host.Outcome State Fault Refusal := done (doData 3 (addr, sport) payload s)
def execHaulBootMomentumReceive (addr sport : Nat) (payload : List Byte) (s : State) : Host.Outcome State Fault Refusal := done (doData 4 (addr, sport) payload s)

/-- A PARITY packet: kept until its group is whole, which it may complete at once (R343, R381, R382). -/
def doParity (src : Nat × Nat) (d : List Byte) (s : State) : State :=
  withPkt s 5 src d (fun s jk r p q pol h body =>
    let g : ParityPkt := ⟨h.round, h.len, h.seg, h.groupN, h.seq, body⟩
    tryRepair (modHaul s jk r p (fun x => { x with parity := x.parity.filter (fun y => !(y.seq == g.seq && y.round == g.round)) ++ [g] })) jk r p pol q.site)

def execHaulParityReceive (addr sport : Nat) (payload : List Byte) (s : State) : Host.Outcome State Fault Refusal := done (doParity (addr, sport) payload s)

/-! ## Acknowledgements, keepalives, refusals -/

/-- The first last closed round that a new mirror reports: hauls later than it are sent again, and one not later whose sending has not begun
again is not needed (R362). -/
def tellMirror (closed : Nat) (x : SendHaul) : SendHaul :=
  let later := closed == 0xFFFFFFFF || decide (closed < x.round)
  if haulSent x && later then sendAgain x
  else if !later && x.content == 0 && x.next == 0 then { x with next := segCount x.len, acked := List.range (segCount x.len) }
  else x

/-- The partner reports its last closed round: PEER_CLOSED, HEARD_ROUND, and the hauls it no longer needs (R346). -/
def noteClosed (s : State) (jk r p round : Nat) (pol : RoundPolicy) : State :=
  let j := getJob s jk
  let s := wrLe (wrLe s (jobCtx j r p + 0x14) 4 round) (partnerRec j p + 0xC) 4 round
  let s := if (getHaul j r p).newMirror then modHaul s jk r p (fun h => { h with newMirror := false, sends := h.sends.map (tellMirror round) }) else s
  if round = 0xFFFFFFFF then s else releaseHauls s jk r p (fun h => h.content == 0 && decide (h.round + pol.stale ≤ round))

/-- Whether an ACK covers a sequence number. -/
def covers (base map seq : Nat) : Bool := decide (seq < base) || (decide (base < seq) && bit map (seq - base - 1))

/-- What a fully acknowledged haul brings: HAULS_SENT, the catch-up's flag, the bootstrap's end (R354, R359, R365). -/
def haulDone (s : State) (jk r p site : Nat) (x : SendHaul) : State :=
  let s := bumpRound s jk 8 1
  let j := getJob s jk
  let a := jobCtx j r p
  if x.content = 1 then reportReady (wrLe s (a + 1) 1 (rdLe s (a + 1) 1 ||| 2)) jk
  else if x.content = 2 || x.content = 3 then
    if (getHaul j r p).sends.any (fun y => (y.content == 2 || y.content == 3) && !haulSent y) then s
    else
      let s := setCtxState (wrLe s (a + 1) 1 (rdLe s (a + 1) 1 ||| 1)) jk r p 1
      let s := modHaul s jk r p (fun h => { h with sends := h.sends.filter (fun y => y.content != 2 && y.content != 3) })
      let streamed := fun (im : Image) => (held im).all (fun tr => !ownerHere s j tr.2 || !inRounds j im tr.1 ||
        (let c := ctxState s (getJob s jk) tr.2 p; c != 0 && c != 4))
      if (j.image.map streamed).getD false then raiseRound s jk 0x03A8 x.round (some site) none else s
  else s

/-- An ACK: acknowledged packets leave the flight and give samples; a packet that three later ones overtook is sent again
once (R344). The acknowledgement comes before any expiry (R388). -/
def doAck (src : Nat × Nat) (d : List Byte) (s : State) : State :=
  withPkt s 6 src d (fun s jk r p q pol h body =>
    let j := getJob s jk
    let a := jobCtx j r p
    let base := fieldLe body 0 8
    let map := fieldLe body 8 8
    let fl := (getHaul j r p).flight
    let got := fl.filter (fun f => covers base map f.seq)
    let left := fl.filter (fun f => !covers base map f.seq)
    let before := (getHaul j r p).sends
    let s := modHaul s jk r p (fun x => { x with flight := left, sends := x.sends.map (fun y => { y with
      acked := (got.filter (fun f => decide (y.seq0 ≤ f.seq ∧ f.seq < y.seq0 + segCount y.len))).foldl (fun l f => insertNat l (f.seq - y.seq0)) y.acked }) })
    let s := got.foldl (fun s f => if f.tries = 0 then rttSample s jk p (now s - f.first) pol.stepNs q.site else s) s
    let tx := rdLe s (a + 0x18) 8
    let s := wrLe s (a + 0x20) 8 ((left.map (·.seq)).foldl min tx)
    let s := ((getHaul (getJob s jk) r p).sends.filter (fun y => haulSent y && before.any (fun z => z.content == y.content && z.round == y.round && !haulSent z))).foldl
      (fun s y => haulDone s jk r p q.site y) s
    let s := noteClosed s jk r p h.round pol
    left.foldl (fun s f =>
      if !f.fast && decide (3 ≤ (List.range 64).countP (fun i => bit map i && decide (f.seq < base + 1 + i))) then resend s jk r p f.seq true else s) s)

def execHaulAckReceive (addr sport : Nat) (payload : List Byte) (s : State) : Host.Outcome State Fault Refusal := done (doAck (addr, sport) payload s)

/-- A KEEPALIVE (R340, R353). -/
def execHaulKeepaliveReceive (addr sport : Nat) (payload : List Byte) (s : State) : Host.Outcome State Fault Refusal :=
  done (withPkt s 7 (addr, sport) payload (fun s jk r p _ pol h _ => noteClosed s jk r p h.round pol))

/-- A REFUSE of this site's catch-up: the context returns to ACTIVE with LAST_INCLUDED at its current round (R354). -/
def execHaulRefuseReceive (addr sport : Nat) (payload : List Byte) (s : State) : Host.Outcome State Fault Refusal :=
  done (withPkt s 8 (addr, sport) payload (fun s jk r p _ _ h _ =>
    let j := getJob s jk
    if ctxState s j r p = 3 && (getHaul j r p).own.any (fun o => o.1 == h.round) then backToActive s jk r p (roundOf s j r) else s))

/-! ## Timers -/

/-- 100 µs after the first data packet not acknowledged, an ACK leaves (R380). -/
def execHaulAckDelayTimer (job rank partner : Nat) (s : State) : Host.Outcome State Fault Refusal :=
  done (let h := getHaul (getJob s job) rank partner
        if decide (0 < h.ackDue.1 ∧ h.ackDue.2 + 100000 ≤ now s) && !snapshotReads s job then sendAck s job rank partner else s)

/-- Once per second in SPLIT and CATCHUP, and while the shard is PAUSED, a keepalive leaves (R353). -/
def execKeepaliveTimer (job rank partner : Nat) (s : State) : Host.Outcome State Fault Refusal :=
  done (let j := getJob s job
        let c := ctxState s j rank partner
        if j.round.policy.isSome && (c == 2 || c == 3 || (c != 0 && roundState s j rank == 6)) && decide ((getHaul j rank partner).kept + 1000000000 ≤ now s) && !snapshotReads s job then
          (sendPkt (modHaul s job rank partner (fun h => { h with kept := now s })) job rank partner (plainPkt 7 (lastClosed s j rank) [])).getD s
        else s)

/-- A CATCHUP context that hears nothing authenticated for 10 s is SPLIT again (R340). -/
def execCatchupTimeout (job rank partner : Nat) (s : State) : Host.Outcome State Fault Refusal :=
  done (let j := getJob s job
        if j.round.policy.isSome && ctxState s j rank partner == 3 && decide ((getHaul j rank partner).heard + 10000000000 ≤ now s) then
          match j.image.bind (fun im => masterAt im rank), (partnersOf j rank)[partner]? with
          | some t, some q =>
            let s := modHaul s job rank partner (fun h => { h with own := none, sends := h.sends.filter (fun x => x.content != 1), recvs := h.recvs.filter (fun v => v.type != 2) })
            turnSplit (wrLe (wrLe s (jobCtx j rank partner + 1) 1 0) (jobCtx j rank partner + 0x10) 4 0xFFFFFFFF) job rank (roundOf s j rank) t q
          | _, _ => s
        else s)

end Sys2Proof.Machine
end

