-- ==== Sys2Proof/Machine/Steps.lean ====
section
/-! DEFINITION. The end of a task (R92, R120, R181 to R183, R209, R286, R314), the landing of a TPUT's tile (R631), the release
of STEP stations (R45, R286), the step boundary (R57, R99, R271), holds (R570), and the ends of a job (R58, R494). -/

namespace Sys2Proof.Machine

/-! ## STEP stations (R45, R286) -/

/-- The step for which a STEP station is due next. -/
def dueStep (j : Job) (k : Nat) : Nat := max j.start (Tab.get 0 j.released k)

/-- The step whose end is the next round boundary of a ROUND station: the last step of a round of h steps. -/
def dueRound (j : Job) (k h : Nat) : Nat := if h = 0 then dueStep j k else dueStep j k / h * h + (h - 1)

/-- Whether releaseSteps releases a station: a STEP station, or a ROUND station of a kind other than exchange and update, which runs once at
each round boundary, after every pass of the round's last step has delivered its layer's inputs (R45; DEDUCED, log 150). -/
def stepReleased (st : Station) (h : Nat) : Bool :=
  (st.phase == 1 && !(st.kind == 6 && xMode st == 1)) || (st.phase == 2 && h != 0 && st.kind != 6 && st.kind != 7)

/-- Whether every pass of a step has delivered what a STEP station takes: the PASS stations of its layer are over. -/
def inputsOver (s : State) (jk : Nat) (im : Image) (st : Station) (step passes : Nat) : Bool :=
  (im.stations.zipIdx).all (fun sk => sk.1.phase != 0 || sk.1.layer != st.layer || stationOver s jk sk.2 sk.1 step passes)

/-- λ of each layer of a replica that rejoins: −log2 of INV_LSCALE of its shard records, before its first exchange (R572). -/
def rejoinScales (s : State) (jk : Nat) (im : Image) : State :=
  (held im).foldl (fun s tr =>
    if hasLayer tr.1.layer then
      let a := layerRec (getJob s jk) tr.1.layer
      let e : Int := 127 - (rdLe s (shardAddr (getJob s jk) tr.2 + 0x34) 4 / 2 ^ 23 % 256 : Nat)
      let s := wrLe (wr1 s (a + 5) (ofInt8 e)) (a + 0xA) 2 0
      putScales s a e (int8 (rdLe s (a + 6) 1))
    else s) s

/-- Release one STEP station for a step: an IN_SITE exchange station opens its nodes and queues one task a chunk. -/
def releaseStation (s : State) (jk k : Nat) (im : Image) (st : Station) (step : Nat) : State :=
  let s := if st.kind = 6 && rejoins (getJob s jk) && step == (getJob s jk).start && (getJob s jk).probe.isNone then rejoinScales s jk im else s
  let s := modJob s jk (fun j => { j with released := Tab.set j.released k (step + 1) })
  if st.kind = 6 then
    match tensorOf im (xGrad st) with
    | none => s
    | some g => (List.range (chunkCount g)).foldl (fun s c => chunkTask (openNodes s jk k c step) jk k g.id step c (xArg st) 0) s
  else if st.kind = 7 then s
  else serveStation s jk k

/-- Release the STEP and ROUND stations whose inputs of their next step are all delivered. -/
def releaseSteps (s : State) (jk : Nat) : State :=
  match (getJob s jk).image with
  | none => s
  | some im =>
    (im.stations.zipIdx).foldl (fun s sk =>
      let j := getJob s jk
      let h := im.sched.roundSteps
      let step := if sk.1.phase = 2 then dueRound j sk.2 h else dueStep j sk.2
      let passes := if j.probe.isSome then 1 else im.sched.passes
      if stepReleased sk.1 h && j.phase == .running && stepOpened j step && inputsOver s jk im sk.1 step passes
      then releaseStation s jk sk.2 im sk.1 step else s) s

/-- Work that may go on after tasks end, tiles land or commits come: waiting tasks, STEP stations, idle benches. -/
def goOn (s : State) (jk : Nat) : State := wakePart (releaseSteps (dealWaiting s jk) jk) (jk / 2)

/-- A held task is released once its commits, versions and round results are in place (R196, R295, R352). -/
def execHeldTaskRelease (job : Nat) (s : State) : Host.Outcome State Fault Refusal := done (if (getJob s job).phase == .running then goOn s job else s)

/-- The tiles that a probe left in their slots, those of later passes, go on at their consumers once it has ended (R209). -/
def serveJob (s : State) (jk : Nat) : State :=
  (List.range (((getJob s jk).image.map (fun im => im.stations.length)).getD 0)).foldl (fun s k => serveStation s jk k) s

/-- LAYER_COMMIT: the commit of a layer (R197); after one that ends a probe the tiles that waited for it go on. -/
def layerCommit (job layer : Nat) (s : State) : State :=
  let t := doLayerCommit job layer s
  if (getJob s job).probe.isSome && (getJob t job).probe.isNone then goOn (serveJob t job) job else t

def execLayerCommit (job layer : Nat) (s : State) : Host.Outcome State Fault Refusal := done (layerCommit job layer s)

/-! ## The end of a task -/

/-- Free the inputs of a task that has ended: a probe keeps those of its feed stations for the repeat (R209), and a normalisation leaf its tile. -/
def endInputs (s : State) (jk : Nat) (t : Task) (st : Station) : State :=
  if t.probe && st.kind == 8 then modJob s jk (fun j => { j with probeFeeds := j.probeFeeds ++ [t] })
  else if keepsInputs st t then s
  else freeInputs s jk t

/-- The chain of a task that has ended: its place is noted; the last task of the chain ends it (R120). -/
def endChain (s : State) (jk : Nat) (t : Task) : State :=
  let mine := fun (c : Chain) => c.station == t.station && c.step == t.step && c.ij == (t.ti, t.tj)
  if taskKeep t then modJob s jk (fun j => { j with chains := j.chains.map (fun c => if mine c then { c with pass := t.pass, ended := true } else c) })
  else if taskCont t then modJob s jk (fun j => { j with chains := j.chains.filter (fun c => !mine c) })
  else s

/-- What the end of a task brings at its station, by KIND. -/
def endEffect (s : State) (jk lb : Nat) (t : Task) (st : Station) : State :=
  if isTree st then treeEnded s jk lb st t
  else if st.kind = 5 then queryEnded s jk st t
  else if st.kind = 6 then (if xMode st = 0 then contribute s jk t else handoffChunk s jk t st)
  else if st.kind = 7 then (if st.phase = 2 then roundUpdateEnded s jk t st else updateEnded s jk t)
  else s

/-- Counts of an ended task: TASKS_DONE and the latest pass (R196, R507). -/
def endCounts (s : State) (jk : Nat) (t : Task) : State :=
  modJob s jk (fun j => { j with
    tasksDone := Tab.mod 0 j.tasksDone t.station (satAdd 64 1), passEnd := Tab.mod 0 j.passEnd t.station (max (t.step * 65536 + t.pass + 1)) })

/-- The bench leaves a task at its tile boundary: ACC_LIVE stays only where ACC_KEEP was set (R93, R110). -/
def leaveTask (x : BCtx) (t : Task) : BCtx := { x with running := none, accLive := x.accLive && taskKeep t }

/-- The first copy of a lockstep task ends: the slots that the other copy has freed return now (R99). -/
def freeShared (s : State) (jk : Nat) (t u : Task) : State :=
  t.ins.zipIdx.foldl (fun s i => if !i.1.freed && ((u.ins[i.2]?).map (·.freed)).getD false then freeSlot s jk i.1.conv i.1.home i.1.word else s) s

/-- TEND: once every issued command and every output tile is complete, the task ends, and the bench chooses its next. Of a lockstep task the
second copy to end ends the task. -/
def doTend (lb c : Nat) (s : State) : State :=
  ccRun s lb c (fun jk x t =>
    if !workDone x 7 then s
    else
      match stationOf s jk t.station with
      | none => s
      | some st =>
        let vote := (votingNow (getBench s lb) c).isSome
        let other := partnerTask s jk lb t
        let s := modCtx (addBusy s lb c) lb c (fun x => leaveTask x t)
        if vote then endVote s lb c
        else
          match other with
          | some u => wakePart (freeShared s jk t u) (jk / 2)
          | none => goOn (endCounts (endEffect (endChain (endInputs s jk t st) jk t) jk lb t st) jk t) jk)

def execTend (lb ctx : Nat) (s : State) : Host.Outcome State Fault Refusal := done (doTend lb ctx s)

/-! ## The landing of a tile (R220, R631) -/

/-- The last word of a tile that a TPUT sends lands in its slot. -/
def doTileLand (jk k home word : Nat) (s : State) : State :=
  let p := home * 32768 + word
  let c := jk % 2
  let sends := fun (lb : Nat) => partOfLb s lb == some (jk / 2) && (getCtx s lb c).tputs.any (fun u => u.conv == k && u.phase == .sending p)
  match (s.benches.map Prod.fst).find? sends with
  | none => s
  | some lb =>
    let x := getCtx s lb c
    match x.tputs.findIdx? (fun u => u.conv == k && u.phase == .sending p) with
    | none => s
    | some n =>
      let s := modCtx s lb c (fun x => { x with tputs := x.tputs.eraseIdx n })
      goOn (tileArrived (setLanded s jk k home word) jk k) jk

def execTileLand (job conv home word : Nat) (s : State) : Host.Outcome State Fault Refusal := done (doTileLand job conv home word s)

/-! ## The step boundary (R57) -/

/-- Form the lockstep pairs of every station with LOCKSTEP over the present benches of its group (R99); queued lockstep tasks
on benches that lead no pair now are dealt again. -/
def formPairs (s : State) (jk : Nat) : State :=
  match (getJob s jk).image with
  | none => s
  | some im =>
    let locks := im.stations.zipIdx.filter (fun sk => bit sk.1.flags 1)
    if locks.isEmpty then s
    else
      let s := modJob s jk (fun j => { j with
        pairs := locks.foldl (fun t sk =>
          let g := (presentGroup s (jk / 2) sk.1).filter (dealable s)
          Tab.set t sk.2 ((chunksOf 2 g (g.length + 1)).filterMap (fun p => match p with | [a, b] => some (a, b) | _ => none))) []
        unpaired := locks.foldl (fun t sk =>
          let g := (presentGroup s (jk / 2) sk.1).filter (dealable s)
          if g.length % 2 = 1 then Tab.set t sk.2 (g.getLastD 0) else t) [] })
      let leads := fun (s : State) (lb : Nat) (t : Task) => (Tab.get [] (getJob s jk).pairs t.station).any (fun p => p.1 == lb)
      let lost := s.benches.flatMap (fun e => if partOfLb s e.1 == some (jk / 2) then (e.2.ctx (jk % 2)).queue.filter (fun t => taskLockstep t && !leads s e.1 t) else [])
      let s := { s with benches := s.benches.map (fun e => (e.1, if partOfLb s e.1 == some (jk / 2)
        then e.2.modCtx (jk % 2) (fun x => { x with queue := x.queue.filter (fun t => !taskLockstep t || leads s e.1 t) }) else e.2)) }
      lost.foldl (fun s t => dealTask s jk t) s

/-- The changes of the replica set whose effective step has come (R271). -/
def applyChanges (s : State) (jk : Nat) : State :=
  let j := getJob s jk
  let due := j.changes.filter (fun c => decide (c.2.2 ≤ j.step))
  if due.isEmpty then s
  else
    let s := modJob s jk (fun j => { j with
      members := membersAt j j.step, changes := j.changes.filter (fun c => decide (j.step < c.2.2))
      oldSets := (j.oldSets ++ [(j.step, j.members)]).reverse.take 8 |>.reverse
      lostSeen := j.lostSeen.filter (fun q => !(due.any (fun c => c.1 == q && c.2.1)))
      misses := j.misses.filter (fun e => !(due.any (fun c => c.1 == e.1))) })
    ((j.image.map shardRanks).getD []).foldl (fun s r => checkAcks s jk r) s

/-- Owned shards of no layer send their constant scales for each step (R290, R292). -/
def layerlessScales (s : State) (jk : Nat) : State :=
  match (getJob s jk).image with
  | none => s
  | some im => (held im).foldl (fun s tr => if !hasLayer tr.1.layer && ownerHere s (getJob s jk) tr.2 then sendScale s jk tr.2 (getJob s jk).step else s) s

/-- A SAVE that waits for the boundary into step e keeps the step from its release; one that fails only for a probe or a
re-shard waits for a later boundary (R560). -/
def saveWaits (s : State) (jk : Nat) : Bool :=
  let j := getJob s jk
  match s.stock.op with
  | some o => o.job == jk && !o.restore && (match o.phase with | .waiting => true | _ => false) && j.probe.isNone && j.reshard.isNone
  | none => false

/-- The last step that a job runs (R58, R59). -/
def lastStep (j : Job) : Nat :=
  let l := (j.image.map (fun im => im.sched.limit)).getD 0
  if l = 0 then 0xFFFFFFFD else min 0xFFFFFFFD (j.start + l - 1)

/-- Whether FIRST_STATION may release its first task of the next step. -/
def mayAdvance (s : State) (jk : Nat) : Bool :=
  let j := getJob s jk
  let e := j.step + 1
  match j.image with
  | none => false
  | some im =>
    j.phase == .running && j.stepOpen && !j.held && j.holds.isEmpty && !(j.holdAt.any (holdDue j e)) && j.stopping.isNone && decide (j.step < lastStep j)
      && !(j.reshard.any (fun x => decide (x.step ≤ e))) && j.probe.isNone && !saveWaits s jk
      && (let s1 := modJob s jk (fun j => { j with step := e })
          s.benches.any (fun b => partOfLb s b.1 == some (jk / 2) &&
            (b.2.ctx (jk % 2)).queue.any (fun t => t.station == im.sched.first && t.step == e && taskReady s1 jk b.1 t)))

/-- Close the straggler counts of a step (R314, R508): each task that runs on counts for the step up to now. -/
def rollBusy (s : State) (jk : Nat) : State :=
  if jk % 2 = 1 then s
  else
    let mine := (s.boot.phys.map Prod.fst).filter (fun lb => partOfLb s lb == some (jk / 2))
    let n := mine.length
    let s := mine.foldl (fun s lb => addBusy (addBusy s lb 0) lb 1) s
    modJob s jk (fun j =>
      let d := now s - j.stepStart
      { j with lastBusy := (j.busy.1, j.busy.2.1, n * d - (j.busy.1 + j.busy.2.1), d), busy := (0, 0, 0), stepStart := now s })

/-- Rows of a partition's benches that are due meet the step boundary (R82). -/
def markRows (s : State) (p : Nat) : State :=
  { s with benches := s.benches.map (fun e => if partOfLb s e.1 == some p then (e.1, { e.2 with rowDue := e.2.rowDue.map (fun r => { r with atBoundary := true }) }) else e) }

/-- The step boundary: the step counter advances, set changes apply, pairs are formed again, and due rows may be retired. -/
def doStepBoundary (jk : Nat) (s : State) : State :=
  if !mayAdvance s jk then s
  else
    let s := modJob (rollBusy (markRows s (jk / 2)) jk) jk (fun j => { j with step := j.step + 1, pass := 0 })
    goOn (layerlessScales (formPairs (applyChanges s jk) jk) jk) jk

def execStepBoundary (job : Nat) (s : State) : Host.Outcome State Fault Refusal := done (doStepBoundary job s)

/-! ## Holds and ends -/

/-- The job reaches its hold point (R570): a snapshot point at the boundary; a lost shard holds it once its tasks are done. -/
def doJobHeld (jk : Nat) (s : State) : State :=
  let j := getJob s jk
  let e := min (j.step + 1) (j.stopFrom.getD (j.step + 1))
  let due := j.holdAt.filter (holdDue j e)
  let lost := due.any (fun x => x.1 == .lost)
  if j.phase != .running || j.held || (due.isEmpty && j.holds.isEmpty) || !j.stepOpen || !(snapshotPoint s jk e || (lost && tasksBefore s jk e)) then s
  else
    let s := modJob s jk (fun j => { j with holds := j.holds ++ due.map Prod.fst, holdAt := j.holdAt.filter (fun x => !holdDue j e x), held := true, pausing := none })
    let s := due.foldl (fun s x => raiseHeld s jk e x.1) s
    match j.pausing with
    | some r => if due.any (fun x => x.1 == .hostPause) then longDone s r 0 else modJob s jk (fun j => { j with pausing := some r })
    | none => s

def execJobHeld (job : Nat) (s : State) : Host.Outcome State Fault Refusal := done (doJobHeld job s)

/-- A BOUNDARY stop is done: running tasks have ended, hosted nodes have forwarded the last step (R494). -/
def doStopDone (jk : Nat) (s : State) : State :=
  let j := getJob s jk
  match j.stopping with
  | none => s
  | some _ =>
    let e := j.step + (if j.stepOpen then 1 else 0)
    if tasksBefore s jk e && nodesBefore j e then closeJob s jk 0 else s

def execJobStopBoundaryDone (job : Nat) (s : State) : Host.Outcome State Fault Refusal := done (doStopDone job s)

/-- The last step of a job is complete, and it stops with cause 1 (R58, R59, R514). -/
def doStepLimit (jk : Nat) (s : State) : State :=
  let j := getJob s jk
  let e := j.step + 1
  if j.phase == .running && j.stepOpen && j.probe.isNone && decide (lastStep j ≤ j.step) && drainedBefore s jk e && roundsQuiet s jk e then closeJob s jk 1 else s

def execJobStepLimitStop (job : Nat) (s : State) : Host.Outcome State Fault Refusal := done (doStepLimit job s)

end Sys2Proof.Machine
end

