-- ==== Sys2Proof/Machine/Regs.lean ====
section
/-! DEFINITION. BAR0 and BAR2 (R446 to R455, R516 to R519): what each register reads, and what a host write of it does. -/

namespace Sys2Proof.Machine

/-! ## What BAR0 reads -/

def ones64 : Nat := 2 ^ 64 - 1

/-- An active site port is one that serves a position of the path sets. -/
def linkDegraded (s : State) : Bool :=
  s.board.ports.any (fun e => e.2.st == .degraded || e.2.st == .down) || s.board.sites.any (fun e => e.2.serves.isSome && e.2.st == .down)

/-- ERR_SUMMARY (R449). Before READY it reads 0, but for RECOVERY (R516). -/
def errSummary (s : State) : Nat :=
  if !s.boot.ready then (if s.boot.st = 3 then 2 else 0) + (if s.boot.st = 3 then s.host.errBits.toNat else 0)
  else
    s.host.errBits.toNat ||| (b2n (!(s.host.freezes.isEmpty && s.host.freezeWait.isEmpty)) * 2 ^ 10
      + b2n ((List.range 4).any (fun p => (getPart s p).resetting)) * 2 ^ 9 + b2n s.host.mpStandby * 2 ^ 8 + b2n (decide (s.cipher.place.length < 12)) * 2 ^ 6
      + b2n (linkDegraded s) * 2 ^ 5 + b2n (!s.mem.failedLs.isEmpty) * 2 ^ 4 + b2n (thermalLimit s.power) * 2 ^ 2 + 1)

/-- ALERT# is asserted: a bit is set whose ERR_MASK bit is clear. -/
def alertPin (s : State) : Bool := (List.range 13).any (fun n => bit (errSummary s) n && !errMasked s n)

/-- ID (R448). -/
def idReg (s : State) (f : Nat) : Nat :=
  0x0A09 * 2 ^ 48 + 0xB0 * 2 ^ 40 + s.board.slotId % 8 * 2 ^ 32 + s.host.ifVersion % 65536 * 2 ^ 16 + f * 2 ^ 8 + ((getFunc s f).part.getD 0xFF)

/-- Frozen masters of a class, in slots or waiting. -/
def frozenOf (s : State) (cls : Nat) (p : Option Nat) : List Freeze :=
  (s.host.freezes.map Prod.snd ++ s.host.freezeWait).filter (fun z => z.cls == cls && (p.isNone || p == some z.part))

/-- VF assigned to a partition; 0 none. -/
def vfOf (s : State) (p : Nat) : Nat := ((span 1 7).find? (fun f => (getFunc s f).part == some p)).getD 0

/-- PART_STATUS[p] (R450). -/
def partStatus (s : State) (p : Nat) : Nat :=
  let pages := s.mem.pages.countP (fun e => pageOwned e.2 && pagePart e.2 == p)
  let rows := (getPart s p).rows.length
  pages * 2 ^ 32 + rows * 2 ^ 24 + vfOf s p * 2 ^ 16
    + b2n ((List.range 5).any (fun c => !(frozenOf s c (some p)).isEmpty)) * 16 + b2n (getPart s p).resetting * 8
    + b2n ((getJob s (p * 2 + 1)).phase != .closed) * 4 + b2n ((getJob s (p * 2)).phase != .closed) * 2 + b2n (rows != 0)

/-- FREEZE_SUMMARY (R451) as function f sees it. -/
def freezeSummary (s : State) (f : Nat) : Nat :=
  let own := if f = 0 then none else some ((getFunc s f).part.getD 0xFE)
  let bits := fun (cls base n : Nat) (k : Freeze → Nat) =>
    ((List.range n).map (fun i => b2n ((frozenOf s cls own).any (fun z => k z == i)) * 2 ^ (base + i))).sum
  (if f = 0 then min 0xFFFF (s.host.freezes.length + s.host.freezeWait.length) * 2 ^ 48
      + ((List.range 8).map (fun i => b2n (i != 0 && (getFunc s i).frozen) * 2 ^ (40 + i))).sum else 0)
    + bits 2 32 8 (fun z => z.unit) + bits 3 18 7 (fun z => z.source % 8192 - 0x300) + bits 4 14 4 (fun z => z.source % 8192 - 0x320) + bits 1 0 4 (fun z => z.part)

/-- The 32 B of a freeze record slot (R452). -/
def freezeBytes (s : State) (k : Nat) : List Byte :=
  match Tab.find s.host.freezes k with
  | none => List.replicate 32 0
  | some z => toLe 1 1 ++ toLe 1 z.cls ++ toLe 2 z.source ++ toLe 1 z.unit ++ toLe 1 z.part ++ toLe 1 z.cause ++ toLe 1 z.access ++ toLe 8 z.addr
      ++ toLe 8 z.stamp ++ toLe 8 0

/-- A register of the boot block (R518). -/
def bootReg (s : State) (off : Nat) : Nat :=
  let b := s.boot
  match off with
  | 0x100 => b.reqStep * 256 + (if b.clockAlter then 1 else b.opPoint) * 16 + b2n (b.st == 1)
  | 0x108 => b.reason * 2 ^ 48 + b.attempt * 2 ^ 32 + b.result * 2 ^ 24 + b.treatment % 4 * 2 ^ 16 + b.step * 256 + b.st
  | 0x110 => ((List.range 14).map (fun n => planOf s n * 2 ^ (4 * n))).sum
  | 0x118 => b.ovr
  | 0x120 => b.qualLog2 * 2 ^ 40 + b.qualBer * 2 ^ 32 + b.tsyncComp
  | 0x128 => b.stepUs * 2 ^ 32 + min (b.sinceNs / 1000000) (2 ^ 32 - 1)
  | 0x130 => (logState s).starts * 2 ^ 32 + (b.logSeq + 2 ^ 32 - 1) % 2 ^ 32
  | 0x138 => b.detail.getD 0 0
  | 0x140 => b.detail.getD 1 0
  | 0x148 => b.detail.getD 2 0
  | 0x150 => b.detail.getD 3 0
  | 0x158 => b2n b.logLost * 2 ^ 15 + b2n b.wearFull * 2 ^ 14 + b2n s.host.mpStandby * 256 + (match b.runSlot with | some n => n | none => 3) * 64
  | _ => 0

/-- MSI-X vectors of a function (R447). -/
def vectorsOf (f : Nat) : Nat := if f = 0 then 64 else 16

/-- The MSI-X table as 8 B registers. -/
def msixReg (s : State) (f off : Nat) : Nat :=
  let e := Tab.get (0, 0, 1) (getFunc s f).msix (off / 16)
  if vectorsOf f ≤ off / 16 then 0 else if off % 16 = 0 then e.1 else e.2.1 + e.2.2 * 2 ^ 32

/-- An aligned 8 B read of BAR0 by function f (R447, R516). -/
def bar0Read (s : State) (f off : Nat) : Nat :=
  let pf := fun (v : Nat) => if f = 0 then v else 0
  if (getFunc s f).frozen then ones64
  else if !s.boot.served || off % 8 != 0 then 0
  else if off < 0x10 then fieldLe ("DX-TM9-72L".toList.map (fun c => BitVec.ofNat 8 c.toNat)) off 8
  else if off = 0x10 then idReg s f
  else if off = 0x18 then Config.serial.toNat
  else if 0x100 ≤ off ∧ off < 0x200 then pf (bootReg s off)
  else if off = 0x200 then pf (errSummary s)
  else if !mailboxServed s f then 0
  else if off = 0x208 then pf s.host.errMask.toNat
  else if off = 0x300 then freezeSummary s f
  else if 0x400 ≤ off ∧ off < 0x420 then
    if f = 0 then partStatus s ((off - 0x400) / 8)
    else if off = 0x400 then (match (getFunc s f).part with | some p => partStatus s p | none => 0) else 0
  else if 0x1000 ≤ off ∧ off < 0x1800 then pf (fieldLe (freezeBytes s ((off - 0x1000) / 32)) (off % 32) 8)
  else if 0x8000 ≤ off ∧ off < 0x8400 then msixReg s f (off - 0x8000)
  else if off = 0xC000 then (getFunc s f).pba.toNat
  else 0

/-! ## What BAR2 reads (R453) -/

/-- A register of a mailbox window. -/
def mboxReg (s : State) (f off : Nat) : Nat :=
  let fn := getFunc s f
  let ringReg := fun (q : Ring) (n : Nat) => match n with
    | 0x10 => q.base.toNat
    | 0x18 => q.cfg.toNat
    | 0x20 => b2n q.pending * 2 ^ 31 + q.pi
    | 0x28 => b2n q.heldCq.isEmpty * 2 ^ 16 + q.ci
    | 0x30 => q.cqBase.toNat
    | 0x38 => q.cqHead
    | _ => 0
  if off = 0 then b2n fn.frozen * 4 + b2n s.host.mpStandby * 2 + b2n (mailboxServed s f)
  else if off < 0x40 then ringReg fn.ring0 off
  else if off < 0x70 then ringReg fn.ring1 (off - 0x30)
  else match off with
    | 0x80 => fn.evqBase.toNat
    | 0x88 => fn.evqCfg.toNat
    | 0x90 => fn.evqHead
    | 0x98 => fn.evqLost
    | 0xA0 => fn.aperture.toNat
    | _ => 0

/-- An aligned 8 B read of BAR2 by function f: its own window, and the PF's view of window k at 0x1000 × k (R446). -/
def bar2Read (s : State) (f off : Nat) : Nat :=
  if (getFunc s f).frozen then ones64
  else if !mailboxServed s f || off % 8 != 0 then 0
  else if off < 0x1000 then mboxReg s f off
  else if f = 0 && off < 0x8000 then mboxReg s (off / 0x1000) (off % 0x1000)
  else 0

/-- A read of `size` bytes of BAR0 (bar 0) or BAR2 (bar 2): one that is not an aligned 8 B access reads all ones (R446). -/
def regRead (s : State) (f bar off size : Nat) : Nat :=
  if size != 8 || off % 8 != 0 then 2 ^ (8 * size) - 1 else if bar = 0 then bar0Read s f off else bar2Read s f off

/-! ## Writes of the mailbox window -/

/-- A host write reaches the mailbox of a function that is served and not frozen (R467, R516). -/
def hostMay (s : State) (f : Nat) : Bool := mailboxServed s f && !(getFunc s f).frozen

/-- A BASE register keeps bits [63:12]. -/
def baseOf (v : Nat) : Long := BitVec.ofNat 64 (v / 4096 * 4096)

/-- CMDQn_DB: PI is taken and PENDING set; with ENABLE clear the write is ignored (R454, R455). -/
def doDoorbell (f r v : Nat) (s : State) : State :=
  if hostMay s f && cfgEnable (getRing s f r).cfg then modRing s f r (fun q => { q with pi := v % 65536, pending := true }) else s

def execCmdqDoorbellWrite (func ring pi : Nat) (s : State) : Host.Outcome State Fault Refusal := done (doDoorbell func ring pi s)

/-- Fields of a CFG register: COAL_TIME, COAL_COUNT, VECTOR, LOG2_SIZE, ENABLE. -/
def cfgMask (v : Nat) : Long := BitVec.ofNat 64 v &&& 0xFFFFFF00FF0000F1

/-- CMDQn_CFG or EVQ_CFG (2): setting ENABLE resets the indices; clearing it discards commands not started and the completions
of started ones (R454). -/
def doRingEnable (f w v : Nat) (s : State) : State :=
  if !hostMay s f then s
  else
    let cfg := cfgMask v
    if w = 2 then
      let was := cfgEnable (getFunc s f).evqCfg
      let s := modFunc s f (fun fn => { fn with
        evqCfg := cfg, evqWi := if !was && cfgEnable cfg then 0 else fn.evqWi, coal := if !was && cfgEnable cfg then ⟨0, 0⟩ else fn.coal })
      flushLost s f
    else
      let was := cfgEnable (getRing s f w).cfg
      modRing s f w (fun q =>
        if !was && cfgEnable cfg then { q with cfg := cfg, ci := 0, pi := 0, pending := false, cqWi := 0, fetched := [], coal := ⟨0, 0⟩ }
        else if was && !cfgEnable cfg then { q with cfg := cfg, fetched := [], heldCq := [] }
        else { q with cfg := cfg })

def execRingEnableWrite (func which val : Nat) (s : State) : Host.Outcome State Fault Refusal := done (doRingEnable func which val s)

/-- CQn_HEAD: space frees, and held completions are written (R456). -/
def doCqHead (f r v : Nat) (s : State) : State :=
  if !hostMay s f then s
  else
    let s := modRing s f r (fun q => { q with cqHead := v % 65536 })
    let s := writeHeld s f r (getRing s f r).heldCq.length
    refuseUnknown s f r (getRing s f r).fetched.length

def execCqHeadWrite (func ring head : Nat) (s : State) : Host.Outcome State Fault Refusal := done (doCqHead func ring head s)

/-- EVQ_HEAD: space frees, and EVENTS_LOST is written where events were dropped; its write may fail (R462). -/
def doEvqHead (f v : Nat) (fails : Bool) (s : State) : State :=
  if !hostMay s f then s
  else
    let s := modFunc s f (fun fn => { fn with evqHead := v % 65536 })
    if fails && (getFunc s f).lostSince != 0 && evqRoom (getFunc s f) then dmaError s f 2 else flushLost s f

def execEvqHeadWrite (func head : Nat) (fails : Bool) (s : State) : Host.Outcome State Fault Refusal := done (doEvqHead func head fails s)

/-- A W1C write of EVQ_LOST clears the bits of COUNT written as 1 (R7, R453). -/
def doEvqLost (f v : Nat) (s : State) : State :=
  if hostMay s f then modFunc s f (fun fn => { fn with evqLost := fn.evqLost &&& (2 ^ 32 - 1 - v % 2 ^ 32) }) else s

def execEvqLostW1c (func val : Nat) (s : State) : Host.Outcome State Fault Refusal := done (doEvqLost func val s)

/-- APERTURE keeps BASE, bits [47:21]; it applies to later requests (R464). -/
def doAperture (f v : Nat) (s : State) : State :=
  if hostMay s f then modFunc s f (fun fn => { fn with aperture := BitVec.ofNat 64 (bits v 47 21 * 2 ^ 21) }) else s

def execApertureWrite (func val : Nat) (s : State) : Host.Outcome State Fault Refusal := done (doAperture func val s)

/-! ## Writes of BAR0 -/

/-- A W1C write of ERR_SUMMARY; SPARES_LOW sets again while its condition holds (R449). -/
def doErrW1c (v : Nat) (s : State) : State :=
  if hostMay s 0 then
    noteSpares { s with host := { s.host with errBits := s.host.errBits &&& ~~~(BitVec.ofNat 16 v) } }
  else s

def execErrSummaryW1c (val : Nat) (s : State) : Host.Outcome State Fault Refusal := done (doErrW1c val s)

/-- BOOT_CTRL: REQ_STEP and OP_POINT are taken, and GO starts the step (R518, R519). -/
def doBootCtrl (v : Nat) (s : State) : State :=
  let s := modBoot s (fun b => { b with reqStep := bits v 11 8, opPoint := bits v 5 4 })
  if bit v 0 then startAttempt s (bits v 11 8) else s

/-- A write of an entry of the MSI-X table. -/
def doMsix (f off v : Nat) (s : State) : State :=
  if vectorsOf f ≤ off / 16 then s
  else modFunc s f (fun fn => { fn with msix := Tab.mod (0, 0, 1) fn.msix (off / 16) (fun e =>
    if off % 16 = 0 then (v % 2 ^ 64, e.2) else (e.1, v % 2 ^ 32, bits v 63 32)) })

/-- An entry that is unmasked fires a pending interrupt (the PCIe rule that R463 names). -/
def firePending (s : State) (f n : Nat) : State :=
  let fn := getFunc s f
  if fn.pba.toNat.testBit n && !bit (Tab.get (0, 0, 1) fn.msix n).2.2 0 then
    fireVector (modFunc s f (fun fn => { fn with pba := fn.pba &&& ~~~((1 : BitVec 64) <<< n) })) f n
  else s

/-- An 8 B write of BAR0 by function f. -/
def bar0Write (f off v : Nat) (s : State) : State :=
  if !s.boot.served || s.boot.halted || (getFunc s f).frozen then s
  else if f = 0 && off = 0x100 then doBootCtrl v s
  else if f = 0 && off = 0x118 then modBoot s (fun b => { b with ovr := v % 2 ^ 56 })
  else if f = 0 && off = 0x120 then modBoot s (fun b => { b with qualLog2 := bits v 47 40, qualBer := bits v 39 32, tsyncComp := bits v 5 0 })
  else if !mailboxServed s f then s
  else if f = 0 && off = 0x200 then doErrW1c v s
  else if f = 0 && off = 0x208 then { s with host := { s.host with errMask := BitVec.ofNat 64 (v % 2 ^ 13) } }
  else if 0x8000 ≤ off ∧ off < 0x8400 then firePending (doMsix f (off - 0x8000) v s) f ((off - 0x8000) / 16)
  else s

/-- An 8 B write of BAR2 by function f: its own window; the PF's view of the others is read-only (R446). -/
def bar2Write (f off v : Nat) (s : State) : State :=
  if !hostMay s f then s
  else
    match off with
    | 0x10 => modRing s f 0 (fun q => { q with base := baseOf v })
    | 0x18 => doRingEnable f 0 v s
    | 0x20 => doDoorbell f 0 v s
    | 0x30 => modRing s f 0 (fun q => { q with cqBase := baseOf v })
    | 0x38 => doCqHead f 0 v s
    | 0x40 => modRing s f 1 (fun q => { q with base := baseOf v })
    | 0x48 => doRingEnable f 1 v s
    | 0x50 => doDoorbell f 1 v s
    | 0x60 => modRing s f 1 (fun q => { q with cqBase := baseOf v })
    | 0x68 => doCqHead f 1 v s
    | 0x80 => modFunc s f (fun fn => { fn with evqBase := baseOf v })
    | 0x88 => doRingEnable f 2 v s
    | 0x90 => doEvqHead f v false s
    | 0x98 => doEvqLost f v s
    | 0xA0 => doAperture f v s
    | _ => s

/-- A host write of `size` bytes to BAR0 (bar 0) or BAR2 (bar 2): a write that is not an aligned 8 B access is dropped (R446). -/
def doRegWrite (f bar off size v : Nat) (s : State) : State :=
  if size != 8 || off % 8 != 0 || decide (8 ≤ f) then s
  else if bar = 0 then bar0Write f off v s
  else if bar = 2 then bar2Write f off v s
  else s

def execRegisterWrite (func bar off size val : Nat) (s : State) : Host.Outcome State Fault Refusal := done (doRegWrite func bar off size val s)

end Sys2Proof.Machine
end

