-- ==== Sys2Proof/Machine/Psm.lean ====
section
/-! DEFINITION. Psiam: identity, partitions, pages (R481 to R485), thaws (R469, R486), the partition reset (R470, R471, R487), and the
paths (R500). -/

namespace Sys2Proof.Machine

/-! ## Identity (R481) -/

def noNeed : List Byte → List Byte → Nat := fun _ _ => 0

def rowIdentify : PsmRow := ⟨0x0001, false, .none, noNeed, 0⟩

def identify (s : State) (c : Call) : State × Answer :=
  let rom := s.boot.st = 3
  (s, resultA (toLe 2 s.host.ifVersion ++ toLe 1 c.f ++ toLe 1 (if c.f = 0 then 0xFF else (getFunc s c.f).part.getD 0xFF)
    ++ toLe 4 (if rom then 0 else s.boot.fwVersion) ++ toLe 1 (if rom then 0xFF else s.boot.runSlot.getD 0xFF) ++ toLe 1 8))

def execPsmIdentify (func ring : Nat) (io : HostIo) (s : State) : Host.Outcome State Fault Refusal :=
  done (withCmd rowIdentify (fun _ => true) func ring io identify s)

/-! ## Bench state that a partition leaves (R470 step 5, R483) -/

/-- Station region, save areas, task queues and context records of benches are zeroed, and the pointers of their arbitration
points, for which this is the partition start of R29 (DESIGN CHOICE log 165). -/
def zeroBenches (s : State) (lbs : List Nat) : State :=
  let cell := fun (c : BCtx) => { c with queue := [], accSave := [], recPc := 0, recFlags := 0 }
  { s with
    mem := { s.mem with bytes := Mem.clear s.mem.bytes (fun a => isWindow a && lbs.contains (windowLb a)) }
    benches := s.benches.map (fun e => if lbs.contains e.1 then
      (e.1, { e.2 with c0 := cell e.2.c0, c1 := cell e.2.c1, tags := [], thiefPtr := 0, victimPtr := 0, lastCtx := none }) else e) }

/-- Logical benches of bench rows. -/
def lbsOf (rows : List Nat) : List Nat := rows.flatMap (fun r => span (9 * r) 9)

/-! ## PSM_PART_CONFIG (R482, R483) -/

def rowPartConfig : PsmRow := ⟨0x0101, true, .module, noNeed, 0⟩

/-- [a, a + n) and [b, b + m) share a number; an empty range shares none. -/
def overlaps (a n b m : Nat) : Bool := decide (0 < n ∧ 0 < m ∧ a < b + m ∧ b < a + n)

def partBusy (s : State) (p : Nat) : Bool := (getJob s (2 * p)).phase != .closed || (getJob s (2 * p + 1)).phase != .closed

def ringsIdle (s : State) (f : Nat) : Bool := (getFunc s f).ring0.heldCq.isEmpty && (getFunc s f).ring1.heldCq.isEmpty

/-- Key slots that change owner between two ranges. -/
def slotsMoved (old new : Nat × Nat) : List Nat :=
  let inside := fun (r : Nat × Nat) (n : Nat) => decide (r.1 ≤ n ∧ n < r.1 + r.2)
  (List.range 1024).filter (fun n => inside old n != inside new n)

def partConfig (s : State) (c : Call) : State × Answer :=
  let p := c.par 0 1
  let vf := c.par 1 1
  let rows := (List.range 64).filter (fun r => bit (c.par 8 8) r)
  let ctxs := (c.par 4 4, c.par 0x10 4)
  let keys := (c.par 2 2, c.par 0x14 2)
  let others := (List.range 4).filter (· != p)
  let old := getPart s p
  let oldVf := vfOf s p
  let clash := others.any (fun q =>
    overlaps ctxs.1 ctxs.2 (getPart s q).ctxs.1 (getPart s q).ctxs.2 || overlaps keys.1 keys.2 (getPart s q).keys.1 (getPart s q).keys.2)
  if partBusy s p then (s, refuseA 0x0210)
  else if rows.any (fun r => others.any (fun q => (getPart s q).rows.contains r)) then (s, refuseA 0x0211)
  else if clash || 4194304 < ctxs.1 + ctxs.2 || 1024 < keys.1 + keys.2 || ctxs.1 % 64 != 0 || ctxs.2 % 64 != 0 then (s, refuseA 0x0212)
  else if vf != 0 && (match (getFunc s vf).part with | some q => q != p | none => false) then (s, refuseA 0x0213)
  else if vf != oldVf && ((vf != 0 && !ringsIdle s vf) || (oldVf != 0 && !ringsIdle s oldVf)) then (s, refuseA 0x0213)
  else if (slotsMoved old.keys keys).any (fun n => (getSlot s n).st != 0) then (s, refuseA 0x0214)
  else
    let moved := (old.rows.filter (fun r => !rows.contains r)) ++ (rows.filter (fun r => !old.rows.contains r))
    let s := zeroBenches s (lbsOf moved)
    let s := modPart s p (fun q => { q with rows := rows, ctxs := ctxs, keys := keys })
    let s := if oldVf != 0 && oldVf != vf then modFunc s oldVf (fun fn => { fn with part := none }) else s
    let s := if vf != 0 then modFunc s vf (fun fn => { fn with part := some p }) else s
    (s, okA)

def execPsmPartConfig (func ring : Nat) (io : HostIo) (s : State) : Host.Outcome State Fault Refusal :=
  done (withCmd rowPartConfig (fun _ => true) func ring io partConfig s)

/-! ## Pages (R246, R484, R485) -/

/-- Write every byte of pages to 0, clear their flags and make their blocks plain (R246). -/
def zeroPages (s : State) (mine : Nat → Bool) : State :=
  { s with mem := { s.mem with
      bytes := Mem.clear s.mem.bytes (fun a => decide (a < memTop) && mine (a / 0x200000))
      poison := s.mem.poison.filter (fun n => !(decide (64 * n < memTop) && mine (n / 0x8000)))
      blocks := s.mem.blocks.filter (fun e => !(decide (2048 * e.1 < memTop) && mine (e.1 / 1024))) } }

def pageRange (s : State) (first n : Nat) : Bool := decide (first + n ≤ partTop s / 0x200000)

def rowPageAssign : PsmRow := ⟨0x0102, true, .module, noNeed, 0⟩

def pageAssign (s : State) (c : Call) : State × Answer :=
  let p := c.par 0 1
  let host := bit (c.par 1 1) 0
  let first := c.par 4 4
  let n := c.par 8 4
  if !pageRange s first n then (s, refuseA 0x0216)
  else if (span first n).any (fun k => pageOwned (pageEntry s k) && pagePart (pageEntry s k) != p) then (s, refuseA 0x0215)
  else
    let entry := fun (e : Nat) => 0x8000 + p * 8192 + b2n host * 4096 + (if pageOwned e then b2n (pageComp e) * 2048 else 0)
    let s := zeroPages s (fun k => decide (first ≤ k ∧ k < first + n) && !pageOwned (pageEntry s k))
    ({ s with mem := { s.mem with pages := (span first n).foldl (fun t k => Tab.mod 0 t k entry) s.mem.pages } }, okA)

def execPsmPageAssign (func ring : Nat) (io : HostIo) (s : State) : Host.Outcome State Fault Refusal :=
  done (withCmd rowPageAssign (fun _ => true) func ring io pageAssign s)

/-- Areas of a loaded image's buffers and tables, and of its round policies, in force and pending (0x0217 of R480). -/
def usedAreas (s : State) (jk : Nat) : List (Nat × Nat) :=
  let j := getJob s jk
  match j.image with
  | none => []
  | some im =>
    let layers := (im.tensors.filter (fun t => hasLayer t.layer)).foldl (fun n t => max n (t.layer + 1)) 0
    let shards := (im.tensors.filter (fun t => t.cls == 2)).length
    im.buffers.map (fun b => (b.dpa, b.size))
      ++ (if jk % 2 = 0 then [(j.numBase, 128 * layers), (j.stepBase, 64 * layers), (j.shardBase, 64 * shards)] else [])
      ++ (j.round.policy.toList ++ j.round.next.map Prod.fst).flatMap (fun q => [(q.roundBase, 2112), (q.rshardBase, 64 * shards)])

def rowPageRelease : PsmRow := ⟨0x0103, true, .module, noNeed, 0⟩

def pageRelease (s : State) (c : Call) : State × Answer :=
  let p := c.par 0 1
  let first := c.par 4 4
  let n := c.par 8 4
  let mine := fun (k : Nat) => decide (first ≤ k ∧ k < first + n)
  if !pageRange s first n then (s, refuseA 0x0216)
  else if (span first n).any (fun k => !pageOwned (pageEntry s k) || pagePart (pageEntry s k) != p) then (s, refuseA 0x0215)
  else if (List.range 8).any (fun jk => (usedAreas s jk).any (fun a => overlaps a.1 a.2 (first * 0x200000) (n * 0x200000))) then (s, refuseA 0x0217)
  else
    let s := zeroPages s mine
    ({ s with mem := { s.mem with pages := s.mem.pages.filter (fun e => !mine e.1) } }, okA)

def execPsmPageRelease (func ring : Nat) (io : HostIo) (s : State) : Host.Outcome State Fault Refusal :=
  done (withCmd rowPageRelease (fun _ => true) func ring io pageRelease s)

/-! ## Thaws (R469, R486) -/

/-- The first master that waits takes a freed slot (R452). -/
def refillFreezes (s : State) : State :=
  match s.host.freezeWait with
  | [] => s
  | z :: rest => addFreeze { s with host := { s.host with freezeWait := rest } } z

/-- Remove the record of a frozen master: a slot, or a place in the wait. -/
def dropFreeze (s : State) (z : Freeze) : State :=
  match s.host.freezes.find? (fun e => e.2 == z) with
  | some e => refillFreezes { s with host := { s.host with freezes := Tab.del s.host.freezes e.1 } }
  | none => { s with host := { s.host with freezeWait := s.host.freezeWait.filter (· != z) } }

/-- A frozen bench context is thawed: its task is issued again with REISSUE, and the context selects its next task (R95, R469). -/
def thawCtx (s : State) (lb c : Nat) : State :=
  let x := getCtx s lb c
  if !x.frozen then s
  else
    let clear := fun (s : State) => modCtx s lb c (fun x => { x with frozen := false, running := none })
    let s := match x.running, jobOf s lb c with
      | some t, some jk =>
        if (votingNow (getBench s lb) c).isSome then modBench (clear s) lb (fun b => { b with votes := b.votes.drop 1 })
        else
          let (s, t) := partCopies (dropVotes (clear s) lb c) jk lb t
          let (s, again) := runAgain s jk lb t
          redeal s jk again
      | _, _ => clear s
    selectNext s lb

/-- The effect of a thaw on the master itself (R469). -/
def thawMaster (s : State) (z : Freeze) : State :=
  let loc := z.source % 8192
  match z.cls with
  | 0 =>
    let f := loc - 0x400
    let s := modFunc s f (fun fn => { fn with frozen := false })
    let s := (List.range 2).foldl (fun s k =>
      let s := writeHeld s f (1 - k) (getRing s f (1 - k)).heldCq.length
      refuseUnknown s f (1 - k) (getRing s f (1 - k)).fetched.length) s
    flushLost s f
  | 1 => thawCtx s loc z.unit
  | 2 => { s with host := { s.host with copyFrozen := s.host.copyFrozen.filter (· != z.unit) } }
  | 4 => modFeed s (loc - 0x320) (fun f => { f with frozen := false })
  | _ => s

/-- The frozen master that PSM_MASTER_THAW names. -/
def thawTarget (s : State) (c : Call) : Option Freeze :=
  if c.par 0 1 = 0xFF then
    (s.host.freezes.map Prod.snd ++ s.host.freezeWait).find? (fun z => z.cls == c.par 1 1 && z.source == c.par 2 2 && z.unit == c.par 4 1)
  else Tab.find s.host.freezes (c.par 0 1)

def rowMasterThaw : PsmRow := ⟨0x0104, true, .module, noNeed, 0⟩

def masterThaw (s : State) (c : Call) : State × Answer :=
  match thawTarget s c with
  | none => (s, refuseA 0x0218)
  | some z =>
    let s := thawMaster (dropFreeze s z) z
    (raisePart s (if z.part = 0xFF then none else some z.part) 0x0402 z.source [(1, z.cls), (1, z.part)], okA)

def execPsmMasterThaw (func ring : Nat) (io : HostIo) (s : State) : Host.Outcome State Fault Refusal :=
  done (withCmd rowMasterThaw (fun _ => true) func ring io masterThaw s)

/-! ## The partition reset (R470, R479, R487) -/

/-- Stop both contexts of every bench of a partition as a freeze does. -/
def haltPart (s : State) (p : Nat) : State :=
  (lbsOf (getPart s p).rows).foldl (fun s lb =>
    if present s lb then haltCtx (haltCtx s lb 0) lb 1 else s) s

/-- Every frozen master of a partition but its VF is thawed, and its record freed. -/
def thawPart (s : State) (p : Nat) : State :=
  let mine := (s.host.freezes.map Prod.snd ++ s.host.freezeWait).filter (fun z => z.part == p && z.cls != 0)
  mine.foldl (fun s z => thawMaster (dropFreeze s z) z) s

/-- Contexts stopped by the reset that no violation had frozen go on with their next task. -/
def unstopPart (s : State) (p : Nat) : State :=
  { s with benches := s.benches.map (fun e => if (getPart s p).rows.contains (e.1 / 9) then
      (e.1, { e.2 with c0 := { e.2.c0 with frozen := false, running := none }, c1 := { e.2.c1 with frozen := false, running := none } }) else e) }

def rowPartReset : PsmRow := ⟨0x0105, true, .part, noNeed, 0⟩

/-- A frame that names the partition's primary job meets a closed job from now on (R471). -/
def noteResetTag (s : State) (p : Nat) : State :=
  let j := getJob s (2 * p)
  if j.phase = .closed then s else { s with board := { s.board with resetTags := insertNat s.board.resetTags j.tag } }

/-- Commands that name the partition and have not started are turned away: ring 1 of every function, then ring 0 (R456, R479). -/
def refuseWaiting (s : State) (p : Nat) : State :=
  (List.range 8).foldl (fun s f => refuseNaming s p f 0) ((List.range 8).foldl (fun s f => refuseNaming s p f 1) s)

def partReset (s : State) (c : Call) : State × Answer :=
  let p := c.p
  let first := !(List.range 4).any (fun q => (getPart s q).resetting)
  let s := modPart s p (fun q => { q with resetting := true })
  let s := if first then fireErr s 9 else s
  let s := haltPart (refuseWaiting (noteResetTag s p) p) p
  let s := [2 * p, 2 * p + 1].foldl (fun s jk => if (getJob s jk).phase = .closed then s else freeJob s jk 4 true) s
  let s := erasePartKeys s p
  let s := zeroBenches s (lbsOf (getPart s p).rows)
  let s := if bit (c.par 0 1) 0 then zeroPages s (fun k => pageOwned (pageEntry s k) && pagePart (pageEntry s k) == p) else s
  let s := unstopPart (thawPart s p) p
  let s := modPart s p (fun q => { q with resetting := false })
  (raisePart s (some p) 0x0404 (sourceId s srcMp) [(1, p)], okA)

def execPsmPartitionReset (func ring : Nat) (io : HostIo) (s : State) : Host.Outcome State Fault Refusal :=
  done (withCmd rowPartReset (fun _ => true) func ring io partReset s)

/-! ## A peer's partition reset (R471) -/

/-- Ten microseconds between the sendings of a refused frame. -/
def retryNs : Nat := 10000

/-- A CONTROL frame of kind PART_RESET refuses a frame: its sender keeps it for resending. -/
def doResetRefusal (dst tag type : Nat) (body : List Byte) (s : State) : State :=
  let h : HeldFrame := ⟨0, type, body, now s, 0, 0⟩
  { s with board := { s.board with refused := s.board.refused ++ [(dst, tag, h)] } }

def execPartResetRefusalReceive (dst tag type : Nat) (body : List Byte) (s : State) : Host.Outcome State Fault Refusal :=
  done (doResetRefusal dst tag type body s)

/-- Send a held frame once more. -/
def resendFrame (s : State) (dst tag : Nat) (h : HeldFrame) : State :=
  if dst < 8 then boardFrame s dst h.type tag h.body else siteFrame s dst h.type tag h.body

/-- Every 10 µs the sender sends its refused frames again; each waits for a further refusal. -/
def doFrameRetry (s : State) : State :=
  let due := s.board.refused.filter (fun r => decide (r.2.2.sent + retryNs ≤ now s))
  let s := { s with board := { s.board with refused := s.board.refused.filter (fun r => decide (now s < r.2.2.sent + retryNs)) } }
  due.foldl (fun s r => resendFrame s r.1 r.2.1 r.2.2) s

def execPartResetFrameRetry (s : State) : Host.Outcome State Fault Refusal := done (doFrameRetry s)

/-- A CONTROL frame of kind JOB_CLOSED: the board conveyors of that job break, and its kept frames are dropped. -/
def doJobClosed (src tag : Nat) (s : State) : State :=
  let s := { s with board := { s.board with refused := s.board.refused.filter (fun r => !(r.1 == src && r.2.1 == tag)) } }
  match jobOfTag s tag with
  | none => s
  | some jk => breakTo s jk src

def execJobClosedReceive (src tag : Nat) (s : State) : Host.Outcome State Fault Refusal := done (doJobClosed src tag s)

/-! ## PSM_PATH_SET (R434, R435, R500) -/

def rowPathSet : PsmRow :=
  ⟨0x0106, true, .module, fun _ b => if b.length < 16 then 16 else 16 + 64 * fieldLe b 0 1 + 16 * fieldLe b 4 4, 0⟩

/-- Path sets that a position belongs to. -/
def setsOf (s : State) (k : Nat) : List Nat := (List.range 4).filter (fun p => entryFor s k p)

/-- Flows that remain on a position: frames of theirs that left on it wait for an acknowledgement. -/
def flowsOn (s : State) (k : Nat) : Bool := s.board.flows.any (fun f => f.unacked.any (fun h => h.port == k && h.sent != notSent))

/-- The path change has ended once no flow remains on a removed port; one that is DOWN holds nothing up (R435). -/
def pathQuiet (s : State) (ks : List Nat) : Bool :=
  ks.all (fun k => !flowsOn s k || (match portAt s k with | some n => (getSite s n).st == .down | none => true))

def pathSetCmd (s : State) (c : Call) : State × Answer :=
  let b := c.buf
  let n := fieldLe b 0 1
  let flags := fieldLe b 1 1
  let npeer := fieldLe b 4 4
  let entries := (List.range n).map (fun i => (b.drop (16 + 64 * i)).take 64)
  let ports := entries.map (fun e => fieldLe e 0 1)
  if ports.any (fun k => decide (8 < k)) || ports.eraseDups.length != ports.length || ports.any (fun k => !(getSite s k).fitted) || 65536 < npeer then
    (s, refuseA 0x0248)
  else
    let before := ports.map (fun k => (k, setsOf s k))
    let s := entries.foldl (fun s e => modSite s (fieldLe e 0 1) (fun p => { p with entry := e })) s
    let peers := (List.range npeer).map (fun i => let e := (b.drop (16 + 64 * n + 16 * i)).take 16; (fieldLe e 0 4, fieldLe e 4 6))
    let s := if bit flags 0 then { s with board := { s.board with peers := peers.foldl (fun t e => Tab.set t e.1 e.2) [] } } else s
    let s := if bit flags 1 then { s with board := { s.board with etype := fieldLe b 2 2 } } else s
    let gone := (before.filter (fun e => e.2.any (fun p => !entryFor s e.1 p))).map Prod.fst
    if gone.isEmpty then (s, okA)
    else ({ s with board := { s.board with leaving := some (gone, c.ref) } }, longA)

def execPsmPathSet (func ring : Nat) (io : HostIo) (s : State) : Host.Outcome State Fault Refusal :=
  done (withCmd rowPathSet (fun _ => true) func ring io pathSetCmd s)

/-- The long part of a path change ends. -/
def doPathRemoved (s : State) : State :=
  match s.board.leaving with
  | none => s
  | some (ks, r) => if pathQuiet s ks then longDone { s with board := { s.board with leaving := none } } r 0 else s

def execPathRemoveDone (s : State) : Host.Outcome State Fault Refusal := done (doPathRemoved s)

end Sys2Proof.Machine
end

