-- ==== Sys2Proof/Machine/Stock.lean ====
section
/-! DEFINITION. The stockpile as a buddy: its sender (R442), the place of a checkpoint (R562), blocks as they move (R261), the check before a
restore (R564, R568), and the frames and requests that arrive. Frame contents are operands: the spec gives STOCKPILE frames no body. -/

namespace Sys2Proof.Machine

/-! ## Blocks (R261) -/

/-- A block of memory as a checkpoint carries it, at a checkpoint offset. -/
def blockAt (s : State) (b off : Nat) : CkptBlock :=
  let lines := (List.range 32).filter (fun k => stackDown s (2048 * b) || s.mem.poison.contains (32 * b + k))
  match Tab.get .plain s.mem.blocks b with
  | .plain => ⟨off, 0, lines, Mem.read s.mem.bytes (2048 * b) 2048⟩
  | .raw => ⟨off, 255, lines, Mem.read s.mem.bytes (2048 * b) 2048⟩
  | .coded n => ⟨off, n, lines.filter (fun k => decide (k < n)), Mem.read s.mem.bytes (2048 * b) (64 * n)⟩

/-- Block state of a block's code. -/
def codeState (n : Nat) : BlockState := if n = 0 then .plain else if n = 255 then .raw else .coded n

/-- Write a block with its state and flags at block number b; a failed stack drops it (R264). -/
def putBlock (s : State) (b : Nat) (x : CkptBlock) : State :=
  if stackDown s (2048 * b) then s
  else
  let flags := s.mem.poison.filter (fun n => decide (n < 32 * b ∨ 32 * b + 32 ≤ n))
  let blocks := if x.code = 0 then Tab.del s.mem.blocks b else Tab.set s.mem.blocks b (codeState x.code)
  { s with mem := { s.mem with
      bytes := Mem.write s.mem.bytes (2048 * b) x.data
      poison := x.poison.foldl (fun l k => insertNat l (32 * b + k)) flags, blocks := blocks } }

/-- The raw bytes of a block, each with its tag. -/
def blockRaw (x : CkptBlock) : List (Byte × Bool) :=
  match codeState x.code with
  | .coded n =>
    match expandBlock n x.data with
    | some d => d.map (fun v => (v, !x.poison.isEmpty))
    | none => (List.range 2048).map (fun k => (Config.lostByte (x.off + k), true))
  | _ => (padTo 0 2048 x.data).zipIdx.map (fun v => (v.1, x.poison.contains (v.2 / 64)))

/-- Raw bytes [off, off + n) of a checkpoint in blocks; a block that is not there has none. -/
def rawAt (bs : List CkptBlock) (off n : Nat) : List (Byte × Bool) :=
  (((span (off / 2048) (ceilDiv (off % 2048 + n) 2048)).flatMap (fun k =>
    match bs.find? (fun b => b.off == 2048 * k) with | some b => blockRaw b | none => [])).drop (off % 2048)).take n

/-! ## Header and directory (R558) -/

/-- A directory entry: KIND, ID, OFFSET, SBYTES, SCRC. -/
structure DirEnt where
  kind : Nat
  id : Nat
  off : Nat
  size : Nat
  crc : Nat
deriving DecidableEq, Repr

def dirBytes (e : DirEnt) : List Byte := toLe 4 e.kind ++ toLe 4 e.id ++ toLe 8 e.off ++ toLe 8 e.size ++ toLe 8 e.crc
def parseDir (d : List Byte) : DirEnt := ⟨fieldLe d 0 1, fieldLe d 4 4, fieldLe d 8 8, fieldLe d 0x10 8, fieldLe d 0x18 8⟩

/-- The header of a checkpoint in blocks. -/
def ckptHeader (bs : List CkptBlock) : List Byte := (rawAt bs 0 512).map Prod.fst

/-- The directory of a checkpoint in blocks. -/
def ckptDir (bs : List CkptBlock) : List DirEnt :=
  let n := fieldLe (ckptHeader bs) 0x2C 2
  let d := (rawAt bs 512 (32 * n)).map Prod.fst
  (List.range n).map (fun k => parseDir ((d.drop (32 * k)).take 32))

/-- HCRC and every SCRC agree, and no section holds a poisoned line (R564, R568). -/
def ckptSound (bs : List CkptBlock) : Bool :=
  let h := ckptHeader bs
  h.length == 512 && crc64 (h.take 0x1F8) == fieldLe h 0x1F8 8
    && (ckptDir bs).all (fun e => let d := rawAt bs e.off e.size; d.length == e.size && !(d.any Prod.snd) && crc64 (d.map Prod.fst) == e.crc)

/-! ## Places (R261, R562) -/

def stockBytes (s : State) : Nat := stockGib s * 2 ^ 30

/-- The highest address at which n bytes are free beside some checkpoints. -/
def stockBase (s : State) (held : List Held) (n : Nat) : Option Nat :=
  ((stockBytes s :: held.map (·.base)).filterMap (fun top =>
    if n ≤ top && !(held.any (fun h => overlaps (top - n) n h.base h.size)) then some (top - n) else none)).max?

/-- Find a place for a checkpoint: beside the one already held, else in its stead; a partial one of the same job is discarded (R562, R563). -/
def reserveStock (s : State) (src tag build size : Nat) : Option State :=
  let mine := fun (h : Held) => h.sender == src && h.tag == tag
  let put := fun (held : List Held) (b : Nat) => { s with stock := { s.stock with held := held ++ [⟨src, tag, build, 0, b, size, false⟩] } }
  let whole := s.stock.held.filter (fun h => h.complete || !mine h)
  match stockBase s whole size with
  | some b => some (put whole b)
  | none =>
    let others := whole.filter (fun h => !mine h)
    (stockBase s others size).map (put others)

/-- The blocks of a held checkpoint. -/
def heldBlocks (s : State) (h : Held) : List CkptBlock :=
  (List.range (h.size / 2048)).map (fun k => blockAt s (stockPlace s (h.base + 2048 * k) / 2048) (2048 * k))

/-! ## Frames that arrive (R562) -/

/-- A block of a checkpoint arrives. The header comes last: the checkpoint is COMPLETE, an older one of the job goes, and the sender is told. -/
def doStockFrame (src tag build stp : Nat) (x : CkptBlock) (last : Bool) (s : State) : State :=
  match s.stock.held.find? (fun h => h.sender == src && h.tag == tag && !h.complete) with
  | none => s
  | some h =>
    if s.stock.serves != some src || h.size < x.off + 2048 then s
    else
      let s := putBlock s (stockPlace s (h.base + x.off) / 2048) x
      if !last then s
      else
        let whole : Held := { h with build := build, step := stp, complete := true }
        let rest := s.stock.held.filter (fun g => !(g.sender == src && g.tag == tag))
        sendFrame { s with stock := { s.stock with held := rest ++ [whole] } } .stockpileReply src tag [1, 0] []

def execStockpileFrameReceive (src tag build stp : Nat) (blk : CkptBlock) (last : Bool) (s : State) : Host.Outcome State Fault Refusal :=
  done (doStockFrame src tag build stp blk last s)

/-! ## Requests that arrive (R442, R562, R564) -/

/-- What the stockpile holds for a sender, as the items of an answer. -/
def heldItems (s : State) (src : Nat) : List Nat :=
  (s.stock.held.filter (fun h => h.sender == src && h.complete)).flatMap (fun h => [h.tag, h.build, h.step, h.size])

/-- Stream a checkpoint back, its header last. -/
def streamBack (s : State) (src : Nat) (h : Held) : State :=
  let bs := heldBlocks s h
  (bs.drop 1 ++ bs.take 1).foldl (fun s b => sendFrame s .stockpile src h.tag ([h.build, h.step, b.off, b.code] ++ b.poison) b.data) s

/-- A request of kind 0 bind, 1 save, 2 restore, 3 discard, 4 query or 5 release. The answer names the kind and 0 done, 1 refused
because another module is served, 2 no room, 3 no such checkpoint. -/
def doStockRequest (src kind tag build size : Nat) (s : State) : State :=
  let answer := fun (s : State) (n : Nat) => sendFrame s .stockpileReply src tag [kind, n] []
  let find := s.stock.held.find? (fun h => h.sender == src && h.tag == tag && h.complete && h.build == build)
  let other := match s.stock.serves with | some k => k != src | none => false
  if kind = 4 then sendFrame s .stockpileReply src tag ([4, b2n other, stockGib s] ++ heldItems s src) []
  else if kind = 5 then (if s.stock.serves = some src then { s with stock := { s.stock with serves := none } } else s)
  else if other then answer s 1
  else
    let s := { s with stock := { s.stock with serves := some src } }
    match kind with
    | 0 => answer s 0
    | 1 => match reserveStock s src tag build size with | some s => s | none => answer s 2
    | 2 =>
      match find with
      | none => answer s 3
      | some h => if ckptSound (heldBlocks s h) then streamBack s src h else answer (discardHeld s (· == h)).1 3
    | _ =>
      match find with
      | none => answer s 3
      | some h => answer (discardHeld s (· == h)).1 0

def execStockpileRequestReceive (src kind tag build size : Nat) (s : State) : Host.Outcome State Fault Refusal :=
  done (doStockRequest src kind tag build size s)

end Sys2Proof.Machine
end

