-- ==== Sys2Proof/Machine/Workings.lean ====
section
/-! DEFINITION. A workings image as bytes (R37 to R56), the checks of a load (R66), the code caches (R44), and the initial values
that a load writes (R190, R192, R283, R291, R335). -/

namespace Sys2Proof.Machine

/-! ## Reading an image (R38, R39, R46, R52, R54, R56) -/

def wkiMagic : Nat := 0x494B5744
def deviceCode : Nat := 0x0A09

/-- Offset and size of section i. -/
def secOff (d : List Byte) (i : Nat) : Nat := fieldLe d (0x28 + 8 * i) 4
def secSize (d : List Byte) (i : Nat) : Nat := fieldLe d (0x2C + 8 * i) 4
def sectBytes (d : List Byte) (i : Nat) : List Byte := (d.drop (secOff d i)).take (secSize d i)

/-- Entry n of a section of entries of w bytes. -/
def entryAt (d : List Byte) (i w n : Nat) : List Byte := (d.drop (secOff d i + w * n)).take w

def parseStation (param e : List Byte) : Station :=
  { name := (e.take 32).takeWhile (· != 0), kind := fieldLe e 0x20 1, flags := fieldLe e 0x21 1, phase := fieldLe e 0x22 1,
    hops := fieldLe e 0x23 1, codeOff := fieldLe e 0x24 4, codeSize := fieldLe e 0x28 4, layer := fieldLe e 0x2C 4,
    rowMask := fieldLe e 0x30 8, colMask := fieldLe e 0x38 2,
    neighbours := (List.range (min 4 (fieldLe e 0x3A 1))).map (fun k => fieldLe e (0x3C + k) 1),
    params := (param.drop (fieldLe e 0x40 4)).take (fieldLe e 0x44 4) }

def parseConv (e : List Byte) : ConvDesc :=
  { producer := fieldLe e 0 2, consumer := fieldLe e 2 2, format := fieldLe e 4 1, block := fieldLe e 5 1, store := fieldLe e 6 1,
    ext := fieldLe e 7 1, rows := fieldLe e 8 2, cols := fieldLe e 0xA 2, capacity := fieldLe e 0xC 2, high := fieldLe e 0xE 2,
    low := fieldLe e 0x10 2, buffer := fieldLe e 0x12 2, tensor := fieldLe e 0x14 4 }

def parseBuf (e : List Byte) : BufDesc := ⟨fieldLe e 0 8, fieldLe e 8 8, fieldLe e 0x10 1, fieldLe e 0x11 1⟩

def parseTensor (e : List Byte) : TensorEnt :=
  { id := fieldLe e 0 4, cls := fieldLe e 4 1, format := fieldLe e 5 1, block := fieldLe e 6 1, rounding := fieldLe e 7 1, layer := fieldLe e 0xC 4,
    dims := (List.range (min 4 (fieldLe e 8 1))).map (fun k => fieldLe e (0x10 + 4 * k) 4),
    shard := (List.range (min 4 (fieldLe e 9 1))).map (fun k => fieldLe e (0x20 + 2 * k) 2),
    epoch := fieldLe e 0x28 4, scale := BitVec.ofNat 32 (fieldLe e 0x2C 4), offset := fieldLe e 0x30 8, buffer := fieldLe e 0x38 2 }

def stationCount (d : List Byte) : Nat := fieldLe d 0x1A 2
def convCount (d : List Byte) : Nat := fieldLe d 0x1C 2
def bufCount (d : List Byte) : Nat := fieldLe d 0x1E 2
def tensorCount (d : List Byte) : Nat := fieldLe d 0x20 4

def parseImage (d : List Byte) : Image :=
  let sc := sectBytes d 6
  { buildId := fieldLe d 0x10 8, role := fieldLe d 0x18 1, stealHops := fieldLe d 0x19 1,
    stations := (List.range (stationCount d)).map (fun n => parseStation (sectBytes d 5) (entryAt d 0 128 n)),
    conveyors := (List.range (convCount d)).map (fun n => parseConv (entryAt d 1 32 n)),
    buffers := (List.range (bufCount d)).map (fun n => parseBuf (entryAt d 2 32 n)),
    tensors := (List.range (tensorCount d)).map (fun n => parseTensor (entryAt d 3 64 n)),
    code := sectBytes d 4, sched := ⟨fieldLe sc 0 2, fieldLe sc 2 2, fieldLe sc 4 2, fieldLe sc 8 4⟩ }

/-! ## The checks of a load (R66), in table order -/

def headerBad (d : List Byte) : Bool :=
  d.length < 128 || decide (2 ^ 28 < d.length) || d.length % 64 != 0 || fieldLe d 0 4 != wkiMagic || fieldLe d 4 2 != 1 || fieldLe d 6 2 != deviceCode
    || decide (1 < fieldLe d 0x18 1)

/-- The size that a section must have: that of its count, of 64 B granules, or of one schedule. -/
def secSizeOk (d : List Byte) (i : Nat) : Bool :=
  match i with
  | 0 => secSize d 0 == 128 * stationCount d
  | 1 => secSize d 1 == 32 * convCount d
  | 2 => secSize d 2 == 32 * bufCount d
  | 3 => secSize d 3 == 64 * tensorCount d
  | 4 => secSize d 4 % 64 == 0
  | 6 => secSize d 6 == 64
  | _ => true

def integrityBad (d : List Byte) : Bool :=
  fieldLe d 8 4 != d.length || crc32 (putBytes d 0xC [0, 0, 0, 0]) != fieldLe d 0xC 4
    || (List.range 7).any (fun i => secOff d i % 64 != 0 || decide (d.length < secOff d i + secSize d i) || !secSizeOk d i)

def stationLimit (d e : List Byte) : Bool :=
  let hops := fieldLe e 0x23 1
  let size := fieldLe e 0x28 4
  let n := fieldLe e 0x3A 1
  (decide (7 < hops) && hops != 0xFF) || decide (size < 64 ∨ 8192 < size) || size % 64 != 0 || fieldLe e 0x24 4 % 64 != 0
    || decide (secSize d 4 < fieldLe e 0x24 4 + size) || decide (4096 < fieldLe e 0x44 4) || decide (secSize d 5 < fieldLe e 0x40 4 + fieldLe e 0x44 4)
    || decide (4 < n) || (List.range (min 4 n)).any (fun k => decide (stationCount d ≤ fieldLe e (0x3C + k) 1))

def convLimit (d : List Byte) (c : ConvDesc) : Bool :=
  let pastEnd := fun (x : Nat) => x != 0xFFFF && decide (stationCount d ≤ x)
  decide (c.rows < 1 ∨ 256 < c.rows) || decide (c.cols < 1 ∨ 256 < c.cols) || decide (c.capacity < 2 ∨ 4096 < c.capacity)
    || decide (65536 < payloadBytes c.format c.rows c.cols) || decide (4096 < trailerBytes c.format c.block c.rows c.cols)
    || pastEnd c.producer || pastEnd c.consumer || (c.store == 1 && decide (bufCount d ≤ c.buffer))

def limitBad (d : List Byte) (im : Image) : Bool :=
  decide (stationCount d < 1 ∨ 256 < stationCount d) || decide (4096 < convCount d) || decide (16384 < bufCount d) || decide (65536 < tensorCount d)
    || decide (7 < im.stealHops) || (List.range (stationCount d)).any (fun n => stationLimit d (entryAt d 0 128 n)) || im.conveyors.any (convLimit d)
    || (List.range (tensorCount d)).any (fun n => let e := entryAt d 3 64 n; decide (fieldLe e 8 1 < 1 ∨ 4 < fieldLe e 8 1) || decide (bufCount d ≤ fieldLe e 0x38 2))
    || decide (im.sched.passes < 1 ∨ 1024 < im.sched.passes) || decide (stationCount d ≤ im.sched.first)

def isLetter (b : Byte) : Bool := decide ((65 ≤ b.toNat ∧ b.toNat ≤ 90) ∨ (97 ≤ b.toNat ∧ b.toNat ≤ 122))
def isNameChar (b : Byte) : Bool := isLetter b || decide (48 ≤ b.toNat ∧ b.toNat ≤ 57) || b == 0x5F || b == 0x2D || b == 0x2E

/-- NUL-terminated and NUL-padded, 1 to 31 characters, the first a letter, unique in the image (R39, R40). -/
def nameBad (d : List Byte) (im : Image) : Bool :=
  let names := im.stations.map (·.name)
  names.any (fun n => n.isEmpty || decide (31 < n.length) || !(isLetter (n.headD 0)) || !(n.all isNameChar)) || names.eraseDups.length != names.length
    || (List.range (stationCount d)).any (fun k => (((entryAt d 0 128 k).take 32).dropWhile (· != 0)).any (· != 0))

def watermarkBad (c : ConvDesc) : Bool :=
  let p := c.producer == 0xFFFF
  let q := c.consumer == 0xFFFF
  let kind := extKind c
  !(decide (1 ≤ c.low ∧ c.low < c.high ∧ c.high ≤ c.capacity)) || (p && q) || ((p || q) && kind == 0) || ((kind == 1 || kind == 2) && !(p || q))
    || (kind == 1 && (q || decide (3 < extIndex c)))

/-- Scratchpad reservation of an image on a bench (R51): an outgoing board conveyor reserves nothing. -/
def reservedOn (s : State) (p lb : Nat) (im : Image) : Nat :=
  (im.conveyors.filter (fun c => c.store == 0)).foldl (fun n c =>
    match im.stations[c.consumer]? with
    | none => n
    | some st => let g := presentGroup s p st; if g.contains lb then n + shareBytes c g.length else n) 0

/-- Placement of an image beside the image of the other context (R42, R43, R51, R53). -/
def placementBad (s : State) (p : Nat) (im : Image) (other : Option Image) : Bool :=
  let n := (partRows s p).length
  let both := im :: other.toList
  let lbs := (partRows s p).flatMap (fun r => span (9 * r) 9)
  im.stations.any (fun st => decide (2 ^ n ≤ st.rowMask) || (groupOf s p st).isEmpty)
    || lbs.any (fun lb => decide (8 < ((both.flatMap (fun i => i.stations)).filter (fun st => (groupOf s p st).contains lb)).length)
      || decide (0x80000 < both.foldl (fun t i => t + reservedOn s p lb i) 0))
    || im.buffers.any (fun b => !ownsRange s p b.dpa b.size)

def roleBad (im : Image) (ctx : Nat) : Bool :=
  im.role != ctx
    || (im.role == 1 && (im.stations.any (fun st => decide (st.kind < 1 ∨ 5 < st.kind) || st.phase != 0) || im.sched.roundSteps != 0
      || im.conveyors.any (fun c => c.producer == 0xFFFF || c.consumer == 0xFFFF) || im.tensors.any (fun t => t.cls == 5 || t.cls == 6)))
    || (im.role == 0 && im.sched.roundSteps == 0 && im.stations.any (fun st => st.phase == 2))

/-- The first check of R66 that an image for context ctx of partition p fails, but WKI_BUSY. -/
def imageRefusal (s : State) (p ctx : Nat) (d : List Byte) : Option Nat :=
  let im := parseImage d
  if headerBad d then some 0x0201
  else if integrityBad d then some 0x0202
  else if limitBad d im then some 0x0203
  else if nameBad d im then some 0x0204
  else if im.conveyors.any watermarkBad then some 0x0205
  else if placementBad s p im (getJob s (2 * p + (1 - ctx))).image then some 0x0206
  else if roleBad im ctx then some 0x0207
  else none

/-! ## Code caches (R43, R44, R77) -/

/-- Add a bound entry; with all eight taken it replaces the neighbour entry placed last (R44). The entry of a station whose task runs on the bench
is rewritten only at the bench's next tile boundary (R77). -/
def bindEntry (runs : CacheTag → Bool) (cache : List CacheTag) (c k : Nat) : List CacheTag :=
  if cache.length < 8 then cache ++ [⟨c, k, true, false⟩]
  else
    match (cache.reverse.findIdx? (fun t => !t.bound)).map (fun n => cache.length - 1 - n) with
    | some n => cache.eraseIdx n ++ [⟨c, k, true, ((cache[n]?).map runs).getD false⟩]
    | none => cache

/-- Add neighbour code where it is not resident and an entry is free. -/
def neighbourEntry (cache : List CacheTag) (c k : Nat) : List CacheTag :=
  if cache.length < 8 && !cache.any (fun t => t.ctx == c && t.station == k) then cache ++ [⟨c, k, false, false⟩] else cache

def fillCache (s : State) (jk lb : Nat) (im : Image) (cache : List CacheTag) : List CacheTag :=
  let c := jk % 2
  let mine := (im.stations.zipIdx).filter (fun sk => (groupOf s (jk / 2) sk.1).contains lb)
  let runs := fun (t : CacheTag) => (((getBench s lb).ctx t.ctx).running.map (fun u => u.station == t.station)).getD false
  let cache := mine.foldl (fun l sk => bindEntry runs l c sk.2) (cache.filter (fun t => t.ctx != c))
  (mine.filter (fun sk => bit sk.1.flags 0)).foldl (fun l sk => sk.1.neighbours.foldl (fun l k => neighbourEntry l c k) l) cache

def fillCaches (s : State) (jk : Nat) (im : Image) : State :=
  let lbs := ((partRows s (jk / 2)).flatMap (fun r => span (9 * r) 9)).filter (present s)
  lbs.foldl (fun s lb => modBench s lb (fun b => { b with cache := fillCache s jk lb im b.cache })) s

/-! ## Initial records -/

/-- The default of the policy part of a layer record, as an entry of R489 (R189). -/
def defaultPolicy : List Byte :=
  toLe 4 0xFFFFFFFF ++ toLe 1 0x18 ++ toLe 1 0 ++ toLe 2 1000 ++ toLe 2 2000 ++ toLe 1 0 ++ toLe 1 4 ++ toLe 1 10 ++ toLe 1 24 ++ toLe 1 0
    ++ toLe 1 10 ++ toLe 1 6 ++ toLe 1 (ofInt8 (-6)) ++ toLe 1 (ofInt8 (-24)) ++ [0] ++ toLe 4 0x3E800000 ++ toLe 4 0x3D800000 ++ toLe 4 0

/-- The policy entry of a layer: its own, else the one for all layers, else the defaults (R489). -/
def policyOf (es : List (List Byte)) (l : Nat) : List Byte :=
  let named := fun (n : Nat) => es.find? (fun e => fieldLe e 0 4 == n)
  ((named l).orElse (fun _ => named 0xFFFFFFFF)).getD defaultPolicy

/-- floor(log2 |SCALE|) of an FP32; none for zero, an infinity or NaN (R190). -/
def scaleLog (w : Word) : Option Int :=
  let e : Nat := w.toNat / 2 ^ 23 % 256
  let m : Nat := w.toNat % 2 ^ 23
  if e = 255 || (e = 0 && m = 0) then none
  else if e = 0 then some ((Nat.log2 m : Int) - 149)
  else some ((e : Int) - 127)

/-- Chunks that the STEP update stations of a layer update here: UPD_TASKS (R189, R201). -/
def updTasks (im : Image) (l : Nat) : Nat :=
  ((im.tensors.filter (fun t => t.cls == 2 && t.layer == l && (updateOf im 1 t).isSome)).map chunkCount).foldl (· + ·) 0

/-- The listed tensors of a layer at job open: at most eight (R190). -/
def openTensors (im : Image) (l : Nat) : List TensorEnt :=
  (im.tensors.filter (fun t => t.layer == l && t.format == 3 && (t.cls == 0 || t.cls == 1 || t.cls == 6))).take 8

/-- Fill one layer record, and the headroom state of its tensors; its histogram areas hold no counts yet (R190, R192, R201). -/
def initLayer (s : State) (jk : Nat) (im : Image) (l : Nat) : State :=
  let j := getJob s jk
  let a := layerRec j l
  let e := policyOf j.numPolicy l
  let b := fun (off : Nat) => toLe 1 (fieldLe e off 1)
  let hi := int8 (fieldLe e 0xD 1)
  let lo := int8 (fieldLe e 0xE 1)
  let lam := clampInt (match im.tensors.find? (fun t => t.layer == l && t.format == 3) with | some t => (scaleLog t.scale).getD lo | none => 0) lo hi
  let k := int8 (fieldLe e 5 1)
  let ts := openTensors im l
  let s := wrBytes s a (toLe 4 l ++ toLe 1 (fieldLe e 4 1 / 2 * 2 + 1) ++ toLe 1 (ofInt8 lam) ++ b 5 ++ [0] ++ toLe 2 (fieldLe e 6 2) ++ toLe 2 0
    ++ toLe 2 (fieldLe e 8 2) ++ b 0xA ++ b 0xB ++ [0] ++ b 0xC ++ b 0xD ++ b 0xE ++ b 0xF ++ b 0x10 ++ b 0x11 ++ b 0x12 ++ toLe 4 (fieldLe e 0x14 4)
    ++ toLe 4 (fieldLe e 0x18 4) ++ toLe 1 ts.length ++ [0] ++ toLe 2 (updTasks im l) ++ toLe 4 (j.start + 2 ^ 32 - 1)
    ++ toLe 8 ((Config.histBase j.numBase l).toNat / 64 * 64) ++ (List.range 8).flatMap (fun n => toLe 4 ((ts[n]?.map (·.id)).getD 0xFFFFFFFF))
    ++ List.replicate 29 0 ++ b 5 ++ toLe 2 0) false
  let s := zeroHist (putScales s a lam k) jk a
  ts.foldl (fun s t =>
    let n := tensorEntries t
    let s := wrOwn s (jk / 2) (tensorScales im t) (List.replicate n (BitVec.ofNat 8 (fieldLe e 0xA 1))) false
    wrOwn s (jk / 2) (tensorStates im t) (List.replicate (2 * n) 0) false) s

/-- Fill the step record of a layer (R283): its versions are the starting step, and no step has been reduced. -/
def initStepRec (s : State) (jk l : Nat) : State :=
  let j := getJob s jk
  wrBytes s (stepRec j l) (toLe 4 l ++ toLe 4 j.start ++ toLe 4 (j.start + 2 ^ 32 - 1) ++ List.replicate 52 0) false

/-- Set every place of a tensor and every scale entry. -/
def fillTensor (s : State) (p : Nat) (im : Image) (t : TensorEnt) (v : Nat → Word) : State :=
  putPlaces (wrOwn s p (tensorScales im t) (List.replicate (tensorEntries t) 0) false) p im t (List.range (1024 * subBlocks t)) v

/-- The outer-round state of a master shard at job open (R335): anchor and split anchor as fp32 of the master; momentum and spoil +0. -/
def initRoundTensors (s : State) (p : Nat) (im : Image) (t : TensorEnt) (k : Station) : State :=
  let anchor := fun (n : Nat) => toF32 (placeVal s im t n)
  let put := fun (s : State) (x : Option TensorEnt) (v : Nat → Word) => match x with | some y => fillTensor s p im y v | none => s
  let momenta := ((updateOf im 2 t).map (fun ks => ((uStates ks.2).filter (· != ((xAnchor im k).map (·.id)).getD 0xFFFFFFFF)).filterMap (tensorOf im))).getD []
  let s := put (put s (xAnchor im k) anchor) (xSplit im k) anchor
  let s := put s (xSpoil im k) (fun _ => 0)
  momenta.foldl (fun s m => fillTensor s p im m (fun _ => 0)) s

/-- The values that a load writes at job open: layer records, for a cold-scale start with the scales of the probe, step records,
shard records, and the tensors of the outer rounds (R190, R208, R283, R290, R335). -/
def initRecords (s : State) (jk : Nat) (im : Image) : State :=
  let s := (layersOf im).foldl (fun s l => initStepRec (initLayer s jk im l) jk l) s
  let s := if (getJob s jk).cold then coldScale s jk else s
  (held im).foldl (fun s tr =>
    let o := (getJob s jk).owners.getD tr.2 (0xFFFF, 0xFFFF)
    let s := initShard s jk tr.2 im tr.1 (getJob s jk).start o.1 o.2
    match exchangeOf im 1 tr.1 with
    | some (_, k) => initRoundTensors s (jk / 2) im tr.1 k
    | none => s) s

/-- The shard records take the scales of their layer records (R290). -/
def refreshScales (s : State) (jk : Nat) (im : Image) : State :=
  (held im).foldl (fun s tr =>
    if !hasLayer tr.1.layer then s
    else
      let a := layerRec (getJob s jk) tr.1.layer
      wrBytes s (shardAddr (getJob s jk) tr.2 + 0x2C) (rdData s (a + 0x78) 8 ++ rdData s (a + 0x74) 4) false) s

/-- A policy accepted after a restore: the records of the checkpoint go where the policy puts them, and the restored contexts stay (R564,
R567). -/
def resumeRounds (s : State) (jk : Nat) (im : Image) (pol : RoundPolicy) (d : List Byte) : State :=
  let s := modRound s jk (fun _ => { RoundSt.reset with policy := some pol, saved := some d })
  let s := wrBytes s pol.roundBase (d.take 2112) false
  let r0 := (getJob s jk).start / max 1 im.sched.roundSteps
  (held im).foldl (fun s tr =>
    let s := wrBytes s (pol.rshardBase + 64 * tr.2) ((d.drop (2112 + 64 * tr.2)).take 64) false
    setMasks (modRShard s jk tr.2 (fun _ => { RoundShard.reset with installed := r0 })) jk tr.2) s

/-- The round record, partner records and round shard records when a policy is accepted before the job runs (R335, R344, R360, R365). A
joining site's owned shards, and their contexts to the sponsor, start in BOOTSTRAP. -/
def freshRounds (s : State) (jk : Nat) (im : Image) (pol : RoundPolicy) : State :=
  let s := modRound (freeJobCtxs s jk) jk (fun _ => { RoundSt.reset with policy := some pol })
  let r0 := (getJob s jk).start / max 1 im.sched.roundSteps
  let s := wrBytes s pol.roundBase (toLe 4 (r0 + 2 ^ 32 - 1) ++ List.replicate 60 0
    ++ (List.range 64).flatMap (fun p => List.replicate 8 0 ++ toLe 4 (if p < pol.partners.length then 1000000000 else 0) ++ List.replicate 20 0)) false
  let joins := bit pol.flags 2
  let s := if joins && !(getJob s jk).cold && (getJob s jk).probe.isNone then refreshScales (coldScale s jk) jk im else s
  (held im).foldl (fun s tr =>
    if (exchangeOf im 1 tr.1).isNone then s
    else
      let s := initRoundShard s jk tr.2 r0 r0 tr.1
      let s := if joins then modRShard s jk tr.2 (fun x => { x with installed := r0 - 1 }) else s
      if !ownerHere s (getJob s jk) tr.2 then s
      else
        let s := if joins then setRoundState s jk tr.2 7 else s
        (pol.partners.zipIdx).foldl (fun s q =>
          if partnerOk q.1 then openCtx s jk tr.2 q.2 (if joins && bit q.1.flags 2 then 4 else 1) 0 else s) s) s

/-- The outer rounds of a job that has not run yet, when its policy is accepted. -/
def initRounds (s : State) (jk : Nat) (im : Image) (pol : RoundPolicy) : State :=
  match (getJob s jk).round.saved with
  | some d => resumeRounds s jk im pol d
  | none => freshRounds s jk im pol

end Sys2Proof.Machine
end

