-- ==== Sys2Proof/Machine/Ckpt.lean ====
section
/-! DEFINITION. Checkpoints of this module's jobs: sections and header (R557 to R559), the snapshot (R560, R561), the end of a SAVE
(R562, R563), a restore (R564 to R568), and what becomes of checkpoints at the buddy (R574). -/

namespace Sys2Proof.Machine

/-! ## The buddy (R442) -/

/-- A slot is another module whose direct port is UP or DEGRADED. -/
def buddyReach (s : State) (b : Nat) : Bool := b != s.board.slotId && decide (b < 8) && carries (getPort s (portTo s b))

/-! ## Sections (R557, R558) -/

/-- A section: KIND, ID, SBYTES, SCRC and its blocks, offsets from the section's start. -/
structure Section where
  kind : Nat
  id : Nat
  size : Nat
  crc : Nat
  blocks : List CkptBlock
deriving DecidableEq, Repr

/-- Bytes as PLAIN blocks, the last one padded. -/
def plainBlocks (d : List (Byte × Bool)) : List CkptBlock :=
  ((chunksOf 2048 d (d.length + 1)).zipIdx).map (fun c =>
    ⟨2048 * c.2, 0, (List.range 32).filter (fun k => ((c.1.drop (64 * k)).take 64).any Prod.snd), padTo 0 2048 (c.1.map Prod.fst)⟩)

/-- A section over an area of memory: whole blocks with their states. -/
def areaSection (s : State) (kind id a n : Nat) : Section :=
  let d := rdBytes s a n
  ⟨kind, id, n, crc64 (d.map Prod.fst),
    if a % 2048 = 0 then (List.range (ceilDiv n 2048)).map (fun k => blockAt s (a / 2048 + k) (2048 * k)) else plainBlocks d⟩

/-- A section over several areas, as bytes. -/
def bytesSection (s : State) (kind : Nat) (areas : List (Nat × Nat)) : Section :=
  let d := areas.flatMap (fun a => rdBytes s a.1 a.2)
  ⟨kind, 0, d.length, crc64 (d.map Prod.fst), plainBlocks d⟩

/-- Tensors by ascending ID. -/
def byId (ts : List TensorEnt) : List TensorEnt := ts.mergeSort (fun a b => decide (a.id ≤ b.id))

/-- Element bytes and scale area of a tensor: both start at multiples of 2,048 (R243). -/
def tensorArea (im : Image) (t : TensorEnt) (scales : Bool) : Nat × Nat :=
  (tensorAddr im t, if scales && tensorEntries t != 0 then roundUp (tensorBytes t) 2048 + tensorEntries t else tensorBytes t)

/-- The tensors of one KIND. -/
def kindTensors (im : Image) (kind : Nat) : List TensorEnt :=
  byId (im.tensors.filter (fun t => match kind with
    | 1 => t.cls == 2
    | 2 => t.cls == 4
    | 3 => t.cls == 3 && t.rounding == 1
    | _ => t.cls == 5 || t.cls == 6))

/-- Listed tensors of CLASS 0 and 1, with scale and headroom state areas (R189, R192). -/
def scaleTensors (s : State) (j : Job) (im : Image) : List TensorEnt :=
  byId (im.tensors.filter (fun t => (t.cls == 0 || t.cls == 1) && hasLayer t.layer && (listedTensors s j t.layer).contains t.id))

/-- Areas of the SCALE section. -/
def scaleAreas (s : State) (j : Job) (im : Image) : List (Nat × Nat) :=
  (layersOf im).map (fun l => (layerRec j l, 128))
    ++ (scaleTensors s j im).flatMap (fun t => [(tensorScales im t, tensorEntries t), (tensorStates im t, 2 * tensorEntries t)])

/-- Areas of the STEP_TABLE section: step records, shard records, chunk version tables. -/
def tableAreas (j : Job) (im : Image) : List (Nat × Nat) :=
  (layersOf im).map (fun l => (stepRec j l, 64)) ++ (held im).map (fun tr => (shardAddr j tr.2, 64))
    ++ (masters im).map (fun t => (vtabOf im t, 4 * chunkCount t))

/-- Areas of the ROUND_RECORDS section. -/
def roundAreas (j : Job) (im : Image) : List (Nat × Nat) :=
  (roundRec j, 2112) :: (held im).map (fun tr => (roundShard j tr.2, 64))

/-- Every haul context of the partition. -/
def contextArea (s : State) (p : Nat) : Nat × Nat := (ctxRecord (getPart s p).ctxs.1, 64 * (getPart s p).ctxs.2)

/-- The ROUND exchange stations with their haul areas. -/
def haulAreas (im : Image) : List (Nat × Nat × Nat) :=
  (im.stations.zipIdx).filterMap (fun sk => if sk.1.kind = 6 && xMode sk.1 = 1 then (im.buffers[xBuf sk.1]?).map (fun b => (sk.2, b.dpa, b.size)) else none)

/-- The folded inputs that hosted nodes hold for the step after the snapshot, as records. -/
def foldedBytes (s : State) (jk : Nat) : List Byte :=
  ((getJob s jk).nodes.filter (fun n => n.opened.isNone)).flatMap (fun n =>
    match gradOf s jk n.id.station with
    | none => []
    | some (_, _, g) => n.folds.flatMap (fun i =>
      let d := packCodes (if i.g16 then 3 else 1) i.codes ++ i.hexps.map (BitVec.ofNat 8)
      let r := { mkRec s jk g (if i.g16 then 0 else 1) i.step n.id.chunk 0 8 d with
        level := n.id.level - 1, node := 2 * n.id.node + i.child, count := i.count, sender := i.sender, zeroed := i.zeroed, stamp := i.stamp }
      recHeader r ++ r.data))

/-- Every section of a job's checkpoint, in order. -/
def sectionsOf (s : State) (jk : Nat) (im : Image) : List Section :=
  let j := getJob s jk
  let tensors := fun (k : Nat) => (kindTensors im k).map (fun t => let a := tensorArea im t (k != 1); areaSection s k t.id a.1 a.2)
  let rounds := im.sched.roundSteps != 0
  let folded := foldedBytes s jk
  tensors 1 ++ tensors 2 ++ tensors 3 ++ (if rounds then tensors 4 else []) ++ [bytesSection s 5 (scaleAreas s j im), bytesSection s 6 (tableAreas j im)]
    ++ (if rounds then [bytesSection s 7 (roundAreas j im)] else [])
    ++ [let c := contextArea s (jk / 2); areaSection s 8 0 c.1 c.2]
    ++ (if rounds then (haulAreas im).map (fun h => areaSection s 9 h.1 h.2.1 h.2.2) else [])
    ++ [⟨10, 0, folded.length, crc64 folded, plainBlocks (folded.map (fun b => (b, false)))⟩]

/-- SBYTES of every section without reading its bytes (R559). -/
def sectionSizes (s : State) (jk : Nat) (im : Image) : List Nat :=
  let j := getJob s jk
  let tensors := fun (k : Nat) => (kindTensors im k).map (fun t => (tensorArea im t (k != 1)).2)
  let sum := fun (l : List (Nat × Nat)) => l.foldl (fun n a => n + a.2) 0
  let rounds := im.sched.roundSteps != 0
  tensors 1 ++ tensors 2 ++ tensors 3 ++ (if rounds then tensors 4 else []) ++ [sum (scaleAreas s j im), sum (tableAreas j im)]
    ++ (if rounds then [sum (roundAreas j im)] else []) ++ [(contextArea s (jk / 2)).2]
    ++ (if rounds then (haulAreas im).map (fun h => h.2.2) else []) ++ [(foldedBytes s jk).length]

/-- BYTES from the sizes of the sections (R559). -/
def ckptSize (sizes : List Nat) : Nat := roundUp (512 + 32 * sizes.length) 2048 + sizes.foldl (fun n z => n + roundUp z 2048) 0

/-- Place sections after the directory: each with its checkpoint offset. -/
def placeSections (off : Nat) (ss : List Section) : List (Nat × Section) :=
  match ss with
  | [] => []
  | x :: rest => (off, x) :: placeSections (off + roundUp x.size 2048) rest

/-- ROUND of the header: the round in progress on the shards in outer rounds that this module owns, or the one that a module without them
counts by the step; 0 without rounds (R558, R365). -/
def roundAt (s : State) (jk e : Nat) (im : Image) : Nat :=
  let j := getJob s jk
  if im.sched.roundSteps = 0 then 0
  else match (held im).find? (fun tr => ownerHere s j tr.2 && (exchangeOf im 1 tr.1).isSome) with
    | some tr => roundOf s j tr.2
    | none => e / im.sched.roundSteps

/-- The 512 B header of a checkpoint of step e, COMPLETE set and HCRC over it (R558). -/
def headerOf (s : State) (jk e n size : Nat) (im : Image) : List Byte :=
  let j := getJob s jk
  let h := toLe 4 0x4B504B43 ++ toLe 2 1 ++ toLe 1 (3 + (if im.sched.roundSteps = 0 then 0 else 4)) ++ toLe 1 s.board.slotId ++ toLe 4 j.tag ++ toLe 4 e
    ++ toLe 8 im.buildId ++ toLe 8 Config.serial.toNat ++ toLe 4 j.cut.epoch ++ toLe 2 j.policy.replica ++ toLe 1 (cutIndex j.cut) ++ [0]
    ++ toLe 4 (roundAt s jk e im) ++ toLe 2 n ++ [0, 0] ++ toLe 8 size ++ toLe 8 (now s) ++ List.replicate 440 0
  h ++ toLe 8 (crc64 h)

/-- The blocks of a whole checkpoint, the header's block last (R562). -/
def checkpointOf (s : State) (jk e : Nat) (im : Image) : List CkptBlock :=
  let ss := sectionsOf s jk im
  let top := roundUp (512 + 32 * ss.length) 2048
  let placed := placeSections top ss
  let dir := placed.flatMap (fun p => dirBytes ⟨p.2.kind, p.2.id, p.1, p.2.size, p.2.crc⟩)
  let head := plainBlocks ((headerOf s jk e ss.length (ckptSize (ss.map (·.size))) im ++ dir).map (fun b => (b, false)))
  placed.flatMap (fun p => p.2.blocks.map (fun b => { b with off := p.1 + b.off })) ++ head.drop 1 ++ head.take 1

/-! ## The snapshot (R560, R561) -/

/-- Send a checkpoint to the buddy: JOB_TAG, BUILD_ID, step, offset, block state and flags of each block, the header's block last. -/
def sendCheckpoint (s : State) (jk e : Nat) (im : Image) : State :=
  (checkpointOf s jk e im).foldl (fun s b =>
    sendFrame s .stockpile (buddySlot s) (getJob s jk).tag ([im.buildId, e, b.off, b.code] ++ b.poison) b.data) s

/-- Note the phase of the checkpoint operation under way. -/
def setPhase (s : State) (o : CkptOp) (ph : SavePhase) (e : Nat) : State := { s with stock := { s.stock with op := some { o with phase := ph, step := e } } }

/-- The snapshot is taken: at the boundary of a running job, at once of a held one or of one that has not run. Causes that meet at the
boundary hold the job as well (R563). -/
def doSnapshot (s : State) : State :=
  match s.stock.op with
  | none => s
  | some o =>
    match (getJob s o.job).image with
    | none => s
    | some im =>
      if o.restore || o.phase != .waiting then s
      else if (getJob s o.job).phase != .running then
        let e := (getJob s o.job).start
        setPhase (sendCheckpoint s o.job e im) o .reading e
      else
        let s := doJobHeld o.job s
        let j := getJob s o.job
        let e := j.step + 1
        if !(j.held || (j.stepOpen && snapshotPoint s o.job e)) then s
        else
          let s := setPhase (sendCheckpoint s o.job e im) o .reading e
          let s := modJob s o.job (fun j => { j with held := true, holds := j.holds ++ [.snapshot] })
          raiseHeld s o.job e .snapshot

def execCkptSnapshot (s : State) : Host.Outcome State Fault Refusal := done (doSnapshot s)

/-- The hold of a snapshot ends: waiting records install, and the job is released unless another cause holds it (R561). -/
def endSnapshot (s : State) (jk : Nat) : State :=
  if (getJob s jk).phase != .running then s
  else
    let s := endHold s jk .snapshot
    let s := drainIngress s jk ((getJob s jk).ingress.length + 1)
    wakePart s (jk / 2)

/-- The last byte has been read. -/
def doReadDone (s : State) : State :=
  match s.stock.op with
  | some o => if !o.restore && o.phase == .reading then endSnapshot (setPhase s o .sent o.step) o.job else s
  | none => s

def execCkptReadDone (s : State) : Host.Outcome State Fault Refusal := done (doReadDone s)

/-! ## The end of a SAVE or RESTORE (R562, R563, R568) -/

/-- What the buddy is known to hold of a job is replaced. -/
def noteHeld (s : State) (o : CkptOp) : State :=
  { s with stock := { s.stock with atBuddy := s.stock.atBuddy.filter (fun h => h.tag != o.ids.1)
      ++ [⟨s.board.slotId, o.ids.1, o.ids.2, o.step, 0, o.size, true⟩] } }

/-- A SAVE or RESTORE ends with a status, and its job is released from the hold of R561. -/
def abandonCkpt (s : State) (status : Nat) : State :=
  match s.stock.op with
  | none => s
  | some o =>
    let s := { s with stock := { s.stock with op := none } }
    let s := if !o.restore && o.phase == .reading then endSnapshot s o.job else s
    longDone s o.reply status

/-- The buddy returns the outcome of a SAVE. -/
def doCkptSaved (ok : Bool) (s : State) : State :=
  match s.stock.op with
  | none => s
  | some o =>
    if o.restore || o.phase == .waiting then s
    else if !ok then abandonCkpt s 0x0260
    else
      let s := abandonCkpt (noteHeld s o) 0
      raiseCkpt s o.job 0x0450 o.ids.1 o.step

def execCkptSaved (ok : Bool) (s : State) : Host.Outcome State Fault Refusal := done (doCkptSaved ok s)

/-! ## A restore (R564 to R567) -/

/-- Write a section's blocks back over an area where `may` allows the address, its last one no further than the section goes unless it is
coded. -/
def restoreArea (s : State) (may : Nat → Bool) (bs : List CkptBlock) (e : DirEnt) (a : Nat) : State :=
  (List.range (ceilDiv e.size 2048)).foldl (fun s k =>
    match bs.find? (fun b => b.off == e.off + 2048 * k) with
    | none => s
    | some b =>
      if !may (a + 2048 * k) then s
      else if a % 2048 = 0 && (b.code != 0 || decide (2048 * k + 2048 ≤ e.size)) then putBlock s (a / 2048 + k) b
      else wrBytes s (a + 2048 * k) (((blockRaw b).map Prod.fst).take (e.size - 2048 * k)) false) s

/-- Write a section's bytes over several areas. -/
def restoreAreas (s : State) (p : Nat) (bs : List CkptBlock) (e : DirEnt) (areas : List (Nat × Nat)) : State :=
  (areas.foldl (fun (w : State × Nat) a => (wrOwn w.1 p a.1 ((rawAt bs (e.off + w.2) a.2).map Prod.fst) false, w.2 + a.2)) (s, 0)).1

/-- Sections of a KIND. -/
def dirOf (bs : List CkptBlock) (kind : Nat) : List DirEnt := (ckptDir bs).filter (fun e => e.kind == kind)

/-- Write the tensor sections of a KIND at the addresses of the loaded image. -/
def restoreTensors (s : State) (p : Nat) (im : Image) (bs : List CkptBlock) (kind : Nat) : State :=
  (dirOf bs kind).foldl (fun s e => match tensorOf im e.id with | some t => restoreArea s (ownsByte s p) bs e (tensorAddr im t) | none => s) s

/-- The STEP_TABLE section; version tables stay where the loaded image has them, and no commit slot is held (R557). -/
def restoreTables (s : State) (jk : Nat) (im : Image) (bs : List CkptBlock) : State :=
  let j := getJob s jk
  let s := (dirOf bs 6).foldl (fun s e => restoreAreas s (jk / 2) bs e (tableAreas j im)) s
  (held im).foldl (fun s tr => wrBytes s (shardAddr j tr.2 + 0x10) (toLe 8 (vtabOf im tr.1) ++ toLe 4 noStep ++ toLe 4 noStep) false) s

/-- The scale state: as it was saved, or a cold-scale start (R566). Histogram areas stay where the load put them. -/
def restoreScales (s : State) (jk e : Nat) (im : Image) (bs : List CkptBlock) (noScale : Bool) : State :=
  let j := getJob s jk
  if noScale || !bit (fieldLe (ckptHeader bs) 6 1) 1 then
    let s := (layersOf im).foldl (fun s l => wrLe s (layerRec j l + 0x24) 4 (e + 2 ^ 32 - 1)) s
    let s := refreshScales (coldScale s jk) jk im
    raiseCkpt s jk 0x0453 j.tag e
  else
    let s := (dirOf bs 5).foldl (fun s d => restoreAreas s (jk / 2) bs d (scaleAreas s j im)) s
    let s := (layersOf im).foldl (fun s l => wrLe s (layerRec j l + 0x28) 8 ((Config.histBase j.numBase l).toNat / 64 * 64)) s
    modJob s jk (fun j => { j with probe := none, probeSeen := ([], false) })

/-- Every working copy whose ROUNDING is not 1 is written from its master (R565). -/
def restoreCopies (s : State) (jk : Nat) (im : Image) : State :=
  (masters im).foldl (fun s t =>
    (((updateOf im 1 t).map (fun ks => (uCopies ks.2).filterMap (tensorOf im))).getD []).foldl (fun s w =>
      if w.rounding = 1 then s else regenCopy s jk im t w) s) s

/-- The haul contexts: those that are not FREE get a new incarnation and split (R567). -/
def restoreContexts (s : State) (jk : Nat) (bs : List CkptBlock) : State :=
  let c := contextArea s (jk / 2)
  let s := (dirOf bs 8).foldl (fun s e => restoreArea s (fun _ => true) bs { e with size := min e.size c.2 } c.1) s
  (List.range (c.2 / 64)).foldl (fun s n =>
    let a := c.1 + 64 * n
    if rdLe s a 1 = 0 then s else wrLe (wrLe s (a + 4) 4 (rdLe s (a + 4) 4 + 1)) a 1 2) s

/-- The records in the bytes of a FOLDED section. -/
def foldedRecs (d : List Byte) (fuel : Nat) : List Rec :=
  match fuel with
  | 0 => []
  | n + 1 => if d.length < 64 then [] else
    let len := 64 + fieldLe d 0x38 4
    parseRec (d.take len) :: foldedRecs (d.drop len) n

/-- A folded input waits again at its node for the resume step. -/
def restoreFold (s : State) (jk : Nat) (im : Image) (r : Rec) : State :=
  match gradNamed im r with
  | none => s
  | some (k, _) =>
    let (codes, hexps) := if r.kind = 0 then splitG16 r.gblocks r.data else splitF32 r.gblocks r.data
    let i : RInput := ⟨r.node % 2, r.sender, r.step, r.kind == 0, false, r.count, r.zeroed, true, r.stamp, codes, hexps⟩
    let d : NodeId := ⟨k, r.chunk, r.level + 1, r.node / 2⟩
    modNode (grantBuffer s jk d (getJob s jk).step false) jk d (getJob s jk).step false (fun n => { n with folds := n.folds ++ [i] })

/-- Rebuild a job from the blocks of a sound checkpoint (R564). The round records wait for the round policy. -/
def rebuildJob (s : State) (o : CkptOp) (im : Image) (bs : List CkptBlock) : State :=
  let jk := o.job
  let e := fieldLe (ckptHeader bs) 0xC 4
  let s := restoreTensors (restoreTensors (restoreTensors s (jk / 2) im bs 1) (jk / 2) im bs 2) (jk / 2) im bs 3
  let s := restoreTables s jk im bs
  let s := (haulAreas im).foldl (fun s h => ((dirOf bs 9).filter (fun d => d.id == h.1)).foldl (fun s d => restoreArea s (ownsByte s (jk / 2)) bs d h.2.1) s) s
  let s := restoreScales s jk e im bs o.noScale
  let s := restoreTensors s (jk / 2) im bs 4
  let s := restoreCopies s jk im
  let s := restoreContexts s jk bs
  let saved := (dirOf bs 7).head?.map (fun d => (rawAt bs d.off d.size).map Prod.fst)
  let s := modJob s jk (fun j => { j with step := e, start := e, restored := true, nodes := [], round := { RoundSt.reset with saved := saved } })
  let folds := ((dirOf bs 10).flatMap (fun d => (rawAt bs d.off d.size).map Prod.fst))
  (foldedRecs folds folds.length).foldl (fun s r => restoreFold s jk im r) s

/-- The end of a RESTORE: 0 the whole checkpoint has come, 1 the buddy has found it unsound, 2 the port was lost. -/
def doCkptRestored (outcome : Nat) (bs : List CkptBlock) (s : State) : State :=
  match s.stock.op with
  | none => s
  | some o =>
    if !o.restore then s
    else
      let gone := { s with stock := { s.stock with atBuddy := s.stock.atBuddy.filter (fun h => h.tag != o.ids.1) } }
      match outcome, (getJob s o.job).image with
      | 0, some im =>
        let s := raiseCkpt (rebuildJob s o im bs) o.job 0x0451 o.ids.1 (fieldLe (ckptHeader bs) 0xC 4)
        abandonCkpt s 0
      | 1, _ => abandonCkpt gone 0x0264
      | _, _ => abandonCkpt s 0x0260

def execCkptRestored (outcome : Nat) (blocks : List CkptBlock) (s : State) : Host.Outcome State Fault Refusal := done (doCkptRestored outcome blocks s)

/-! ## Checkpoints at the buddy (R262, R574) -/

/-- Note what the buddy now holds; CKPT_LOST for each open job whose checkpoint is gone. -/
def updateHeld (s : State) (kept : List (Nat × Nat × Nat × Nat)) : State :=
  let lost := s.stock.atBuddy.filter (fun h => !(kept.any (fun k => k.1 == h.tag && k.2.1 == h.build)))
  let s := { s with stock := { s.stock with atBuddy := kept.map (fun k => ⟨s.board.slotId, k.1, k.2.1, k.2.2.1, 0, k.2.2.2, true⟩) } }
  lost.foldl (fun s h => match jobOfTag s h.tag with | some jk => raiseCkpt s jk 0x0452 h.tag h.step | none => s) s

/-- The buddy's stockpile has shrunk. -/
def execStockpileReducedNotice (gib lost : Nat) (kept : List (Nat × Nat × Nat × Nat)) (s : State) : Host.Outcome State Fault Refusal :=
  let s := { s with stock := { s.stock with buddySize := some (gib * 2 ^ 30) } }
  done (updateHeld (raiseAll s 0x0376 (sourceId s srcMp) [(4, gib), (4, lost)]) kept)

/-- The port to the buddy is UP again after the buddy's start: the equivalent of QUERY. -/
def doBuddyReturn (ans : BuddyAns) (s : State) : State :=
  if !buddyReach s (buddySlot s) then s
  else
    let s := sendFrame s .stockpileRequest (buddySlot s) 0 [4] []
    updateHeld { s with stock := { s.stock with buddySize := some (ans.gib * 2 ^ 30), taken := ans.taken, bound := s.stock.bound && !ans.taken } } ans.held

def execBuddyPortReturn (ans : BuddyAns) (s : State) : Host.Outcome State Fault Refusal := done (doBuddyReturn ans s)

/-- The board port to the buddy leaves UP and DEGRADED: a SAVE or RESTORE ends with CKPT_BUDDY (R563, R568), and a checkpoint that was
arriving from the sender behind the port is discarded. -/
def ckptPortLost (s : State) (k : Nat) : State :=
  let s := (discardHeld s (fun h => !h.complete && h.sender == slotBehind s k)).1
  if buddySlot s == slotBehind s k && s.stock.op.isSome then abandonCkpt s 0x0260 else s

end Sys2Proof.Machine
end

