-- ==== Sys2Proof/Machine/Flits.lean ====
section
/-! DEFINITION. Board ports as they receive: flits and retries (R424, R425), frames delivered or relayed (R422, R430), retrains and
lanes in service (R425, R427), a port that goes down or comes back (R234, R421, R422). -/

namespace Sys2Proof.Machine

/-- Source ID of board port k (R30). -/
def portSource (s : State) (k : Nat) : Nat := sourceId s (0x300 + k)

/-- LINK_DEGRADED as it rises interrupts the PF (R449). -/
def linkRises (before after : State) : State := if !linkDegraded before && linkDegraded after then fireErr after 5 else after

/-! ## A port goes down (R425, R427) -/

/-- Board conveyors to a slot break (R234). -/
def breakPeer (s : State) (slot : Nat) : State := [0, 2, 4, 6].foldl (fun s jk => breakTo s jk slot) s

/-- A port leaves UP and DEGRADED: it carries nothing any more, its board conveyors break, and stockpile traffic over it ends. -/
def portDown (s : State) (k : Nat) : State :=
  let t := modPort s k (fun p => { p with st := .down, retrain := false, trainFails := 0, replay := [], rxBuf := [], naked := false, fails := 0, downSince := some (now s) })
  let t := raisePf t 0x03D2 (portSource s k) [(1, k), (1, slotBehind s k)]
  linkRises s (ckptPortLost (breakPeer t (slotBehind s k)) k)

/-! ## Frames that arrive (R422, R430) -/

/-- Count a malformed frame. -/
def countMalformed (s : State) (k : Nat) : State := modPort s k (fun p => { p with cnt := { p.cnt with malformed := satAdd 32 p.cnt.malformed 1 } })

/-- A whole frame has arrived on port k: malformed, through-traffic, of no job here, or for a unit of this module. -/
def takeFrame (s : State) (k : Nat) (d : List Byte) : State :=
  let type := fieldBe d 1 1
  let dst := fieldBe d 0xC 4
  if fieldBe d 0 1 != 1 || type = 0 || 7 < type then countMalformed s k
  else if bit (fieldBe d 2 1) 6 && dst != s.board.slotId then
    (if dst < 8 && carries (getPort s (portTo s dst)) then sendOnPort s (portTo s dst) d else s)
  else if type != typeStock && type != typeTime && (fieldBe d 4 4 != 0 || type ≤ typeRecord) && (jobOfTag s (fieldBe d 4 4)).isNone then
    noJobFrame s k (fieldBe d 8 4) (fieldBe d 4 4)
  else if type != typeStock && type != typeTime && tagResetting s (fieldBe d 4 4) then refuseFrame s (fieldBe d 8 4) (fieldBe d 4 4) type
  else { s with board := { s.board with delivered := s.board.delivered ++ [(k, d)] } }

/-- Take the whole frames at the front of what has arrived. A byte of 0 where a VERSION is due is fill up to the next SOF. -/
def takeFrames (s : State) (k fuel : Nat) : State :=
  match fuel with
  | 0 => s
  | n + 1 =>
    let b := (getPort s k).rxBuf
    if b.isEmpty then s
    else if b.headD 0 == 0 then modPort s k (fun p => { p with rxBuf := [] })
    else
      let len := 40 + fieldBe b 0x10 2
      if b.length < 40 || b.length < len then s
      else takeFrames (takeFrame (modPort s k (fun p => { p with rxBuf := b.drop len })) k (b.take len)) k n

/-! ## Flits that arrive (R425) -/

/-- FACK releases the flits it covers; flits that waited for the replay buffer leave. -/
def ackFlits (s : State) (k fack : Nat) : State :=
  let p := getPort s k
  let kept := p.replay.filter (fun f => decide (32768 ≤ (fack + 65536 - f.1) % 65536))
  let gone := p.replay.length - kept.length
  let s := modPort s k (fun p => { p with replay := kept })
  ((kept.drop (4096 - gone)).take (min gone (kept.length + gone - 4096))).foldl (fun s f => emit s .flit k [f.1] f.2) s

/-- The expected flit has failed: a NAK names it, and the eighth failure in a row makes the port retrain. -/
def flitFails (s : State) (k : Nat) : State :=
  let p := getPort s k
  let n := p.fails + 1
  let s := modPort s k (fun p => { p with naked := true, fails := if 8 ≤ n then 0 else n, retrain := p.retrain || decide (8 ≤ n) })
  if 8 ≤ n then s else emit s .nak k [p.rxNext] []

/-- A flit arrives. IDLE and NAK flits take no number of the sequence. -/
def doFlit (k : Nat) (d : List Byte) (s : State) : State :=
  let p := getPort s k
  let seq := fieldBe d 0 2
  let good := d.length == 512 && crc64 (d.take 0x1F8) == fieldBe d 0x1F8 8
  if !carries p || p.retrain then s
  else if !good || (fieldBe d 4 1 = 1 && seq != p.rxNext) then
    (if !p.naked || (!good && seq = p.rxNext) then flitFails s k else s)
  else
    let s := ackFlits s k (fieldBe d 2 2)
    if fieldBe d 4 1 != 1 then s
    else
      let body := (d.drop 8).take 496
      let s := modPort s k (fun p => { p with
        naked := false, fails := 0, rxNext := (p.rxNext + 1) % 65536
        rxBuf := if bit (fieldBe d 5 1) 0 then body else if p.rxBuf.isEmpty then [] else p.rxBuf ++ body })
      takeFrames s k 13

def execFlitReceive (port : Nat) (flit : List Byte) (s : State) : Host.Outcome State Fault Refusal := done (doFlit port flit s)

/-- A NAK arrives: the sender sends again from the named flit. -/
def doNak (k fseq fack : Nat) (s : State) : State :=
  let p := getPort s k
  if !carries p || p.retrain then s
  else
    let s := ackFlits s k fack
    let again := ((getPort s k).replay.take 4096).dropWhile (fun f => f.1 != fseq)
    let s := modPort s k (fun p => { p with cnt := { p.cnt with retries := satAdd 32 p.cnt.retries again.length } })
    again.foldl (fun s f => emit s .flit k [f.1] f.2) s

def execFlitNakReceive (port fseq fack : Nat) (s : State) : Host.Outcome State Fault Refusal := done (doNak port fseq fack s)

/-! ## Lanes and retrains (R425, R427) -/

/-- Swap one marked lane for the lowest spare; answers none where no spare is left. -/
def swapLane (s : State) (k l : Nat) : Option State :=
  let p := getPort s k
  match p.spare with
  | [] => none
  | x :: rest =>
    let pos := (p.lanes.findIdx? (· == l)).getD 0
    let items := [(1, k), (1, slotBehind s k), (1, l), (1, x)]
    let s := modPort s k (fun p => { p with lanes := p.lanes.map (fun y => if y = l then x else y), spare := rest, marked := p.marked.filter (· != l), overs := Tab.del p.overs l })
    let s := repairUnit (abandonLink s k) 4 (laneUnit k l) (16 * k + pos) (some (laneUnit k x)) 0
    some (raisePf (noteSparesBy s 0x03D4 items) 0x03D4 (portSource s k) items)

/-- Swap every marked lane while spares last. -/
def swapLanes (s : State) (k : Nat) (ls : List Nat) : State :=
  match ls with
  | [] => s
  | l :: rest => match swapLane s k l with | some s => swapLanes s k rest | none => s

/-- The lanes still marked leave the port: it runs the largest width that its good lanes cover, or goes down. -/
def dropLanes (s : State) (k : Nat) : State :=
  let bad := (getPort s k).marked
  if bad.isEmpty then s
  else
    let s := bad.foldl (fun s l => repairOut s 4 (laneUnit k l) 0) s
    let good := (getPort s k).lanes.filter (fun l => !bad.contains l)
    let n := laneCount good.length
    if n = 0 then portDown (modPort s k (fun p => { p with lanes := [], marked := [] })) k
    else
      let t := modPort s k (fun p => { p with st := .degraded, lanes := good.take n, spare := good.drop n, marked := [] })
      linkRises s (raisePf t 0x03D3 (portSource s k) [(1, k), (1, slotBehind s k)])

/-- A retrain ends well, with the swaps that wait, and the replay buffer is sent again; the third failure in a row takes the port down. -/
def doRetrain (k : Nat) (ok : Bool) (s : State) : State :=
  let p := getPort s k
  if !p.retrain || !carries p then s
  else if !ok then
    (if 2 ≤ p.trainFails then portDown s k else modPort s k (fun p => { p with trainFails := p.trainFails + 1 }))
  else
    let s := modPort s k (fun p => { p with retrain := false, trainFails := 0, fails := 0, naked := false })
    let s := dropLanes (swapLanes s k p.marked) k
    if carries (getPort s k) then ((getPort s k).replay.take 4096).foldl (fun s f => emit s .flit k [f.1] f.2) s else s

def execBoardPortRetrain (port : Nat) (ok : Bool) (s : State) : Host.Outcome State Fault Refusal := done (doRetrain port ok s)

/-- Mark an active lane for the swap; a retrain is due. -/
def markLane (s : State) (k l : Nat) : State :=
  modPort s k (fun p => if p.lanes.contains l && !p.marked.contains l then { p with marked := p.marked ++ [l], retrain := true } else p)

/-- A window of 2^36 bits ends with the error count of each lane. -/
def doBerWindow (k : Nat) (errs : List Nat) (s : State) : State :=
  let p := getPort s k
  if !carries p then s
  else
    let exceeds := fun (l : Nat) => !belowLimit s.boot.qual.2 36 (errs.getD l 0)
    let overs := p.lanes.map (fun l => (l, if exceeds l then Tab.get 0 p.overs l + 1 else 0))
    let s := modPort s k (fun p => { p with
      overs := overs.foldl (fun t e => Tab.set t e.1 e.2) p.overs, cnt := { p.cnt with worst := (p.lanes.map (fun l => errs.getD l 0)).foldl max 0 } })
    (overs.filter (fun e => decide (2 ≤ e.2))).foldl (fun s e => markLane s k e.1) s

def execLaneBerWindow (port : Nat) (errs : List Nat) (s : State) : Host.Outcome State Fault Refusal := done (doBerWindow port errs s)

/-- A lane loses its signal. -/
def execLaneSignalLoss (port lane : Nat) (s : State) : Host.Outcome State Fault Refusal :=
  done (if carries (getPort s port) then markLane s port lane else s)

/-- A port that was DOWN or ABSENT trains with its peer in service: it returns with its usable lanes, and numbers its flits from 0. -/
def doPortReturn (k : Nat) (s : State) : State :=
  let p := getPort s k
  let good := (List.range 18).filter (fun l => !unusable s (unitKey 4 (laneUnit k l)))
  let n := laneCount good.length
  if 7 ≤ k || !(p.st == .down || p.st == .absent) || n = 0 then s
  else
    let t := modPort s k (fun p => { BPort.reset with st := if n = 16 then .up else .degraded, lanes := good.take n, spare := good.drop n, cnt := p.cnt })
    if n = 16 then t else linkRises s (raisePf t 0x03D3 (portSource s k) [(1, k), (1, slotBehind s k)])

def execBoardPortReturnsToUp (port : Nat) (s : State) : Host.Outcome State Fault Refusal := done (doPortReturn port s)

end Sys2Proof.Machine
end

