-- ==== Sys2Proof/Machine/Paths.lean ====
section
/-! DEFINITION. Site ports in service: acknowledgements and resendings of fabric frames (R435, R436), links that come and go and the spare
port (R433, R437), the watch of the path sets (R437), and what a port answers or discards (R432). -/

namespace Sys2Proof.Machine

/-- Source ID of site port n (R30). -/
def siteSource (s : State) (n : Nat) : Nat := sourceId s (0x310 + n)

/-! ## Acknowledgements (R436) -/

/-- A sequence number that an ACK's RX_BASE and RX_MAP cover (R380). -/
def ackCovers (base map seq : Nat) : Bool := decide (seq < base) || (decide (base < seq ∧ seq - base - 1 < 64) && bit map (seq - base - 1))

/-- An ACK frame arrives: the frames it covers are released, a flow that was down is heard again, and frames that waited leave. -/
def doSiteAck (peer chan tag base map : Nat) (s : State) : State :=
  if !s.board.flows.any (sameFlow peer chan tag) then s
  else
    let f := getFlow s peer chan tag
    let s := setFlow s { f with unacked := f.unacked.filter (fun h => h.sent == notSent || !ackCovers base map h.seq), down := false, downSince := none }
    pumpFlow s peer chan tag 64

def execSiteFrameAckReceive (peer chan tag base map : Nat) (s : State) : Host.Outcome State Fault Refusal :=
  done (doSiteAck peer chan tag base map s)

/-- Count a resending at the port that serves a position. -/
def countRetry (s : State) (pos : Nat) : State :=
  match portAt s pos with
  | some n => modSite s n (fun p => { p with cnt := { p.cnt with retries := satAdd 32 p.cnt.retries 1 } })
  | none => s

/-- Send a held frame of a flow again, with a fresh nonce, on the flow's port. -/
def resendHeld (s : State) (f : Flow) (seq : Nat) : State :=
  match f.unacked.find? (fun h => h.seq == seq) with
  | none => s
  | some h =>
    match putFrame s f { h with port := f.port } with
    | (s, false) => s
    | (s, true) =>
      let f := getFlow s f.peer f.chan f.tag
      countRetry (setFlow s { f with unacked := f.unacked.map (fun x => if x.seq = seq then { x with sent := now s, tries := x.tries + 1, port := f.port } else x) }) f.port

/-- 200 µs without acknowledgement: the frame goes again, up to 8 times; then the flow counts as down. -/
def doSiteRetx (peer chan tag seq : Nat) (s : State) : State :=
  let f := getFlow s peer chan tag
  match f.unacked.find? (fun h => h.seq == seq && h.sent != notSent) with
  | none => s
  | some h =>
    if f.down || now s < h.sent + 200000 then s
    else if h.tries < 8 then resendHeld s f seq
    else raisePf (setFlow s { f with down := true, downSince := some (now s) }) 0x03D6 (siteSource s f.port) [(1, f.port), (4, peer)]

def execSiteFrameRetxTimer (peer chan tag seq : Nat) (s : State) : Host.Outcome State Fault Refusal := done (doSiteRetx peer chan tag seq s)

/-- Sequence numbers that a receiver delivers: those in order from a base. -/
def deliverRun (held : List Nat) (base fuel : Nat) : Nat :=
  match fuel with
  | 0 => base
  | n + 1 => if held.contains base then deliverRun held (base + 1) n else base

/-- The 16 B body of an ACK frame: RX_BASE and RX_MAP. -/
def ackBody (f : Flow) : List Byte :=
  toBe 8 f.rxBase ++ toBe 8 ((List.range 64).foldl (fun n i => n + b2n (f.rxHeld.contains (f.rxBase + 1 + i)) * 2 ^ i) 0)

/-- Sixteen frames have come, or 20 µs have passed since the first: the receiver acknowledges. `seqs` are the frames that came, and those more than 64
ahead of the gap are not held. An ACK frame takes no number of the flow. -/
def doSiteAckTimer (peer chan tag : Nat) (seqs : List Nat) (s : State) : State :=
  let f := getFlow s peer chan tag
  let held := seqs.foldl insertNat f.rxHeld
  let base := deliverRun held f.rxBase held.length
  let f := { f with rxBase := base, rxHeld := held.filter (fun q => decide (base < q ∧ q ≤ base + 64)) }
  let s := setFlow s f
  match flowPort s (((jobOfTag s tag).getD 0) / 2) peer chan with
  | none => s
  | some port => (putFrame (emit s .frameAck peer [chan, tag, port] (ackBody f)) { f with port := port } ⟨0, typeAck, ackBody f, now s, 0, port⟩).1

def execSiteAckTimer (peer chan tag : Nat) (seqs : List Nat) (s : State) : Host.Outcome State Fault Refusal := done (doSiteAckTimer peer chan tag seqs s)

/-- Frames held on a port that has left the path set go again on the flow's new port after 1 ms (R435). -/
def doFlowMove (peer chan tag : Nat) (s : State) : State :=
  let f := getFlow s peer chan tag
  let p := ((jobOfTag s tag).getD 0) / 2
  let recent := match portAt s f.port with | some n => ((getSite s n).downSince.map (fun t => decide (now s < t + 1000000))).getD false | none => false
  match flowPort s p peer chan with
  | none => s
  | some port =>
    if (pathSet s p).contains f.port || recent || f.unacked.isEmpty then s
    else
      let s := setFlow s { f with port := port }
      (f.unacked.filter (fun h => h.sent != notSent)).foldl (fun s h => resendHeld s (getFlow s peer chan tag) h.seq) s

def execFlowMoveRetxTimer (peer chan tag : Nat) (s : State) : Host.Outcome State Fault Refusal := done (doFlowMove peer chan tag s)

/-! ## Links and the spare (R433, R437) -/

/-- PATH_UP or PATH_DOWN for every partition that has a position in its set: partition, port count, port. -/
def raisePath (s : State) (code n pos : Nat) : State :=
  ((List.range 4).filter (fun p => entryFor s pos p)).foldl (fun s p => raisePart s (some p) code (siteSource s n) [(1, p), (1, (pathSet s p).length), (1, n)]) s

/-- Frames that waited for a port leave. -/
def pumpAll (s : State) : State := s.board.flows.foldl (fun s f => pumpFlow s f.peer f.chan f.tag 64) s

/-- A fitted site port reaches UP or leaves it. -/
def doLinkChange (n : Nat) (up : Bool) (s : State) : State :=
  let p := getSite s n
  if !p.fitted || 8 < n || (p.st == .up) == up then s
  else
    let t := modSite s n (fun p => { p with st := if up then .up else .down, trained := p.trained || up, downSince := if up then none else some (now s) })
    let t := raisePath t (if up then 0x03D9 else 0x03DA) n (p.serves.getD n)
    if up then pumpAll t else linkRises s t

def execSitePortLinkChange (port : Nat) (up : Bool) (s : State) : Host.Outcome State Fault Refusal := done (doLinkChange port up s)

/-- An active port has stayed DOWN for 10 s: the spare, where it is trained and free, takes its position. -/
def doSiteSpared (n : Nat) (s : State) : State :=
  let p := getSite s n
  let x := getSite s 8
  match p.serves, p.downSince with
  | some pos, some t =>
    if n = 8 || p.st != .down || now s < t + 10000000000 || !x.trained || x.st != .up || x.serves.isSome then s
    else
      let s := modSite (modSite s n (fun p => { p with serves := none })) 8 (fun p => { p with serves := some pos })
      let s := repairUnit (abandonLink s 15) 5 n pos (some 8) 0
      pumpAll (raisePf (noteSparesBy s 0x03D5 [(1, n)]) 0x03D5 (siteSource s 8) [(1, n)])
  | _, _ => s

def execSitePortSpared (port : Nat) (s : State) : Host.Outcome State Fault Refusal := done (doSiteSpared port s)

/-! ## The watch of the path sets (R437) -/

/-- Ten whole seconds, each above 90 %: the mean utilisation and the partner site with the largest backlog are carried. -/
def doPathNeed (p : Nat) (utils : List Nat) (site : Nat) (s : State) : State :=
  if utils.length = 10 && utils.all (fun u => decide (90 < u)) then
    raisePart s (some p) 0x03D7 (sourceId s srcMp) [(1, p), (1, (pathSet s p).length), (1, utils.sum / 10), (1, site)]
  else s

def execPathNeed (part : Nat) (utils : List Nat) (site : Nat) (s : State) : Host.Outcome State Fault Refusal := done (doPathNeed part utils site s)

/-- Sixty seconds below 30 % with two ports or more. -/
def doPathSurplus (p : Nat) (utils : List Nat) (s : State) : State :=
  if utils.length = 60 && utils.all (fun u => decide (u < 30)) && 2 ≤ (pathSet s p).length then
    raisePart s (some p) 0x03D8 (sourceId s srcMp) [(1, p), (1, (pathSet s p).length)]
  else s

def execPathSurplus (part : Nat) (utils : List Nat) (s : State) : Host.Outcome State Fault Refusal := done (doPathSurplus part utils s)

/-! ## What a port answers and discards (R432) -/

/-- An ARP request or an IPv6 neighbour solicitation for one of the port's own addresses is answered with its MAC address. -/
def doArp (n addr : Nat) (v6 : Bool) (s : State) : State :=
  let p := getSite s n
  let e := p.entry
  let own := if v6 then addr == fieldBe e 0x14 16 else bit (fieldLe e 1 1) 1 && addr == fieldBe e 0x24 4
  if (p.st == .up || p.st == .degraded) && own && !e.isEmpty then emit s .arpReply n [b2n v6, addr, fieldBe e 6 6] [] else s

def execArpNsRequestReceive (port addr : Nat) (v6 : Bool) (s : State) : Host.Outcome State Fault Refusal := done (doArp port addr v6 s)

/-- A PAUSE or priority flow control frame is discarded and counted. -/
def execPauseFrameReceive (port : Nat) (s : State) : Host.Outcome State Fault Refusal :=
  done (modSite s port (fun p => { p with cnt := { p.cnt with pauses := satAdd 32 p.cnt.pauses 1 } }))

end Sys2Proof.Machine
end

