-- ==== Sys2Proof/Machine/Pmbus.lean ====
section
/-! DEFINITION. The PMBus commands (R606, R607, R624). A device answers only while the auxiliary domain runs; `reply` holds the data
bytes of the answer, least significant first, and none for a NACK. PEC bytes are not modelled. -/

namespace Sys2Proof.Machine

/-- Answer a command while the auxiliary domain runs. -/
def answer (s : State) (r : Option (List Byte)) : State := modPower s (fun p => { p with reply := if p.aux then r else none })

/-- LINEAR11 of v / 1,000: a mantissa of at most 1,023 with the least exponent that allows it, the result rounded down (PRESUMED
from PMBus, the exponent included, log 36). -/
def linear11 (v : Nat) : Nat :=
  match (List.range 32).find? (fun n => decide (v * 65536 / 2 ^ n / 1000 ≤ 1023)) with
  | some n => (n + 16) % 32 * 2048 + v * 65536 / 2 ^ n / 1000
  | none => 15 * 2048 + 1023

/-- STATUS_INPUT: the warnings of R593, the input current limit while it decides k, and the latched input faults (R624; bit places PRESUMED from PMBus, log 36). -/
def statusInput (p : PowerSt) : Nat :=
  p.stInput ||| (if bit p.latch 1 then 128 else 0) ||| (if bit p.latch 0 then 16 else 0) ||| (if bit p.latch 2 then 8 else 0) ||| (if bit p.limit 6 then 2 else 0)

/-- STATUS_TEMPERATURE with the latched thermal trip (R624). -/
def statusTemp (p : PowerSt) : Nat := p.stTemp ||| (if bit p.latch 3 then 128 else 0)

/-- STATUS_WORD: INPUT, TEMPERATURE, CML, OFF and POWER_GOOD# (R606). -/
def statusWord (p : PowerSt) : Nat :=
  (if statusInput p = 0 then 0 else 8192) + (if p.pgood then 0 else 2048) + (if p.conv then 0 else 64)
    + (if statusTemp p = 0 then 0 else 4) + (if p.stCml = 0 then 0 else 2)

/-- MFR_GOV_STATE (R607). -/
def govState (p : PowerSt) : Nat := p.limit % 256 * 256 + p.k % 16 * 16 + p.vset % 4 * 4 + b2n p.boost * 2

/-- CLEAR_FAULTS: status bits whose cause has ended are cleared; the fault latch is no PMBus status bit and stays (R606, R624). -/
def doClearFaults (s : State) : State :=
  let p := s.power
  let inp := (if 60000 ≤ p.vin ∧ p.vin < 64000 then 32 else 0) + (if 78000 < p.vin ∧ p.vin ≤ 82000 then 64 else 0)
  let heat := bit p.limit 1 || bit p.limit 2 || bit p.limit 3
  if p.aux then answer (modPower s (fun p => { p with stInput := p.stInput &&& inp, stTemp := if heat then p.stTemp else 0, stCml := 0 })) (some [])
  else answer s none

def execClearFaults (s : State) : Host.Outcome State Fault Refusal := done (doClearFaults s)
def execStatusWord (s : State) : Host.Outcome State Fault Refusal := done (answer s (some (toLe 2 (statusWord s.power))))
def execStatusInput (s : State) : Host.Outcome State Fault Refusal := done (answer s (some (toLe 1 (statusInput s.power))))
def execStatusTemperature (s : State) : Host.Outcome State Fault Refusal := done (answer s (some (toLe 1 (statusTemp s.power))))
def execReadVin (s : State) : Host.Outcome State Fault Refusal := done (answer s (some (toLe 2 (linear11 s.power.vin))))
def execReadIin (s : State) : Host.Outcome State Fault Refusal := done (answer s (some (toLe 2 (linear11 s.power.iin))))
def execReadTemperature1 (s : State) : Host.Outcome State Fault Refusal := done (answer s (some (toLe 2 (linear11 (1000 * maxOf s.power.face)))))
def execReadTemperature2 (s : State) : Host.Outcome State Fault Refusal := done (answer s (some (toLe 2 (linear11 (1000 * s.power.wb)))))
def execReadTemperature3 (s : State) : Host.Outcome State Fault Refusal := done (answer s (some (toLe 2 (linear11 (1000 * maxOf s.power.stackTemps)))))
def execReadPin (s : State) : Host.Outcome State Fault Refusal := done (answer s (some (toLe 2 (linear11 (1000 * s.power.pin)))))
def execPmbusRevision (s : State) : Host.Outcome State Fault Refusal := done (answer s (some [0x33]))

/-- A block read answers its byte count first (PRESUMED from PMBus, log 36). -/
def blockReply (d : List Byte) : List Byte := toLe 1 d.length ++ d

/-- "DALOUX". -/
def mfrId : List Byte := [0x44, 0x41, 0x4C, 0x4F, 0x55, 0x58]
/-- "DX-TM9-72L". -/
def mfrModel : List Byte := [0x44, 0x58, 0x2D, 0x54, 0x4D, 0x39, 0x2D, 0x37, 0x32, 0x4C]

def execMfrId (s : State) : Host.Outcome State Fault Refusal := done (answer s (some (blockReply mfrId)))
def execMfrModel (s : State) : Host.Outcome State Fault Refusal := done (answer s (some (blockReply mfrModel)))

/-- MFR_POWER_CAP: a read, or a write of a value; outside 1,000 to 2,500 W it is NACKed and the cap stays (R606). -/
def doPowerCap (w : Option Nat) (s : State) : State :=
  match w with
  | none => answer s (some (toLe 2 s.power.cap))
  | some v => if s.power.aux && decide (1000 ≤ v ∧ v ≤ 2500) then answer (modPower s (fun p => { p with cap := v })) (some []) else answer s none

def execMfrPowerCap (write : Option Nat) (s : State) : Host.Outcome State Fault Refusal := done (doPowerCap write s)
def execMfrGovState (s : State) : Host.Outcome State Fault Refusal := done (answer s (some (toLe 2 (govState s.power))))
def execMfrWear (s : State) : Host.Outcome State Fault Refusal := done (answer s (some (toLe 2 (wearNs s / 16000000000))))
def execMfrStackTemps (s : State) : Host.Outcome State Fault Refusal :=
  done (answer s (some (blockReply (s.power.stackTemps.map (fun t => BitVec.ofNat 8 t)))))

/-- Phases in service and spares free (R606). -/
def phaseCounts (s : State) : Nat × Nat := (s.power.phases.length, (spareCounts s 9).2.2.1)

def execMfrPhases (s : State) : Host.Outcome State Fault Refusal :=
  done (answer s (some (toLe 2 ((phaseCounts s).1 * 256 + (phaseCounts s).2))))

/-- MFR_BOOST_EN: a read, or a write of bit 0; bits [7:1] read 0 (R606; a reserved bit written is unchecked, R610). -/
def doBoostEn (w : Option Nat) (s : State) : State :=
  match w with
  | none => answer s (some (toLe 1 (b2n s.power.boostEn)))
  | some v => if s.power.aux then answer (modPower s (fun p => { p with boostEn := bit v 0 })) (some []) else answer s none

def execMfrBoostEn (write : Option Nat) (s : State) : Host.Outcome State Fault Refusal := done (doBoostEn write s)

/-- Codes that the module answers (R606). -/
def pmbusCodes : List Nat := [0x03, 0x79, 0x7C, 0x7D, 0x88, 0x89, 0x8D, 0x8E, 0x8F, 0x97, 0x98, 0x99, 0x9A, 0xD0, 0xD1, 0xD2, 0xD3, 0xD4, 0xD5]

/-- Any other command is NACKed, and STATUS_CML records it. -/
def doUnsupported (code : Nat) (s : State) : State :=
  if pmbusCodes.contains code then s
  else answer (if s.power.aux then modPower s (fun p => { p with stCml := p.stCml ||| 128 }) else s) none

def execPmbusUnsupported (code : Nat) (s : State) : Host.Outcome State Fault Refusal := done (doUnsupported code s)

end Sys2Proof.Machine
end

