-- ==== Sys2Proof/Machine/PsmCkpt.lean ====
section
/-! DEFINITION. Psiam: PSM_CHECKPOINT (R242, R442, R502, R559). What the buddy answers is an operand. -/

namespace Sys2Proof.Machine

def rowCkptConfig : PsmRow := ⟨0x0401, true, .module, fun _ _ => 0, 0⟩
def rowCkpt : PsmRow := ⟨0x0401, false, .part, fun _ _ => 0, 0⟩

/-- BUDDY_UNREACHABLE (R442). -/
def unreachable (s : State) (b : Nat) : State := raisePf s 0x03DD (sourceId s srcMp) [(1, if b < 8 ∧ b ≠ s.board.slotId then portTo s b else 0xFF), (1, b)]
/-- BUDDY_TAKEN (R442). -/
def buddyTaken (s : State) (b : Nat) : State := raisePf s 0x03DE (sourceId s srcMp) [(1, portTo s b), (1, b)]

/-- Note the buddy's answer to this module. -/
def noteAnswer (s : State) (ans : BuddyAns) : State :=
  { s with stock := { s.stock with
      taken := ans.taken, bound := !ans.taken, buddySize := some (ans.gib * 2 ^ 30)
      atBuddy := if ans.taken then s.stock.atBuddy else ans.held.map (fun k => ⟨s.board.slotId, k.1, k.2.1, k.2.2.1, 0, k.2.2.2, true⟩) } }

/-- Send a request to the buddy and note its answer. -/
def askBuddy (s : State) (kind tag build size : Nat) (ans : BuddyAns) : State :=
  noteAnswer (sendFrame s .stockpileRequest (buddySlot s) tag [kind, build, size] []) ans

/-! ## CONFIG (R242, R442) -/

/-- A carve-out change is refused: out of range, a checkpoint is held, or a partition owns a page in the range that moves (R242). -/
def carveBad (s : State) (g : Nat) : Bool :=
  let pages := fun (x : Nat) => (hostTop - x * 2 ^ 30) / 0x200000
  decide (128 < g) || (g != s.mem.carve && (!s.stock.held.isEmpty || s.mem.pages.any (fun e =>
    pageOwned e.2 && decide (pages (max g s.mem.carve) ≤ e.1 ∧ e.1 < pages (min g s.mem.carve)))))

/-- Set C; the sender is told of a smaller stockpile (R262). -/
def setCarve (s : State) (g : Nat) : State :=
  let less := decide (g < s.mem.carve)
  let s := { s with mem := { s.mem with carve := g } }
  if less then stockReduced s 0 else s

/-- Name a buddy; the one before is released (R442). -/
def nameBuddy (s : State) (b : Nat) : State :=
  let s := if buddySlot s != b && s.stock.bound then sendFrame s .stockpileRequest (buddySlot s) 0 [5] [] else s
  { s with stock := { s.stock with buddy := some b } }

def ckptConfig (ans : BuddyAns) (s : State) (c : Call) : State × Answer :=
  let b := if c.par 1 1 = 0xFF then s.board.slotId ^^^ 1 else c.par 1 1
  if !buddyReach s b then (unreachable s b, refuseA 0x0260)
  else if ans.taken then (buddyTaken s b, refuseA 0x0261)
  else if carveBad s (c.par 2 1) then (s, refuseA 0x0263)
  else (setCarve (askBuddy (nameBuddy s b) 0 0 0 0 ans) (c.par 2 1), okA)

def execPsmCheckpointConfig (func ring : Nat) (io : HostIo) (ans : BuddyAns) (s : State) : Host.Outcome State Fault Refusal :=
  done (withCmd rowCkptConfig (actionIs 0 0) func ring io (ckptConfig ans) s)

/-! ## SAVE, RESTORE, DISCARD, QUERY (R502) -/

/-- The job's image, where one is loaded. -/
def buildOf (j : Job) : Nat := (j.image.map (·.buildId)).getD 0

/-- The checkpoint that the buddy holds for a job. -/
def heldFor (j : Job) (ans : BuddyAns) : Option (Nat × Nat × Nat × Nat) := ans.held.find? (fun h => h.1 == j.tag && h.2.1 == buildOf j)

/-- What SAVE, RESTORE and DISCARD check after their own: CKPT_BUSY, CKPT_BUDDY, CKPT_TAKEN. -/
def buddyRefuses (s : State) (ans : BuddyAns) : Option (State × Answer) :=
  if s.stock.op.isSome then some (s, refuseA 0x0265)
  else if !buddyReach s (buddySlot s) then some (unreachable s (buddySlot s), refuseA 0x0260)
  else if ans.taken then some (buddyTaken (noteAnswer s ans) (buddySlot s), refuseA 0x0261)
  else none

def ckptSave (ans : BuddyAns) (s : State) (c : Call) : State × Answer :=
  let jk := c.job 0
  let j := getJob s jk
  if j.phase = .closed then (s, refuseA 0x0224)
  else match j.image with
    | none => (s, refuseA 0x0225)
    | some im =>
      match buddyRefuses s ans with
      | some a => a
      | none =>
        let size := ckptSize (sectionSizes s jk im)
        let others := (ans.held.filter (fun h => h.1 != j.tag)).foldl (fun n h => n + h.2.2.2) 0
        if ans.gib * 2 ^ 30 < size + others then (s, refuseA 0x0262)
        else
          let s := askBuddy s 1 j.tag im.buildId size ans
          ({ s with stock := { s.stock with op := some ⟨jk, (j.tag, im.buildId), false, false, .waiting, 0, size, c.ref⟩ } }, longA)

def execPsmCheckpointSave (func ring : Nat) (io : HostIo) (ans : BuddyAns) (s : State) : Host.Outcome State Fault Refusal :=
  done (withCmd rowCkpt (actionIs 0 1) func ring io (ckptSave ans) s)

def ckptRestore (ans : BuddyAns) (s : State) (c : Call) : State × Answer :=
  let jk := c.job 0
  let j := getJob s jk
  if j.phase = .closed then (s, refuseA 0x0224)
  else if j.image.isNone || j.phase = .running then (s, refuseA 0x0225)
  else match buddyRefuses s ans with
    | some a => a
    | none =>
      if (heldFor j ans).isNone then (noteAnswer s ans, refuseA 0x0264)
      else
        let s := askBuddy s 2 j.tag (buildOf j) 0 ans
        ({ s with stock := { s.stock with op := some ⟨jk, (j.tag, buildOf j), true, bit (c.par 3 1) 0, .waiting, 0, 0, c.ref⟩ } }, longA)

def execPsmCheckpointRestore (func ring : Nat) (io : HostIo) (ans : BuddyAns) (s : State) : Host.Outcome State Fault Refusal :=
  done (withCmd rowCkpt (actionIs 0 2) func ring io (ckptRestore ans) s)

def ckptDiscard (ans : BuddyAns) (s : State) (c : Call) : State × Answer :=
  let j := getJob s (c.job 0)
  if j.phase = .closed then (s, refuseA 0x0224)
  else match buddyRefuses s ans with
    | some a => a
    | none =>
      if (heldFor j ans).isNone then (noteAnswer s ans, refuseA 0x0264)
      else
        let s := askBuddy s 3 j.tag (buildOf j) 0 ans
        ({ s with stock := { s.stock with atBuddy := s.stock.atBuddy.filter (fun h => h.tag != j.tag) } }, okA)

def execPsmCheckpointDiscard (func ring : Nat) (io : HostIo) (ans : BuddyAns) (s : State) : Host.Outcome State Fault Refusal :=
  done (withCmd rowCkpt (actionIs 0 3) func ring io (ckptDiscard ans) s)

/-- Of a checkpoint that an unreachable buddy holds the latest answer tells. -/
def ckptQuery (ans : BuddyAns) (s : State) (c : Call) : State × Answer :=
  let j := getJob s (c.job 0)
  let s := if buddyReach s (buddySlot s) then askBuddy s 4 j.tag (buildOf j) 0 ans else s
  let mine := if j.phase = .closed then none else s.stock.atBuddy.find? (fun h => h.tag == j.tag && h.build == buildOf j)
  (s, resultA (toLe 1 (buddySlot s) ++ toLe 1 (s.stock.serves.getD 0xFF) ++ [0, 0] ++ toLe 4 ((mine.map (·.step)).getD 0xFFFFFFFF)
    ++ toLe 4 ((mine.map (fun h => ceilDiv h.size (2 ^ 20))).getD 0) ++ toLe 4 (stockGib s)))

def execPsmCheckpointQuery (func ring : Nat) (io : HostIo) (ans : BuddyAns) (s : State) : Host.Outcome State Fault Refusal :=
  done (withCmd rowCkpt (actionIs 0 4) func ring io (ckptQuery ans) s)

end Sys2Proof.Machine
end

