-- ==== Sys2Proof/Machine/PsmJobs.lean ====
section
/-! DEFINITION. Psiam: jobs, workings, replicas and re-shards (R488 to R497), the round policy and the admission of a site (R339, R359,
R498, R499). -/

namespace Sys2Proof.Machine

/-! ## PSM_JOB_OPEN (R309, R488 to R490) -/

def rowJobOpen : PsmRow :=
  ⟨0x0201, false, .part, fun _ b => if b.length < 64 then 64 else if fieldLe b 0 1 = 1 then 64
    else 128 + 32 * fieldLe b 2 2 + 32 * fieldLe b 0x40 2 + 4 * fieldLe b 0xC 4, 0⟩

def within (lo v hi : Nat) : Bool := decide (lo ≤ v ∧ v ≤ hi)

/-- The ranges of R272. -/
def policyRange (p : InSitePolicy) : Bool :=
  within 1 p.replicas 4096 && decide (p.replica < p.replicas) && within 1 p.missLimit 255 && within 1000 p.windowNs 4000000000
    && within 1000000 p.ackNs 4000000000 && within 1000000 p.takeoverNs 4000000000

/-- The ranges of R189 for an entry of R489. -/
def entryRange (e : List Byte) : Bool :=
  let k := int8 (fieldLe e 5 1)
  let hi := int8 (fieldLe e 0xD 1)
  let lo := int8 (fieldLe e 0xE 1)
  decide (-64 ≤ k ∧ k ≤ 63) && decide (1 ≤ fieldLe e 6 2) && within 1 (fieldLe e 8 2) 16383 && fieldLe e 0xA 1 != 0x80 && decide (1 ≤ fieldLe e 0xB 1)
    && decide (fieldLe e 0xC 1 ≤ 30) && decide (-127 ≤ hi) && decide (-127 ≤ lo ∧ lo ≤ hi) && decide (fieldLe e 0xF 1 ≤ 16) && decide (fieldLe e 0x10 1 ≤ 16)

def parseInSite (d : List Byte) : InSitePolicy :=
  ⟨fieldLe d 0 2, fieldLe d 2 2, fieldLe d 4 1, fieldLe d 5 1, fieldLe d 6 2, fieldLe d 8 4, fieldLe d 0xC 4, fieldLe d 0x10 4⟩

def parseCut (d : List Byte) : Cut :=
  ⟨fieldLe d 0 1, fieldLe d 1 1, fieldLe d 2 1, fieldLe d 3 1, fieldLe d 4 1, fieldLe d 5 1, fieldLe d 8 4, (List.range 8).map (fun k => fieldLe d (0xC + k) 1)⟩

/-- JOB_CUT: the checks of R309 that need no image. An entry of 0xFF names no SLOT_ID; every other of the eight is compared. -/
def cutBad (s : State) (c : Cut) : Bool :=
  let n := c.stages * c.ranks * c.seqRanks
  let named := c.peers.filter (fun x => x != 0xFF)
  decide (8 < n) || decide (c.stages ≤ c.stage) || decide (c.ranks ≤ c.rank) || decide (c.seqRanks ≤ c.seqRank) || named.eraseDups.length != named.length
    || (c.peers.take n).getD (cutIndex c) 0xFF != s.board.slotId

/-- JOB_CUT: the layout epoch of the cut and of the catalogue (R309). -/
def epochBad (c : Cut) (im : Image) : Bool := im.tensors.any (fun t => t.epoch != c.epoch)

/-- Entry n of a list of entries of w bytes at an offset. -/
def sliceAt (d : List Byte) (off w n : Nat) : List Byte := (d.drop (off + w * n)).take w

def parseOwners (d : List Byte) (off n : Nat) : List (Nat × Nat) :=
  (List.range n).map (fun k => let e := sliceAt d off 4 k; (fieldLe e 0 2, fieldLe e 2 2))

def jobPolicyBad (s : State) (b : List Byte) : Bool :=
  let filler := fieldLe b 0 1 == 1
  let np := fieldLe b 2 2
  let es := (List.range np).map (sliceAt b 128 32)
  let tag := fieldLe b 4 4
  let layers := es.map (fun e => fieldLe e 0 4)
  decide (1 < fieldLe b 0 1) || decide (4096 < np) || decide (0xFFFFFFFD < fieldLe b 8 4)
    || (!filler && (tag == 0 || [0, 2, 4, 6].any (fun jk => (getJob s jk).phase != .closed && (getJob s jk).tag == tag)
      || !policyRange (parseInSite (b.drop 0x40)) || !(es.all entryRange) || layers.eraseDups.length != layers.length))

/-- The job that an opening makes (R490). -/
def openedJob (f : Nat) (b : List Byte) : Job :=
  let start := fieldLe b 8 4
  let base := { Job.reset with phase := .opened, func := f, start := start, step := start, cold := bit (fieldLe b 1 1) 0 }
  if fieldLe b 0 1 = 1 then base
  else
    let np := fieldLe b 2 2
    let pol := parseInSite (b.drop 0x40)
    let maps := 128 + 32 * np
    { base with
      tag := fieldLe b 4 4, policy := pol, cut := parseCut (b.drop 0x60), numPolicy := (List.range np).map (sliceAt b 128 32),
      replicaMap := (List.range pol.replicas).map (fun r => (List.range 8).map (fun x => fieldLe (sliceAt b maps 32 r) (4 * x) 4)),
      owners := parseOwners b (maps + 32 * pol.replicas) (fieldLe b 0xC 4), members := List.range pol.replicas }

def jobOpen (s : State) (c : Call) : State × Answer :=
  let b := c.buf
  let jk := c.job (if fieldLe b 0 1 = 1 then 1 else 0)
  if (partRows s c.p).isEmpty then (s, refuseA 0x0219)
  else if (getJob s jk).phase != .closed then (s, refuseA 0x0221)
  else if !s.mem.failedLs.isEmpty then (s, refuseA 0x0222)
  else if jobPolicyBad s b then (s, refuseA 0x0223)
  else if jk % 2 = 0 && cutBad s (parseCut (b.drop 0x60)) then (s, refuseA 0x0220)
  else
    let s := if jk % 2 = 0 then { s with board := { s.board with resetTags := s.board.resetTags.filter (· != fieldLe b 4 4) } } else s
    (modJob s jk (fun _ => openedJob c.f b), okA)

def execPsmJobOpen (func ring : Nat) (io : HostIo) (s : State) : Host.Outcome State Fault Refusal :=
  done (withCmd rowJobOpen (fun _ => true) func ring io jobOpen s)

/-! ## PSM_WORKINGS_LOAD (R231, R491, R492) -/

def rowLoad : PsmRow := ⟨0x0202, false, .part, fun p _ => fieldLe p 0 4 + 8 * fieldLe p 5 1, 0⟩

/-- Board conveyor bindings: index, peer slot, peer index. -/
def parseBinds (b : List Byte) (size n : Nat) : List (Nat × Nat × Nat) :=
  (List.range n).map (fun k => let e := sliceAt b size 8 k; (fieldLe e 0 1, fieldLe e 1 1, fieldLe e 2 1))

/-- WKI_BIND (R480). -/
def bindsBad (s : State) (im : Image) (bs : List (Nat × Nat × Nat)) : Bool :=
  bs.any (fun b => b.2.1 == s.board.slotId || !(presentSlots s).contains b.2.1
      || !im.conveyors.any (fun d => extKind d == 2 && extIndex d == b.1 && (d.producer == 0xFFFF || d.consumer == 0xFFFF)))
    || (bs.map Prod.fst).eraseDups.length != bs.length

/-- Name the peer of a board conveyor end and offer the binding to it, with the SLOTS of a receiving end (R231, R232). -/
def offerBind (s : State) (jk : Nat) (b : Nat × Nat × Nat) : State :=
  match boardConv s jk b.1 with
  | none => s
  | some k =>
    let s := modConv s jk k (fun c => { c with peer := some (b.2.1, b.2.2) })
    let slots := match convDescOf s jk k with | some d => if isIncoming d then convSlots s jk k d else 0 | none => 0
    sendFrame s .bind b.2.1 (getJob s jk).tag [b.1, b.2.2, slots] []

/-- Act on the offers that came before the image did. -/
def takeOffers (s : State) (jk : Nat) : State :=
  let tag := (getJob s jk).tag
  let mine := s.board.offers.filter (fun o => o.1 == tag)
  let s := { s with board := { s.board with offers := s.board.offers.filter (fun o => o.1 != tag) } }
  mine.foldl (fun s o => doBoardBind o.1 o.2.1 o.2.2.1 o.2.2.2.1 o.2.2.2.2 s) s

def loadImage (s : State) (jk : Nat) (im : Image) (num step shard : Nat) (bs : List (Nat × Nat × Nat)) : State :=
  let s := modJob s jk (fun j => { j with phase := .loaded, image := some im })
  let s := setComp (fillCaches s jk im) im true
  if jk % 2 = 1 then s
  else
    let s := ownTables (modJob s jk (fun j => { j with numBase := num, stepBase := step, shardBase := shard })) jk
    takeOffers (bs.foldl (fun s b => offerBind s jk b) (initRecords s jk im)) jk

def workingsLoad (s : State) (c : Call) : State × Answer :=
  let ctx := c.par 4 1
  let jk := c.job ctx
  let j := getJob s jk
  let d := c.buf.take (c.par 0 4)
  let im := parseImage d
  let bs := parseBinds c.buf (c.par 0 4) (c.par 5 1)
  if j.phase = .closed then (s, refuseA 0x0224)
  else if !s.mem.failedLs.isEmpty then (s, refuseA 0x0222)
  else match imageRefusal s c.p ctx d with
    | some st => (s, refuseA st)
    | none =>
      if j.image.isSome then (s, refuseA 0x0208)
      else if bindsBad s im bs then (s, refuseA 0x0209)
      else if ctx = 0 && epochBad j.cut im then (s, refuseA 0x0220)
      else (loadImage s jk im (c.par 8 8) (c.par 0x10 8) (c.par 0x18 8) bs, okA)

def execPsmWorkingsLoad (func ring : Nat) (io : HostIo) (s : State) : Host.Outcome State Fault Refusal :=
  done (withCmd rowLoad (fun _ => true) func ring io workingsLoad s)

/-! ## Running, stopping, pausing (R493 to R495) -/

def rowRun : PsmRow := ⟨0x0203, false, .part, noNeed, 0⟩

/-- A RESTORE of a job is under way. -/
def restoring (s : State) (jk : Nat) : Bool := (s.stock.op.map (fun o => o.restore && o.job == jk)).getD false

/-- Release the first step (R57, R493): pairs are formed, owners send the scales of the step, tallies of a restored step are taken (R564),
and ready tasks may start. -/
def startJob (s : State) (jk : Nat) : State :=
  let s := modJob s jk (fun j => { j with phase := .running, step := j.start, pass := 0, stepOpen := true, stepStart := now s, busy := (0, 0, 0) })
  let s := formPairs s jk
  let rs := ((getJob s jk).image.map shardRanks).getD []
  let s := if jk % 2 = 0 then rs.foldl (fun s r => sendScale s jk r (getJob s jk).step) s else s
  let s := if (getJob s jk).restored then rs.foldl (fun s r => takeTally s jk r (getJob s jk).start) s else s
  goOn s jk

def jobRun (s : State) (c : Call) : State × Answer :=
  let jk := c.job (c.par 0 1)
  let j := getJob s jk
  if j.phase = .closed then (s, refuseA 0x0224)
  else match j.image with
    | none => (s, refuseA 0x0225)
    | some im =>
      if j.phase = .running || restoring s jk || (im.sched.roundSteps != 0 && j.round.policy.isNone) then (s, refuseA 0x0225)
      else (startJob s jk, okA)

def execPsmJobRun (func ring : Nat) (io : HostIo) (s : State) : Host.Outcome State Fault Refusal :=
  done (withCmd rowRun (fun _ => true) func ring io jobRun s)

def rowStop : PsmRow := ⟨0x0204, false, .part, noNeed, 0⟩

def jobStop (s : State) (c : Call) : State × Answer :=
  let jk := c.job (c.par 0 1)
  let j := getJob s jk
  let boundary := c.par 1 1 = 0
  if j.phase = .closed then (s, refuseA 0x0224)
  else if j.reshard.isSome || (boundary && j.stopping.isSome) then (s, refuseA 0x0225)
  else if boundary then (modJob s jk (fun j => { j with stopping := some c.ref }), longA)
  else (closeJob s jk 0, okA)

def execPsmJobStopBoundary (func ring : Nat) (io : HostIo) (s : State) : Host.Outcome State Fault Refusal :=
  done (withCmd rowStop (actionIs 1 0) func ring io jobStop s)

def execPsmJobStopNow (func ring : Nat) (io : HostIo) (s : State) : Host.Outcome State Fault Refusal :=
  done (withCmd rowStop (actionIs 1 1) func ring io jobStop s)

def rowPause : PsmRow := ⟨0x0205, false, .part, noNeed, 0⟩

/-- A job that is held for any cause, or has a pause announced, is already paused or pausing (R495, R570). -/
def jobPause (s : State) (c : Call) : State × Answer :=
  let jk := c.job 0
  let j := getJob s jk
  let round := c.par 0 1 = 1
  let noRounds := ((j.image.map (fun im => im.sched.roundSteps)).getD 0) = 0
  if j.phase = .closed then (s, refuseA 0x0224)
  else if j.phase != .running || j.held || !j.holdAt.isEmpty || j.reshard.isSome || (round && noRounds) then (s, refuseA 0x0225)
  else
    let s := announceHold (notifyAll s jk .pause [0, b2n round]) jk .hostPause round
    (modJob s jk (fun j => { j with pausing := some c.ref }), longA)

def execPsmJobPause (func ring : Nat) (io : HostIo) (s : State) : Host.Outcome State Fault Refusal :=
  done (withCmd rowPause (fun _ => true) func ring io jobPause s)

def rowResume : PsmRow := ⟨0x0206, false, .part, noNeed, 0⟩

def jobResume (s : State) (c : Call) : State × Answer :=
  let jk := c.job 0
  let j := getJob s jk
  if j.phase = .closed then (s, refuseA 0x0224)
  else if !(j.held && hasHold j .hostPause) then (s, refuseA 0x0225)
  else (wakePart (endHold (notifyAll s jk .resume [0]) jk .hostPause) c.p, okA)

def execPsmJobResume (func ring : Nat) (io : HostIo) (s : State) : Host.Outcome State Fault Refusal :=
  done (withCmd rowResume (fun _ => true) func ring io jobResume s)

/-! ## PSM_REPLICA_SET (R300, R305, R496) -/

def rowReplicaSet : PsmRow := ⟨0x0207, false, .part, noNeed, 0⟩

/-- The effective step of a change of the replica set. -/
def effectiveStep (j : Job) (e : Nat) : Nat := if e = 0 then j.step + 2 else e

/-- REPLICA_BAD (R59, R496): a replica whose removal is pending is a member still, so that a further removal meets it (R300). -/
def replicaBad (j : Job) (remove : Bool) (q e : Nat) : Bool :=
  let m := membersAt j e
  decide (j.policy.replicas ≤ q) || decide (e < j.step + 2) || decide (0xFFFFFFFD < e) || (remove && (!(j.members.contains q || m.contains q) || m.all (· == q))) || (!remove && m.contains q)

def replicaSet (s : State) (c : Call) : State × Answer :=
  let jk := c.job 0
  let j := getJob s jk
  let remove := c.par 0 1 = 0
  let q := c.par 2 2
  let e := effectiveStep j (c.par 4 4)
  if j.phase = .closed then (s, refuseA 0x0224)
  else if replicaBad j remove q e then (s, refuseA 0x0226)
  else if remove then (applyLoss (notifyAll s jk .replicaLost [q, e]) jk q e, okA)
  else (readmit (notifyAll s jk .readmit [q, e]) jk q e, okA)

def execPsmReplicaRemove (func ring : Nat) (io : HostIo) (s : State) : Host.Outcome State Fault Refusal :=
  done (withCmd rowReplicaSet (actionIs 0 0) func ring io replicaSet s)

def execPsmReplicaReadmit (func ring : Nat) (io : HostIo) (s : State) : Host.Outcome State Fault Refusal :=
  done (withCmd rowReplicaSet (actionIs 0 1) func ring io replicaSet s)

/-! ## PSM_RESHARD (R323, R497) -/

def rowReshard : PsmRow := ⟨0x0208, false, .part, fun p _ => fieldLe p 8 4 + 32 + 4 * fieldLe p 0xC 4, 0⟩

/-- The replacement differs from the loaded image beyond the TENSOR and BUFFER sections. -/
def reshardDiffers (old new : Image) : Bool := ({ new with tensors := old.tensors, buffers := old.buffers } : Image) != old

def reshard (s : State) (c : Call) : State × Answer :=
  let jk := c.job 0
  let j := getJob s jk
  let epoch := c.par 0 4
  let e := c.par 4 4
  let d := c.buf.take (c.par 8 4)
  let im := parseImage d
  let cut := parseCut (c.buf.drop (c.par 8 4))
  let h := (j.image.map (fun im => im.sched.roundSteps)).getD 0
  if j.phase = .closed then (s, refuseA 0x0224)
  else if j.reshard.isSome || j.held then (s, refuseA 0x0230)
  else if epoch != j.cut.epoch + 1 then (s, refuseA 0x0231)
  else if e < j.step + 2 || 0xFFFFFFFD < e || (h != 0 && e % h != 0) then (s, refuseA 0x0232)
  else match j.image with
    | none => (s, refuseA 0x0233)
    | some old =>
      if (imageRefusal s c.p 0 d).isSome || reshardDiffers old im then (s, refuseA 0x0233)
      else if cutBad s cut || epochBad cut im || cut.epoch != epoch then (s, refuseA 0x0235)
      else
        let x : Reshard := ⟨epoch, e, im, cut, parseOwners c.buf (c.par 8 4 + 32) (c.par 0xC 4), false, [], c.ref, none, 0xFFFFFFFF⟩
        (modJob s jk (fun j => { j with reshard := some x }), longA)

def execPsmReshard (func ring : Nat) (io : HostIo) (s : State) : Host.Outcome State Fault Refusal :=
  done (withCmd rowReshard (fun _ => true) func ring io reshard s)

/-! ## PSM_ROUND_POLICY (R336, R337, R339, R498) -/

/-- Held master shards of the primary job that the front command of a ring names. -/
def frontMasters (s : State) (f r : Nat) : Nat :=
  match (getRing s f r).fetched.head?.bind (namedPart s f) with
  | none => 0
  | some p => ((getJob s (2 * p)).image.map (fun im => (masters im).length)).getD 0

def rowRoundPolicy (n : Nat) : PsmRow :=
  ⟨0x0301, false, .part, fun _ b => if b.length < 128 then 128 else 128 + 32 * fieldLe b 2 1 + 32 * fieldLe b 0x34 2 + 2 * (n * fieldLe b 2 1), 0⟩

def parseAddr (e : List Byte) : Nat × Nat × Nat × Nat := (beNat (e.take 16), fieldBe e 0x10 2, fieldLe e 0x12 1, fieldLe e 0x13 1)

/-- A partner entry with its mirror indexes by shard rank. -/
def parsePartner (e : List Byte) (mirrors : List Nat) : Partner :=
  ⟨fieldLe e 0 1, fieldLe e 1 1, fieldLe e 2 2, fieldLe e 4 4, fieldLe e 8 4, BitVec.ofNat 32 (fieldLe e 0xC 4), mirrors⟩

/-- The round policy of a buffer. A reserved MODE runs as GNORAM, and a reserved FRACTION selects P / 2^(FRACTION + 1) places, which no receiver
decodes (DESIGN CHOICE log 164: R8, R368). -/
def parsePolicy (b : List Byte) (n : Nat) : RoundPolicy :=
  let np := fieldLe b 2 1
  let na := fieldLe b 0x34 2
  let mirror := 128 + 32 * np + 32 * na
  let step := fieldLe b 0xC 4
  let w := fun (off : Nat) => (BitVec.ofNat 32 (fieldLe b off 4) : Word)
  { site := fieldLe b 0 1, mode := fieldLe b 1 1, stale := fieldLe b 3 1, lag := fieldLe b 4 1, dMax := fieldLe b 5 1, fraction := fieldLe b 6 1,
    flags := fieldLe b 7 1, waitNs := fieldLe b 8 4, stepNs := if step = 0 then 1000000 else step, w := (List.range 8).map (fun k => w (0x10 + 4 * k)),
    joinRound := fieldLe b 0x30 4, roundBase := fieldLe b 0x38 8, rshardBase := fieldLe b 0x40 8, ctxFirst := fieldLe b 0x48 4, wSelf := w 0x4C,
    partners := (List.range np).map (fun p => parsePartner (sliceAt b 128 32 p) ((List.range n).map (fun r => fieldLe b (mirror + 2 * (r * np + p)) 2))),
    addrs := (List.range na).map (fun k => parseAddr (sliceAt b (128 + 32 * np) 32 k)) }

/-- An FP32 weight that is finite and positive, or finite and not negative. -/
def weightPositive (w : Word) : Bool := match f32Val w with | .fin _ _ _ => decide (0 < w.toNat ∧ w.toNat < 2 ^ 31) | _ => false
def weightAllowed (w : Word) : Bool := match f32Val w with | .fin _ _ _ => decide (w.toNat ≤ 2 ^ 31) | _ => false

def partnerRange (q : Partner) (naddr : Nat) : Bool :=
  within 1000 q.mbps 6400000 && weightPositive q.wCatch && q.mirrors.all (fun m => decide (m < naddr))

/-- ROUND_RANGE (R336, R337, R339, R364). -/
def roundRange (q : RoundPolicy) : Bool :=
  decide (q.partners.length ≤ 64) && decide (q.stale ≤ 7) && decide (q.lag ≤ q.stale) && decide (q.stale < q.dMax) && decide (q.waitNs ≤ 4000000000)
    && within 100000 q.stepNs 100000000 && within 1 q.addrs.length 4096 && q.roundBase % 64 == 0 && q.rshardBase % 64 == 0 && q.ctxFirst % 64 == 0
    && q.w.all weightAllowed && weightPositive (q.w.getD 0 0) && weightPositive (q.w.getD q.lag 0) && weightPositive q.wSelf
    && q.partners.all (fun x => partnerRange x q.addrs.length) && (q.mode != 1 || (q.lag == 0 && decide (q.stale ≤ 1) && !bit q.flags 1))

/-- ROUND_CONTEXTS: the contexts of n shards lie in the partition's range. -/
def contextsIn (s : State) (p first n : Nat) : Bool :=
  let r := (getPart s p).ctxs
  decide (r.1 ≤ first ∧ first + 64 * n ≤ r.1 + r.2)

/-- A key slot is installed in a partition. -/
def keyInstalled (s : State) (p n : Nat) : Bool :=
  let r := (getPart s p).keys
  decide (r.1 ≤ n ∧ n < r.1 + r.2) && (getSlot s n).st != 0

/-- A policy with the fields that may change after the first boundary taken from another (R339). -/
def policyFixed (old new : RoundPolicy) : Bool :=
  let same : RoundPolicy := { new with
    w := old.w, wSelf := old.wSelf, waitNs := old.waitNs, stepNs := old.stepNs, dMax := old.dMax,
    partners := (new.partners.zip old.partners).map (fun (a, b) => { a with wCatch := b.wCatch, mbps := b.mbps, flags := a.flags / 2 * 2 + b.flags % 2 }) }
  new.partners.length == old.partners.length && same == old && (new.partners.zip old.partners).all (fun (a, b) => partnerOk b || !partnerOk a)

/-- A policy accepted by a running job: it waits for each owned shard's boundary; a shard in PAUSED frees a cleared partner at once (R339),
which may be all that its resume waits for (R358). -/
def acceptPolicy (s : State) (jk : Nat) (q : RoundPolicy) (im : Image) : State :=
  let owned := (shardRanks im).filter (fun r => ownerHere s (getJob s jk) r)
  if owned.isEmpty then settlePolicies (modRound s jk (fun o => { o with next := o.next ++ [(q, [])] })) jk
  else
    let s := owned.foldl (fun s r =>
      if roundState s (getJob s jk) r != 6 then s
      else (q.partners.zipIdx).foldl (fun s pq => if partnerOk pq.1 then s else freeCtx s jk r pq.2) s) s
    reportReady (modRound s jk (fun o => { o with next := o.next ++ [(q, owned)] })) jk

/-- The job's first round boundary has passed here: VERSION of a held shard in outer rounds, or the step counter, has reached it (R330, R339). -/
def roundPassed (s : State) (j : Job) (im : Image) : Bool :=
  let h := max 1 im.sched.roundSteps
  let b := (j.start / h + 1) * h
  decide (b ≤ j.step) || (held im).any (fun tr => (exchangeOf im 1 tr.1).isSome && decide (b ≤ shardVersion s j tr.2))

def roundPolicy (s : State) (c : Call) : State × Answer :=
  let jk := c.job 0
  let j := getJob s jk
  let n := (j.image.map (fun im => (masters im).length)).getD 0
  let q := parsePolicy c.buf n
  if j.phase = .closed then (s, refuseA 0x0224)
  else match j.image with
    | none => (s, refuseA 0x0240)
    | some im =>
      if im.sched.roundSteps = 0 then (s, refuseA 0x0240)
      else if !roundRange q then (s, refuseA 0x0241)
      else if !contextsIn s c.p q.ctxFirst n then (s, refuseA 0x0242)
      else if q.partners.any (fun x => partnerOk x && !keyInstalled s c.p x.keySlot) then (s, refuseA 0x0243)
      else if roundPassed s j im && !(((latestPolicy j).map (fun o => policyFixed o (ownPolicy s (jk / 2) im q))).getD true) then (s, refuseA 0x0244)
      else if j.phase = .running then (acceptPolicy s jk (ownPolicy s (jk / 2) im q) im, okA)
      else (initRounds s jk im (ownPolicy s (jk / 2) im q), okA)

def execPsmRoundPolicy (func ring : Nat) (io : HostIo) (s : State) : Host.Outcome State Fault Refusal :=
  done (withCmd (rowRoundPolicy (frontMasters s func ring)) (fun _ => true) func ring io roundPolicy s)

/-! ## PSM_SITE_ADMIT (R359, R499) -/

def rowSiteAdmit (n : Nat) : PsmRow := ⟨0x0302, false, .part, fun p _ => 32 + 32 * fieldLe p 0 2 + 2 * n, 0⟩

/-- A policy with one more partner and more addresses. -/
def admitted (q : RoundPolicy) (x : Partner) (as : List (Nat × Nat × Nat × Nat)) : RoundPolicy :=
  { q with partners := q.partners ++ [x], addrs := q.addrs ++ as }

/-- Admit a partner: a non-sponsor's contexts for it become ACTIVE at once; the sponsor's wait for the end of INSTALL of its join round. -/
def admitSite (s : State) (jk : Nat) (im : Image) (q : RoundPolicy) (x : Partner) (as : List (Nat × Nat × Nat × Nat)) : State :=
  let p := q.partners.length
  let s := modRound s jk (fun o => { o with
    policy := some (admitted q x as), next := o.next.map (fun nx => (admitted nx.1 x as, nx.2)), rtt := Tab.del o.rtt p, split := Tab.del o.split p })
  let s := wrBytes s (partnerRec (getJob s jk) p) (List.replicate 8 0 ++ toLe 4 1000000000 ++ List.replicate 20 0) false
  if bit x.flags 2 then s
  else (shardRanks im).foldl (fun s r =>
    if ownerHere s (getJob s jk) r && ((masterAt im r).bind (fun t => exchangeOf im 1 t)).isSome then
      openCtx s jk r p 1 (rdLe s (roundShard (getJob s jk) r + 0x30) 4)
    else s) s

def siteAdmit (s : State) (c : Call) : State × Answer :=
  let jk := c.job 0
  let j := getJob s jk
  let na := c.par 0 2
  if j.phase = .closed then (s, refuseA 0x0224)
  else match j.image, j.round.policy with
    | some im, some q =>
      let n := (masters im).length
      let x := parsePartner (c.buf.take 32) ((List.range n).map (fun r => fieldLe c.buf (32 + 32 * na + 2 * r) 2))
      let as := (List.range na).map (fun k => parseAddr (sliceAt c.buf 32 32 k))
      let late := (shardRanks im).any (fun r => ownerHere s j r && ((masterAt im r).bind (fun t => exchangeOf im 1 t)).isSome && decide (x.joinRound < roundOf s j r))
      if im.sched.roundSteps = 0 then (s, refuseA 0x0240)
      else if !within 1 na 64 || 4096 < q.addrs.length + na || !partnerRange x (q.addrs.length + na) then (s, refuseA 0x0241)
      else if !contextsIn s c.p q.ctxFirst n then (s, refuseA 0x0242)
      else if partnerOk x && !keyInstalled s c.p x.keySlot then (s, refuseA 0x0243)
      else if late then (s, refuseA 0x0245)
      else if 64 ≤ q.partners.length then (s, refuseA 0x0246)
      else if q.mode = 1 then (s, refuseA 0x0247)
      else (admitSite s jk im q x as, okA)
    | _, _ => (s, refuseA 0x0240)

def execPsmSiteAdmit (func ring : Nat) (io : HostIo) (s : State) : Host.Outcome State Fault Refusal :=
  done (withCmd (rowSiteAdmit (frontMasters s func ring)) (fun _ => true) func ring io siteAdmit s)

end Sys2Proof.Machine
end

