-- ==== Sys2Proof/Machine/PsmKeys.lean ====
section
/-! DEFINITION. Psiam: PSM_KEY_INSTALL (R402 to R405, R501). -/

namespace Sys2Proof.Machine

/-- The partition that holds a key slot by its range; none: the physical function (R401, R483). -/
def slotOwner (s : State) (n : Nat) : Option Nat :=
  (List.range 4).find? (fun p => let r := (getPart s p).keys; decide (r.1 ≤ n ∧ n < r.1 + r.2))

/-- The status record of a slot (R405). -/
def keyRecord (s : State) (n : Nat) : List Byte :=
  let k := getSlot s n
  toLe 2 n ++ toLe 1 k.use ++ toLe 1 k.st ++ toLe 1 (4 * b2n k.prev.isSome + 2 * b2n k.next.isSome + b2n k.gen) ++ toLe 1 ((slotOwner s n).getD 0xFF)
    ++ [0, 0] ++ toLe 4 ((k.cur.map Prod.snd).getD 0) ++ toLe 4 ((k.next.map Prod.snd).getD 0) ++ toLe 8 k.sent ++ toLe 8 k.activated

/-- The module key in force: a replacement, or the one sealed at delivery (R402). -/
def wrapKey (s : State) : List Byte := s.cipher.moduleKey.getD ((List.range 32).map Config.deliveryKey)

def rowKey (need : Nat) : PsmRow := ⟨0x0303, false, .part, fun _ _ => need, 0⟩
def rowModuleKey : PsmRow := ⟨0x0303, true, .module, fun _ _ => 40, 0⟩

/-- KEY_SLOT (R404): the issuing function may act on slots of the partition it names, the PF also on its own. -/
def keySlotBad (s : State) (c : Call) : Bool :=
  let n := c.par 2 2
  decide (1024 ≤ n) || !(slotOwner s n == some c.p || (c.f == 0 && (slotOwner s n).isNone)) || (c.f != 0 && c.par 1 1 == 6)

/-- KEY_STATE (R403, R404): a partition has at most one ACTIVE SITE_LINK_GCM slot (R401). -/
def keyStateBad (s : State) (c : Call) : Bool :=
  let k := getSlot s (c.par 2 2)
  let other := (List.range 1024).any (fun m => m != c.par 2 2 && slotOwner s m == slotOwner s (c.par 2 2) && (getSlot s m).st == 1 && (getSlot s m).use == 2)
  match c.par 0 1 with
  | 0 => k.st != 0 || (c.par 1 1 == 2 && other)
  | 1 => k.st == 0 || k.next.isSome || (k.st == 2 && k.use == 2 && other)
  | 2 => k.st == 0 || k.next.isNone
  | _ => false

/-- Whether the action draws a salt. -/
def keyNeedsSalt (s : State) (c : Call) : Bool :=
  match c.par 0 1 with
  | 0 => true
  | 1 => (getSlot s (c.par 2 2)).st == 2
  | 2 => true
  | _ => false

/-- The effect of an action on its slot (R403); x is the unwrapped key with its KEY_ID. -/
def keyAction (s : State) (c : Call) (x : List Byte × Nat) : State :=
  let n := c.par 2 2
  match c.par 0 1 with
  | 0 => newGeneration (modSlot s n (fun _ => { KeySlot.reset with use := c.par 1 1, part := (slotOwner s n).getD 0xFF, cur := some x })) n
  | 1 =>
    let expired := (getSlot s n).st = 2
    let s := modSlot s n (fun k => { k with next := some x })
    if expired then activateSlot s n else s
  | 2 => activateSlot s n
  | _ => eraseSlot s n

def keyInstall (s : State) (c : Call) : State × Answer :=
  let n := c.par 2 2
  let wrapped := c.par 0 1 < 2
  let plain := if wrapped then kwUnwrap 5 (wrapKey s) (c.buf.take 48) else some []
  if keySlotBad s c then (s, refuseA 0x0250)
  else match plain with
    | none => (s, refuseA 0x0251)
    | some d =>
      let use := c.par 1 1
      if wrapped && (fieldLe d 0x20 2 != n || fieldLe d 0x22 1 != c.par 4 1 || fieldLe d 0x23 1 != use || use == 0 || decide (6 < use)) then
        (s, refuseA 0x0252)
      else if keyStateBad s c then (s, refuseA 0x0253)
      else if keyNeedsSalt s c && !s.cipher.rngOk then (s, refuseA 0x0254)
      else
        let s := keyAction s c (d.take 32, fieldLe d 0x24 4)
        (s, resultA ((keyRecord s n).take 16))

/-- MODULE_KEY: a new module key wrapped under the current one (R402, R501). -/
def moduleKey (s : State) (c : Call) : State × Answer :=
  match kwUnwrap 4 (wrapKey s) (c.buf.take 40) with
  | none => (s, refuseA 0x0251)
  | some k => let s := modCipher s (fun q => { q with moduleKey := some k }); (s, resultA ((keyRecord s (c.par 2 2)).take 16))

def execPsmKeyInstall (func ring : Nat) (io : HostIo) (s : State) : Host.Outcome State Fault Refusal :=
  done (withCmd (rowKey 48) (actionIs 0 0) func ring io keyInstall s)

def execPsmKeyInstallNext (func ring : Nat) (io : HostIo) (s : State) : Host.Outcome State Fault Refusal :=
  done (withCmd (rowKey 48) (actionIs 0 1) func ring io keyInstall s)

def execPsmKeyActivate (func ring : Nat) (io : HostIo) (s : State) : Host.Outcome State Fault Refusal :=
  done (withCmd (rowKey 0) (actionIs 0 2) func ring io keyInstall s)

def execPsmKeyErase (func ring : Nat) (io : HostIo) (s : State) : Host.Outcome State Fault Refusal :=
  done (withCmd (rowKey 0) (actionIs 0 3) func ring io keyInstall s)

def execPsmKeyModuleKey (func ring : Nat) (io : HostIo) (s : State) : Host.Outcome State Fault Refusal :=
  done (withCmd rowModuleKey (actionIs 0 4) func ring io moduleKey s)

end Sys2Proof.Machine
end

