-- ==== Sys2Proof/Machine/PsmData.lean ====
section
/-! DEFINITION. Psiam: exported and imported shards (R503, R504, R573), copies (R505), telemetry (R506 to R509, R608), the spare counts
(R510) and the self-test policy (R511). -/

namespace Sys2Proof.Machine

/-! ## PSM_EXPORT_SHARD (R503, R504) -/

def objMagic : Nat := 0x48535844

/-- The held master shard with the coordinates of the PARAMS, its rank and its image. -/
def shardNamed (s : State) (c : Call) : Option (Image × TensorEnt × Nat) :=
  (getJob s (c.job 0)).image.bind (fun im =>
    let coords := (List.range 4).map (fun k => c.par (0xC + 2 * k) 2)
    (tensorByCoords im (c.par 8 4) coords).bind (fun t =>
      if t.cls = 2 && t.epoch == c.par 0x14 4 then (shardRank im t).map (fun r => (im, t, r)) else none))

/-- A job that is held or has not run, with no RESTORE under way (R504, R568). -/
def shardIdle (s : State) (jk : Nat) : Bool := ((getJob s jk).phase != .running || (getJob s jk).held) && !restoring s jk

/-- KEY_SLOT of an export or import. -/
def storeSlotBad (s : State) (c : Call) : Bool :=
  let n := c.par 2 2
  decide (1024 ≤ n) || !(slotOwner s n == some c.p || (c.f == 0 && (slotOwner s n).isNone))

/-- KEY_STATE of an export or import: not ACTIVE, or not a STORE use. -/
def storeStateBad (s : State) (n : Nat) : Bool := let k := getSlot s n; k.st != 1 || !(k.use == 3 || k.use == 4 || k.use == 5)

/-- Element bytes of a master, and with STATE of its optimiser state. -/
def objectAreas (im : Image) (t : TensorEnt) (state : Bool) : List (Nat × Nat) :=
  (t :: (if state then stateTensors im t else [])).map (fun x => (tensorAddr im x, tensorBytes x))

/-- The checks that both actions share, in order. -/
def shardRefusal (s : State) (c : Call) (state : Bool) : Option Nat :=
  let jk := c.job 0
  if (getJob s jk).phase = .closed then some 0x0224
  else if !shardIdle s jk then some 0x0225
  else match shardNamed s c with
    | none => some 0x0266
    | some (_, _, r) =>
      if state && !ownerHere s (getJob s jk) r then some 0x0266
      else if storeSlotBad s c then some 0x0250
      else if storeStateBad s (c.par 2 2) then some 0x0253
      else none

/-- The object header. -/
def objHeader (use : Nat) (state : Bool) (coords : List Byte) (version size tally : Nat) (nonce : List Byte) : List Byte :=
  toLe 4 objMagic ++ toLe 1 use ++ toLe 1 (b2n state) ++ [0, 0] ++ padTo 0 16 coords ++ toLe 4 version ++ toLe 4 0 ++ toLe 8 size ++ toLe 8 tally
    ++ padTo 0 12 nonce ++ toLe 4 0

/-- Least chunk version of a shard here (R291). -/
def leastVersion (s : State) (j : Job) (r : Nat) (t : TensorEnt) : Nat :=
  ((List.range (chunkCount t)).map (chunkVersion s j r)).foldl min (2 ^ 32 - 1)

def exportShard (faulty : Bool) (s : State) (c : Call) : State × Answer :=
  let state := bit (c.par 1 1) 0
  let n := c.par 2 2
  let s := expireSlot s n
  match shardRefusal s c state, shardNamed s c with
  | some st, _ => (s, refuseA st)
  | none, none => (s, refuseA 0x0266)
  | none, some (im, t, r) =>
    let areas := objectAreas im t state
    let size := areas.foldl (fun k a => k + a.2) 0
    if c.d.outLen < size + 64 then (s, refuseA 5)
    else if areas.any (fun a => rdTagged s a.1 a.2) then (s, refuseA 0x0269)
    else
      let s := doEncrypt n false [] (areas.flatMap (fun a => rdData s a.1 a.2)) faulty s
      let head := objHeader (getSlot s n).use state ((c.d.params.drop 8).take 16) (leastVersion s (getJob s (c.job 0)) r t) size (tallyOf s im t) s.cipher.reply.nonce
      (s, ⟨0, false, [], head ++ s.cipher.reply.data⟩)

def rowExport : PsmRow := ⟨0x0402, false, .part, fun _ _ => 0, 0⟩
def rowImport : PsmRow := ⟨0x0402, false, .part, fun _ b => if b.length < 64 then 64 else 64 + fieldLe b 0x20 8, 0⟩

/-- A command that needs the cipher waits while no core is in service. -/
def withCores (s : State) (t : State) : State := if (pickCore s true).isNone then s else t

/-- `faulty`: the first core's ciphertext does not decrypt to the plaintext on the second (R400). -/
def execPsmExportShardExport (func ring : Nat) (io : HostIo) (faulty : Bool) (s : State) : Host.Outcome State Fault Refusal :=
  done (withCores s (withCmd rowExport (actionIs 0 0) func ring io (exportShard faulty) s))

/-- Write an imported object: master, state, working copies, versions, and with rounds the anchors and the spoil (R504, R573). -/
def putObject (s : State) (jk r version : Nat) (im : Image) (t : TensorEnt) (state : Bool) (d : List Byte) : State :=
  let s := ((objectAreas im t state).foldl (fun (w : State × Nat) a => (wrOwn w.1 (jk / 2) a.1 (padTo 0 a.2 ((d.drop w.2).take a.2)) false, w.2 + a.2)) (s, 0)).1
  let s := regenCopies s jk im t
  let j := getJob s jk
  let s := wrOwn s (jk / 2) (rdLe s (shardAddr j r + 0x10) 8) ((List.range (chunkCount t)).flatMap (fun _ => toLe 4 version)) false
  let s := wrLe s (shardAddr j r + 8) 4 version
  match exchangeOf im 1 t with
  | none => s
  | some (_, k) =>
    let anchor := fun (n : Nat) => toF32 (placeVal s im t n)
    let put := fun (s : State) (x : Option TensorEnt) (v : Nat → Word) => match x with | some y => fillTensor s (jk / 2) im y v | none => s
    put (put (put s (xAnchor im k) anchor) (xSplit im k) anchor) (xSpoil im k) (fun _ => 0)

def importShard (s : State) (c : Call) : State × Answer :=
  let jk := c.job 0
  let h := c.buf.take 64
  let n := c.par 2 2
  let nonce := (h.drop 0x30).take 12
  let s := expireSlot s n
  match shardRefusal s c (bit (fieldLe h 5 1) 0), shardNamed s c with
  | some st, _ => (s, refuseA st)
  | none, none => (s, refuseA 0x0266)
  | none, some (im, t, r) =>
    if (keyFor (getSlot s n) (bit ((nonce.getD 0 0).toNat) 7)).isNone then (s, refuseA 0x0253)
    else if fieldLe h 0x18 4 != (getJob s jk).step then (s, refuseA 0x0268)
    else
      let s := doDecrypt n nonce [] ((c.buf.drop 64).take (fieldLe h 0x20 8)) [] s
      let d := s.cipher.reply.data
      if crc64 (padTo 0 (tensorBytes t) (d.take (tensorBytes t))) != fieldLe h 0x28 8 then (s, refuseA 0x0267)
      else (putObject s jk r (fieldLe h 0x18 4) im t (bit (fieldLe h 5 1) 0) d, okA)

def execPsmExportShardImport (func ring : Nat) (io : HostIo) (s : State) : Host.Outcome State Fault Refusal :=
  done (withCores s (withCmd rowImport (actionIs 0 1) func ring io importShard s))

/-! ## PSM_COPY (R466, R505) -/

/-- A VF without a partition. -/
def copyHomeless (s : State) (f : Nat) : Bool := f != 0 && (getFunc s f).part.isNone

/-- The copy engine that serves next: the lowest that is not frozen. -/
def copyEngine (s : State) : Option Nat := (List.range 8).find? (fun n => !s.host.copyFrozen.contains n)

/-- A violation freezes the engine (R466). -/
def freezeEngine (s : State) (f cause access a : Nat) : State :=
  match copyEngine s with
  | none => s
  | some n =>
    let s := { s with host := { s.host with copyFrozen := s.host.copyFrozen ++ [n] } }
    recordFreeze s ⟨2, sourceId s (0x400 + f), n, (getFunc s f).part.getD 0xFF, cause, access, a, now s, 0⟩

def rowCopy (s : State) (f : Nat) : PsmRow := ⟨0x0403, false, .none, fun p _ => if fieldLe p 0 1 = 0 && !copyHomeless s f then fieldLe p 0x10 8 else 0, 0⟩

/-- What precedes the transfer: CMD_PARTITION, CMD_LENGTH of the result buffer, the check of the engine. -/
def copyRefusal (s : State) (c : Call) (access : Nat) : Option (State × Answer) :=
  let a := c.par 8 8
  let n := c.par 0x10 8
  if copyHomeless s c.f then some (s, refuseA 3)
  else if access = 0 && c.d.outLen < n then some (s, refuseA 5)
  else match hostCause s c.f a n with
    | some cause => some (if meetsReset s a n then s else freezeEngine s c.f cause access a, refuseA 8)
    | none => none

def copyToDevice (errs : List (Nat × Bool)) (s : State) (c : Call) : State × Answer :=
  match copyRefusal s c 1 with
  | some x => x
  | none => (applyComp (noteHostErrs s errs) 0 (cellsOf (c.par 8 8) (c.buf.take (c.par 0x10 8)) false), okA)

/-- Bytes before the first 64 B line that carries a tag. -/
def cleanBytes (s : State) (a n : Nat) : List Byte :=
  ((List.range (n / 64)).takeWhile (fun k => !rdTagged s (a + 64 * k) 64)).flatMap (fun k => rdData s (a + 64 * k) 64)

def copyToHost (errs : List (Nat × Bool)) (s : State) (c : Call) : State × Answer :=
  let a := c.par 8 8
  let n := c.par 0x10 8
  match copyRefusal s c 0 with
  | some x => x
  | none =>
    let s := noteHostErrs s errs
    let d := cleanBytes s a n
    (noteSizes s a n, ⟨if d.length < n then 0x0269 else 0, false, [], d⟩)

/-- A copy waits while every engine is frozen. -/
def withEngine (s t : State) : State := if (copyEngine s).isNone then s else t

/-- A copy, with the scratchpad words that it meets in error, as in a BAR4 access (R81, R505). -/
def execPsmCopyToDevice (func ring : Nat) (io : Met HostIo) (s : State) : Host.Outcome State Fault Refusal :=
  done (withEngine s (withCmd (rowCopy s func) (actionIs 0 0) func ring io.1 (copyToDevice io.2) s))

def execPsmCopyToHost (func ring : Nat) (io : Met HostIo) (s : State) : Host.Outcome State Fault Refusal :=
  done (withEngine s (withCmd (rowCopy s func) (actionIs 0 1) func ring io.1 (copyToHost io.2) s))

/-! ## PSM_TELEMETRY (R506 to R509, R608) -/

/-- KIND 0 (R608). -/
def moduleRecord (s : State) : List Byte :=
  let p := s.power
  let b := fun (l : List Nat) => l.flatMap (toLe 1)
  padTo 0 128 (toLe 4 p.vin ++ toLe 4 p.iin ++ toLe 4 p.pin ++ toLe 2 ((p.peaks.head?.map Prod.fst).getD 0) ++ toLe 2 (govState p) ++ toLe 2 p.cap
    ++ toLe 1 (phaseCounts s).1 ++ toLe 1 (phaseCounts s).2 ++ b (padTo 0 4 p.face) ++ toLe 1 p.wb ++ toLe 1 p.plate ++ [0, 0] ++ b (padTo 0 9 p.stackTemps)
    ++ [0, 0, 0] ++ toLe 4 (p.acct / 1000000) ++ toLe 4 (wearNs s / 1000000000) ++ toLe 8 (p.energy / 1000000) ++ toLe 8 p.tThrottled ++ toLe 8 p.tBoost
    ++ toLe 8 p.tVhi ++ toLe 8 p.tHeat ++ toLe 4 p.droops ++ toLe 1 p.op ++ toLe 1 (b2n p.holdover))

/-- KIND 1 (R508). -/
def partRecord (s : State) (p : Nat) : List Byte :=
  let j := getJob s (2 * p)
  padTo 0 64 (toLe 8 (partStatus s p) ++ toLe 4 j.step ++ toLe 4 (getJob s (2 * p + 1)).step ++ toLe 8 j.lastBusy.1 ++ toLe 8 j.lastBusy.2.1
    ++ toLe 8 j.lastBusy.2.2.1 ++ toLe 8 j.lastBusy.2.2.2)

/-- Ready tasks of a station queued now. -/
def readyTasks (s : State) (jk k : Nat) : Nat :=
  s.benches.foldl (fun n e => if partOfLb s e.1 == some (jk / 2) then n + (e.2.ctx (jk % 2)).queue.countP (fun t => t.station == k && taskReady s jk e.1 t) else n) 0

/-- KIND 2 (R507). -/
def stationRecord (s : State) (jk k : Nat) (st : Station) : List Byte :=
  let j := getJob s jk
  padTo 0 32 (toLe 2 k ++ toLe 1 st.kind ++ toLe 1 (b2n ((outConvs s jk k).any (fun q => (getConv s jk q).hold))) ++ toLe 4 (readyTasks s jk k)
    ++ toLe 8 (Tab.get 0 j.tasksDone k) ++ toLe 4 (Tab.get 0 j.stealsOwn k) ++ toLe 4 (Tab.get 0 j.stealsFlex k))

/-- KIND 3 (R221). -/
def convRecord (s : State) (jk k : Nat) (d : ConvDesc) : List Byte :=
  let c := getConv s jk k
  toLe 2 (convOcc c) ++ toLe 2 (c.slots.countP (fun x => x.landed && !x.joined)) ++ toLe 2 (convSlots s jk k d)
    ++ toLe 1 (b2n c.broken * 4 + b2n c.creditWait * 2 + b2n c.hold) ++ [0] ++ toLe 4 c.holds ++ toLe 4 c.parity ++ toLe 4 c.discards ++ toLe 4 c.fullWaits
    ++ toLe 8 c.waitNs

/-- KIND 10 (R509): a site port has 8 lanes and no spare one. -/
def portRecord (s : State) (n : Nat) : List Byte :=
  let rec' := fun (st : PortState) (lanes spare : Nat) (c : PortCounts) =>
    padTo 0 32 (toLe 1 n ++ toLe 1 (stateCode st) ++ toLe 1 lanes ++ toLe 1 spare ++ toLe 4 c.noJob ++ toLe 4 c.malformed ++ toLe 4 c.drops ++ toLe 4 c.retries
      ++ toLe 4 c.pauses ++ toLe 8 c.worst)
  if n < 7 then let p := Tab.get BPort.reset s.board.ports n; rec' p.st p.lanes.length p.spare.length p.cnt
  else let p := Tab.get SPort.reset s.board.sites (n - 7); rec' p.st (if p.st = .up || p.st = .degraded then 8 else 0) 0 p.cnt

/-- The records of a kind that a call sees, in order. A filler job has no layer, step, shard or round records (R490, R491). -/
def teleRecords (s : State) (c : Call) : List (List Byte) :=
  let jk := c.job (c.par 1 1)
  let j := getJob s jk
  let im := j.image
  let stations := (im.map (·.stations)).getD []
  let convs := (im.map (·.conveyors)).getD []
  let own := if jk % 2 = 0 then im else none
  let layers := (own.map layersOf).getD []
  let shards := (own.map masters).getD []
  match c.par 0 1 with
  | 0 => [moduleRecord s]
  | 1 => (if c.f = 0 then List.range 4 else ((getFunc s c.f).part).toList).map (partRecord s)
  | 2 => stations.zipIdx.map (fun x => stationRecord s jk x.2 x.1)
  | 3 => convs.zipIdx.map (fun x => convRecord s jk x.2 x.1)
  | 4 => layers.map (fun l => rdData s (layerRec j l) 128)
  | 5 => layers.map (fun l => rdData s (stepRec j l) 64)
  | 6 => (List.range shards.length).map (fun r => rdData s (shardAddr j r) 64)
  | 7 => if j.round.policy.isNone then [] else [rdData s (roundRec j) 2112]
  | 8 => if j.round.policy.isNone then [] else (List.range shards.length).map (fun r => rdData s (roundShard j r) 64)
  | 9 => (if c.f = 0 then List.range 1024 else let k := (getPart s c.p).keys; if (getFunc s c.f).part.isNone then [] else span k.1 k.2).map (keyRecord s)
  | 10 => (List.range 16).map (portRecord s)
  | _ => s.boot.log

def telemetry (s : State) (c : Call) : State × Answer :=
  let kind := c.par 0 1
  let jobKind := decide (2 ≤ kind ∧ kind ≤ 8)
  let first := if kind = 7 then 0 else c.par 4 4
  let count := if kind = 7 then 1 else c.par 8 4
  if c.f != 0 && (kind == 0 || kind == 10 || kind == 11) then (s, refuseA 2)
  else if jobKind && (decide (3 < c.p) || (getJob s (c.job (c.par 1 1))).phase == .closed) then (s, refuseA 0x0224)
  else
    let l := teleRecords s c
    let d := ((l.drop first).take count).flatMap (fun x => x)
    if l.length < first + count then (s, refuseA 0x0270)
    else if c.d.outLen < d.length then (s, refuseA 5)
    else (s, ⟨0, false, [], d⟩)

def rowTelemetry : PsmRow := ⟨0x0501, false, .none, fun _ _ => 0, 0⟩

def execPsmTelemetry (func ring : Nat) (io : HostIo) (s : State) : Host.Outcome State Fault Refusal :=
  done (withCmd rowTelemetry (fun _ => true) func ring io telemetry s)

/-! ## PSM_SPARE_STATUS (R510) and PSM_SELFTEST_POLICY (R511) -/

def spareEntry (s : State) (c : Nat) : List Byte :=
  let n := spareCounts s c
  padTo 0 16 (toLe 1 c ++ [0] ++ toLe 2 n.1 ++ toLe 2 n.2.1 ++ toLe 2 n.2.2.1 ++ toLe 2 n.2.2.2)

def rowSpareStatus : PsmRow := ⟨0x0502, true, .none, fun _ _ => 0, 192⟩

def spareStatus (s : State) (_ : Call) : State × Answer := (s, ⟨0, false, [], (List.range 12).flatMap (spareEntry s)⟩)

def execPsmSpareStatus (func ring : Nat) (io : HostIo) (s : State) : Host.Outcome State Fault Refusal :=
  done (withCmd rowSpareStatus (fun _ => true) func ring io spareStatus s)

def rowSelftestPolicy : PsmRow := ⟨0x0503, true, .module, fun _ _ => 0, 0⟩

def selftestPolicy (s : State) (c : Call) : State × Answer :=
  let ms := c.par 2 2
  let b := c.par 4 2
  if ms < 100 || 60000 < ms || (575 < b && b != 0xFFFF) then (s, refuseA 0x0271)
  else
    let s := { s with self := { s.self with flags := c.par 0 1 % 32, interval := ms } }
    (if b = 0xFFFF then s else requestTest s b, okA)

def execPsmSelftestPolicy (func ring : Nat) (io : HostIo) (s : State) : Host.Outcome State Fault Refusal :=
  done (withCmd rowSelftestPolicy (fun _ => true) func ring io selftestPolicy s)

end Sys2Proof.Machine
end

