-- ==== Sys2Proof/Machine/PsmFw.lean ====
section
/-! DEFINITION. Psiam: firmware staging (R512, R577, R578, R581 to R583), the control channel (R584, R585) and activation (R513, R586, R589). -/

namespace Sys2Proof.Machine

/-! ## Staging -/

/-- Chunk count of the staged image; 0 without a header. -/
def stagedChunks (s : State) : Nat := (s.fw.hdr.map fwChunks).getD 0

/-- Bytes of chunk i of an image with a header (R578). -/
def chunkLen (h : List Byte) (i : Nat) : Nat := min 65536 (fwSize h - 65536 * i)

/-- Why a chunk is refused: status and RESULT byte 0 (R512). -/
def chunkRefusal (s : State) (i : Nat) (d : List Byte) : Option (Nat × Nat) :=
  let h := if i = 0 then padTo 0 512 (d.take 512) else s.fw.hdr.getD []
  let code := headerCode s.boot.floor h
  if s.fw.op.isSome then some (0x0283, 0)
  else if i = 0 && code != 0 then some (0x0280, code)
  else if i != 0 && s.fw.hdr.isNone then some (0x0281, 0)
  else if fwChunks h ≤ i || d.length != chunkLen h i then some (0x0282, 0)
  else none

/-- Stage a chunk: a chunk 0 with another header discards what is staged (R512). FW_STAGED goes to a function and to the PF when the last
missing chunk arrives (R514). -/
def stageChunk (s : State) (f i : Nat) (d : List Byte) : State :=
  let h := padTo 0 512 (d.take 512)
  let s := if i = 0 && s.fw.hdr != some h then modFw s (fun x => { x with hdr := some h, stage := [], bitmap := [] }) else s
  let had := s.fw.bitmap.length
  let s := modFw s (fun x => { x with stage := Mem.write x.stage (65536 * i) d, bitmap := insertNat x.bitmap i })
  let n := stagedChunks s
  if had < n && s.fw.bitmap.length = n then raiseFunc s f true none 0x0412 [(4, n)] else s

/-- The chunk bitmap: bit i mod 8 of byte i / 8 (R583). -/
def bitmapOut (s : State) : List Byte :=
  (List.range 256).map (fun k => BitVec.ofNat 8 ((List.range 8).foldl (fun n b => n + b2n (s.fw.bitmap.contains (8 * k + b)) * 2 ^ b) 0))

def rowFwChunk : PsmRow := ⟨0x0504, true, .module, fun _ b => min 1 b.length, 0⟩

def fwChunkCmd (s : State) (c : Call) : State × Answer :=
  let i := c.par 0 4
  match chunkRefusal s i c.buf with
  | some (st, code) => (s, ⟨st, false, if st = 0x0280 then toLe 1 code else [], []⟩)
  | none =>
    let s := stageChunk s c.f i c.buf
    (s, ⟨0, false, toLe 4 s.fw.bitmap.length ++ toLe 4 (stagedChunks s), if c.d.outAddr != 0 && 256 ≤ c.d.outLen then bitmapOut s else []⟩)

def execPsmFwChunk (func ring : Nat) (io : HostIo) (s : State) : Host.Outcome State Fault Refusal :=
  done (withCmd rowFwChunk (fun _ => true) func ring io fwChunkCmd s)

/-! ## The control channel (R584, R585) -/

/-- A datagram that R584 accepts from a port: header, body and CRC-32C whole. -/
def datagramOk (s : State) (port mac : Nat) (d : List Byte) : Bool :=
  let n := fieldBe d 0x14 2
  s.boot.ready && bit (fieldLe (getSite s port).entry 1 1) 0 && s.board.peers.any (fun e => e.2 == mac)
    && fieldBe d 0 2 == 0x4757 && fieldBe d 2 1 == 1 && decide (fieldBe d 8 1 ≤ 7 ∧ 1 ≤ n ∧ n ≤ 8192) && d.length == 36 + n
    && crc32c (d.take (32 + n)) == fieldBe d (32 + n) 4

/-- The header that a datagram's chunk belongs to: the staged one; without one, that of chunk 0 once its first piece is here. -/
def datagramHeader (s : State) (pieces : Tab (List Byte)) : Option (List Byte) :=
  match s.fw.hdr with
  | some h => some h
  | none => (Tab.find pieces 0).map (fun d => padTo 0 512 (d.take 512))

/-- Whether the staged header lets a datagram's piece in (R585). -/
def pieceFits (s : State) (d : List Byte) : Bool :=
  let i := fieldBe d 4 4
  match s.fw.hdr with
  | none => i == 0
  | some h => (d.drop 0xC).take 8 == (h.drop 0x80).take 8 && decide (i < fwChunks h) && fieldBe d 0x14 2 == min 8192 (chunkLen h i - 8192 * fieldBe d 8 1)

/-- Put a piece into its assembly; a seventeenth chunk takes the place of the one that has waited longest. -/
def addPiece (s : State) (i p : Nat) (d : List Byte) : State :=
  modFw s (fun x =>
    if x.asm.any (fun e => e.1 == i) then { x with asm := x.asm.map (fun e => if e.1 = i then (i, Tab.set e.2 p d) else e) }
    else { x with asm := (if 16 ≤ x.asm.length then x.asm.drop 1 else x.asm) ++ [(i, [(p, d)])] })

/-- Stage a chunk whose pieces have all landed, as if by PSM_FW_CHUNK; a chunk 0 that fails R581 is discarded. -/
def stageAssembly (s : State) (i : Nat) : State :=
  match s.fw.asm.find? (fun e => e.1 == i) with
  | none => s
  | some e =>
    match datagramHeader s e.2 with
    | none => s
    | some h =>
      let n := chunkLen h i
      let rest := fun (s : State) => modFw s (fun x => { x with asm := x.asm.filter (fun a => a.1 != i) })
      if headerCode s.boot.floor h != 0 then rest s
      else if (List.range (ceilDiv n 8192)).any (fun p => (Tab.find e.2 p).isNone) then s
      else
        let d := (List.range (ceilDiv n 8192)).flatMap (fun p => Tab.get [] e.2 p)
        if (chunkRefusal s i d).isSome then rest s else stageChunk (rest s) 0 i d

/-- A firmware datagram arrives on a site port from a source MAC address. -/
def doDatagram (port mac : Nat) (d : List Byte) (s : State) : State :=
  let i := fieldBe d 4 4
  if !datagramOk s port mac d || !pieceFits s d || s.fw.op.isSome then s
  else stageAssembly (addPiece s i (fieldBe d 8 1) ((d.drop 32).take (fieldBe d 0x14 2))) i

def execFwDatagramReceive (port mac : Nat) (data : List Byte) (s : State) : Host.Outcome State Fault Refusal := done (doDatagram port mac data s)

/-! ## Activation (R513, R586, R589) -/

def rowFwActivate : PsmRow := ⟨0x0505, true, .module, fun _ _ => 0, 0⟩

def fwActivate (s : State) (c : Call) : State × Answer :=
  if s.fw.op.isSome then (s, refuseA 0x0283)
  else if stagedChunks s = 0 || s.fw.bitmap.length < stagedChunks s then (s, refuseA 0x0284)
  else (modFw s (fun x => { x with op := some c.ref }), longA)

def execPsmFwActivate (func ring : Nat) (io : HostIo) (s : State) : Host.Outcome State Fault Refusal :=
  done (withCmd rowFwActivate (fun _ => true) func ring io fwActivate s)

/-- The image as it goes into the slot: sections of an encrypted one decrypted, and its flag cleared; none where the key slot does not
serve (R586). The recovery ROM takes no encrypted image (R589). -/
def slotImage (s : State) (h : List Byte) : Option Mem :=
  if !fwEncrypted h then some s.fw.stage
  else
    let n := fwKeySlot h
    let k := getSlot s n
    let key := keyFor k (bit ((fwNonce h).getD 0 0).toNat 7)
    if s.boot.st = 3 || k.st != 1 || k.use != 6 then none
    else key.map (fun key =>
      let d := Mem.read s.fw.stage 0x200 (fwSize h - 0x200)
      Mem.write (Mem.write s.fw.stage 0x200 (storeRun s false 6 key (fwNonce h) d)) 9 [BitVec.ofNat 8 (fwFlags h - 4)])

/-- End an activation with a status. -/
def endActivation (s : State) (r : LongRef) (status : Nat) : State := longDone (modFw s (fun x => { x with op := none })) r status

/-- Verification and the slot write end. The erased header of step 5 lets no start choose the target slot, so a mark on it goes with it; `mismatch` says that the slot read back differs from what was written. -/
def doActivateEnd (mismatch : Bool) (s : State) : State :=
  match s.fw.op, s.fw.hdr with
  | some r, some h =>
    if !sectionsOk s.fw.stage || !imageOk s s.fw.stage then endActivation s r 0x0285
    else match slotImage s h with
      | none => endActivation s r 0x0253
      | some m =>
        let t := fwTarget s
        let s := if fwEncrypted h then { s with freeCtr := s.freeCtr + fwSize h } else s
        let s := modFw s (fun x => { x with slots := Tab.set x.slots t m, hdrs := x.hdrs.filter (· != t), mark := x.mark.filter (· != t) })
        if mismatch then endActivation s r 0x0285
        else
          let s := modFw s (fun x => { x with hdrs := insertNat x.hdrs t, mark := some t })
          let s := if s.boot.st = 3 then modLog s (fun l => { l with fails := Tab.del (Tab.del l.fails 3) 4 }) else s
          endActivation s r 0
  | _, _ => s

def execFwActivateEnd (mismatch : Bool) (s : State) : Host.Outcome State Fault Refusal := done (doActivateEnd mismatch s)

end Sys2Proof.Machine
end

