-- ==== Sys2Proof/Machine/SelfTest.lean ====
section
/-! DEFINITION. A spare at the step boundary (R536), wires and engines that are spared (R537), and self-test in service (R540 to
R554). -/

namespace Sys2Proof.Machine

/-! ## Sparing in service (R536, R537) -/

/-- A bench's partition goes on after a change of its map. -/
def goOnPart (s : State) (p : Option Nat) : State :=
  match p with
  | none => s
  | some p => [2 * p, 2 * p + 1].foldl (fun s jk => if (getJob s jk).phase == .running then goOn s jk else s) s

/-- BENCH_SPARED: at the partition's step boundary. -/
def doBenchSpared (lb : Nat) (s : State) : State := if (getBench s lb).failed then goOnPart (spareBench s lb) (partOfLb s lb) else s

def execBenchSpared (lb : Nat) (s : State) : Host.Outcome State Fault Refusal := done (doBenchSpared lb s)

/-- The UNIT that a wire serves: its own number in the link, or that of the wire it replaces. -/
def wireServes (s : State) (u : Nat) : Option Nat :=
  match s.boot.wires.find? (fun e => e.2 == u) with
  | some e => some e.1
  | none => if u % 1024 < 512 && (Tab.find s.boot.wires u).isNone then some u else none

/-- A wire in use whose error counts of two windows in a row lie above the limit is repaired onto the lowest free spare wire of its
link and direction. -/
def doWireSpared (u errs0 errs1 : Nat) (s : State) : State :=
  let ber := s.boot.qual.2
  if belowLimit ber 36 errs0 || belowLimit ber 36 errs1 then s
  else
    match wireServes s u with
    | none => s
    | some l =>
      match (spareWires s (u / 2048)).find? (fun x => x / 1024 == u / 1024) with
      | none => s
      | some x =>
        let s := modBoot (abandonLink s (7 + u / 2048)) (fun b => { b with wires := Tab.set b.wires l x })
        raiseRepair (noteSpares (repairUnit s 12 u (l % 65536) (some x) 0)) none 0x0434 12 u (l % 65536) []

def execWireSpared (wire errs0 errs1 : Nat) (s : State) : Host.Outcome State Fault Refusal := done (doWireSpared wire errs0 errs1 s)

/-- Usable engines that serve no position, ascending. -/
def freeEngines (s : State) : List Nat :=
  (List.range 10).filter (fun e => !s.boot.engines.any (fun x => x.2 == e) && !unusable s (unitKey 7 e))

/-- A compression engine fails: the lowest free spare takes its position; the block in hand is coded again. -/
def doEngineSpared (pos : Nat) (s : State) : State :=
  match Tab.find s.boot.engines pos, (freeEngines s).head? with
  | some e, some x =>
    let s := modBoot s (fun b => { b with engines := Tab.set b.engines pos x })
    raiseRepair (noteSpares (repairUnit s 7 e pos (some x) 0)) none 0x0433 7 e pos []
  | _, _ => s

def execEngineSpared (position : Nat) (s : State) : Host.Outcome State Fault Refusal := done (doEngineSpared position s)

/-! ## The tick (R540 to R542) -/

/-- A self-test event with its EVENT record: class, UNIT, logical number (0xFFFF where none applies), failing segment or item. -/
def raiseTest (s : State) (p : Option Nat) (code cls unit : Nat) (logical : Option Nat) (item : Nat) : State :=
  raiseRepair s p code cls unit (logical.getD 0xFFFF) [(4, item)]

/-- The logical bench that a physical bench serves. -/
def lbOfPb (s : State) (pb : Nat) : Option Nat := (s.boot.phys.find? (fun e => e.2 == pb)).map Prod.fst

/-- The next bench to slice, and what is left: a requested one first, then the sweep's next (R541). -/
def chooseBench (s : State) : State × Option (Nat × Bool) :=
  match s.self.reqs.find? (fun lb => (Tab.find s.boot.phys lb).any (fun pb => sweepUsable s 0 pb)) with
  | some lb => (modSelf s (fun x => { x with reqs := x.reqs.filter (· != lb) }), (Tab.find s.boot.phys lb).map (fun pb => (pb, false)))
  | none =>
    let s := closeSweep s 0
    match nextUnit s 0 with
    | some pb => (modSweep s 0 (fun w => { w with next := pb + 1 }), some (pb, true))
    | none => (s, none)

/-- Start a bench's turn: one that serves no logical bench is sliced at once, another waits for its tile boundary (R544). -/
def beginBench (s : State) (pb : Nat) (swept : Bool) : State :=
  if (lbOfPb s pb).isSome then modSelf s (fun x => { x with line := some (pb, now s, swept), parts := x.flags })
  else modSelf s (fun x => { x with line := none, slice := some (pb, none), parts := x.flags })

/-- The bench slice of a tick. A bench that found no boundary within the interval is counted in SKIPPED and stays first in line. -/
def tickBench (s : State) : State :=
  let f := s.self.flags
  if !(bit f 0 && (bit f 1 || bit f 2)) || s.self.slice.isSome then s
  else
    let fresh := fun (s : State) => match chooseBench s with | (s, some (pb, w)) => beginBench s pb w | (s, none) => s
    match s.self.line with
    | none => fresh s
    | some (pb, _, w) => if sweepUsable s 0 pb then beginBench (countSkipped s 0) pb w else fresh (closeSweep (modSelf s (fun x => { x with line := none })) 0)

/-- Withdraw a core (R551): the free spare takes its place, or its position stays empty; a slice of the free spare withdraws nothing.
The zeroiser clears the core. -/
def withdrawCore (s : State) (c : Nat) : State :=
  let clear := fun (s : State) (p : Nat) => modCipher s (fun x => { x with testing := some (c, p), cleared := insertNat x.cleared c })
  match s.cipher.place.find? (fun e => e.2 == c) with
  | none => clear s 12
  | some e =>
    match s.cipher.spare with
    | some x => clear (raisePf (modCipher s (fun q => { q with place := Tab.set q.place e.1 x, spare := none })) 0x03C0 (sourceId s srcMp) [(1, e.1), (1, c), (1, x)]) e.1
    | none =>
      let full := s.cipher.place.length = 12
      let s := modCipher s (fun q => { q with place := Tab.del q.place e.1 })
      clear (raisePf (if full then fireErr s 6 else s) 0x03C1 (sourceId s srcMp) [(1, e.1), (1, c)]) e.1

/-- The cipher slice of a tick. -/
def tickCipher (s : State) : State :=
  let f := s.self.flags
  if !(bit f 0 && bit f 3) || s.cipher.testing.isSome || s.boot.cipherSkip then s
  else
    match s.cipher.testDue.find? (sweepUsable s 1) with
    | some c => withdrawCore (modCipher s (fun x => { x with testDue := x.testDue.filter (· != c) })) c
    | none =>
      let s := closeSweep s 1
      match nextUnit s 1 with
      | some c => withdrawCore (modSweep s 1 (fun w => { w with next := c + 1 })) c
      | none => s

/-- The link slice of a tick; `peer` says whether the module at the other end of a board port takes part (R552). -/
def tickLink (peer : Bool) (s : State) : State :=
  let f := s.self.flags
  if !(bit f 0 && bit f 4) || s.self.link.isSome then s
  else
    let s := closeSweep s 2
    match nextUnit s 2 with
    | none => s
    | some u =>
      let s := modSweep s 2 (fun w => { w with next := u + 1 })
      if u < 7 && !peer then closeSweep (countSkipped s 2) 2 else modSelf s (fun x => { x with link := some u })

/-- A tick, every INTERVAL_MS: the slices of the classes that are enabled start. -/
def doTick (peer : Bool) (s : State) : State :=
  match s.self.nextTick with
  | none => s
  | some t =>
    if now s < t then s
    else tickLink peer (tickCipher (tickBench (modSelf s (fun x => { x with nextTick := some (t + x.interval * 1000000) }))))

def execSelftestTick (peer : Bool) (s : State) : Host.Outcome State Fault Refusal := done (doTick peer s)

/-- While bench slices are disabled, the corrected-error counts start again every 1,280 s from READY (R543). -/
def doCountRestart (s : State) : State :=
  let x := s.self
  let d := now s - x.counted
  if s.boot.ready && !(bit x.flags 0 && (bit x.flags 1 || bit x.flags 2)) && 1280000000000 ≤ d then
    restartCounts (modSelf s (fun x => { x with counted := x.counted + d / 1280000000000 * 1280000000000 }))
  else s

def execCorrectedCountRestart (s : State) : Host.Outcome State Fault Refusal := done (doCountRestart s)

/-! ## The bench slice (R544 to R550) -/

/-- Deal a task that moves at a withdrawal: over its station's group by the rotating rule; a chained or a lockstep task by its own
rule of R88. REISSUE stays as it is. -/
def dealMoved (s : State) (jk : Nat) (t : Task) : State :=
  if taskCont t || taskLockstep t then dealTask s jk t
  else
    match stationOf s jk t.station with
    | none => s
    | some st =>
      let g := (presentGroup s (jk / 2) st).filter (fun lb => dealable s lb && queueRoom s jk lb)
      match rotatePick 576 (Tab.get 0 (getJob s jk).groupPtr t.station) (fun lb => g.contains lb) with
      | some lb => bumpGroup (enqueue s jk lb t) jk t.station lb
      | none => waitTask s jk t none

/-- A bench is in a lockstep pair of some station. -/
def inPair (s : State) (lb : Nat) : Bool :=
  match partOfLb s lb with
  | none => false
  | some p => [2 * p, 2 * p + 1].any (fun jk => (getJob s jk).pairs.any (fun e => e.2.any (fun q => q.1 == lb || q.2 == lb)))

/-- Whether a bench stands at a tile boundary at which it may be withdrawn (R544); `boundary` says that its partition stands at a
step boundary. -/
def mayWithdraw (s : State) (lb : Nat) (boundary : Bool) : Bool :=
  let b := getBench s lb
  dealable s lb && (b.c0.running.isNone || b.c0.frozen) && (b.c1.running.isNone || b.c1.frozen) && !b.c0.accLive && !b.c1.accLive
    && b.votes.isEmpty && (boundary || !inPair s lb)

/-- The queued tasks of one context move away. -/
def moveQueue (s : State) (lb c : Nat) : State :=
  match jobOf s lb c with
  | none => s
  | some jk =>
    let (s, others) := breakPairs s jk lb
    let q := (getCtx s lb c).queue
    (q ++ others).foldl (fun s t => dealMoved s jk t) (modCtx s lb c (fun x => { x with queue := [] }))

/-- BENCH_WITHDRAW: the bench first in line is withdrawn, within the interval of its tick. -/
def doWithdraw (boundary : Bool) (s : State) : State :=
  match s.self.line with
  | none => s
  | some (pb, t, _) =>
    match lbOfPb s pb with
    | none => s
    | some lb =>
      if s.self.slice.isSome || !mayWithdraw s lb boundary || t + s.self.interval * 1000000 < now s then s
      else
        let s := modSelf s (fun x => { x with line := none, slice := some (pb, some lb), saved := insertNat x.saved lb })
        let s := redealGranted (modBench s lb (fun b => { b with withdrawn := true })) lb id
        goOnPart (moveQueue (moveQueue s lb 0) lb 1) (partOfLb s lb)

def execBenchWithdraw (boundary : Bool) (s : State) : Host.Outcome State Fault Refusal := done (doWithdraw boundary s)

/-- The bench that a slice finds faulty: a logical bench fails in service; one that serves none takes a soft entry only (R549). -/
def failSliced (s : State) (pb : Nat) (lb : Option Nat) (cause item : Nat) : State :=
  let p := lb.bind (partOfLb s)
  let s := match lb with | some l => failBench s l cause [] | none => s
  noteSpares (softEntry (raiseTest s p 0x0440 0 pb lb item) (unitKey 0 pb))

/-- One failing row of the march (R550): a row in use is retired, a spare row takes a soft entry; a bank that would need a third
spare row fails the bench. Answers whether the bench still stands. -/
def marchRow (s : State) (pb : Nat) (lb : Option Nat) (bank row : Nat) : State × Bool :=
  let unit := rowUnit pb bank row
  if unusable s (unitKey 1 unit) then (s, true)
  else
    let full := bankFull s pb bank
    let p := lb.bind (partOfLb s)
    let s := noteSpares (repairOut (raiseTest s p 0x0440 1 unit lb unit) 1 unit 5)
    if full then (failSliced s pb lb 3 unit, false)
    else if 256 ≤ row then (s, true)
    else
      match lb with
      | none => (raisePf s 0x0312 (sourceId s srcMp) (rowItems 0xFFFF none), true)
      | some l =>
        let key := bank * 256 + row
        let due := (getBench s l).rowDue.find? (fun r => r.row == key)
        let s := modBench s l (fun b => { b with
          rowDue := b.rowDue.filter (·.row != key), rowErrs := Tab.del b.rowErrs key, sparesUsed := Tab.mod 0 b.sparesUsed bank (· + 1) })
        (raisePart s p 0x0312 (sourceId s l) (rowItems l due), true)

def marchRows (s : State) (pb : Nat) (lb : Option Nat) (rows : List (Nat × Nat)) : State × Bool :=
  match rows with
  | [] => (s, true)
  | r :: rest => match marchRow s pb lb r.1 r.2 with | (s, true) => marchRows s pb lb rest | (s, false) => (s, false)

/-- The restore: the bench rejoins in both contexts (R546). -/
def rejoinBench (s : State) (lb : Nat) : State :=
  let s := modSelf s (fun x => { x with saved := x.saved.filter (· != lb) })
  goOnPart (modBench s lb (fun b => { b with withdrawn := false })) (partOfLb s lb)

/-- BENCH_SLICE_DONE: the scan passed (0), mismatched once at a segment (1) or twice (2); the march, which follows, found rows bad. -/
def doSliceDone (outcome seg : Nat) (rows : List (Nat × Nat)) (s : State) : State :=
  match s.self.slice with
  | none => s
  | some (pb, lb) =>
    let scan := if bit s.self.parts 1 then outcome else 0
    let rows := if bit s.self.parts 2 then rows else []
    let s := modSelf s (fun x => { x with slice := none })
    let s := if scan = 1 then raiseTest s (lb.bind (partOfLb s)) 0x0441 0 pb lb seg else s
    let (s, stands) := if 2 ≤ scan then (failSliced s pb lb 5 seg, false) else marchRows s pb lb rows
    let s := match lb with | some l => if stands then rejoinBench s l else s | none => s
    closeSweep (countTested s 0 (2 ≤ scan || !rows.isEmpty)) 0

def execBenchSliceDone (outcome seg : Nat) (rows : List (Nat × Nat)) (s : State) : Host.Outcome State Fault Refusal :=
  done (doSliceDone outcome seg rows s)

/-! ## Cipher and link slices (R551, R552) -/

/-- A core returns to the position it left; the spare that stood in is free again. -/
def returnCore (s : State) (c p : Nat) : State :=
  if 12 ≤ p then s
  else modCipher s (fun x => { x with
    place := Tab.set x.place p c, spare := match Tab.find x.place p with | some y => some y | none => x.spare })

/-- CIPHER_SLICE_DONE: passed (0), a mismatch that did not repeat (1), or one that did (2), which makes the core unusable. -/
def doCipherDone (outcome seg : Nat) (s : State) : State :=
  match s.cipher.testing with
  | none => s
  | some (c, p) =>
    let at' := if p < 12 then some p else none
    let s := returnCore (modCipher s (fun x => { x with testing := none })) c p
    let s := if outcome = 1 then raiseTest s none 0x0441 6 c at' seg else s
    let s := if 2 ≤ outcome then dropCore (raiseTest s none 0x0440 6 c at' seg) c else s
    closeSweep (countTested s 1 (2 ≤ outcome)) 1

def execCipherSliceDone (outcome seg : Nat) (s : State) : Host.Outcome State Fault Refusal := done (doCipherDone outcome seg s)

/-- A spare that fails its test takes a soft entry and leaves the spares (R552). -/
def failSpare (s : State) (u f : Nat) : State :=
  let out := fun (s : State) (cls unit : Nat) => noteSpares (softEntry (raiseTest s none 0x0440 cls unit none u) (unitKey cls unit))
  if u < 7 then
    (if (getPort s u).spare.contains f then out (modPort s u (fun p => { p with spare := p.spare.filter (· != f) })) 4 (laneUnit u f) else s)
  else if u < 15 then (if (spareWires s (u - 7)).contains f then out s 12 f else s)
  else out (modSite s 8 (fun p => { p with trained := false })) 5 8

/-- LINK_SLICE_DONE, with the spares that failed: lanes of the port, wires by UNIT, or SP8. -/
def doLinkDone (fails : List Nat) (s : State) : State :=
  match s.self.link with
  | none => s
  | some u =>
    let s := fails.foldl (fun s f => failSpare s u f) (modSelf s (fun x => { x with link := none }))
    closeSweep (countTested s 2 (!fails.isEmpty)) 2

def execLinkSliceDone (fails : List Nat) (s : State) : Host.Outcome State Fault Refusal := done (doLinkDone fails s)

end Sys2Proof.Machine
end

