-- ==== Sys2Proof/Machine/Takeover.lean ====
section
/-! DEFINITION. The standby MP pair takes over (R478, R537, R553, R563, R587), and the test access port (R416, R618). -/

namespace Sys2Proof.Machine

/-! ## MP_SWITCHED -/

/-- A completion that waits ends with CMD_ABORTED (R478). -/
def abortHeld (r : Ring) : Ring := { r with heldCq := r.heldCq.map (fun c => { c with status := 7 }) }

/-- Every started and unfinished command of every mailbox ends with CMD_ABORTED. -/
def abortCommands (s : State) : State :=
  { s with host := { s.host with funcs := Tab.mapAll s.host.funcs (fun _ f => { f with ring0 := abortHeld f.ring0, ring1 := abortHeld f.ring1 }) } }

/-- The long commands of one job end: a BOUNDARY stop, a pause, and a re-shard, which is abandoned (R327, R478). -/
def abortJob (s : State) (jk : Nat) : State :=
  let s := match (getJob s jk).stopping with
    | some r => longDone (modJob s jk (fun j => { j with stopping := none })) r 7
    | none => s
  let s := match (getJob s jk).pausing with
    | some r => longDone (modJob s jk (fun j => { j with pausing := none })) r 7
    | none => s
  match (getJob s jk).reshard with
  | some r =>
    if r.missing.isNone then
      longDone (raisePart (modJob s jk (fun j => { j with reshard := none })) (some (jk / 2)) 0x0392 (sourceId s srcMp) [(4, r.epoch), (4, r.step)]) r.reply 7
    else s
  | none => s

/-- A path removal ends. -/
def abortPath (s : State) : State :=
  match s.board.leaving with
  | some (_, r) => longDone { s with board := { s.board with leaving := none } } r 7
  | none => s

/-- An activation ends with neither slot marked (R478); `writing` says that it had reached its step 5 (R587). -/
def abortActivation (s : State) (writing : Bool) : State :=
  match s.fw.op with
  | some r => let s := cutActivation s writing; longDone (modFw s (fun f => { f with mark := none })) r 7
  | none => s

/-- Slices under way are abandoned, and the bench restored from its save area without a test (R553). -/
def abandonSlices (s : State) : State :=
  let s := match s.self.slice with
    | some (_, lb) =>
      let s := modSelf s (fun x => { x with slice := none })
      let s := match lb with | some l => if (getBench s l).failed then s else rejoinBench s l | none => s
      closeSweep (countAbandoned s 0) 0
    | none => s
  let s := match s.cipher.testing with
    | some (c, p) => closeSweep (countAbandoned (returnCore (modCipher s (fun x => { x with testing := none })) c p) 1) 1
    | none => s
  match s.self.link with
  | some u => abandonLink s u
  | none => s

/-- MP_SWITCHED: the pair disagrees, and a usable standby pair takes over from the saved Psiam state (R537). -/
def doMpSwitched (writing : Bool) (s : State) : State :=
  if s.host.mpStandby || unusable s (unitKey 8 1) || s.boot.halted then s
  else
    let s := { s with host := { s.host with mpStandby := true } }
    let s := noteSpares (repairUnit s 8 0 0 (some 1) 0)
    let s := fireErr (raisePf (eventRecord s 0x0406 []) 0x0406 (sourceId s srcMp) []) 8
    let s := [0, 1, 2, 3, 4, 5, 6, 7].foldl abortJob (abortCommands s)
    abandonSlices (abortActivation (abortPath (abandonCkpt s 7)) writing)

def execMpSwitched (writing : Bool) (s : State) : Host.Outcome State Fault Refusal := done (doMpSwitched writing s)

/-! ## The test access port (R618) -/

def modJtag (s : State) (f : JtagSt → JtagSt) : State := { s with jtag := f s.jtag }

/-- IDCODE: version 0xB, part number 0x0A09, the manufacturer identity, 1. -/
def idCode : Nat := 0xB * 2 ^ 28 + 0x0A09 * 2 ^ 12 + Config.jedecId.toNat * 2 + 1

/-- The boundary cells drive the sideband lands: EXTEST is loaded and PERST# is low. -/
def extestDrives (s : State) : Bool := s.jtag.ir == .extest && s.power.perst

/-- BYPASS: one bypass bit, which captures 0. -/
def execJtagBypass (s : State) : Host.Outcome State Fault Refusal := done (modJtag s (fun j => { j with ir := .bypass, tdo := some 0 }))

def execJtagIdcode (s : State) : Host.Outcome State Fault Refusal := done (modJtag s (fun j => { j with ir := .idcode, tdo := some idCode }))

/-- SAMPLE/PRELOAD: TDO gives what the sideband lands show, and the boundary cells take the preloaded values. -/
def execJtagSamplePreload (lands cells : Nat) (s : State) : Host.Outcome State Fault Refusal :=
  done (modJtag s (fun j => { j with ir := .sample, tdo := some lands, cells := cells }))

/-- EXTEST while PERST# is low; otherwise it acts as BYPASS. -/
def execJtagExtest (cells : Nat) (s : State) : Host.Outcome State Fault Refusal :=
  done (if s.power.perst then modJtag s (fun j => { j with ir := .extest, cells := cells, tdo := none }) else modJtag s (fun j => { j with ir := .bypass, tdo := some 0 }))

/-- Every processor stops; mailboxes are served no more; board ports and site ports are down. -/
def haltModule (s : State) : State :=
  let stop := fun (x : BCtx) => { stopCtx x with running := none, queue := [] }
  { s with
    benches := Tab.mapAll s.benches (fun _ b => { b with c0 := stop b.c0, c1 := stop b.c1, votes := [], steal := none })
    board := { s.board with
      ports := Tab.mapAll s.board.ports (fun _ p => if carries p then { p with st := .down } else p)
      sites := Tab.mapAll s.board.sites (fun _ p => { p with st := .down }) }
    boot := { s.boot with halted := true } }

/-- A private scan instruction: every secret is cleared first, KEYS_CLEARED is raised, and the module stops (R416, R618). -/
def doPrivateScan (s : State) : State := modJtag (haltModule (clearKeys s)) (fun j => { j with ir := .scan, tdo := none })

def execJtagPrivateScan (s : State) : Host.Outcome State Fault Refusal := done (doPrivateScan s)

/-- TRST# low: Test-Logic-Reset. -/
def execTestLogicReset (s : State) : Host.Outcome State Fault Refusal := done (modJtag s (fun j => { j with ir := .reset, tdo := none }))

end Sys2Proof.Machine
end

