-- ==== Sys2Proof/Machine/Dispatch.lean ====
section
/-! DEFINITION. One arm per command: a direct call of its meaning, or a refusal by name. -/

namespace Sys2Proof.Machine

def exec (i : Instr) (s : State) : Host.Outcome State Fault Refusal :=
  match i with
  | .perstDeassert slot => Sys2Proof.Machine.execPerstDeassert slot s
  | .perstAssert writing => Sys2Proof.Machine.execPerstAssert writing s
  | .inputAuxStart mv => Sys2Proof.Machine.execInputAuxStart mv s
  | .inputAuxStop mv => Sys2Proof.Machine.execInputAuxStop mv s
  | .pwrEnRise => Sys2Proof.Machine.execPwrEnRise s
  | .conversionStart mv plate => Sys2Proof.Machine.execConversionStart mv plate s
  | .pwrEnFall => Sys2Proof.Machine.execPwrEnFall s
  | .pwrEnLowRelease => Sys2Proof.Machine.execPwrEnLowRelease s
  | .railOutOfRegulation => Sys2Proof.Machine.execRailOutOfRegulation s
  | .inputOutOfRange mv => Sys2Proof.Machine.execInputOutOfRange mv s
  | .inputFaultStop mv => Sys2Proof.Machine.execInputFaultStop mv s
  | .thermtrip temp => Sys2Proof.Machine.execThermtrip temp s
  | .regPhaseFault phase => Sys2Proof.Machine.execRegPhaseFault phase s
  | .governorTick g => Sys2Proof.Machine.execGovernorTick g s
  | .coreCurrentTrip => Sys2Proof.Machine.execCoreCurrentTrip s
  | .droopDetect face => Sys2Proof.Machine.execDroopDetect face s
  | .clockRefLost => Sys2Proof.Machine.execClockRefLost s
  | .refclkReturn => Sys2Proof.Machine.execRefclkReturn s
  | .wearBinHour => Sys2Proof.Machine.execWearBinHour s
  | .coolantInletRange temp => Sys2Proof.Machine.execCoolantInletRange temp s
  | .jtagBypass => Sys2Proof.Machine.execJtagBypass s
  | .jtagIdcode => Sys2Proof.Machine.execJtagIdcode s
  | .jtagSamplePreload lands cells => Sys2Proof.Machine.execJtagSamplePreload lands cells s
  | .jtagExtest cells => Sys2Proof.Machine.execJtagExtest cells s
  | .jtagPrivateScan => Sys2Proof.Machine.execJtagPrivateScan s
  | .clearFaults => Sys2Proof.Machine.execClearFaults s
  | .statusWord => Sys2Proof.Machine.execStatusWord s
  | .statusInput => Sys2Proof.Machine.execStatusInput s
  | .statusTemperature => Sys2Proof.Machine.execStatusTemperature s
  | .readVin => Sys2Proof.Machine.execReadVin s
  | .readIin => Sys2Proof.Machine.execReadIin s
  | .readTemperature1 => Sys2Proof.Machine.execReadTemperature1 s
  | .readTemperature2 => Sys2Proof.Machine.execReadTemperature2 s
  | .readTemperature3 => Sys2Proof.Machine.execReadTemperature3 s
  | .readPin => Sys2Proof.Machine.execReadPin s
  | .pmbusRevision => Sys2Proof.Machine.execPmbusRevision s
  | .mfrId => Sys2Proof.Machine.execMfrId s
  | .mfrModel => Sys2Proof.Machine.execMfrModel s
  | .mfrPowerCap write => Sys2Proof.Machine.execMfrPowerCap write s
  | .mfrGovState => Sys2Proof.Machine.execMfrGovState s
  | .mfrWear => Sys2Proof.Machine.execMfrWear s
  | .mfrStackTemps => Sys2Proof.Machine.execMfrStackTemps s
  | .mfrPhases => Sys2Proof.Machine.execMfrPhases s
  | .mfrBoostEn write => Sys2Proof.Machine.execMfrBoostEn write s
  | .pmbusUnsupported code => Sys2Proof.Machine.execPmbusUnsupported code s
  | .registerWrite func bar off size val => Sys2Proof.Machine.execRegisterWrite func bar off size val s
  | .errSummaryW1c val => Sys2Proof.Machine.execErrSummaryW1c val s
  | .cmdqDoorbellWrite func ring pi => Sys2Proof.Machine.execCmdqDoorbellWrite func ring pi s
  | .ringEnableWrite func which val => Sys2Proof.Machine.execRingEnableWrite func which val s
  | .cqHeadWrite func ring head => Sys2Proof.Machine.execCqHeadWrite func ring head s
  | .evqHeadWrite func head fails => Sys2Proof.Machine.execEvqHeadWrite func head fails s
  | .evqLostW1c func val => Sys2Proof.Machine.execEvqLostW1c func val s
  | .apertureWrite func val => Sys2Proof.Machine.execApertureWrite func val s
  | .bar4Read func off len => Sys2Proof.Machine.execBar4Read func off len s
  | .bar4Write func off data => Sys2Proof.Machine.execBar4Write func off data s
  | .mpRingService func ring descs fails => Sys2Proof.Machine.execMpRingService func ring descs fails s
  | .msixCoalTimer func queue => Sys2Proof.Machine.execMsixCoalTimer func queue s
  | .mpSwitched writing => Sys2Proof.Machine.execMpSwitched writing s
  | .partResetRefusalReceive dst tag type body => Sys2Proof.Machine.execPartResetRefusalReceive dst tag type body s
  | .partResetFrameRetry => Sys2Proof.Machine.execPartResetFrameRetry s
  | .jobClosedReceive src tag => Sys2Proof.Machine.execJobClosedReceive src tag s
  | .psmIdentify func ring io => Sys2Proof.Machine.execPsmIdentify func ring io s
  | .psmPartConfig func ring io => Sys2Proof.Machine.execPsmPartConfig func ring io s
  | .psmPageAssign func ring io => Sys2Proof.Machine.execPsmPageAssign func ring io s
  | .psmPageRelease func ring io => Sys2Proof.Machine.execPsmPageRelease func ring io s
  | .psmMasterThaw func ring io => Sys2Proof.Machine.execPsmMasterThaw func ring io s
  | .psmPartitionReset func ring io => Sys2Proof.Machine.execPsmPartitionReset func ring io s
  | .psmPathSet func ring io => Sys2Proof.Machine.execPsmPathSet func ring io s
  | .pathRemoveDone => Sys2Proof.Machine.execPathRemoveDone s
  | .psmJobOpen func ring io => Sys2Proof.Machine.execPsmJobOpen func ring io s
  | .psmWorkingsLoad func ring io => Sys2Proof.Machine.execPsmWorkingsLoad func ring io s
  | .psmJobRun func ring io => Sys2Proof.Machine.execPsmJobRun func ring io s
  | .psmJobStopBoundary func ring io => Sys2Proof.Machine.execPsmJobStopBoundary func ring io s
  | .jobStopBoundaryDone job => Sys2Proof.Machine.execJobStopBoundaryDone job s
  | .psmJobStopNow func ring io => Sys2Proof.Machine.execPsmJobStopNow func ring io s
  | .psmJobPause func ring io => Sys2Proof.Machine.execPsmJobPause func ring io s
  | .psmJobResume func ring io => Sys2Proof.Machine.execPsmJobResume func ring io s
  | .psmReplicaRemove func ring io => Sys2Proof.Machine.execPsmReplicaRemove func ring io s
  | .psmReplicaReadmit func ring io => Sys2Proof.Machine.execPsmReplicaReadmit func ring io s
  | .psmReshard func ring io => Sys2Proof.Machine.execPsmReshard func ring io s
  | .psmRoundPolicy func ring io => Sys2Proof.Machine.execPsmRoundPolicy func ring io s
  | .psmSiteAdmit func ring io => Sys2Proof.Machine.execPsmSiteAdmit func ring io s
  | .psmKeyInstall func ring io => Sys2Proof.Machine.execPsmKeyInstall func ring io s
  | .psmKeyInstallNext func ring io => Sys2Proof.Machine.execPsmKeyInstallNext func ring io s
  | .psmKeyActivate func ring io => Sys2Proof.Machine.execPsmKeyActivate func ring io s
  | .psmKeyErase func ring io => Sys2Proof.Machine.execPsmKeyErase func ring io s
  | .psmKeyModuleKey func ring io => Sys2Proof.Machine.execPsmKeyModuleKey func ring io s
  | .psmCheckpointConfig func ring io ans => Sys2Proof.Machine.execPsmCheckpointConfig func ring io ans s
  | .psmCheckpointSave func ring io ans => Sys2Proof.Machine.execPsmCheckpointSave func ring io ans s
  | .psmCheckpointRestore func ring io ans => Sys2Proof.Machine.execPsmCheckpointRestore func ring io ans s
  | .psmCheckpointDiscard func ring io ans => Sys2Proof.Machine.execPsmCheckpointDiscard func ring io ans s
  | .psmCheckpointQuery func ring io ans => Sys2Proof.Machine.execPsmCheckpointQuery func ring io ans s
  | .psmExportShardExport func ring io faulty => Sys2Proof.Machine.execPsmExportShardExport func ring io faulty s
  | .psmExportShardImport func ring io => Sys2Proof.Machine.execPsmExportShardImport func ring io s
  | .psmCopyToDevice func ring io => Sys2Proof.Machine.execPsmCopyToDevice func ring io s
  | .psmCopyToHost func ring io => Sys2Proof.Machine.execPsmCopyToHost func ring io s
  | .psmTelemetry func ring io => Sys2Proof.Machine.execPsmTelemetry func ring io s
  | .psmSpareStatus func ring io => Sys2Proof.Machine.execPsmSpareStatus func ring io s
  | .psmSelftestPolicy func ring io => Sys2Proof.Machine.execPsmSelftestPolicy func ring io s
  | .psmFwChunk func ring io => Sys2Proof.Machine.execPsmFwChunk func ring io s
  | .psmFwActivate func ring io => Sys2Proof.Machine.execPsmFwActivate func ring io s
  | .fwActivateEnd mismatch => Sys2Proof.Machine.execFwActivateEnd mismatch s
  | .fwDatagramReceive port mac data => Sys2Proof.Machine.execFwDatagramReceive port mac data s
  | .bootStepPower mv bad us => Sys2Proof.Machine.execBootStepPower mv bad us s
  | .bootStepClock locks ns us => Sys2Proof.Machine.execBootStepClock locks ns us s
  | .bootStepFuse fuseOk crcA crcB us => Sys2Proof.Machine.execBootStepFuse fuseOk crcA crcB us s
  | .bootStepRom agree us => Sys2Proof.Machine.execBootStepRom agree us s
  | .bootStepImage startOk us => Sys2Proof.Machine.execBootStepImage startOk us s
  | .bootStepMemory reach bad ppr us => Sys2Proof.Machine.execBootStepMemory reach bad ppr us s
  | .bootStepFaces badWires noTrain us => Sys2Proof.Machine.execBootStepFaces badWires noTrain us s
  | .bootStepBenchLoad placed bad us => Sys2Proof.Machine.execBootStepBenchLoad placed bad us s
  | .bootStepBenchTest bad rows us => Sys2Proof.Machine.execBootStepBenchTest bad rows us s
  | .bootStepCipher bad ok us => Sys2Proof.Machine.execBootStepCipher bad ok us s
  | .bootStepBoard finds us => Sys2Proof.Machine.execBootStepBoard finds us s
  | .bootStepSite fitted trained us => Sys2Proof.Machine.execBootStepSite fitted trained us s
  | .bootStepTime us => Sys2Proof.Machine.execBootStepTime us s
  | .timeFrameReceive v => Sys2Proof.Machine.execTimeFrameReceive v s
  | .bootStepReady us => Sys2Proof.Machine.execBootStepReady us s
  | .alu lb ctx d a b fn => Sys2Proof.Machine.execAlu lb ctx d a b fn s
  | .addi lb ctx d a imm => Sys2Proof.Machine.execAddi lb ctx d a imm s
  | .orsh lb ctx d imm => Sys2Proof.Machine.execOrsh lb ctx d imm s
  | .ld lb ctx d a imm ecc => Sys2Proof.Machine.execLd lb ctx d a imm ecc s
  | .st lb ctx d a imm => Sys2Proof.Machine.execSt lb ctx d a imm s
  | .beq lb ctx d a imm => Sys2Proof.Machine.execBeq lb ctx d a imm s
  | .bne lb ctx d a imm => Sys2Proof.Machine.execBne lb ctx d a imm s
  | .blt lb ctx d a imm => Sys2Proof.Machine.execBlt lb ctx d a imm s
  | .jmp lb ctx off => Sys2Proof.Machine.execJmp lb ctx off s
  | .mxe lb ctx a b fn => Sys2Proof.Machine.execMxe lb ctx a b fn s
  | .vse lb ctx a b => Sys2Proof.Machine.execVse lb ctx a b s
  | .tput lb ctx a b fn => Sys2Proof.Machine.execTput lb ctx a b fn s
  | .tputSlotGrant job conv => Sys2Proof.Machine.execTputSlotGrant job conv s
  | .tfree lb ctx fn => Sys2Proof.Machine.execTfree lb ctx fn s
  | .wait lb ctx fn => Sys2Proof.Machine.execWait lb ctx fn s
  | .tend lb ctx => Sys2Proof.Machine.execTend lb ctx s
  | .csrr lb ctx d imm => Sys2Proof.Machine.execCsrr lb ctx d imm s
  | .fence lb ctx => Sys2Proof.Machine.execFence lb ctx s
  | .nop lb ctx => Sys2Proof.Machine.execNop lb ctx s
  | .product lb ctx errs pathFault => Sys2Proof.Machine.execProduct lb ctx errs pathFault s
  | .accStore lb ctx => Sys2Proof.Machine.execAccStore lb ctx s
  | .accLoad lb ctx errs => Sys2Proof.Machine.execAccLoad lb ctx errs s
  | .accRelease lb ctx => Sys2Proof.Machine.execAccRelease lb ctx s
  | .vseStream lb ctx errs => Sys2Proof.Machine.execVseStream lb ctx errs s
  | .tileLand job conv home word => Sys2Proof.Machine.execTileLand job conv home word s
  | .stealRequest victim thieves => Sys2Proof.Machine.execStealRequest victim thieves s
  | .stealGrant thief => Sys2Proof.Machine.execStealGrant thief s
  | .stealRefusal thief => Sys2Proof.Machine.execStealRefusal thief s
  | .stealTimeout thief => Sys2Proof.Machine.execStealTimeout thief s
  | .lockstepSignature lb ctx => Sys2Proof.Machine.execLockstepSignature lb ctx s
  | .lockstepVote voter => Sys2Proof.Machine.execLockstepVote voter s
  | .stepBoundary job => Sys2Proof.Machine.execStepBoundary job s
  | .heldTaskRelease job => Sys2Proof.Machine.execHeldTaskRelease job s
  | .jobStepLimitStop job => Sys2Proof.Machine.execJobStepLimitStop job s
  | .benchFailed lb cause => Sys2Proof.Machine.execBenchFailed lb cause s
  | .benchSpared lb => Sys2Proof.Machine.execBenchSpared lb s
  | .spdRowSpared lb row => Sys2Proof.Machine.execSpdRowSpared lb row s
  | .boardTileReceive port tag conv words => Sys2Proof.Machine.execBoardTileReceive port tag conv words s
  | .feedWordReceive chan word payload => Sys2Proof.Machine.execFeedWordReceive chan word payload s
  | .feedBufferDrain chan => Sys2Proof.Machine.execFeedBufferDrain chan s
  | .boardConvBind tag slot peerIndex index slots => Sys2Proof.Machine.execBoardConvBind tag slot peerIndex index slots s
  | .convCreditReceive tag index => Sys2Proof.Machine.execConvCreditReceive tag index s
  | .convHoldReceive tag index => Sys2Proof.Machine.execConvHoldReceive tag index s
  | .convReleaseReceive tag index => Sys2Proof.Machine.execConvReleaseReceive tag index s
  | .memRead addr row ecc => Sys2Proof.Machine.execMemRead addr row ecc s
  | .memWrite addr data poison cls => Sys2Proof.Machine.execMemWrite addr data poison cls s
  | .memAccWrite job addr tensor elems => Sys2Proof.Machine.execMemAccWrite job addr tensor elems s
  | .memPatrol stack row ecc => Sys2Proof.Machine.execMemPatrol stack row ecc s
  | .stackFailed stack => Sys2Proof.Machine.execStackFailed stack s
  | .stackRebuilt stack => Sys2Proof.Machine.execStackRebuilt stack s
  | .layerCommit job layer => Sys2Proof.Machine.execLayerCommit job layer s
  | .contribReceive tag r sameBoard => Sys2Proof.Machine.execContribReceive tag r sameBoard s
  | .partialReceive tag r sameBoard => Sys2Proof.Machine.execPartialReceive tag r sameBoard s
  | .reduceWindowClose job station chunk level node => Sys2Proof.Machine.execReduceWindowClose job station chunk level node s
  | .reduceNodeDone job station chunk level node refusing => Sys2Proof.Machine.execReduceNodeDone job station chunk level node refusing s
  | .resultReceive tag r => Sys2Proof.Machine.execResultReceive tag r s
  | .resultResend job refusing => Sys2Proof.Machine.execResultResend job refusing s
  | .scaleReceive tag r => Sys2Proof.Machine.execScaleReceive tag r s
  | .scaleAcceptReceive tag tensor step replica => Sys2Proof.Machine.execScaleAcceptReceive tag tensor step replica s
  | .versionReceive tag r => Sys2Proof.Machine.execVersionReceive tag r s
  | .stateReceive tag r => Sys2Proof.Machine.execStateReceive tag r s
  | .versionAckReceive tag r => Sys2Proof.Machine.execVersionAckReceive tag r s
  | .tallyReceive tag r => Sys2Proof.Machine.execTallyReceive tag r s
  | .refreshReceive tag r => Sys2Proof.Machine.execRefreshReceive tag r s
  | .reinstallTimeout job rank => Sys2Proof.Machine.execReinstallTimeout job rank s
  | .reinstallReceive tag r => Sys2Proof.Machine.execReinstallReceive tag r s
  | .ackTimeout job rank => Sys2Proof.Machine.execAckTimeout job rank s
  | .peerDownTimeout job replica port => Sys2Proof.Machine.execPeerDownTimeout job replica port s
  | .replicaLostNotice tag replica step => Sys2Proof.Machine.execReplicaLostNotice tag replica step s
  | .takeoverTimeout job rank => Sys2Proof.Machine.execTakeoverTimeout job rank s
  | .ownerTakeoverNotice tag tensor former owner => Sys2Proof.Machine.execOwnerTakeoverNotice tag tensor former owner s
  | .pauseNoticeReceive tag cause round site => Sys2Proof.Machine.execPauseNoticeReceive tag cause round site s
  | .jobHeld job => Sys2Proof.Machine.execJobHeld job s
  | .reshardDrained job => Sys2Proof.Machine.execReshardDrained job s
  | .drainedReceive tag epoch replica index => Sys2Proof.Machine.execDrainedReceive tag epoch replica index s
  | .reshardSwitch tag epoch => Sys2Proof.Machine.execReshardSwitch tag epoch s
  | .roundHandoffDone job rank => Sys2Proof.Machine.execRoundHandoffDone job rank s
  | .haulPacketSend job rank partner => Sys2Proof.Machine.execHaulPacketSend job rank partner s
  | .haulDiffReceive addr sport payload => Sys2Proof.Machine.execHaulDiffReceive addr sport payload s
  | .haulCatchupReceive addr sport payload => Sys2Proof.Machine.execHaulCatchupReceive addr sport payload s
  | .haulBootAnchorReceive addr sport payload => Sys2Proof.Machine.execHaulBootAnchorReceive addr sport payload s
  | .haulBootMomentumReceive addr sport payload => Sys2Proof.Machine.execHaulBootMomentumReceive addr sport payload s
  | .haulParityReceive addr sport payload => Sys2Proof.Machine.execHaulParityReceive addr sport payload s
  | .haulAckReceive addr sport payload => Sys2Proof.Machine.execHaulAckReceive addr sport payload s
  | .haulKeepaliveReceive addr sport payload => Sys2Proof.Machine.execHaulKeepaliveReceive addr sport payload s
  | .haulRefuseReceive addr sport payload => Sys2Proof.Machine.execHaulRefuseReceive addr sport payload s
  | .haulAckDelayTimer job rank partner => Sys2Proof.Machine.execHaulAckDelayTimer job rank partner s
  | .haulRtoExpire job rank partner seq => Sys2Proof.Machine.execHaulRtoExpire job rank partner seq s
  | .keepaliveTimer job rank partner => Sys2Proof.Machine.execKeepaliveTimer job rank partner s
  | .catchupTimeout job rank partner => Sys2Proof.Machine.execCatchupTimeout job rank partner s
  | .roundClose job rank => Sys2Proof.Machine.execRoundClose job rank s
  | .roundStateAcceptReceive tag tensor round replica => Sys2Proof.Machine.execRoundStateAcceptReceive tag tensor round replica s
  | .roundReadyReport tag site => Sys2Proof.Machine.execRoundReadyReport tag site s
  | .roundResume tag cause => Sys2Proof.Machine.execRoundResume tag cause s
  | .cipherEncryptOp slot dir aad data faulty => Sys2Proof.Machine.execCipherEncryptOp slot dir aad data faulty s
  | .cipherDecryptOp slot nonce aad data tag => Sys2Proof.Machine.execCipherDecryptOp slot nonce aad data tag s
  | .keyPreviousErase slot => Sys2Proof.Machine.execKeyPreviousErase slot s
  | .keyRekeyDue slot => Sys2Proof.Machine.execKeyRekeyDue slot s
  | .keyExpired slot => Sys2Proof.Machine.execKeyExpired slot s
  | .cipherRngFault => Sys2Proof.Machine.execCipherRngFault s
  | .flitReceive port flit => Sys2Proof.Machine.execFlitReceive port flit s
  | .flitNakReceive port fseq fack => Sys2Proof.Machine.execFlitNakReceive port fseq fack s
  | .boardPortRetrain port ok => Sys2Proof.Machine.execBoardPortRetrain port ok s
  | .laneBerWindow port errs => Sys2Proof.Machine.execLaneBerWindow port errs s
  | .laneSignalLoss port lane => Sys2Proof.Machine.execLaneSignalLoss port lane s
  | .stockpileFrameReceive src tag build stp blk last => Sys2Proof.Machine.execStockpileFrameReceive src tag build stp blk last s
  | .siteFrameAckReceive peer chan tag base map => Sys2Proof.Machine.execSiteFrameAckReceive peer chan tag base map s
  | .siteFrameRetxTimer peer chan tag seq => Sys2Proof.Machine.execSiteFrameRetxTimer peer chan tag seq s
  | .siteAckTimer peer chan tag seqs => Sys2Proof.Machine.execSiteAckTimer peer chan tag seqs s
  | .sitePortLinkChange port up => Sys2Proof.Machine.execSitePortLinkChange port up s
  | .sitePortSpared port => Sys2Proof.Machine.execSitePortSpared port s
  | .pathNeed part utils site => Sys2Proof.Machine.execPathNeed part utils site s
  | .pathSurplus part utils => Sys2Proof.Machine.execPathSurplus part utils s
  | .flowMoveRetxTimer peer chan tag => Sys2Proof.Machine.execFlowMoveRetxTimer peer chan tag s
  | .arpNsRequestReceive port addr v6 => Sys2Proof.Machine.execArpNsRequestReceive port addr v6 s
  | .pauseFrameReceive port => Sys2Proof.Machine.execPauseFrameReceive port s
  | .tsyncPulseDrive => Sys2Proof.Machine.execTsyncPulseDrive s
  | .tsyncPulseReceive => Sys2Proof.Machine.execTsyncPulseReceive s
  | .timekeeperChanged => Sys2Proof.Machine.execTimekeeperChanged s
  | .selftestTick peer => Sys2Proof.Machine.execSelftestTick peer s
  | .benchWithdraw boundary => Sys2Proof.Machine.execBenchWithdraw boundary s
  | .benchSliceDone outcome seg rows => Sys2Proof.Machine.execBenchSliceDone outcome seg rows s
  | .cipherSliceDone outcome seg => Sys2Proof.Machine.execCipherSliceDone outcome seg s
  | .linkSliceDone fails => Sys2Proof.Machine.execLinkSliceDone fails s
  | .wireSpared wire errs0 errs1 => Sys2Proof.Machine.execWireSpared wire errs0 errs1 s
  | .engineSpared position => Sys2Proof.Machine.execEngineSpared position s
  | .ckptSnapshot => Sys2Proof.Machine.execCkptSnapshot s
  | .ckptReadDone => Sys2Proof.Machine.execCkptReadDone s
  | .ckptSaved ok => Sys2Proof.Machine.execCkptSaved ok s
  | .ckptRestored outcome blocks => Sys2Proof.Machine.execCkptRestored outcome blocks s
  | .stockpileReducedNotice gib lost kept => Sys2Proof.Machine.execStockpileReducedNotice gib lost kept s
  | .buddyPortReturn ans => Sys2Proof.Machine.execBuddyPortReturn ans s
  | .replicaReadmitNotice tag replica step => Sys2Proof.Machine.execReplicaReadmitNotice tag replica step s
  | .stockpileRequestReceive src kind tag build size => Sys2Proof.Machine.execStockpileRequestReceive src kind tag build size s
  | .rngHealthRestored => Sys2Proof.Machine.execRngHealthRestored s
  | .boardPortReturnsToUp port => Sys2Proof.Machine.execBoardPortReturnsToUp port s
  | .correctedCountRestart => Sys2Proof.Machine.execCorrectedCountRestart s
  | .heldPerstDeassertion slot => Sys2Proof.Machine.execHeldPerstDeassertion slot s
  | .testLogicReset => Sys2Proof.Machine.execTestLogicReset s

end Sys2Proof.Machine
end

