-- ==== Sys2Proof/Safety.lean ====
section
/-! DEFINITION. The words in which the statements speak: a safe outcome, what may differ between two states, and when a command of
Psiam starts. -/

namespace Sys2Proof

/-- The outcome is a next state: no fault, no refusal. -/
def Safe (o : Host.Outcome Machine.State Machine.Fault Machine.Refusal) : Prop := ∃ t, o = .next t

namespace Machine

/-- Two states agree but for the host's side: host memory, mailboxes, interrupts, error bits and freeze records. -/
def HostOnly (s t : State) : Prop := t = { s with host := t.host }

/-- Two states agree but for what leaves the module as frames and events: host side, messages, board, nonces and the free values drawn
for them. -/
def LinkOnly (s t : State) : Prop := t = { s with host := t.host, out := t.out, board := t.board, cipher := t.cipher, freeCtr := t.freeCtr }

/-- Every byte memory is in canonical form: the station memory with its windows, host memory, the firmware staging area and the firmware
slots. -/
def MemCanon (s : State) : Prop :=
  Mem.wf s.mem.bytes = true ∧ Mem.wf s.host.hostMem = true ∧ Mem.wf s.fw.stage = true ∧ s.fw.slots.all (fun e => Mem.wf e.2) = true

/-- Function g of the host is as it was. -/
def SameFunc (s t : State) (g : Nat) : Prop := getFunc t g = getFunc s g

/-- The command at the front of ring r of function f acts by descriptor d, its own but for reserved codes, it is one of row w, the MP may
start it now, and no generic refusal of R459 meets it (R456, R459, R476, R515). -/
abbrev Starts (s : State) (w : PsmRow) (f r : Nat) (io : HostIo) (d : Desc) : Prop :=
  (getRing s f r).fetched.head?.map settled = some d ∧ d.opcode = w.op ∧ mayBegin s f r = true ∧ ringTurn s r = true ∧
    (w.scope = .none ∨ s.board.leaving = none) ∧ genericRefusal s f d w io = none

/-- The n bytes of a command's result buffer reach host memory and stay: no write of this command fails, it asks for no interrupt, host
memory is in canonical form, and the ring's next completion lies apart from the buffer. -/
def Delivers (s : State) (f r : Nat) (io : HostIo) (d : Desc) (n : Nat) : Prop :=
  io.fail = none ∧ io.cqFails = false ∧ bit d.flags 0 = false ∧ Mem.wf s.host.hostMem = true ∧
    let cq := (getRing s f r).cqBase.toNat / 4096 * 4096 + 32 * ((getRing s f r).cqWi % cfgSize (getRing s f r).cfg)
    (d.outAddr + n ≤ cq ∨ cq + 32 ≤ d.outAddr)

/-- The number of the boot step whose command this is. -/
def bootStepOf (i : Instr) : Option Nat :=
  match i with
  | .bootStepPower .. => some 0
  | .bootStepClock .. => some 1
  | .bootStepFuse .. => some 2
  | .bootStepRom .. => some 3
  | .bootStepImage .. => some 4
  | .bootStepMemory .. => some 5
  | .bootStepFaces .. => some 6
  | .bootStepBenchLoad .. => some 7
  | .bootStepBenchTest .. => some 8
  | .bootStepCipher .. => some 9
  | .bootStepBoard .. => some 10
  | .bootStepSite .. => some 11
  | .bootStepTime .. => some 12
  | .bootStepReady .. => some 13
  | _ => none

/-- An attempt of boot step n runs under a treatment (R519, R522). -/
def Attempt (s : State) (n t : Nat) : Prop := s.boot.st = 1 ∧ s.boot.step = n ∧ s.boot.treatment = t

/-- A PARAMS field of a descriptor. -/
def Desc.par (d : Desc) (off n : Nat) : Nat := fieldLe d.params off n

/-- Context c of bench lb runs task t of job jk: the next instruction lies inside the station's code and nothing stops the context
(R72, R95). -/
abbrev CcRuns (s : State) (lb c jk : Nat) (t : Task) : Prop :=
  jobOf s lb c = some jk ∧ (getCtx s lb c).running = some t ∧ (getCtx s lb c).frozen = false ∧ (getJob s jk).phase = .running ∧
    present s lb = true ∧ (getBench s lb).failed = false ∧ ((stationOf s jk t.station).map (fun st =>
      decide ((getCtx s lb c).pc.toNat < st.codeSize) && !opReserved (codeWord s jk st (getCtx s lb c).pc.toNat))).getD false = true

/-- From s to t one context of one bench became x; every other context, bench and part of the module is as it was. -/
def CtxStep (s t : State) (lb c : Nat) (x : BCtx) : Prop :=
  t = { s with benches := t.benches } ∧ getBench t lb = (getBench s lb).modCtx c (fun _ => x) ∧ ∀ n, n ≠ lb → getBench t n = getBench s n

/-- From x to y register d took value v with poison bit p, unless it is X0, and the program counter went on; every other register and
part of the context is as it was (R68, R632). -/
def RegWrite (x y : BCtx) (d : Nat) (v : Long) (p : Bool) : Prop :=
  y = { x with x := y.x, xp := y.xp, pc := x.pc + 4 } ∧
    ∀ n, n < 64 → xreg y n = (if n = d % 64 ∧ n ≠ 0 then v else xreg x n) ∧ xpois y n = (if n = d % 64 ∧ n ≠ 0 then p else xpois x n)

/-- The front MXE command m of context c of bench lb belongs to a running task of job jk at station st and may run: nothing stops the
context, and no older stream that reads the accumulators waits (R71, R95, R121). -/
abbrev MxeRuns (s : State) (lb c jk : Nat) (t : Task) (st : Station) (m : MxeCmd) : Prop :=
  jobOf s lb c = some jk ∧ (getCtx s lb c).running = some t ∧ (getCtx s lb c).mxeQ.head? = some m ∧ (getCtx s lb c).frozen = false ∧
    present s lb = true ∧ (getBench s lb).failed = false ∧ stationOf s jk t.station = some st ∧
    ∀ v ∈ (getCtx s lb c).vseQ, v.seq < m.seq → streamReadsAcc s lb v.off = false

/-- The front stream v of context c of bench lb belongs to a running task of job jk and may run (R71, R95). -/
abbrev VseRuns (s : State) (lb c jk : Nat) (t : Task) (st : Station) (im : Image) (v : VseCmd) : Prop :=
  jobOf s lb c = some jk ∧ (getCtx s lb c).running = some t ∧ (getCtx s lb c).vseQ.head? = some v ∧ (getCtx s lb c).frozen = false ∧
    present s lb = true ∧ (getBench s lb).failed = false ∧ stationOf s jk t.station = some st ∧ (getJob s jk).image = some im

/-- The rational number that a finite value stands for. -/
def Val.asRat (v : Val) : Option Rat :=
  match v with
  | .fin neg m e => some ((if neg then -1 else 1) * (m : Rat) * (2 : Rat) ^ e)
  | _ => none

/-- n bytes from a are working memory in service, outside CODED blocks, and memory is in canonical form: what is written there is read
back (R248, R257, R264). -/
abbrev PlainMem (s : State) (a n : Nat) : Prop :=
  a + n ≤ memTop ∧ Mem.wf s.mem.bytes = true ∧
    ∀ k, k < n → stackDown s (a + k) = false ∧ (match blockState s (a + k) with | .coded _ => false | _ => true) = true

/-- Record r of the job with this tag concerns gradient tensor g, which in-site exchange station k of job jk reduces (R55, R277, R285). -/
abbrev Routes (s : State) (tag : Nat) (r : Rec) (jk k : Nat) (im : Image) (st : Station) (g : TensorEnt) : Prop :=
  jobOfTag s tag = some jk ∧ gradNamed im r = some (k, st) ∧ gradOf s jk k = some (im, st, g)

/-- From s to u only jobs differ, of those only job jk, and of that only the chunk of a step at one of its tree nodes, which is nd now. -/
def NodeOnly (s u : State) (jk : Nat) (d : NodeId) (step : Nat) (probe : Bool) (nd : RNode) : Prop :=
  u = { s with jobs := u.jobs } ∧ getJob u jk = { getJob s jk with nodes := (getJob u jk).nodes } ∧ (∀ x, x ≠ jk → getJob u x = getJob s x) ∧
    findNode (getJob u jk) d step probe = some nd ∧
    ∀ d' step' probe', (d', step', probe') ≠ (d, step, probe) → findNode (getJob u jk) d' step' probe' = findNode (getJob s jk) d' step' probe'

/-- A RESULT r reaches job jk, which knows the exchange station of its gradient shard, and that station's master m and its rank rk (R276, R290). -/
abbrev ResultFor (s : State) (tag : Nat) (r : Rec) (jk rk : Nat) (im : Image) (st : Station) (m : TensorEnt) : Prop :=
  jobOfTag s tag = some jk ∧ (getJob s jk).image = some im ∧ (∃ k, gradNamed im r = some (k, st)) ∧ masterNamed im (xMaster st) = some (m, rk)

/-- Record x of the job with this tag names master shard t, of rank r in image im of job jk, at the job's epoch (R55, R277, R290). -/
abbrev Names (s : State) (tag : Nat) (x : Rec) (jk r : Nat) (im : Image) (t : TensorEnt) : Prop :=
  jobOfTag s tag = some jk ∧ recShard s jk x = some (im, t, r) ∧ x.epoch = (getJob s jk).cut.epoch

/-- From s to u only the bookkeeping of job jk differs: the records that wait for installation are `w`, and what is kept of its shards may
have changed. -/
def IngressOnly (s u : State) (jk : Nat) (w : List Rec) : Prop :=
  u = { s with jobs := u.jobs } ∧ getJob u jk = { getJob s jk with ingress := w, shards := (getJob u jk).shards } ∧ ∀ x, x ≠ jk → getJob u x = getJob s x

/-- TYPE, source address, source port and payload of the packet that a haul command brings (R379). -/
def packetOf (i : Instr) : Option (Nat × Nat × Nat × List Byte) :=
  match i with
  | .haulDiffReceive a p d => some (1, a, p, d)
  | .haulCatchupReceive a p d => some (2, a, p, d)
  | .haulBootAnchorReceive a p d => some (3, a, p, d)
  | .haulBootMomentumReceive a p d => some (4, a, p, d)
  | .haulParityReceive a p d => some (5, a, p, d)
  | .haulAckReceive a p d => some (6, a, p, d)
  | .haulKeepaliveReceive a p d => some (7, a, p, d)
  | .haulRefuseReceive a p d => some (8, a, p, d)
  | _ => none

/-- Packet d of TYPE n concerns context (r, p) of job jk, with policy pol and partner q, and a SAVE does not read (R384, R561). -/
abbrev Concerns (s : State) (n : Nat) (d : List Byte) (jk r p : Nat) (q : Partner) (pol : RoundPolicy) : Prop :=
  fieldBe d 3 1 = n ∧ 84 ≤ d.length ∧ (findCtxs s d).head? = some (jk, r, p) ∧ shardPolicy (getJob s jk) r = some pol ∧
    (partnersOf (getJob s jk) r)[p]? = some (q, p) ∧ snapshotReads s jk = false ∧ (getPart s (jk / 2)).resetting = false

/-- Packet d of TYPE n passes the checks of R384 for context (r, p) of job jk with partner q and policy pol; t is the state after them
and `body` the plaintext. The context is not SPLIT, and the packet is of the incarnation it knows (R340, R341). -/
abbrev Arrives (s : State) (n : Nat) (d : List Byte) (jk r p : Nat) (q : Partner) (pol : RoundPolicy) (t : State) (body : List Byte) : Prop :=
  fieldBe d 3 1 = n ∧ checkPkt s d = (t, some (jk, r, p, body)) ∧ shardPolicy (getJob t jk) r = some pol ∧ (partnersOf (getJob t jk) r)[p]? = some (q, p) ∧
    ctxState t (getJob t jk) r p ≠ 2 ∧ (pol.mode = 1 ∨ (parseHdr d).inc = rdLe t (jobCtx (getJob t jk) r p + 8) 4)

/-- A host-memory byte of the state. -/
def hostByte (s : State) (a : Nat) : Byte := Mem.get s.host.hostMem a

end Machine

end Sys2Proof
end

