-- ==== Sys2Proof/Certificates/Slice0/Obligations.lean ====
section
/-! DEFINITION. Statements for the provers. -/

open Sys2Proof Sys2Proof.Machine

/-- A step runs the command at the front of the queue with the queue's rest. -/
def Obligations.StepRunsFront : Prop :=
  ∀ (c : Sys2Proof.Instr) (s : State),
    step { s with pending := c :: s.pending } = exec c s

/-- An idle step is one edge of the reference (R438; DESIGN CHOICE log 1). -/
def Obligations.IdleStepCounts : Prop :=
  ∀ (s : State), s.pending = [] →
    ∃ (tm : TimeSt) (b : BootSt) (p : PowerSt),
      step s = .next { s with time := tm, boot := b, power := p } ∧
      (s.time.run = false → tm = s.time) ∧
      (s.time.run = true → s.time.slew = .none → tm.tb = (s.time.tb + 10) % 2 ^ 64) ∧
      (s.boot.served = true → b.sinceNs = s.boot.sinceNs + 10) ∧
      p.conv = s.power.conv ∧ p.k = s.power.k

/-- The power sequence (R516, R593, R605, R614, R622, R623). -/
def Obligations.PowerSequence : Prop :=
  (∀ (s : State) (slot : Nat), slot < 8 → s.power.perst = true → s.power.conv = true → s.power.pgood = true → 1000000 ≤ s.power.pgoodNs →
    ∃ t, exec (.perstDeassert slot) s = .next t ∧ t.board.slotId = slot ∧ t.boot.served = true ∧ t.boot.sinceNs = 0 ∧ t.power.perst = false ∧
      (∀ e ∈ t.benches, e.2.cache = []) ∧ t.mem = s.mem ∧ t.cipher = s.cipher ∧ t.host = s.host) ∧
  (∀ (s : State) (slot : Nat), s.power.perst = true → s.power.conv = true → s.power.pgood = true → s.power.pgoodNs < 1000000 →
    exec (.perstDeassert slot) s = .next { s with power := { s.power with perstHeld := true } }) ∧
  (∀ (s : State) (slot : Nat), slot < 8 → s.power.perstHeld = true → s.power.pgood = true → 1000000 ≤ s.power.pgoodNs →
    ∃ t, exec (.heldPerstDeassertion slot) s = .next t ∧ t.board.slotId = slot ∧ t.boot.served = true ∧ t.power.perst = false ∧
      t.power.perstHeld = false ∧ t.mem = s.mem ∧ t.cipher = s.cipher) ∧
  (∀ (s : State) (w : Bool), s.power.conv = true →
    ∃ t, exec (.perstAssert w) s = .next t ∧ t.power.perst = true ∧ t.boot.ready = false ∧ t.boot.served = false ∧ t.jobs = [] ∧ t.benches = [] ∧
      t.mem.bytes = [] ∧ t.boot.wear = s.boot.wear ∧ t.boot.floor = s.boot.floor ∧ t.boot.factory = s.boot.factory ∧ t.boot.revoked = s.boot.revoked ∧
      t.cipher.moduleKey = s.cipher.moduleKey ∧ t.power.cap = s.power.cap ∧ t.power.boostEn = s.power.boostEn ∧ t.power.acct = s.power.acct) ∧
  (∀ (s : State) (w : Bool), s.power.conv = false →
    exec (.perstAssert w) s = .next { s with power := { s.power with perst := true, perstHeld := false } }) ∧
  (∀ (s : State) (mv : Nat), s.power.aux = false → 58000 < mv →
    ∃ p, exec (.inputAuxStart mv) s = .next { s with power := p } ∧ p.aux = true ∧ p.vin = mv ∧ p.latch = 0 ∧ p.cap = 2500 ∧ p.boostEn = true ∧
      p.pwrEn = s.power.pwrEn ∧ p.perst = s.power.perst) ∧
  (∀ (s : State) (mv : Nat), mv < 55000 →
    ∃ t, exec (.inputAuxStop mv) s = .next t ∧ t.power.aux = false ∧ t.power.conv = false ∧ t.power.pgood = false ∧ t.power.latch = 0 ∧
      t.power.pwrEn = s.power.pwrEn) ∧
  (∀ (s : State), exec .pwrEnRise s = .next { s with power := { s.power with pwrEn := true } }) ∧
  (∀ (s : State) (mv plate : Nat), s.power.aux = true → s.power.pwrEn = true → s.power.conv = false → s.power.faultPin = false →
    s.power.tripPin = false → 64000 ≤ mv → mv ≤ 78000 → plate < 45 →
    ∃ t, exec (.conversionStart mv plate) s = .next t ∧ t.power.conv = true ∧ t.power.pgood = true ∧ t.power.pgoodNs = 0 ∧
      t.power.acct = 60000000000 ∧ t.power.phases.length ≤ 88 ∧ t.mem = s.mem ∧ t.jobs = s.jobs) ∧
  (∀ (s : State), s.power.conv = true →
    ∃ t, exec .pwrEnFall s = .next t ∧ t.power.pwrEn = false ∧ t.power.conv = false ∧ t.power.pgood = false ∧ t.power.faultPin = s.power.faultPin ∧
      t.cipher.slots = [] ∧ t.cipher.moduleKey = s.cipher.moduleKey ∧ t.boot.wear = s.boot.wear) ∧
  (∀ (s : State), s.power.pwrEn = false →
    exec .pwrEnLowRelease s = .next { s with power := { s.power with faultPin := false, tripPin := false } }) ∧
  (∀ (s : State), exec .railOutOfRegulation s = .next { s with power := { s.power with pgood := false, pgoodNs := 0 } }) ∧
  (∀ (s : State) (mv : Nat), s.power.aux = true → mv < 60000 →
    ∃ t, exec (.inputFaultStop mv) s = .next t ∧ t.power.conv = false ∧ t.power.faultPin = true ∧ t.power.latch.testBit 0 = true ∧
      t.power.pwrEn = s.power.pwrEn ∧ t.cipher.moduleKey = s.cipher.moduleKey) ∧
  (∀ (s : State) (mv : Nat), s.power.aux = true → 82000 < mv →
    ∃ t, exec (.inputFaultStop mv) s = .next t ∧ t.power.conv = false ∧ t.power.faultPin = true ∧ t.power.latch.testBit 1 = true) ∧
  (∀ (s : State) (temp : Nat), s.power.aux = true → 110 ≤ temp →
    ∃ t, exec (.thermtrip temp) s = .next t ∧ t.power.conv = false ∧ t.power.faultPin = true ∧ t.power.tripPin = true ∧
      t.power.latch.testBit 3 = true)

/-- A tick of the governor (R598, R600, R602, R607). -/
def Obligations.GovernorTick : Prop :=
  (∀ (s : State) (g : GovIn), s.power.conv = true →
    ∃ t, exec (.governorTick g) s = .next t ∧ t = { s with power := t.power, host := t.host } ∧
      t.power.vin = g.vin ∧ t.power.pin = g.pin ∧ t.power.iin = g.iin ∧ t.power.face = g.face ∧ t.power.stackTemps = g.stackTemps ∧
      s.power.k ≤ t.power.k + 1 ∧
      (s.power.op = 0 → s.power.vset ≤ 1 → t.power.vset = s.power.vset ∨ 2 ≤ t.power.k) ∧
      (s.power.op = 1 → t.power.vset = 2) ∧
      t.power.acct = (if 2600 < g.pin then s.power.acct - 50000 else min 60000000000 (s.power.acct + 12500)) ∧
      (g.face.any (fun x => decide (95 ≤ x)) = true → t.power.barred = true) ∧
      (g.face.all (fun x => decide (x ≤ 85)) = true → t.power.barred = false) ∧
      t.power.energy = s.power.energy + g.pin * 50 ∧ t.power.cap = s.power.cap ∧ t.power.boostEn = s.power.boostEn ∧
      t.power.boost = decide (penv t < g.pin) ∧
      t.power.tThrottled = min (2 ^ 64 - 1) (s.power.tThrottled + (if 0 < t.power.k then 50000 else 0)) ∧
      t.power.tBoost = min (2 ^ 64 - 1) (s.power.tBoost + (if t.power.boost then 50000 else 0)) ∧
      t.power.droops = s.power.droops ∧ t.power.conv = true) ∧
  (∀ (s : State) (g : GovIn), s.power.conv = false → exec (.governorTick g) s = .next s)

/-- The lesser commands of power and clocks (R593, R597 to R599, R603, R626). -/
def Obligations.ClockAndRange : Prop :=
  (∀ (s : State) (mv : Nat), s.power.conv = true → (60000 ≤ mv ∧ mv < 64000) →
    exec (.inputOutOfRange mv) s = .next (raisePf { s with power := { s.power with vin := mv, stInput := s.power.stInput ||| 32 } } 0x0467 (sourceId s srcMp) [])) ∧
  (∀ (s : State) (mv : Nat), s.power.conv = false → (60000 ≤ mv ∧ mv < 64000) →
    exec (.inputOutOfRange mv) s = .next { s with power := { s.power with vin := mv, stInput := s.power.stInput ||| 32 } }) ∧
  (∀ (s : State) (mv : Nat), s.power.conv = true → (78000 < mv ∧ mv ≤ 82000) →
    exec (.inputOutOfRange mv) s = .next (raisePf { s with power := { s.power with vin := mv, stInput := s.power.stInput ||| 64 } } 0x0467 (sourceId s srcMp) [])) ∧
  (∀ (s : State) (mv : Nat), (64000 ≤ mv ∧ mv ≤ 78000) →
    exec (.inputOutOfRange mv) s = .next { s with power := { s.power with vin := mv } }) ∧
  (∀ (s : State), s.power.conv = true → s.power.vset = 0 → s.power.k ≤ 1 →
    exec .coreCurrentTrip s = .next { s with power := { s.power with k := 2, tripped := true } }) ∧
  (∀ (s : State), 1 < s.power.k → exec .coreCurrentTrip s = .next s) ∧
  (∀ (s : State) (f : Nat), exec (.droopDetect f) s = .next { s with power := { s.power with droops := min (2 ^ 32 - 1) (s.power.droops + 1) } }) ∧
  (∀ (s : State), s.power.conv = true → s.power.holdover = false →
    exec .clockRefLost s = .next (raisePf { s with power := { s.power with holdover := true, holdNs := 0 } } 0x0466 (sourceId s srcMp) [])) ∧
  (∀ (s : State), exec .refclkReturn s = .next { s with power := { s.power with holdover := false, holdNs := 0 } }) ∧
  (∀ (s : State), s.power.conv = true →
    ∃ t, exec .wearBinHour s = .next t ∧ t = { s with power := t.power, boot := t.boot, host := t.host } ∧ t.power.bin = 0 ∧
      (logState t).bins.take 2 = [0, s.power.bin] ∧ (logState t).bins.length ≤ 168 ∧ t.power.conv = true ∧ t.power.k = s.power.k ∧
      (logState t).soft = (logState s).soft) ∧
  (∀ (s : State) (x : Nat), s.power.conv = true → (x < 15 ∨ 40 < x) → (∀ y, s.power.coolant = some y → y + 60000000000 ≤ s.time.tb) →
    exec (.coolantInletRange x) s = .next (raisePf { s with power := { s.power with plate := x, coolant := some s.time.tb } } 0x0470 (sourceId s srcMp) [(1, x)])) ∧
  (∀ (s : State) (x y : Nat), (x < 15 ∨ 40 < x) → s.power.coolant = some y → s.time.tb < y + 60000000000 →
    exec (.coolantInletRange x) s = .next { s with power := { s.power with plate := x } }) ∧
  (∀ (s : State) (x : Nat), (15 ≤ x ∧ x ≤ 40) → exec (.coolantInletRange x) s = .next { s with power := { s.power with plate := x, coolant := none } })

/-- The fault of a regulator phase (R594). -/
def Obligations.PhaseFault : Prop :=
  (∀ (s : State) (ph x : Nat), ph ∈ s.power.phases → ph < 96 → x < 96 → x ∉ s.power.phases → unusable s (unitKey 9 x) = false →
    (∀ y, y < x → y ∈ s.power.phases ∨ unusable s (unitKey 9 y) = true) →
    ∃ t, exec (.regPhaseFault ph) s = .next t ∧ t = { s with power := t.power, boot := t.boot, host := t.host } ∧
      t.power = { s.power with phases := s.power.phases.map (fun n => if n = ph then x else n) } ∧
      t.power.phases.length = s.power.phases.length ∧ ph ∉ t.power.phases ∧ x ∈ t.power.phases ∧
      t.boot.wear = s.boot.wear ∧ t.boot.factory = s.boot.factory ∧ t.boot.revoked = s.boot.revoked ∧ t.boot.floor = s.boot.floor) ∧
  (∀ (s : State) (ph : Nat), ph ∈ s.power.phases → (∀ y, y < 96 → y ∈ s.power.phases ∨ unusable s (unitKey 9 y) = true) →
    66 ≤ (s.power.phases.filter (· != ph)).length →
    ∃ t, exec (.regPhaseFault ph) s = .next t ∧ t = { s with power := t.power, boot := t.boot, host := t.host } ∧
      t.power = { s.power with phases := s.power.phases.filter (· != ph) }) ∧
  (∀ (s : State) (ph : Nat), ph ∈ s.power.phases → (∀ y, y < 96 → y ∈ s.power.phases ∨ unusable s (unitKey 9 y) = true) →
    (s.power.phases.filter (· != ph)).length < 66 →
    ∃ t, exec (.regPhaseFault ph) s = .next t ∧ t.power.conv = false ∧ t.power.faultPin = true ∧ t.power.latch.testBit 2 = true) ∧
  (∀ (s : State) (ph : Nat), ph ∉ s.power.phases → exec (.regPhaseFault ph) s = .next s)

/-- The test access port (R416, R618). -/
def Obligations.TestPort : Prop :=
  (∀ (s : State), exec .jtagBypass s = .next { s with jtag := { s.jtag with ir := .bypass, tdo := some 0 } }) ∧
  (∀ (s : State), ∃ id, exec .jtagIdcode s = .next { s with jtag := { s.jtag with ir := .idcode, tdo := some id } } ∧
    id / 2 ^ 28 = 0xB ∧ id / 2 ^ 12 % 2 ^ 16 = 0x0A09 ∧ id % 2 = 1) ∧
  (∀ (s : State) (lands cells : Nat),
    exec (.jtagSamplePreload lands cells) s = .next { s with jtag := { s.jtag with ir := .sample, tdo := some lands, cells := cells } }) ∧
  (∀ (s : State) (cells : Nat), s.power.perst = true →
    exec (.jtagExtest cells) s = .next { s with jtag := { s.jtag with ir := .extest, cells := cells, tdo := none } } ∧
    extestDrives (match exec (.jtagExtest cells) s with | .next t => t | _ => s) = true) ∧
  (∀ (s : State) (cells : Nat), s.power.perst = false →
    exec (.jtagExtest cells) s = .next { s with jtag := { s.jtag with ir := .bypass, tdo := some 0 } }) ∧
  (∀ (s : State), exec .testLogicReset s = .next { s with jtag := { s.jtag with ir := .reset, tdo := none } }) ∧
  (∀ (s : State), ∃ t, exec .jtagPrivateScan s = .next t ∧ t.jtag.ir = .scan ∧ t.boot.halted = true ∧ t.cipher.slots = [] ∧ t.cipher.cleared = List.range 14 ∧ t.cipher.moduleKey = s.cipher.moduleKey ∧
    (∀ e ∈ t.benches, e.2.c0.running = none ∧ e.2.c1.running = none) ∧ t.mem.bytes = s.mem.bytes ∧ t.boot.wear = s.boot.wear)

/-- The PMBus reads (R606, R607). -/
def Obligations.PmbusReads : Prop :=
  (∀ (s : State), s.power.aux = true →
    exec .statusWord s = .next { s with power := { s.power with reply := some (toLe 2 (statusWord s.power)) } } ∧
    exec .statusInput s = .next { s with power := { s.power with reply := some (toLe 1 (statusInput s.power)) } } ∧
    exec .statusTemperature s = .next { s with power := { s.power with reply := some (toLe 1 (statusTemp s.power)) } } ∧
    exec .readVin s = .next { s with power := { s.power with reply := some (toLe 2 (linear11 s.power.vin)) } } ∧
    exec .readIin s = .next { s with power := { s.power with reply := some (toLe 2 (linear11 s.power.iin)) } } ∧
    exec .readTemperature1 s = .next { s with power := { s.power with reply := some (toLe 2 (linear11 (1000 * maxOf s.power.face))) } } ∧
    exec .readTemperature2 s = .next { s with power := { s.power with reply := some (toLe 2 (linear11 (1000 * s.power.wb))) } } ∧
    exec .readTemperature3 s = .next { s with power := { s.power with reply := some (toLe 2 (linear11 (1000 * maxOf s.power.stackTemps))) } } ∧
    exec .readPin s = .next { s with power := { s.power with reply := some (toLe 2 (linear11 (1000 * s.power.pin))) } } ∧
    exec .pmbusRevision s = .next { s with power := { s.power with reply := some [0x33] } } ∧
    exec .mfrId s = .next { s with power := { s.power with reply := some [6, 0x44, 0x41, 0x4C, 0x4F, 0x55, 0x58] } } ∧
    exec .mfrModel s = .next { s with power := { s.power with reply := some [10, 0x44, 0x58, 0x2D, 0x54, 0x4D, 0x39, 0x2D, 0x37, 0x32, 0x4C] } } ∧
    exec .mfrGovState s = .next { s with power := { s.power with reply := some (toLe 2 (govState s.power)) } } ∧
    exec .mfrWear s = .next { s with power := { s.power with reply := some (toLe 2 (wearNs s / 16000000000)) } } ∧
    exec .mfrPhases s = .next { s with power := { s.power with reply := some (toLe 2 (s.power.phases.length * 256 + (spareCounts s 9).2.2.1)) } } ∧
    (s.power.stackTemps.length = 9 → ∃ d, exec .mfrStackTemps s = .next { s with power := { s.power with reply := some (9 :: d) } } ∧ d.length = 9)) ∧
  (∀ (s : State) (c : Instr), s.power.aux = false →
    c ∈ [.statusWord, .statusInput, .statusTemperature, .readVin, .readIin, .readTemperature1, .readTemperature2, .readTemperature3, .readPin,
      .pmbusRevision, .mfrId, .mfrModel, .mfrPowerCap none, .mfrGovState, .mfrWear, .mfrStackTemps, .mfrPhases, .mfrBoostEn none, .clearFaults] →
    exec c s = .next { s with power := { s.power with reply := none } })

/-- Bit fields of the PMBus words (R606, R607; LINEAR11 log 36). -/
def Obligations.GovStateLayout : Prop :=
  (∀ (p : PowerSt), p.limit < 256 → p.k < 16 → p.vset < 3 →
    bits (govState p) 15 8 = p.limit ∧ bits (govState p) 7 4 = p.k ∧ bits (govState p) 3 2 = p.vset ∧ bit (govState p) 1 = p.boost ∧ bit (govState p) 0 = false ∧
    govState p < 65536) ∧
  (∀ (v : Nat), v < 2 ^ 24 →
    ∃ n m, n < 32 ∧ m ≤ 1023 ∧ linear11 v = (n + 16) % 32 * 2048 + m ∧ m * 2 ^ n * 1000 ≤ v * 65536 ∧ v * 65536 < (m + 1) * 2 ^ n * 1000)

/-- The PMBus writes (R606, R624). -/
def Obligations.PmbusWrites : Prop :=
  (∀ (s : State) (v : Nat), s.power.aux = true → 1000 ≤ v → v ≤ 2500 →
    exec (.mfrPowerCap (some v)) s = .next { s with power := { s.power with cap := v, reply := some [] } }) ∧
  (∀ (s : State) (v : Nat), v < 1000 ∨ 2500 < v →
    exec (.mfrPowerCap (some v)) s = .next { s with power := { s.power with reply := none } }) ∧
  (∀ (s : State), s.power.aux = true →
    exec (.mfrPowerCap none) s = .next { s with power := { s.power with reply := some (toLe 2 s.power.cap) } }) ∧
  (∀ (s : State) (v : Nat), s.power.aux = true →
    exec (.mfrBoostEn (some v)) s = .next { s with power := { s.power with boostEn := v.testBit 0, reply := some [] } }) ∧
  (∀ (s : State), s.power.aux = true →
    exec (.mfrBoostEn none) s = .next { s with power := { s.power with reply := some [if s.power.boostEn then 1 else 0] } }) ∧
  (∀ (s : State), s.power.aux = true →
    ∃ p, exec .clearFaults s = .next { s with power := p } ∧ p.latch = s.power.latch ∧ p.stCml = 0 ∧ p.reply = some [] ∧
      (64000 ≤ s.power.vin → s.power.vin ≤ 78000 → p.stInput = 0) ∧
      (s.power.limit.testBit 1 = false → s.power.limit.testBit 2 = false → s.power.limit.testBit 3 = false → p.stTemp = 0)) ∧
  (∀ (s : State) (code : Nat), s.power.aux = true → code ∉ pmbusCodes →
    exec (.pmbusUnsupported code) s = .next { s with power := { s.power with stCml := s.power.stCml ||| 128, reply := none } })

/-- The writes of a mailbox window (R453 to R455, R462, R464, R449, R467). -/
def Obligations.MailboxWrites : Prop :=
  (∀ (s : State) (f r v : Nat), r < 2 → hostMay s f = true → cfgEnable (getRing s f r).cfg = true →
    ∃ t, exec (.cmdqDoorbellWrite f r v) s = .next t ∧ HostOnly s t ∧ (∀ g, g ≠ f → SameFunc s t g) ∧
      getRing t f r = { getRing s f r with pi := v % 65536, pending := true } ∧ getRing t f (1 - r) = getRing s f (1 - r) ∧
      t.host.hostMem = s.host.hostMem ∧ t.host.errBits = s.host.errBits) ∧
  (∀ (s : State) (f r v : Nat), cfgEnable (getRing s f r).cfg = false → exec (.cmdqDoorbellWrite f r v) s = .next s) ∧
  (∀ (s : State) (f r v : Nat), r < 2 → hostMay s f = true → cfgEnable (getRing s f r).cfg = false → v % 2 = 1 →
    ∃ t, exec (.ringEnableWrite f r v) s = .next t ∧ HostOnly s t ∧ (∀ g, g ≠ f → SameFunc s t g) ∧
      (getRing t f r).ci = 0 ∧ (getRing t f r).pi = 0 ∧ (getRing t f r).pending = false ∧ (getRing t f r).cqWi = 0 ∧ (getRing t f r).fetched = [] ∧
      cfgEnable (getRing t f r).cfg = true ∧ (getRing t f r).base = (getRing s f r).base ∧ getRing t f (1 - r) = getRing s f (1 - r)) ∧
  (∀ (s : State) (f r v : Nat), r < 2 → hostMay s f = true → cfgEnable (getRing s f r).cfg = true → v % 2 = 0 →
    ∃ t, exec (.ringEnableWrite f r v) s = .next t ∧ HostOnly s t ∧ (∀ g, g ≠ f → SameFunc s t g) ∧
      (getRing t f r).fetched = [] ∧ (getRing t f r).heldCq = [] ∧ (getRing t f r).ci = (getRing s f r).ci ∧ cfgEnable (getRing t f r).cfg = false) ∧
  (∀ (s : State) (f v : Nat), hostMay s f = true → cfgEnable (getFunc s f).evqCfg = false → v % 2 = 1 → (getFunc s f).lostSince = 0 →
    ∃ t, exec (.ringEnableWrite f 2 v) s = .next t ∧ HostOnly s t ∧ (∀ g, g ≠ f → SameFunc s t g) ∧
      (getFunc t f).evqWi = 0 ∧ cfgEnable (getFunc t f).evqCfg = true ∧ (getFunc t f).ring0 = (getFunc s f).ring0 ∧ (getFunc t f).ring1 = (getFunc s f).ring1) ∧
  (∀ (s : State) (f r v : Nat), r < 2 → hostMay s f = true → (getRing s f r).heldCq = [] → (getRing s f r).fetched = [] →
    ∃ t, exec (.cqHeadWrite f r v) s = .next t ∧ HostOnly s t ∧ (∀ g, g ≠ f → SameFunc s t g) ∧
      getRing t f r = { getRing s f r with cqHead := v % 65536 } ∧ t.host.hostMem = s.host.hostMem) ∧
  (∀ (s : State) (f v : Nat) (fails : Bool), hostMay s f = true → (getFunc s f).lostSince = 0 →
    ∃ t, exec (.evqHeadWrite f v fails) s = .next t ∧ HostOnly s t ∧ (∀ g, g ≠ f → SameFunc s t g) ∧
      getFunc t f = { getFunc s f with evqHead := v % 65536 } ∧ t.host.hostMem = s.host.hostMem) ∧
  (∀ (s : State) (f v : Nat), hostMay s f = true →
    ∃ t, exec (.evqLostW1c f v) s = .next t ∧ HostOnly s t ∧ (∀ g, g ≠ f → SameFunc s t g) ∧
      (∀ n, n < 32 → ((getFunc t f).evqLost.testBit n = ((getFunc s f).evqLost.testBit n && !v.testBit n))) ∧
      getFunc t f = { getFunc s f with evqLost := (getFunc t f).evqLost }) ∧
  (∀ (s : State) (f v : Nat), hostMay s f = true →
    ∃ t, exec (.apertureWrite f v) s = .next t ∧ HostOnly s t ∧ (∀ g, g ≠ f → SameFunc s t g) ∧
      (getFunc t f).aperture.toNat = v / 2 ^ 21 % 2 ^ 27 * 2 ^ 21 ∧ getFunc t f = { getFunc s f with aperture := (getFunc t f).aperture }) ∧
  (∀ (s : State) (v : Nat), hostMay s 0 = true → s.boot.ready = true →
    ∃ t, exec (.errSummaryW1c v) s = .next t ∧ HostOnly s t ∧ t.host.errBits.toNat.testBit 7 = true ∧
      (∀ n, n < 16 → n ≠ 7 → t.host.errBits.toNat.testBit n = (s.host.errBits.toNat.testBit n && !v.testBit n)) ∧
      t.host.errMask = s.host.errMask ∧ t.host.freezes = s.host.freezes) ∧
  (∀ (s : State) (f : Nat), hostMay s f = false →
    (∀ r v, exec (.cmdqDoorbellWrite f r v) s = .next s) ∧ (∀ w v, exec (.ringEnableWrite f w v) s = .next s) ∧
    (∀ r v, exec (.cqHeadWrite f r v) s = .next s) ∧ (∀ v b, exec (.evqHeadWrite f v b) s = .next s) ∧
    (∀ v, exec (.evqLostW1c f v) s = .next s) ∧ (∀ v, exec (.apertureWrite f v) s = .next s))

/-- Host writes of registers (R446 to R449, R453, R518). -/
def Obligations.RegisterWrites : Prop :=
  (∀ (s : State) (f v : Nat), f < 8 →
    exec (.registerWrite f 2 0x20 8 v) s = exec (.cmdqDoorbellWrite f 0 v) s ∧ exec (.registerWrite f 2 0x50 8 v) s = exec (.cmdqDoorbellWrite f 1 v) s ∧
    exec (.registerWrite f 2 0x18 8 v) s = exec (.ringEnableWrite f 0 v) s ∧ exec (.registerWrite f 2 0x48 8 v) s = exec (.ringEnableWrite f 1 v) s ∧
    exec (.registerWrite f 2 0x88 8 v) s = exec (.ringEnableWrite f 2 v) s ∧ exec (.registerWrite f 2 0x38 8 v) s = exec (.cqHeadWrite f 0 v) s ∧
    exec (.registerWrite f 2 0x68 8 v) s = exec (.cqHeadWrite f 1 v) s ∧ exec (.registerWrite f 2 0x90 8 v) s = exec (.evqHeadWrite f v false) s ∧
    exec (.registerWrite f 2 0x98 8 v) s = exec (.evqLostW1c f v) s ∧ exec (.registerWrite f 2 0xA0 8 v) s = exec (.apertureWrite f v) s) ∧
  (∀ (s : State) (f v : Nat), f < 8 → hostMay s f = true →
    ∃ t, exec (.registerWrite f 2 0x10 8 v) s = .next t ∧ HostOnly s t ∧ (∀ g, g ≠ f → SameFunc s t g) ∧
      getRing t f 0 = { getRing s f 0 with base := BitVec.ofNat 64 (v / 4096 * 4096) } ∧ getRing t f 1 = getRing s f 1) ∧
  (∀ (s : State) (v : Nat), s.boot.served = true → hostMay s 0 = true →
    exec (.registerWrite 0 0 0x200 8 v) s = exec (.errSummaryW1c v) s ∧
    exec (.registerWrite 0 0 0x208 8 v) s = .next { s with host := { s.host with errMask := BitVec.ofNat 64 (v % 2 ^ 13) } }) ∧
  (∀ (s : State) (v : Nat), s.boot.served = true → s.boot.halted = false → (getFunc s 0).frozen = false → v % 2 = 0 →
    exec (.registerWrite 0 0 0x100 8 v) s = .next { s with boot := { s.boot with reqStep := v / 2 ^ 8 % 16, opPoint := v / 2 ^ 4 % 4 } }) ∧
  (∀ (s : State) (f bar off size v : Nat), size ≠ 8 ∨ off % 8 ≠ 0 ∨ (bar ≠ 0 ∧ bar ≠ 2) → exec (.registerWrite f bar off size v) s = .next s) ∧
  (∀ (s : State) (off v : Nat), 0x1000 ≤ off → exec (.registerWrite 0 2 off 8 v) s = .next s)

/-- Requests through BAR4 (R245, R464 to R468). -/
def Obligations.Bar4Access : Prop :=
  (∀ (s : State) (f off n : Nat), bar4Open s f = true → hostCause s f ((getFunc s f).aperture.toNat + off) n = none →
    meetsReset s ((getFunc s f).aperture.toNat + off) n = false →
    ∃ t, exec (.bar4Read f off (n, [])) s = .next t ∧ HostOnly s t ∧
      t.host.bar4Reply = (rdData s ((getFunc s f).aperture.toNat + off) n,
        rdTagged s (((getFunc s f).aperture.toNat + off) / 64 * 64) (((getFunc s f).aperture.toNat + off) % 64 + n))) ∧
  (∀ (s : State) (f off n k : Nat), bar4Open s f = true → hostCause s f ((getFunc s f).aperture.toNat + off) n = none →
    meetsReset s ((getFunc s f).aperture.toNat + off) n = false → isWindow ((getFunc s f).aperture.toNat + off) = true → k < n →
    ∃ t, exec (.bar4Read f off (n, [((getFunc s f).aperture.toNat + off + k, true)])) s = .next t ∧ t.host.bar4Reply.1.length = n ∧ t.host.bar4Reply.2 = true ∧
      ∃ u, t = { u with host := t.host } ∧ u = spdUncorrectable s (windowLb ((getFunc s f).aperture.toNat + off)) 0xFF 0xFF (windowOff ((getFunc s f).aperture.toNat + off + k))) ∧
  (∀ (s : State) (f off n : Nat) (errs : List (Nat × Bool)), bar4Open s f = false →
    exec (.bar4Read f off (n, errs)) s = .next { s with host := { s.host with bar4Reply := (List.replicate n 0xFF, false) } }) ∧
  (∀ (s : State) (f off n c : Nat) (errs : List (Nat × Bool)), f ≠ 0 → bar4Open s f = true → hostCause s f ((getFunc s f).aperture.toNat + off) n = some c →
    meetsReset s ((getFunc s f).aperture.toNat + off) n = false →
    ∃ t, exec (.bar4Read f off (n, errs)) s = .next t ∧ HostOnly s t ∧ (getFunc t f).frozen = true ∧ t.host.bar4Reply = (List.replicate n 0xFF, false)) ∧
  (∀ (s : State) (off n c : Nat) (errs : List (Nat × Bool)), bar4Open s 0 = true → hostCause s 0 ((getFunc s 0).aperture.toNat + off) n = some c →
    meetsReset s ((getFunc s 0).aperture.toNat + off) n = false →
    ∃ t, exec (.bar4Read 0 off (n, errs)) s = .next t ∧ HostOnly s t ∧ (getFunc t 0).frozen = false ∧
      (getFunc t 0).denied = min (2 ^ 32 - 1) ((getFunc s 0).denied + 1)) ∧
  (∀ (s : State) (f off c : Nat) (d : List Byte) (errs : List (Nat × Bool)), f ≠ 0 → bar4Open s f = true → hostCause s f ((getFunc s f).aperture.toNat + off) d.length = some c →
    meetsReset s ((getFunc s f).aperture.toNat + off) d.length = false →
    ∃ t, exec (.bar4Write f off (d, errs)) s = .next t ∧ HostOnly s t ∧ (getFunc t f).frozen = true) ∧
  (∀ (s : State) (f off : Nat) (d : List Byte), bar4Open s f = true → hostCause s f ((getFunc s f).aperture.toNat + off) d.length = none →
    meetsReset s ((getFunc s f).aperture.toNat + off) d.length = false → isWindow ((getFunc s f).aperture.toNat + off) = true → Mem.wf s.mem.bytes = true →
    ∃ t, exec (.bar4Write f off (d, [])) s = .next t ∧ t.host = s.host ∧ t.jobs = s.jobs ∧ t.parts = s.parts ∧
      (∀ k, k < d.length → Mem.get t.mem.bytes ((getFunc s f).aperture.toNat + off + k) = d.getD k 0) ∧
      (∀ a, a < (getFunc s f).aperture.toNat + off ∨ (getFunc s f).aperture.toNat + off + d.length ≤ a → Mem.get t.mem.bytes a = Mem.get s.mem.bytes a))

/-- Ring service and interrupt coalescing (R455, R462, R463). -/
def Obligations.RingService : Prop :=
  (∀ (s : State) (f r : Nat) (ds : List (List Byte)), r < 2 → nextRing s = some (f, r) → (getRing s f r).ci < 65536 → (getRing s f r).pi < 65536 →
    (getRing s f r).fetched = [] → (getFunc s f).lostSince = 0 → s.boot.st ≠ 3 →
    (∀ k, k < ((getRing s f r).pi + 65536 - (getRing s f r).ci) % 65536 → fieldLe (ds.getD k []) 0 2 ∈ psmOpcodes) →
    ∃ t, exec (.mpRingService f r ds false) s = .next t ∧ HostOnly s t ∧ (∀ g, g ≠ f → SameFunc s t g) ∧ t.host.fnPtr = (f + 1) % 8 ∧
      (getRing t f r).pending = false ∧ (getRing t f r).ci = (getRing s f r).pi ∧
      (getRing t f r).fetched.length = ((getRing s f r).pi + 65536 - (getRing s f r).ci) % 65536 ∧
      (∀ k, k < ((getRing s f r).pi + 65536 - (getRing s f r).ci) % 65536 →
        (getRing t f r).fetched[k]? = some (parseDesc (ds.getD k []) (((getRing s f r).ci + k) % 65536)))) ∧
  (∀ (s : State) (f r : Nat) (ds : List (List Byte)) (b : Bool), nextRing s ≠ some (f, r) → exec (.mpRingService f r ds b) s = .next s) ∧
  (∀ (s : State) (f r : Nat) (ds : List (List Byte)), r < 2 → nextRing s = some (f, r) → (getRing s f r).ci < 65536 → (getRing s f r).pi < 65536 →
    (getRing s f r).pi ≠ (getRing s f r).ci →
    ∃ t, exec (.mpRingService f r ds true) s = .next t ∧ HostOnly s t ∧ cfgEnable (getRing t f r).cfg = false ∧ (getRing t f r).fetched = [] ∧
      t.host.errBits.toNat.testBit 12 = true) ∧
  (∀ (s : State) (f : Nat), (getFunc s f).coal.count = 0 → exec (.msixCoalTimer f 2) s = .next s) ∧
  (∀ (s : State) (f addr data ctl : Nat), (getFunc s f).coal.count ≠ 0 → cfgCoalTime (getFunc s f).evqCfg ≠ 0 →
    (getFunc s f).coal.since + 100 * cfgCoalTime (getFunc s f).evqCfg ≤ s.time.tb → (getFunc s f).frozen = false →
    Tab.get (0, 0, 1) (getFunc s f).msix (cfgVector (getFunc s f).evqCfg) = (addr, data, ctl) → ctl % 2 = 0 → Mem.wf s.host.hostMem = true →
    ∃ t, exec (.msixCoalTimer f 2) s = .next t ∧ HostOnly s t ∧ (getFunc t f).coal.count = 0 ∧ Mem.read t.host.hostMem addr 4 = toLe 4 data)

/-- The event record (R460, R462), by the loss of the reference. -/
def Obligations.EventRecord : Prop :=
  (∀ (s : State), s.power.conv = true → s.power.holdover = false → s.boot.halted = false → evqRoom (getFunc s 0) = true → (getFunc s 0).lostSince = 0 →
    (cfgCoalCount (getFunc s 0).evqCfg > (getFunc s 0).coal.count + 1) → Mem.wf s.host.hostMem = true →
    ∃ t a, exec .clockRefLost s = .next t ∧ t.power.holdover = true ∧
      a = (getFunc s 0).evqBase.toNat / 4096 * 4096 + 64 * ((getFunc s 0).evqWi % cfgSize (getFunc s 0).evqCfg) ∧
      Mem.read t.host.hostMem a 2 = [0x66, 0x04] ∧
      Mem.get t.host.hostMem (a + 2) = (if (getFunc s 0).evqWi / cfgSize (getFunc s 0).evqCfg % 2 = 0 then 1 else 0) ∧
      Mem.read t.host.hostMem (a + 4) 4 = toLe 4 ((getFunc s 0).evqWi % 2 ^ 32) ∧ Mem.read t.host.hostMem (a + 8) 8 = toLe 8 s.time.tb ∧
      (∀ b, b < a ∨ a + 64 ≤ b → hostByte t b = hostByte s b) ∧
      (getFunc t 0).evqWi = (getFunc s 0).evqWi + 1 ∧ (∀ g, g ≠ 0 → SameFunc s t g)) ∧
  (∀ (s : State), s.power.conv = true → s.power.holdover = false → s.boot.halted = false → cfgEnable (getFunc s 0).evqCfg = false →
    ∃ t, exec .clockRefLost s = .next t ∧ t.power.holdover = true ∧ (getFunc t 0).evqLost = min (2 ^ 32 - 1) ((getFunc s 0).evqLost + 1) ∧
      (getFunc t 0).lostSince = min (2 ^ 32 - 1) ((getFunc s 0).lostSince + 1) ∧ t.host.errBits.toNat.testBit 11 = true)

/-- The course of a command (R456 to R459, R481). -/
def Obligations.CommandCourse : Prop :=
  (∀ (s : State) (f r : Nat) (d : Desc), f < 8 → r < 2 → (getRing s f r).fetched = [d] → d.opcode = 0x0001 → bit d.flags 0 = false →
    mayBegin s f r = true → ringTurn s r = true → cfgEnable (getRing s f r).cfg = true → (getRing s f r).heldCq = [] → cqFull (getRing s f r) = false →
    Mem.wf s.host.hostMem = true →
    ∃ t a, exec (.psmIdentify f r ⟨[], none, false⟩) s = .next t ∧ HostOnly s t ∧
      a = (getRing s f r).cqBase.toNat / 4096 * 4096 + 32 * ((getRing s f r).cqWi % cfgSize (getRing s f r).cfg) ∧
      Mem.read t.host.hostMem a 4 = toLe 4 d.tag ∧ Mem.read t.host.hostMem (a + 4) 2 = [0, 0] ∧ Mem.read t.host.hostMem (a + 8) 2 = toLe 2 d.index ∧
      Mem.read t.host.hostMem (a + 16) 2 = toLe 2 s.host.ifVersion ∧
      (getRing t f r).cqWi = (getRing s f r).cqWi + 1 ∧ (getRing t f r).fetched = [] ∧ (∀ g, g ≠ f → SameFunc s t g) ∧
      (∀ b, b < a ∨ a + 32 ≤ b → hostByte t b = hostByte s b)) ∧
  (∀ (s : State) (f : Nat) (d : Desc) (w : PsmRow) (io : HostIo), w.pfOnly = true → f ≠ 0 → genericRefusal s f d w io = some 2) ∧
  (∀ (s : State) (f : Nat) (d : Desc) (w : PsmRow) (io : HostIo), (w.pfOnly = false ∨ f = 0) → w.scope = .part → namedPart s f d = none →
    genericRefusal s f d w io = some 3) ∧
  (∀ (s : State) (f p : Nat) (d : Desc) (w : PsmRow) (io : HostIo), (w.pfOnly = false ∨ f = 0) → w.scope = .part → namedPart s f d = some p →
    (getPart s p).resetting = true → genericRefusal s f d w io = some 4) ∧
  (∀ (s : State) (f : Nat) (d : Desc) (w : PsmRow) (io : HostIo), (w.pfOnly = false ∨ f = 0) → w.scope ≠ .part →
    d.inLen < w.inNeed d.params io.buf ∨ d.outLen < w.outNeed → genericRefusal s f d w io = some 5) ∧
  (∀ (s : State) (f r st : Nat) (d : Desc) (w : PsmRow) (pick : Desc → Bool) (io : HostIo) (body : State → Call → State × Answer),
    (getRing s f r).fetched.head?.map settled = some d → genericRefusal (popFetched s f r) f d w io = some st → HostOnly s (withCmd w pick f r io body s)) ∧
  (∀ (d : Desc) (e : Nat × Nat × Nat), e ∈ codeFields → d.opcode = e.1 → (settled d).opcode = d.opcode ∧ (settled d).tag = d.tag ∧
    fieldLe (settled d).params e.2.1 1 ≤ e.2.2 ∧ ∀ k, k < 32 → (∀ x ∈ codeFields, x.1 = d.opcode → x.2.1 ≠ k) → (settled d).params.getD k 0 = d.params.getD k 0) ∧
  (∀ (d : Desc), (∀ e ∈ codeFields, d.opcode = e.1 → fieldLe d.params e.2.1 1 ≤ e.2.2) → settled d = d)

/-- PSM_PART_CONFIG (R482, R483). -/
def Obligations.PartitionConfig : Prop :=
  ∀ (s : State) (f r : Nat) (io : HostIo) (d : Desc), Starts s rowPartConfig f r io d → d.par 0 1 < 4 →
    partBusy s (d.par 0 1) = false →
    (∀ q k, q < 4 → q ≠ d.par 0 1 → k < 64 → bit (d.par 8 8) k = true → k ∉ (getPart s q).rows) →
    (∀ q, q < 4 → q ≠ d.par 0 1 → overlaps (d.par 4 4) (d.par 0x10 4) (getPart s q).ctxs.1 (getPart s q).ctxs.2 = false ∧
      overlaps (d.par 2 2) (d.par 0x14 2) (getPart s q).keys.1 (getPart s q).keys.2 = false) →
    d.par 4 4 + d.par 0x10 4 ≤ 4194304 → d.par 4 4 % 64 = 0 → d.par 0x10 4 % 64 = 0 → d.par 2 2 + d.par 0x14 2 ≤ 1024 →
    (getPart s (d.par 0 1)).keys = (d.par 2 2, d.par 0x14 2) →
    (d.par 1 1 = vfOf s (d.par 0 1) ∨ ((getFunc s (d.par 1 1)).part = none ∧ ringsIdle s (d.par 1 1) = true ∧ vfOf s (d.par 0 1) = 0)) →
    ∃ t, exec (.psmPartConfig f r io) s = .next t ∧
      (getPart t (d.par 0 1)).rows = (List.range 64).filter (fun k => bit (d.par 8 8) k) ∧
      (getPart t (d.par 0 1)).ctxs = (d.par 4 4, d.par 0x10 4) ∧ (getPart t (d.par 0 1)).keys = (d.par 2 2, d.par 0x14 2) ∧
      (d.par 1 1 ≠ 0 → (getFunc t (d.par 1 1)).part = some (d.par 0 1)) ∧
      (∀ q, q ≠ d.par 0 1 → getPart t q = getPart s q) ∧ t.jobs = s.jobs ∧ t.cipher = s.cipher ∧ t.boot = s.boot ∧ t.board = s.board ∧
      (∀ a, isWindow a = false → Mem.get t.mem.bytes a = Mem.get s.mem.bytes a) ∧
      (∀ a, isWindow a = true → bit (d.par 8 8) (windowLb a / 9) = true → windowLb a / 9 ∉ (getPart s (d.par 0 1)).rows →
        Mem.get t.mem.bytes a = 0)

/-- PSM_PAGE_ASSIGN and PSM_PAGE_RELEASE (R244, R246, R484, R485). -/
def Obligations.Pages : Prop :=
  (∀ (s : State) (f r : Nat) (io : HostIo) (d : Desc), Starts s rowPageAssign f r io d → d.par 0 1 < 4 →
    d.par 4 4 + d.par 8 4 ≤ partTop s / 0x200000 →
    (∀ k, d.par 4 4 ≤ k → k < d.par 4 4 + d.par 8 4 → pageOwned (pageEntry s k) = true → pagePart (pageEntry s k) = d.par 0 1) →
    ∃ t, exec (.psmPageAssign f r io) s = .next t ∧ t = { s with host := t.host, mem := t.mem } ∧
      (∀ k, d.par 4 4 ≤ k → k < d.par 4 4 + d.par 8 4 → pageOwned (pageEntry t k) = true ∧ pagePart (pageEntry t k) = d.par 0 1 ∧
        pageHost (pageEntry t k) = bit (d.par 1 1) 0 ∧ pageComp (pageEntry t k) = (pageOwned (pageEntry s k) && pageComp (pageEntry s k))) ∧
      (∀ k, k < d.par 4 4 ∨ d.par 4 4 + d.par 8 4 ≤ k → pageEntry t k = pageEntry s k) ∧
      (∀ a, d.par 4 4 * 0x200000 ≤ a → a < (d.par 4 4 + d.par 8 4) * 0x200000 → pageOwned (pageEntry s (a / 0x200000)) = false → Mem.get t.mem.bytes a = 0) ∧
      (∀ a, a < d.par 4 4 * 0x200000 ∨ (d.par 4 4 + d.par 8 4) * 0x200000 ≤ a ∨ pageOwned (pageEntry s (a / 0x200000)) = true →
        Mem.get t.mem.bytes a = Mem.get s.mem.bytes a)) ∧
  (∀ (s : State) (f r : Nat) (io : HostIo) (d : Desc), Starts s rowPageRelease f r io d → d.par 0 1 < 4 →
    d.par 4 4 + d.par 8 4 ≤ partTop s / 0x200000 →
    (∀ k, d.par 4 4 ≤ k → k < d.par 4 4 + d.par 8 4 → pageOwned (pageEntry s k) = true ∧ pagePart (pageEntry s k) = d.par 0 1) →
    (∀ jk, jk < 8 → (getJob s jk).image = none) →
    ∃ t, exec (.psmPageRelease f r io) s = .next t ∧ t = { s with host := t.host, mem := t.mem } ∧
      (∀ k, d.par 4 4 ≤ k → k < d.par 4 4 + d.par 8 4 → pageEntry t k = 0) ∧
      (∀ k, k < d.par 4 4 ∨ d.par 4 4 + d.par 8 4 ≤ k → pageEntry t k = pageEntry s k) ∧
      (∀ a, d.par 4 4 * 0x200000 ≤ a → a < (d.par 4 4 + d.par 8 4) * 0x200000 → Mem.get t.mem.bytes a = 0) ∧
      (∀ a, a < d.par 4 4 * 0x200000 ∨ (d.par 4 4 + d.par 8 4) * 0x200000 ≤ a → Mem.get t.mem.bytes a = Mem.get s.mem.bytes a))

/-- PSM_MASTER_THAW and PSM_PARTITION_RESET (R469, R470, R486, R487). -/
def Obligations.ThawAndReset : Prop :=
  (∀ (s : State) (f r k : Nat) (io : HostIo) (d : Desc) (z : Freeze), Starts s rowMasterThaw f r io d → d.par 0 1 = k → k < 64 →
    s.host.freezes = [(k, z)] → s.host.freezeWait = [] → z.cls = 0 → z.source % 8192 = 0x400 + 1 →
    ∃ t, exec (.psmMasterThaw f r io) s = .next t ∧ HostOnly s t ∧ (getFunc t 1).frozen = false ∧ t.host.freezes = []) ∧
  (∀ (s : State) (f r k : Nat) (io : HostIo) (d : Desc) (z : Freeze), Starts s rowMasterThaw f r io d → d.par 0 1 = k → k < 64 →
    s.host.freezes = [(k, z)] → s.host.freezeWait = [] → z.cls = 4 → 0x320 ≤ z.source % 8192 →
    ∃ t, exec (.psmMasterThaw f r io) s = .next t ∧ t = { s with host := t.host, feeds := t.feeds } ∧
      (getFeed t (z.source % 8192 - 0x320)).frozen = false ∧ t.host.freezes = []) ∧
  (∀ (s : State) (f r : Nat) (io : HostIo) (d : Desc), Starts s rowPartReset f r io d → s.host.freezes = [] → s.host.freezeWait = [] →
    ∃ t, exec (.psmPartitionReset f r io) s = .next t ∧ (getPart t d.part).resetting = false ∧ (getPart t d.part).rows = (getPart s d.part).rows ∧
      (getJob t (2 * d.part)).phase = .closed ∧ (getJob t (2 * d.part + 1)).phase = .closed ∧
      (∀ k, pageOwned (pageEntry t k) = pageOwned (pageEntry s k) ∧ pagePart (pageEntry t k) = pagePart (pageEntry s k)) ∧
      (d.par 0 1 = 1 → ∀ a, a < 0x008000000000 → pageOwned (pageEntry s (a / 0x200000)) = true → pagePart (pageEntry s (a / 0x200000)) = d.part →
        Mem.get t.mem.bytes a = 0) ∧
      t.boot = s.boot ∧ t.cipher.moduleKey = s.cipher.moduleKey)

/-- Paths and the messages of a peer's reset (R234, R435, R471, R500). -/
def Obligations.PathsAndPeers : Prop :=
  (∀ (s : State) (f r : Nat) (io : HostIo) (d : Desc), Starts s rowPathSet f r io d → 80 ≤ d.inLen → d.inLen = io.buf.length →
    fieldLe io.buf 0 1 = 1 → fieldLe io.buf 1 1 = 0 → fieldLe io.buf 4 4 = 0 → fieldLe io.buf 16 1 ≤ 8 → (getSite s (fieldLe io.buf 16 1)).fitted = true →
    ∃ t, exec (.psmPathSet f r io) s = .next t ∧ (getSite t (fieldLe io.buf 16 1)).entry = (io.buf.drop 16).take 64 ∧
      (∀ k, k ≠ fieldLe io.buf 16 1 → getSite t k = getSite s k) ∧ t.board.ports = s.board.ports ∧ t.board.peers = s.board.peers ∧
      t.board.etype = s.board.etype ∧ t.mem = s.mem ∧ t.jobs = s.jobs) ∧
  (∀ (s : State) (ks : List Nat) (q : LongRef), s.board.leaving = some (ks, q) → pathQuiet s ks = true →
    ∃ t, exec .pathRemoveDone s = .next t ∧ t = { s with host := t.host, board := { s.board with leaving := none } }) ∧
  (∀ (s : State), s.board.leaving = none → exec .pathRemoveDone s = .next s) ∧
  (∀ (s : State) (dst tag type : Nat) (body : List Byte),
    exec (.partResetRefusalReceive dst tag type body) s =
      .next { s with board := { s.board with refused := s.board.refused ++ [(dst, tag, ⟨0, type, body, s.time.tb, 0, 0⟩)] } }) ∧
  (∀ (s : State), (∀ e ∈ s.board.refused, s.time.tb < e.2.2.sent + 10000) → exec .partResetFrameRetry s = .next s) ∧
  (∀ (s : State) (k dst tag : Nat) (h : HeldFrame), s.board.refused = [(dst, tag, h)] → h.sent + 10000 ≤ s.time.tb → dst < 8 → dst ≠ s.board.slotId →
    boardRoute s dst h.type = some (k, false) → h.body.length ≤ 456 → (getPort s k).retrain = false → (getPort s k).replay.length < 4096 →
    ∃ t, exec .partResetFrameRetry s = .next t ∧ t.board.refused = [] ∧ t.out.length = s.out.length + 1 ∧
      (getPort t k).txNext = ((getPort s k).txNext + 1) % 65536 ∧ t.host = s.host ∧ t.mem = s.mem) ∧
  (∀ (s : State) (src tag : Nat), jobOfTag s tag = none →
    exec (.jobClosedReceive src tag) s = .next { s with board := { s.board with refused := s.board.refused.filter (fun e => !(e.1 == src && e.2.1 == tag)) } }) ∧
  (∀ (s : State) (src tag jk k i : Nat) (im : Image) (d : ConvDesc), jobOfTag s tag = some jk → (getJob s jk).image = some im →
    im.conveyors[k]? = some d → extKind d = 2 → (getConv s jk k).peer = some (src, i) →
    ∃ t, exec (.jobClosedReceive src tag) s = .next t ∧ (getConv t jk k).broken = true ∧ t.parts = s.parts ∧ t.boot = s.boot)

/-- The switch of the MP pairs (R478, R537, R553, R587). -/
def Obligations.StandbyTakesOver : Prop :=
  (∀ (s : State) (w : Bool), s.host.mpStandby = false → unusable s (unitKey 8 1) = false → s.boot.halted = false →
    ∃ t, exec (.mpSwitched w) s = .next t ∧ t.host.mpStandby = true ∧ t.board.leaving = none ∧ t.fw.op = none ∧ t.self.slice = none ∧ t.self.link = none ∧
      (∀ f r, r < 2 → (getRing t f r).heldCq = (getRing s f r).heldCq.map (fun c => { c with status := 7 })) ∧
      (∀ jk, jk < 8 → (getJob t jk).stopping = none ∧ (getJob t jk).pausing = none) ∧
      t.power = s.power ∧ t.cipher.moduleKey = s.cipher.moduleKey ∧ t.boot.wear = s.boot.wear) ∧
  (∀ (s : State) (w : Bool), s.host.mpStandby = true → exec (.mpSwitched w) s = .next s)

/-- PSM_JOB_OPEN, PSM_WORKINGS_LOAD, PSM_JOB_RUN (R488 to R493). -/
def Obligations.JobOpenLoadRun : Prop :=
  (∀ (s : State) (f r p : Nat) (io : HostIo) (d : Desc), Starts s rowJobOpen f r io d → io.buf.length = d.inLen → namedPart s f d = some p →
    partRows s p ≠ [] → (getJob s (p * 2 + fieldLe io.buf 0 1)).phase = .closed → s.mem.failedLs = [] → jobPolicyBad s io.buf = false →
    (fieldLe io.buf 0 1 = 0 → cutBad s (parseCut (io.buf.drop 0x60)) = false) →
    ∃ t, exec (.psmJobOpen f r io) s = .next t ∧ t = { s with host := t.host, jobs := t.jobs, board := { s.board with resetTags := t.board.resetTags } } ∧
      (getJob t (p * 2 + fieldLe io.buf 0 1)).phase = .opened ∧ (getJob t (p * 2 + fieldLe io.buf 0 1)).start = fieldLe io.buf 8 4 ∧
      (getJob t (p * 2 + fieldLe io.buf 0 1)).func = f ∧ (getJob t (p * 2 + fieldLe io.buf 0 1)).image = none ∧
      (fieldLe io.buf 0 1 = 0 → (getJob t (p * 2)).tag = fieldLe io.buf 4 4) ∧
      (∀ jk, jk ≠ p * 2 + fieldLe io.buf 0 1 → getJob t jk = getJob s jk)) ∧
  (∀ (s : State) (f r p : Nat) (io : HostIo) (d : Desc), Starts s rowLoad f r io d → io.buf.length = d.inLen → namedPart s f d = some p → d.par 4 1 ≤ 1 →
    (getJob s (p * 2 + d.par 4 1)).phase ≠ .closed → s.mem.failedLs = [] → imageRefusal s p (d.par 4 1) (io.buf.take (d.par 0 4)) = none →
    (getJob s (p * 2 + d.par 4 1)).image = none →
    bindsBad s (parseImage (io.buf.take (d.par 0 4))) (parseBinds io.buf (d.par 0 4) (d.par 5 1)) = false →
    (d.par 4 1 = 0 → epochBad (getJob s (p * 2)).cut (parseImage (io.buf.take (d.par 0 4))) = false) →
    ∃ t, exec (.psmWorkingsLoad f r io) s = .next t ∧ (getJob t (p * 2 + d.par 4 1)).phase = .loaded ∧
      (getJob t (p * 2 + d.par 4 1)).image = some (parseImage (io.buf.take (d.par 0 4))) ∧
      (d.par 4 1 = 0 → let im := parseImage (io.buf.take (d.par 0 4))
        (getJob t (p * 2)).numBase = tableBase s p (d.par 8 8) (layerParts im 128) ∧ (getJob t (p * 2)).stepBase = tableBase s p (d.par 0x10 8) (layerParts im 64) ∧
        (getJob t (p * 2)).shardBase = tableBase s p (d.par 0x18 8) [(0, 64 * (masters im).length)]) ∧
      (∀ jk, jk ≠ p * 2 + d.par 4 1 → (getJob t jk).phase = (getJob s jk).phase) ∧ t.parts = s.parts ∧ t.boot = s.boot ∧
      t.cipher.moduleKey = s.cipher.moduleKey) ∧
  (∀ (s : State) (f r p : Nat) (io : HostIo) (d : Desc) (im : Image), Starts s rowRun f r io d → namedPart s f d = some p → d.par 0 1 ≤ 1 →
    (getJob s (p * 2 + d.par 0 1)).phase = .loaded → (getJob s (p * 2 + d.par 0 1)).image = some im → restoring s (p * 2 + d.par 0 1) = false →
    (im.sched.roundSteps = 0 ∨ (getJob s (p * 2 + d.par 0 1)).round.policy ≠ none) →
    ∃ t, exec (.psmJobRun f r io) s = .next t ∧ (getJob t (p * 2 + d.par 0 1)).phase = .running ∧
      (getJob t (p * 2 + d.par 0 1)).step = (getJob s (p * 2 + d.par 0 1)).start ∧ (getJob t (p * 2 + d.par 0 1)).stepOpen = true ∧
      (∀ jk, jk ≠ p * 2 + d.par 0 1 → (getJob t jk).phase = (getJob s jk).phase) ∧ t.parts = s.parts ∧
      t.cipher.moduleKey = s.cipher.moduleKey)

/-- PSM_JOB_STOP, PSM_JOB_PAUSE, PSM_JOB_RESUME (R494, R495, R570). -/
def Obligations.JobStopPauseResume : Prop :=
  (∀ (s : State) (f r p : Nat) (io : HostIo) (d : Desc), Starts s rowStop f r io d → namedPart s f d = some p → d.par 0 1 ≤ 1 → d.par 1 1 = 0 →
    (getJob s (p * 2 + d.par 0 1)).phase ≠ .closed → (getJob s (p * 2 + d.par 0 1)).reshard = none → (getJob s (p * 2 + d.par 0 1)).stopping = none →
    ∃ t, exec (.psmJobStopBoundary f r io) s = .next t ∧ t = { s with host := t.host, jobs := t.jobs } ∧
      getJob t (p * 2 + d.par 0 1) = { getJob s (p * 2 + d.par 0 1) with stopping := some ⟨d.tag, d.opcode, d.index, r, f⟩ } ∧
      (∀ jk, jk ≠ p * 2 + d.par 0 1 → getJob t jk = getJob s jk)) ∧
  (∀ (s : State) (f r p : Nat) (io : HostIo) (d : Desc), Starts s rowStop f r io d → namedPart s f d = some p → d.par 0 1 ≤ 1 → d.par 1 1 = 1 →
    (getJob s (p * 2 + d.par 0 1)).phase ≠ .closed → (getJob s (p * 2 + d.par 0 1)).reshard = none →
    ∃ t, exec (.psmJobStopNow f r io) s = .next t ∧ getJob t (p * 2 + d.par 0 1) = Job.reset ∧
      (∀ e ∈ t.convs, e.1 / 4096 ≠ p * 2 + d.par 0 1) ∧ (∀ jk, jk ≠ p * 2 + d.par 0 1 → (getJob t jk).phase = (getJob s jk).phase) ∧
      t.parts = s.parts ∧ t.boot = s.boot) ∧
  (∀ (s : State) (f r p : Nat) (io : HostIo) (d : Desc), Starts s rowPause f r io d → namedPart s f d = some p → d.par 0 1 ≤ 1 →
    (getJob s (p * 2)).phase = .running → hasHold (getJob s (p * 2)) .hostPause = false → (getJob s (p * 2)).holdAt = [] →
    (getJob s (p * 2)).reshard = none → (getJob s (p * 2)).held = false →
    (d.par 0 1 = 1 → ∃ im, (getJob s (p * 2)).image = some im ∧ im.sched.roundSteps ≠ 0) →
    ∃ t, exec (.psmJobPause f r io) s = .next t ∧ (getJob t (p * 2)).pausing = some ⟨d.tag, d.opcode, d.index, r, f⟩ ∧
      (getJob t (p * 2)).holdAt = [(.hostPause, d.par 0 1 == 1)] ∧ (getJob t (p * 2)).phase = .running ∧
      t.mem = s.mem ∧ t.parts = s.parts ∧ t.boot = s.boot ∧ t.benches = s.benches ∧ t.convs = s.convs) ∧
  (∀ (s : State) (f r p : Nat) (io : HostIo) (d : Desc), Starts s rowResume f r io d → namedPart s f d = some p →
    (getJob s (p * 2)).phase ≠ .closed → (getJob s (p * 2)).held = true → hasHold (getJob s (p * 2)) .hostPause = true →
    ∃ t, exec (.psmJobResume f r io) s = .next t ∧ (getJob t (p * 2)).holds = (getJob s (p * 2)).holds.filter (· != .hostPause) ∧
      (getJob t (p * 2)).held = !((getJob s (p * 2)).holds.filter (· != .hostPause)).isEmpty ∧ t.parts = s.parts ∧ t.boot = s.boot ∧ t.mem = s.mem) ∧
  (∀ (s : State) (jk : Nat) (q : LongRef), (getJob s jk).stopping = some q → (getJob s jk).phase ≠ .closed →
    tasksBefore s jk ((getJob s jk).step + (if (getJob s jk).stepOpen then 1 else 0)) = true →
    nodesBefore (getJob s jk) ((getJob s jk).step + (if (getJob s jk).stepOpen then 1 else 0)) = true →
    ∃ t, exec (.jobStopBoundaryDone jk) s = .next t ∧ getJob t jk = Job.reset ∧ t.parts = s.parts ∧ t.boot = s.boot) ∧
  (∀ (s : State) (jk : Nat), (getJob s jk).stopping = none → exec (.jobStopBoundaryDone jk) s = .next s) ∧
  (∀ (s : State) (jk : Nat), let j := getJob s jk
    let e := min (j.step + 1) (j.stopFrom.getD (j.step + 1))
    let due := j.holdAt.filter (holdDue j e)
    j.phase = .running → j.held = false → j.stepOpen = true → (j.holds ≠ [] ∨ due ≠ []) →
    (snapshotPoint s jk e = true ∨ (∃ x ∈ due, x.1 = .lost) ∧ tasksBefore s jk e = true) →
    ∃ t, exec (.jobHeld jk) s = .next t ∧ t = { s with host := t.host, jobs := t.jobs } ∧ (getJob t jk).held = true ∧
      (getJob t jk).holds = j.holds ++ due.map Prod.fst ∧
      (getJob t jk).holdAt = j.holdAt.filter (fun x => !holdDue j e x) ∧
      (getJob t jk).step = (getJob s jk).step ∧ (∀ q, q ≠ jk → getJob t q = getJob s q)) ∧
  (∀ (s : State) (jk : Nat), (getJob s jk).held = true → exec (.jobHeld jk) s = .next s) ∧
  (∀ (s : State) (jk : Nat), let e := min ((getJob s jk).step + 1) ((getJob s jk).stopFrom.getD ((getJob s jk).step + 1))
    snapshotPoint s jk e = false → tasksBefore s jk e = false → exec (.jobHeld jk) s = .next s)

/-- PSM_REPLICA_SET and PSM_RESHARD (R300, R305, R323, R496, R497). -/
def Obligations.ReplicaSetAndReshard : Prop :=
  (∀ (s : State) (f r p : Nat) (io : HostIo) (d : Desc), Starts s rowReplicaSet f r io d → namedPart s f d = some p → d.par 0 1 = 0 →
    (getJob s (p * 2)).phase ≠ .closed → replicaBad (getJob s (p * 2)) true (d.par 2 2) (effectiveStep (getJob s (p * 2)) (d.par 4 4)) = false →
    d.par 2 2 ∈ (getJob s (p * 2)).members → (∀ c ∈ (getJob s (p * 2)).changes, ¬ (c.1 = d.par 2 2 ∧ c.2.1 = false)) →
    ∃ t, exec (.psmReplicaRemove f r io) s = .next t ∧
      (d.par 2 2, false, (if d.par 4 4 = 0 then (getJob s (p * 2)).step + 2 else d.par 4 4)) ∈ (getJob t (p * 2)).changes ∧
      (getJob t (p * 2)).phase = (getJob s (p * 2)).phase ∧ t.parts = s.parts ∧ t.boot = s.boot) ∧
  (∀ (s : State) (f r p : Nat) (io : HostIo) (d : Desc), Starts s rowReplicaSet f r io d → namedPart s f d = some p → d.par 0 1 = 1 →
    (getJob s (p * 2)).phase ≠ .closed → replicaBad (getJob s (p * 2)) false (d.par 2 2) (effectiveStep (getJob s (p * 2)) (d.par 4 4)) = false →
    d.par 2 2 ≠ (getJob s (p * 2)).policy.replica →
    ∃ t, exec (.psmReplicaReadmit f r io) s = .next t ∧
      (getJob t (p * 2)).changes = (getJob s (p * 2)).changes.filter (fun c => !(c.1 == d.par 2 2 && c.2.1))
        ++ [(d.par 2 2, true, (if d.par 4 4 = 0 then (getJob s (p * 2)).step + 2 else d.par 4 4))] ∧
      t.mem = s.mem ∧ t.parts = s.parts ∧ t.boot = s.boot ∧ (∀ jk, jk ≠ p * 2 → getJob t jk = getJob s jk)) ∧
  (∀ (s : State) (f r p : Nat) (io : HostIo) (d : Desc) (old : Image), Starts s rowReshard f r io d → io.buf.length = d.inLen → namedPart s f d = some p →
    (getJob s (p * 2)).phase ≠ .closed → (getJob s (p * 2)).reshard = none → (getJob s (p * 2)).held = false → (getJob s (p * 2)).image = some old →
    d.par 0 4 = (getJob s (p * 2)).cut.epoch + 1 → (getJob s (p * 2)).step + 2 ≤ d.par 4 4 → d.par 4 4 ≤ 0xFFFFFFFD → old.sched.roundSteps = 0 →
    imageRefusal s p 0 (io.buf.take (d.par 8 4)) = none → reshardDiffers old (parseImage (io.buf.take (d.par 8 4))) = false →
    cutBad s (parseCut (io.buf.drop (d.par 8 4))) = false → epochBad (parseCut (io.buf.drop (d.par 8 4))) (parseImage (io.buf.take (d.par 8 4))) = false →
    (parseCut (io.buf.drop (d.par 8 4))).epoch = d.par 0 4 →
    ∃ t x, exec (.psmReshard f r io) s = .next t ∧ t = { s with host := t.host, jobs := t.jobs } ∧ (getJob t (p * 2)).reshard = some x ∧
      x.epoch = d.par 0 4 ∧ x.step = d.par 4 4 ∧ x.drained = false ∧ x.cut = parseCut (io.buf.drop (d.par 8 4)) ∧
      (∀ jk, jk ≠ p * 2 → getJob t jk = getJob s jk))

/-- PSM_ROUND_POLICY and PSM_SITE_ADMIT (R336, R339, R359, R498, R499). -/
def Obligations.RoundPolicyAndSite : Prop :=
  (∀ (s : State) (f r p : Nat) (io : HostIo) (d : Desc) (im : Image), Starts s (rowRoundPolicy (frontMasters s f r)) f r io d → io.buf.length = d.inLen →
    namedPart s f d = some p → (getJob s (p * 2)).phase = .loaded → (getJob s (p * 2)).image = some im → im.sched.roundSteps ≠ 0 →
    roundRange (parsePolicy io.buf (masters im).length) = true →
    contextsIn s p (parsePolicy io.buf (masters im).length).ctxFirst (masters im).length = true →
    (∀ x ∈ (parsePolicy io.buf (masters im).length).partners, partnerOk x = true → keyInstalled s p x.keySlot = true) →
    roundPassed s (getJob s (p * 2)) im = false → (getJob s (p * 2)).round.saved = none →
    ∃ t, exec (.psmRoundPolicy f r io) s = .next t ∧ (getJob t (p * 2)).round.policy = some (ownPolicy s p im (parsePolicy io.buf (masters im).length)) ∧
      (getJob t (p * 2)).phase = .loaded ∧ t.parts = s.parts ∧ t.boot = s.boot ∧ t.cipher = s.cipher) ∧
  (∀ (s : State) (f r p : Nat) (io : HostIo) (d : Desc) (im : Image) (q : RoundPolicy), Starts s (rowSiteAdmit (frontMasters s f r)) f r io d →
    io.buf.length = d.inLen → namedPart s f d = some p → (getJob s (p * 2)).phase ≠ .closed → (getJob s (p * 2)).image = some im →
    (getJob s (p * 2)).round.policy = some q → im.sched.roundSteps ≠ 0 → 1 ≤ d.par 0 2 → d.par 0 2 ≤ 64 → q.addrs.length + d.par 0 2 ≤ 4096 →
    partnerRange (parsePartner (io.buf.take 32) ((List.range (masters im).length).map (fun n => fieldLe io.buf (32 + 32 * d.par 0 2 + 2 * n) 2)))
      (q.addrs.length + d.par 0 2) = true →
    contextsIn s p q.ctxFirst (masters im).length = true → keyInstalled s p (fieldLe io.buf 2 2) = true →
    (∀ n, n < (masters im).length → roundOf s (getJob s (p * 2)) n ≤ fieldLe io.buf 4 4) → q.partners.length < 64 → q.mode ≠ 1 →
    ∃ t q', exec (.psmSiteAdmit f r io) s = .next t ∧ (getJob t (p * 2)).round.policy = some q' ∧
      q'.partners.length = q.partners.length + 1 ∧ q'.partners.take q.partners.length = q.partners ∧
      q'.addrs.length = q.addrs.length + d.par 0 2 ∧ q'.addrs.take q.addrs.length = q.addrs ∧ t.parts = s.parts ∧ t.boot = s.boot)

/-- PSM_KEY_INSTALL, all five actions (R402, R403, R404, R407, R501, R515). -/
def Obligations.KeyCommands : Prop :=
  (∀ (s : State) (f r p : Nat) (io : HostIo) (d : Desc) (x : List Byte), Starts s (rowKey 48) f r io d → io.buf.length = d.inLen → namedPart s f d = some p →
    d.par 0 1 = 0 → keySlotBad s ⟨f, r, d, p, io.buf⟩ = false → keyStateBad s ⟨f, r, d, p, io.buf⟩ = false → s.cipher.rngOk = true →
    kwUnwrap 5 (wrapKey s) (io.buf.take 48) = some x → fieldLe x 0x20 2 = d.par 2 2 → fieldLe x 0x22 1 = d.par 4 1 → fieldLe x 0x23 1 = d.par 1 1 →
    1 ≤ d.par 1 1 → d.par 1 1 ≤ 6 →
    ∃ t, exec (.psmKeyInstall f r io) s = .next t ∧ t = { s with host := t.host, cipher := t.cipher, freeCtr := s.freeCtr + 1 } ∧
      getSlot t (d.par 2 2) = { KeySlot.reset with
        use := d.par 1 1, part := (slotOwner s (d.par 2 2)).getD 0xFF, st := 1, cur := some (x.take 32, fieldLe x 0x24 4),
        random := (Config.freeLong s.freeCtr).toNat % 2 ^ 15, activated := s.time.tb } ∧
      (∀ n, n ≠ d.par 2 2 → getSlot t n = getSlot s n) ∧ t.cipher.moduleKey = s.cipher.moduleKey) ∧
  (∀ (s : State) (f r p : Nat) (io : HostIo) (d : Desc) (x : List Byte), Starts s (rowKey 48) f r io d → io.buf.length = d.inLen → namedPart s f d = some p →
    d.par 0 1 = 1 → keySlotBad s ⟨f, r, d, p, io.buf⟩ = false → (getSlot s (d.par 2 2)).next = none →
    kwUnwrap 5 (wrapKey s) (io.buf.take 48) = some x → fieldLe x 0x20 2 = d.par 2 2 → fieldLe x 0x22 1 = d.par 4 1 → fieldLe x 0x23 1 = d.par 1 1 →
    1 ≤ d.par 1 1 → d.par 1 1 ≤ 6 →
    ((getSlot s (d.par 2 2)).st = 1 →
      ∃ t, exec (.psmKeyInstallNext f r io) s = .next t ∧ t = { s with host := t.host, cipher := t.cipher } ∧
        getSlot t (d.par 2 2) = { getSlot s (d.par 2 2) with next := some (x.take 32, fieldLe x 0x24 4) } ∧
        (∀ n, n ≠ d.par 2 2 → getSlot t n = getSlot s n) ∧ t.cipher.moduleKey = s.cipher.moduleKey) ∧
    ((getSlot s (d.par 2 2)).st = 2 → s.cipher.rngOk = true →
      ∃ t, exec (.psmKeyInstallNext f r io) s = .next t ∧ t = { s with host := t.host, cipher := t.cipher, freeCtr := s.freeCtr + 1 } ∧
        getSlot t (d.par 2 2) = { getSlot s (d.par 2 2) with
          prev := (getSlot s (d.par 2 2)).cur, cur := some (x.take 32, fieldLe x 0x24 4), next := none, gen := !(getSlot s (d.par 2 2)).gen,
          st := 1, sent := 0, due := false, random := (Config.freeLong s.freeCtr).toNat % 2 ^ 15, activated := s.time.tb } ∧
        (∀ n, n ≠ d.par 2 2 → getSlot t n = getSlot s n) ∧ t.cipher.moduleKey = s.cipher.moduleKey)) ∧
  (∀ (s : State) (f r p : Nat) (io : HostIo) (d : Desc), Starts s (rowKey 0) f r io d → io.buf.length = d.inLen → namedPart s f d = some p →
    keySlotBad s ⟨f, r, d, p, io.buf⟩ = false →
    (d.par 0 1 = 2 → (getSlot s (d.par 2 2)).st ≠ 0 → (getSlot s (d.par 2 2)).next ≠ none → s.cipher.rngOk = true →
      ∃ t, exec (.psmKeyActivate f r io) s = .next t ∧ t = { s with host := t.host, cipher := t.cipher, freeCtr := s.freeCtr + 1 } ∧
        getSlot t (d.par 2 2) = { getSlot s (d.par 2 2) with
          prev := (getSlot s (d.par 2 2)).cur, cur := (getSlot s (d.par 2 2)).next, next := none, gen := !(getSlot s (d.par 2 2)).gen,
          st := 1, sent := 0, due := false, random := (Config.freeLong s.freeCtr).toNat % 2 ^ 15, activated := s.time.tb } ∧
        (∀ n, n ≠ d.par 2 2 → getSlot t n = getSlot s n) ∧ t.cipher.moduleKey = s.cipher.moduleKey) ∧
    (d.par 0 1 = 3 →
      ∃ t, exec (.psmKeyErase f r io) s = .next t ∧ t = { s with host := t.host, cipher := t.cipher } ∧
        (getSlot t (d.par 2 2)).st = 0 ∧ (getSlot t (d.par 2 2)).cur = none ∧ (getSlot t (d.par 2 2)).next = none ∧ (getSlot t (d.par 2 2)).prev = none ∧
        (∀ n, n ≠ d.par 2 2 → getSlot t n = getSlot s n) ∧ t.cipher.moduleKey = s.cipher.moduleKey)) ∧
  (∀ (s : State) (f r : Nat) (io : HostIo) (d : Desc) (x : List Byte), Starts s rowModuleKey f r io d → io.buf.length = d.inLen → d.par 0 1 = 4 →
    kwUnwrap 4 (wrapKey s) (io.buf.take 40) = some x →
    ∃ t, exec (.psmKeyModuleKey f r io) s = .next t ∧ t = { s with host := t.host, cipher := { s.cipher with moduleKey := some x } }) ∧
  (∀ (s : State) (f r : Nat) (io : HostIo) (d : Desc), Starts s (rowKey 48) f r io d → io.buf.length = d.inLen → d.par 0 1 = 0 →
    kwUnwrap 5 (wrapKey s) (io.buf.take 48) = none → ∃ t, exec (.psmKeyInstall f r io) s = .next t ∧ HostOnly s t)

/-- PREVIOUS erased, KEY_REKEY_DUE, KEY_EXPIRED, CIPHER_RNG_FAULT and its end (R403, R409, R410, R417). -/
def Obligations.KeyLife : Prop :=
  (∀ (s : State) (n : Nat), (getSlot s n).prev ≠ none →
    ((getSlot s n).activated + 60000000000 ≤ s.time.tb →
      ∃ t, exec (.keyPreviousErase n) s = .next t ∧ t = { s with cipher := { s.cipher with slots := t.cipher.slots } } ∧
        getSlot t n = { getSlot s n with prev := none } ∧ (∀ m, m ≠ n → getSlot t m = getSlot s m)) ∧
    (s.time.tb < (getSlot s n).activated + 60000000000 → exec (.keyPreviousErase n) s = .next s)) ∧
  (∀ (s : State) (n : Nat), (getSlot s n).st = 1 → (getSlot s n).due = false →
    (2 ^ 31 ≤ (getSlot s n).sent ∨ (getSlot s n).activated + 72000000000000 ≤ s.time.tb) →
    ∃ t, exec (.keyRekeyDue n) s = .next t ∧ t = { s with host := t.host, cipher := { s.cipher with slots := t.cipher.slots } } ∧
      getSlot t n = { getSlot s n with due := true } ∧ (∀ m, m ≠ n → getSlot t m = getSlot s m) ∧
      t.host = (raisePart s (slotPart (getSlot s n)) 0x03C3 (sourceId s srcMp) [(2, n), (4, ((getSlot s n).cur.map Prod.snd).getD 0)]).host) ∧
  (∀ (s : State) (n : Nat), ((getSlot s n).due = true ∨ ((getSlot s n).sent < 2 ^ 31 ∧ s.time.tb < (getSlot s n).activated + 72000000000000)) →
    exec (.keyRekeyDue n) s = .next s) ∧
  (∀ (s : State) (n : Nat), (getSlot s n).st = 1 → (2 ^ 32 ≤ (getSlot s n).sent ∨ (getSlot s n).activated + 86400000000000 ≤ s.time.tb) →
    ((getSlot s n).next ≠ none →
      ∃ t, exec (.keyExpired n) s = .next t ∧ t = { s with cipher := { s.cipher with slots := t.cipher.slots }, freeCtr := s.freeCtr + 1 } ∧
        getSlot t n = { getSlot s n with
          prev := (getSlot s n).cur, cur := (getSlot s n).next, next := none, gen := !(getSlot s n).gen, st := 1, sent := 0, due := false,
          random := (Config.freeLong s.freeCtr).toNat % 2 ^ 15, activated := s.time.tb } ∧ (∀ m, m ≠ n → getSlot t m = getSlot s m)) ∧
    ((getSlot s n).next = none →
      ∃ t, exec (.keyExpired n) s = .next t ∧ t = { s with host := t.host, cipher := { s.cipher with slots := t.cipher.slots } } ∧
        getSlot t n = { getSlot s n with st := 2 } ∧ (∀ m, m ≠ n → getSlot t m = getSlot s m) ∧
        t.host = (raisePart s (slotPart (getSlot s n)) 0x03C4 (sourceId s srcMp) [(2, n), (4, ((getSlot s n).cur.map Prod.snd).getD 0)]).host)) ∧
  (∀ (s : State) (n : Nat), (getSlot s n).sent < 2 ^ 32 → s.time.tb < (getSlot s n).activated + 86400000000000 → exec (.keyExpired n) s = .next s) ∧
  (∀ s : State, s.cipher.rngOk = true → exec .cipherRngFault s
    = .next (sendEvent { s with cipher := { s.cipher with rngOk := false } } 0 ⟨0x03C5, 0xFF, s.board.slotId * 8192 + 0x03F0, []⟩)) ∧
  (∀ s : State, s.cipher.rngOk = false → exec .cipherRngFault s = .next s) ∧
  (∀ s : State, exec .rngHealthRestored s = .next { s with cipher := { s.cipher with rngOk := true } })

/-- CIPHER_ENCRYPT_OP and CIPHER_DECRYPT_OP (R396 to R400, R407, R408, R410). -/
def Obligations.CipherOps : Prop :=
  (∀ (s : State) (n i : Nat) (dir faulty : Bool) (aad data key : List Byte) (pc : Nat × Nat), pickCore s true = some pc → isGcm (getSlot s n).use = true →
    (getSlot s n).st = 1 → genOver s (getSlot s n) = false → (getSlot s n).cur = some (key, i) →
    ∃ t, exec (.cipherEncryptOp n dir aad data faulty) s = .next t ∧ t = { s with host := t.host, cipher := t.cipher } ∧
      t.cipher.reply = (let nonce := toBe 4 (saltOf s (getSlot s n) dir) ++ toBe 8 (getSlot s n).sent
        ⟨nonce, (gcmSeal key nonce aad data).1, (gcmSeal key nonce aad data).2, true⟩) ∧
      getSlot t n = { getSlot s n with sent := (getSlot s n).sent + 1, due := (getSlot t n).due } ∧ t.cipher.encPtr = (pc.1 + 1) % 12 ∧
      t.cipher.decPtr = s.cipher.decPtr ∧ t.cipher.place = s.cipher.place ∧ (∀ m, m ≠ n → getSlot t m = getSlot s m) ∧
      pc.2 ∉ t.cipher.cleared ∧ 13 ∉ t.cipher.cleared) ∧
  (∀ (s : State) (n i : Nat) (dir : Bool) (aad data key : List Byte) (pc : Nat × Nat), pickCore s true = some pc → 3 ≤ (getSlot s n).use → (getSlot s n).use ≤ 5 →
    (getSlot s n).st = 1 → genOver s (getSlot s n) = false → (getSlot s n).cur = some (key, i) →
    ∃ t, exec (.cipherEncryptOp n dir aad data false) s = .next t ∧
      t = { s with host := t.host, cipher := t.cipher, freeCtr := s.freeCtr + data.length } ∧
      t.cipher.reply.nonce = toBe 4 (saltOf s (getSlot s n) dir) ++ toBe 8 (getSlot s n).sent ∧
      (((getSlot s n).use = 4 → data.length % 16 = 0) → t.cipher.reply.data = storeEnc (getSlot s n).use key t.cipher.reply.nonce data) ∧
      t.cipher.reply.ok = true ∧ (getSlot t n).sent = (getSlot s n).sent + 1 ∧ (∀ m, m ≠ n → getSlot t m = getSlot s m) ∧ t.cipher.testDue = s.cipher.testDue) ∧
  (∀ (s : State) (n : Nat) (dir faulty : Bool) (aad data : List Byte), (getSlot s n).st = 2 → exec (.cipherEncryptOp n dir aad data faulty) s = .next s) ∧
  (∀ (s : State) (n : Nat) (nonce aad data tag key : List Byte) (pc : Nat × Nat), pickCore s false = some pc → isGcm (getSlot s n).use = true →
    keyFor (getSlot s n) (bit ((nonce.getD 0 0).toNat) 7) = some key →
    ∃ t, exec (.cipherDecryptOp n nonce aad data tag) s = .next t ∧
      t = { s with cipher := { s.cipher with cleared := t.cipher.cleared, decPtr := (pc.1 + 1) % 12, reply := t.cipher.reply } } ∧
      (∀ pt, gcmOpen key nonce aad data tag = some pt → t.cipher.reply = ⟨nonce, pt, tag, true⟩) ∧
      (gcmOpen key nonce aad data tag = none → t.cipher.reply = ⟨nonce, [], tag, false⟩)) ∧
  (∀ (s : State) (n : Nat) (nonce aad data tag key : List Byte) (pc : Nat × Nat), pickCore s false = some pc → 3 ≤ (getSlot s n).use → (getSlot s n).use ≤ 6 →
    keyFor (getSlot s n) (bit ((nonce.getD 0 0).toNat) 7) = some key → (((getSlot s n).use = 4 ∨ (getSlot s n).use = 6) → data.length % 16 = 0) →
    ∃ t, exec (.cipherDecryptOp n nonce aad data tag) s = .next t ∧
      t = { s with freeCtr := s.freeCtr + data.length, cipher := { s.cipher with cleared := t.cipher.cleared, decPtr := (pc.1 + 1) % 12, reply := t.cipher.reply } } ∧
      t.cipher.reply = ⟨nonce, storeDec (getSlot s n).use key nonce data, [], true⟩) ∧
  (∀ (s : State) (n : Nat) (nonce aad data tag : List Byte) (pc : Nat × Nat), pickCore s false = some pc →
    keyFor (getSlot s n) (bit ((nonce.getD 0 0).toNat) 7) = none →
    ∃ t, exec (.cipherDecryptOp n nonce aad data tag) s = .next t ∧ t.cipher.reply.ok = false ∧ t.cipher.reply.data = [] ∧ t.cipher.slots = s.cipher.slots)

/-- GCM under one slot, both ways (R398, R407, R410). -/
def Obligations.SealedOpens : Prop :=
  ∀ (s t : State) (n i : Nat) (dir : Bool) (aad data key : List Byte) (pc qc : Nat × Nat), pickCore s true = some pc → isGcm (getSlot s n).use = true →
    (getSlot s n).st = 1 → genOver s (getSlot s n) = false → (getSlot s n).cur = some (key, i) →
    exec (.cipherEncryptOp n dir aad data false) s = .next t → pickCore t false = some qc →
    ∃ u, exec (.cipherDecryptOp n t.cipher.reply.nonce aad t.cipher.reply.data t.cipher.reply.tag) t = .next u ∧
      u.cipher.reply.data = data ∧ u.cipher.reply.ok = true ∧ u.cipher.slots = t.cipher.slots

/-- PSM_CHECKPOINT (R242, R442, R502, R559, R515). -/
def Obligations.CheckpointCommands : Prop :=
  (∀ (s : State) (f r b : Nat) (io : HostIo) (ans : BuddyAns) (d : Desc), Starts s rowCkptConfig f r io d → d.par 0 1 = 0 →
    b = (if d.par 1 1 = 0xFF then s.board.slotId ^^^ 1 else d.par 1 1) → buddyReach s b = true → ans.taken = false → carveBad s (d.par 2 1) = false →
    ∃ t, exec (.psmCheckpointConfig f r io ans) s = .next t ∧
      t = { s with host := t.host, out := t.out, board := t.board, cipher := t.cipher, freeCtr := t.freeCtr, stock := t.stock, mem := { s.mem with carve := d.par 2 1 } } ∧
      t.stock.buddy = some b ∧ t.stock.bound = true ∧ t.stock.taken = false ∧ t.stock.buddySize = some (ans.gib * 2 ^ 30) ∧ t.stock.held = s.stock.held ∧
      t.stock.serves = s.stock.serves ∧ t.stock.op = s.stock.op) ∧
  (∀ (s : State) (f r p size : Nat) (io : HostIo) (ans : BuddyAns) (d : Desc) (im : Image), Starts s rowCkpt f r io d → namedPart s f d = some p → d.par 0 1 = 1 →
    (getJob s (p * 2)).phase ≠ .closed → (getJob s (p * 2)).image = some im → s.stock.op = none → buddyReach s (buddySlot s) = true → ans.taken = false →
    size = ckptSize (sectionSizes s (p * 2) im) →
    size + ((ans.held.filter (fun h => h.1 != (getJob s (p * 2)).tag)).map (fun h => h.2.2.2)).sum ≤ ans.gib * 2 ^ 30 →
    ∃ t, exec (.psmCheckpointSave f r io ans) s = .next t ∧ t = { s with host := t.host, out := t.out, board := t.board, stock := t.stock } ∧
      t.stock.op = some ⟨p * 2, ((getJob s (p * 2)).tag, im.buildId), false, false, .waiting, 0, size, ⟨d.tag, d.opcode, d.index, r, f⟩⟩ ∧ t.stock.held = s.stock.held) ∧
  (∀ (s : State) (f r p : Nat) (io : HostIo) (ans : BuddyAns) (d : Desc) (im : Image), Starts s rowCkpt f r io d → namedPart s f d = some p → d.par 0 1 = 2 →
    (getJob s (p * 2)).phase ≠ .closed → (getJob s (p * 2)).phase ≠ .running → (getJob s (p * 2)).image = some im → s.stock.op = none →
    buddyReach s (buddySlot s) = true → ans.taken = false → heldFor (getJob s (p * 2)) ans ≠ none →
    ∃ t, exec (.psmCheckpointRestore f r io ans) s = .next t ∧ t = { s with host := t.host, out := t.out, board := t.board, stock := t.stock } ∧
      t.stock.op = some ⟨p * 2, ((getJob s (p * 2)).tag, im.buildId), true, bit (d.par 3 1) 0, .waiting, 0, 0, ⟨d.tag, d.opcode, d.index, r, f⟩⟩) ∧
  (∀ (s : State) (f r p : Nat) (io : HostIo) (ans : BuddyAns) (d : Desc), Starts s rowCkpt f r io d → namedPart s f d = some p → d.par 0 1 = 3 →
    (getJob s (p * 2)).phase ≠ .closed → s.stock.op = none → buddyReach s (buddySlot s) = true → ans.taken = false → heldFor (getJob s (p * 2)) ans ≠ none →
    ∃ t, exec (.psmCheckpointDiscard f r io ans) s = .next t ∧ t = { s with host := t.host, out := t.out, board := t.board, stock := t.stock } ∧
      (∀ h ∈ t.stock.atBuddy, h.tag ≠ (getJob s (p * 2)).tag) ∧ t.stock.op = none) ∧
  (∀ (s : State) (f r : Nat) (io : HostIo) (ans : BuddyAns) (d : Desc), Starts s rowCkpt f r io d → d.par 0 1 = 4 →
    (buddyReach s (buddySlot s) = true → ∃ t, exec (.psmCheckpointQuery f r io ans) s = .next t ∧
      t = { s with host := t.host, out := t.out, board := t.board, stock := t.stock } ∧ t.stock.taken = ans.taken ∧ t.stock.op = s.stock.op) ∧
    (buddyReach s (buddySlot s) = false → ∃ t, exec (.psmCheckpointQuery f r io ans) s = .next t ∧ HostOnly s t)) ∧
  (∀ (s : State) (f r : Nat) (io : HostIo) (ans : BuddyAns) (d : Desc), Starts s rowCkpt f r io d → s.stock.op = none → buddyReach s (buddySlot s) = false →
    (d.par 0 1 = 1 → ∃ t, exec (.psmCheckpointSave f r io ans) s = .next t ∧ HostOnly s t) ∧
    (d.par 0 1 = 2 → ∃ t, exec (.psmCheckpointRestore f r io ans) s = .next t ∧ HostOnly s t) ∧
    (d.par 0 1 = 3 → ∃ t, exec (.psmCheckpointDiscard f r io ans) s = .next t ∧ HostOnly s t))

/-- Snapshots, reading, outcomes, restores, STOCKPILE frames and requests, the buddy's notices (R261, R262, R442, R560 to R564, R568, R574). -/
def Obligations.CheckpointCourse : Prop :=
  (∀ (s : State) (o : CkptOp) (im : Image), s.stock.op = some o → o.restore = false → o.phase = .waiting → (getJob s o.job).image = some im →
    ((getJob s o.job).phase ≠ .running → ∃ t, exec .ckptSnapshot s = .next t ∧
      t = { s with host := t.host, out := t.out, board := t.board, cipher := t.cipher, freeCtr := t.freeCtr, stock := { s.stock with op := some { o with phase := .reading, step := (getJob s o.job).start } } }) ∧
    ((getJob s o.job).phase = .running → (getJob s o.job).held = true → ∃ t, exec .ckptSnapshot s = .next t ∧
      t = { s with host := t.host, out := t.out, board := t.board, cipher := t.cipher, freeCtr := t.freeCtr, jobs := t.jobs, stock := { s.stock with op := some { o with phase := .reading, step := (getJob s o.job).step + 1 } } } ∧
      getJob t o.job = { getJob s o.job with holds := (getJob s o.job).holds ++ [.snapshot] } ∧ (∀ q, q ≠ o.job → getJob t q = getJob s q))) ∧
  (∀ (s : State) (o : CkptOp), s.stock.op = some o → o.restore = false → o.phase = .reading →
    ((getJob s o.job).phase ≠ .running →
      exec .ckptReadDone s = .next { s with stock := { s.stock with op := some { o with phase := .sent } } }) ∧
    ((getJob s o.job).phase = .running → (getJob s o.job).held = true → (getJob s o.job).holds = [.snapshot] → (getJob s o.job).ingress = [] →
      ∃ t, exec .ckptReadDone s = .next t ∧ t.stock = { s.stock with op := some { o with phase := .sent } } ∧ (getJob t o.job).held = false ∧
        (getJob t o.job).step = (getJob s o.job).step ∧ t.mem = s.mem ∧ t.parts = s.parts)) ∧
  (∀ (s : State) (o : CkptOp), s.stock.op = some o → o.restore = false → o.phase = .sent →
    (∃ t, exec (.ckptSaved true) s = .next t ∧ t = { s with host := t.host, stock := { s.stock with op := none, atBuddy := s.stock.atBuddy.filter (fun h => h.tag != o.ids.1) ++ [⟨s.board.slotId, o.ids.1, o.ids.2, o.step, 0, o.size, true⟩] } }) ∧
    (∃ t, exec (.ckptSaved false) s = .next t ∧ t = { s with host := t.host, stock := { s.stock with op := none } })) ∧
  (∀ (s : State) (o : CkptOp) (bs : List CkptBlock), s.stock.op = some o → o.restore = true →
    (∃ t, exec (.ckptRestored 2 bs) s = .next t ∧ t = { s with host := t.host, stock := { s.stock with op := none } }) ∧
    (∃ t, exec (.ckptRestored 1 bs) s = .next t ∧
      t = { s with host := t.host, stock := { s.stock with op := none, atBuddy := s.stock.atBuddy.filter (fun h => h.tag != o.ids.1) } }) ∧
    (∀ im, (getJob s o.job).image = some im → ∃ t, exec (.ckptRestored 0 bs) s = .next t ∧ t.stock = { s.stock with op := none } ∧
      (getJob t o.job).step = fieldLe (ckptHeader bs) 0xC 4 ∧ (getJob t o.job).start = fieldLe (ckptHeader bs) 0xC 4 ∧ (getJob t o.job).restored = true ∧
      (getJob t o.job).phase = (getJob s o.job).phase ∧ (∀ q, q ≠ o.job → getJob t q = getJob s q) ∧ t.parts = s.parts ∧ t.boot = s.boot)) ∧
  (∀ s : State, s.stock.op = none → exec .ckptSnapshot s = .next s ∧ exec .ckptReadDone s = .next s ∧
    (∀ ok, exec (.ckptSaved ok) s = .next s) ∧ (∀ n bs, exec (.ckptRestored n bs) s = .next s)) ∧
  (∀ (s : State) (src tag build stp b : Nat) (x : CkptBlock) (h : Held), s.stock.held.find? (fun g => g.sender == src && g.tag == tag && !g.complete) = some h →
    s.stock.serves = some src → x.off + 2048 ≤ h.size → x.data.length = 2048 → Mem.wf s.mem.bytes = true → b = stockPlace s (h.base + x.off) / 2048 →
    (∃ t, exec (.stockpileFrameReceive src tag build stp x false) s = .next t ∧ t = { s with mem := t.mem } ∧ Mem.read t.mem.bytes (2048 * b) 2048 = x.data ∧
      (∀ a, (a < 2048 * b ∨ 2048 * b + 2048 ≤ a) → Mem.get t.mem.bytes a = Mem.get s.mem.bytes a) ∧ t.mem.pages = s.mem.pages ∧ t.mem.carve = s.mem.carve) ∧
    (∃ t, exec (.stockpileFrameReceive src tag build stp x true) s = .next t ∧
      t = { s with mem := t.mem, stock := t.stock, host := t.host, out := t.out, board := t.board, cipher := t.cipher, freeCtr := t.freeCtr } ∧
      t.stock = { s.stock with held := s.stock.held.filter (fun g => !(g.sender == src && g.tag == tag)) ++ [{ h with build := build, step := stp, complete := true }] })) ∧
  (∀ (s : State) (src tag build size : Nat), exec (.stockpileRequestReceive src 5 tag build size) s
    = .next (if s.stock.serves = some src then { s with stock := { s.stock with serves := none } } else s)) ∧
  (∀ (s : State) (src kind tag build size other : Nat), s.stock.serves = some other → other ≠ src → kind < 4 →
    ∃ t, exec (.stockpileRequestReceive src kind tag build size) s = .next t ∧ LinkOnly s t) ∧
  (∀ (s : State) (src tag build size : Nat), (s.stock.serves = none ∨ s.stock.serves = some src) →
    (∃ t, exec (.stockpileRequestReceive src 0 tag build size) s = .next t ∧ LinkOnly { s with stock := { s.stock with serves := some src } } t) ∧
    (∀ base, stockBase s (s.stock.held.filter (fun h => h.complete || !(h.sender == src && h.tag == tag))) size = some base →
      exec (.stockpileRequestReceive src 1 tag build size) s = .next { s with stock := { s.stock with serves := some src, held := s.stock.held.filter (fun h => h.complete || !(h.sender == src && h.tag == tag)) ++ [⟨src, tag, build, 0, base, size, false⟩] } }) ∧
    (∀ h, s.stock.held.find? (fun g => g.sender == src && g.tag == tag && g.complete && g.build == build) = some h →
      ∃ t, exec (.stockpileRequestReceive src 3 tag build size) s = .next t ∧
        LinkOnly { s with stock := { s.stock with serves := some src, held := s.stock.held.filter (fun g => !(g == h)) } } t)) ∧
  (∀ (s : State) (gib lost : Nat) (kept : List (Nat × Nat × Nat × Nat)), ∃ t, exec (.stockpileReducedNotice gib lost kept) s = .next t ∧
    t = { s with host := t.host, stock := { s.stock with buddySize := some (gib * 2 ^ 30), atBuddy := kept.map (fun k => ⟨s.board.slotId, k.1, k.2.1, k.2.2.1, 0, k.2.2.2, true⟩) } }) ∧
  (∀ (s : State) (ans : BuddyAns), (buddyReach s (buddySlot s) = true → ∃ t, exec (.buddyPortReturn ans) s = .next t ∧
      t = { s with host := t.host, out := t.out, board := t.board, stock := { s.stock with buddySize := some (ans.gib * 2 ^ 30), taken := ans.taken, bound := s.stock.bound && !ans.taken, atBuddy := ans.held.map (fun k => ⟨s.board.slotId, k.1, k.2.1, k.2.2.1, 0, k.2.2.2, true⟩) } }) ∧
    (buddyReach s (buddySlot s) = false → exec (.buddyPortReturn ans) s = .next s))

/-- PSM_EXPORT_SHARD (R503, R504, R573). -/
def Obligations.ShardObjects : Prop :=
  (∀ (s : State) (f r p n size : Nat) (faulty : Bool) (io : HostIo) (d : Desc) (c : Call) (im : Image) (m : TensorEnt) (k : Nat) (key : List Byte), Starts s rowExport f r io d →
    io.buf.length = d.inLen → namedPart s f d = some p → c = ⟨f, r, d, p, io.buf⟩ → d.par 0 1 = 0 → n = d.par 2 2 → pickCore s true ≠ none →
    genOver s (getSlot s n) = false → shardRefusal s c (bit (d.par 1 1) 0) = none → shardNamed s c = some (im, m, k) →
    size = ((objectAreas im m (bit (d.par 1 1) 0)).map Prod.snd).sum → size + 64 ≤ d.outLen →
    (∀ a ∈ objectAreas im m (bit (d.par 1 1) 0), rdTagged s a.1 a.2 = false) → ((getSlot s n).use = 4 → size % 16 = 0) → Delivers s f r io d (size + 64) →
    (getSlot s n).cur.map Prod.fst = some key →
    ∃ t, exec (.psmExportShardExport f r io faulty) s = .next t ∧ t = { s with host := t.host, cipher := t.cipher, freeCtr := t.freeCtr } ∧
      fieldLe (Mem.read t.host.hostMem d.outAddr 64) 0 4 = 0x48535844 ∧ fieldLe (Mem.read t.host.hostMem d.outAddr 64) 4 1 = (getSlot s n).use ∧
      fieldLe (Mem.read t.host.hostMem d.outAddr 64) 0x20 8 = size % 2 ^ 64 ∧
      Mem.read t.host.hostMem (d.outAddr + 0x30) 12 = toBe 4 (saltOf s (getSlot s n) false) ++ toBe 8 (getSlot s n).sent ∧
      Mem.read t.host.hostMem (d.outAddr + 64) size = (storeEnc (getSlot s n).use key (toBe 4 (saltOf s (getSlot s n) false) ++ toBe 8 (getSlot s n).sent)
        ((objectAreas im m (bit (d.par 1 1) 0)).flatMap (fun a => rdData s a.1 a.2))) ∧ (getSlot t n).sent = (getSlot s n).sent + 1) ∧
  (∀ (s : State) (f r p n k : Nat) (io : HostIo) (d : Desc) (c : Call) (im : Image) (m : TensorEnt) (key : List Byte), Starts s rowImport f r io d →
    io.buf.length = d.inLen → namedPart s f d = some p → c = ⟨f, r, d, p, io.buf⟩ → d.par 0 1 = 1 → n = d.par 2 2 → pickCore s true ≠ none →
    genOver s (getSlot s n) = false → shardRefusal s c (bit (fieldLe io.buf 5 1) 0) = none → shardNamed s c = some (im, m, k) →
    keyFor (getSlot s n) (bit (((io.buf.drop 0x30).headD 0).toNat) 7) = some key → 0x3C ≤ io.buf.length →
    (fieldLe io.buf 0x18 4 ≠ (getJob s (p * 2)).step → ∃ t, exec (.psmExportShardImport f r io) s = .next t ∧ HostOnly s t) ∧
    (fieldLe io.buf 0x18 4 = (getJob s (p * 2)).step → ((getSlot s n).use = 4 → fieldLe io.buf 0x20 8 % 16 = 0) → io.buf.length = 64 + fieldLe io.buf 0x20 8 →
      (crc64 (padTo 0 (tensorBytes m) ((storeDec (getSlot s n).use key ((io.buf.drop 0x30).take 12) (io.buf.drop 64)).take (tensorBytes m))) ≠ fieldLe io.buf 0x28 8 →
        ∃ t, exec (.psmExportShardImport f r io) s = .next t ∧ t = { s with host := t.host, cipher := t.cipher, freeCtr := t.freeCtr }) ∧
      (crc64 (padTo 0 (tensorBytes m) ((storeDec (getSlot s n).use key ((io.buf.drop 0x30).take 12) (io.buf.drop 64)).take (tensorBytes m))) = fieldLe io.buf 0x28 8 →
        ∃ t, exec (.psmExportShardImport f r io) s = .next t ∧
          t = { s with host := t.host, cipher := t.cipher, freeCtr := t.freeCtr, mem := t.mem, benches := t.benches } ∧
          (exchangeOf im 1 m = none → s.mem.failedLs = [] → Mem.wf s.mem.bytes = true → shardAddr (getJob s (p * 2)) k + 12 ≤ memTop →
            Mem.read t.mem.bytes (shardAddr (getJob s (p * 2)) k + 8) 4 = toLe 4 (fieldLe io.buf 0x18 4)))))

/-- PSM_COPY, PSM_TELEMETRY, PSM_SPARE_STATUS, PSM_SELFTEST_POLICY (R466, R505 to R511, R515). -/
def Obligations.CopiesAndReports : Prop :=
  (∀ (s : State) (f r a n : Nat) (io : HostIo) (d : Desc), Starts s (rowCopy s f) f r io d → io.buf.length = d.inLen → d.par 0 1 = 0 → copyEngine s ≠ none →
    copyHomeless s f = false → a = d.par 8 8 → n = d.par 0x10 8 → hostCause s f a n = none → s.mem.failedLs = [] → Mem.wf s.mem.bytes = true →
    (isWindow a = true ∨ ∀ k, k < n → pageComp (pageEntry s ((a + k) / 0x200000)) = false) →
    ∃ t, exec (.psmCopyToDevice f r (io, [])) s = .next t ∧ t = { s with host := t.host, mem := t.mem, benches := t.benches } ∧ t.mem.pages = s.mem.pages ∧
      (∀ k, k < n → Mem.get t.mem.bytes (a + k) = io.buf.getD k 0) ∧ (∀ b, b < a ∨ a + n ≤ b → Mem.get t.mem.bytes b = Mem.get s.mem.bytes b)) ∧
  (∀ (s : State) (f r a n : Nat) (io : HostIo) (d : Desc), Starts s (rowCopy s f) f r io d → d.par 0 1 = 1 → copyEngine s ≠ none →
    copyHomeless s f = false → a = d.par 8 8 → n = d.par 0x10 8 → n ≤ d.outLen → n % 64 = 0 → hostCause s f a n = none → rdTagged s a n = false → Delivers s f r io d n →
    ∃ t, exec (.psmCopyToHost f r (io, [])) s = .next t ∧ HostOnly s t ∧ Mem.read t.host.hostMem d.outAddr n = rdData s a n) ∧
  (∀ (s : State) (f r e cause : Nat) (io : HostIo) (d : Desc), Starts s (rowCopy s f) f r io d → d.par 0 1 = 0 → copyEngine s = some e → copyHomeless s f = false →
    hostCause s f (d.par 8 8) (d.par 0x10 8) = some cause → meetsReset s (d.par 8 8) (d.par 0x10 8) = false →
    ∀ errs, ∃ t, exec (.psmCopyToDevice f r (io, errs)) s = .next t ∧ HostOnly s t ∧ t.host.copyFrozen = s.host.copyFrozen ++ [e]) ∧
  (∀ (s : State) (f r a n k : Nat) (io : HostIo) (d : Desc), Starts s (rowCopy s f) f r io d → d.par 0 1 = 1 → copyEngine s ≠ none → copyHomeless s f = false →
    a = d.par 8 8 → n = d.par 0x10 8 → n ≤ d.outLen → n % 64 = 0 → hostCause s f a n = none → isWindow a = true → a % 64 = 0 → k < n →
    ∃ t u, exec (.psmCopyToHost f r (io, [(a + k, true)])) s = .next t ∧ u = spdUncorrectable s (windowLb a) 0xFF 0xFF (windowOff (a + k)) ∧
      t = { s with host := t.host, benches := u.benches } ∧ rdTagged t (a + k) 1 = true) ∧
  (∀ (s : State), copyEngine s = none → ∀ f r io errs, exec (.psmCopyToDevice f r (io, errs)) s = .next s ∧ exec (.psmCopyToHost f r (io, errs)) s = .next s) ∧
  (∀ (s : State) (f r : Nat) (io : HostIo) (d : Desc) (c : Call) (b : List Byte), Starts s rowTelemetry f r io d → io.buf.length = d.inLen →
    c = ⟨f, r, d, (namedPart s f d).getD 0xFF, io.buf⟩ → d.par 0 1 ≤ 11 → d.par 1 1 ≤ 1 → d.par 0 1 ≠ 7 → (f = 0 ∨ (d.par 0 1 ≠ 0 ∧ d.par 0 1 < 10)) →
    (2 ≤ d.par 0 1 → d.par 0 1 ≤ 8 → c.p < 4 ∧ (getJob s (c.p * 2 + d.par 1 1)).phase ≠ .closed) →
    d.par 4 4 + d.par 8 4 ≤ (teleRecords s c).length → b = (((teleRecords s c).drop (d.par 4 4)).take (d.par 8 4)).flatMap id → b.length ≤ d.outLen →
    Delivers s f r io d b.length →
    ∃ t, exec (.psmTelemetry f r io) s = .next t ∧ HostOnly s t ∧ Mem.read t.host.hostMem d.outAddr b.length = b) ∧
  (∀ (s : State) (f r : Nat) (io : HostIo) (d : Desc), Starts s rowSpareStatus f r io d → Delivers s f r io d 192 →
    ∃ t, exec (.psmSpareStatus f r io) s = .next t ∧ HostOnly s t ∧
      ∀ k, k < 12 → Mem.read t.host.hostMem (d.outAddr + 16 * k) 4 = [BitVec.ofNat 8 k, 0] ++ toLe 2 (spareCounts s k).1) ∧
  (∀ (s : State) (f r : Nat) (io : HostIo) (d : Desc), Starts s rowSelftestPolicy f r io d →
    ((100 ≤ d.par 2 2 ∧ d.par 2 2 ≤ 60000 ∧ (d.par 4 2 ≤ 575 ∨ d.par 4 2 = 0xFFFF)) →
      ∃ t, exec (.psmSelftestPolicy f r io) s = .next t ∧
        t = { s with host := t.host, self := { s.self with flags := d.par 0 1 % 32, interval := d.par 2 2, reqs := t.self.reqs } } ∧
        (d.par 4 2 = 0xFFFF → t.self.reqs = s.self.reqs) ∧ (d.par 4 2 ≠ 0xFFFF → d.par 4 2 ∈ t.self.reqs)) ∧
    (d.par 2 2 < 100 ∨ 60000 < d.par 2 2 ∨ (575 < d.par 4 2 ∧ d.par 4 2 ≠ 0xFFFF) → ∃ t, exec (.psmSelftestPolicy f r io) s = .next t ∧ HostOnly s t))

/-- PSM_FW_CHUNK, PSM_FW_ACTIVATE, the end of an activation, firmware datagrams (R512, R513, R577 to R586). -/
def Obligations.Firmware : Prop :=
  (∀ (s : State) (f r i : Nat) (io : HostIo) (d : Desc), Starts s rowFwChunk f r io d → io.buf.length = d.inLen → i = d.par 0 4 →
    (chunkRefusal s i io.buf = none → (i ≠ 0 ∨ s.fw.hdr = some (padTo 0 512 (io.buf.take 512))) →
      ∃ t, exec (.psmFwChunk f r io) s = .next t ∧ t = { s with host := t.host, fw := { s.fw with
        stage := Mem.write s.fw.stage (65536 * i) io.buf, bitmap := insertNat s.fw.bitmap i } }) ∧
    (chunkRefusal s i io.buf = none → i = 0 → s.fw.hdr ≠ some (padTo 0 512 (io.buf.take 512)) →
      ∃ t, exec (.psmFwChunk f r io) s = .next t ∧ t = { s with host := t.host, fw := { s.fw with
        hdr := some (padTo 0 512 (io.buf.take 512)), stage := Mem.write [] 0 io.buf, bitmap := [0] } }) ∧
    (chunkRefusal s i io.buf ≠ none → ∃ t, exec (.psmFwChunk f r io) s = .next t ∧ HostOnly s t)) ∧
  (∀ (s : State) (f r : Nat) (io : HostIo) (d : Desc), Starts s rowFwActivate f r io d →
    (s.fw.op = none → stagedChunks s ≠ 0 → stagedChunks s ≤ s.fw.bitmap.length →
      ∃ t, exec (.psmFwActivate f r io) s = .next t ∧ t = { s with host := t.host, fw := { s.fw with op := some ⟨d.tag, d.opcode, d.index, r, f⟩ } }) ∧
    (s.fw.op ≠ none ∨ stagedChunks s = 0 ∨ s.fw.bitmap.length < stagedChunks s → ∃ t, exec (.psmFwActivate f r io) s = .next t ∧ HostOnly s t)) ∧
  (∀ (s : State) (r : LongRef) (h : List Byte) (mismatch : Bool), s.fw.op = some r → s.fw.hdr = some h → fwEncrypted h = false → s.boot.st ≠ 3 →
    ∃ t, exec (.fwActivateEnd mismatch) s = .next t ∧ t = { s with host := t.host, fw := t.fw } ∧
      (sectionsOk s.fw.stage = true → imageOk s s.fw.stage = true → mismatch = false → t.fw = { s.fw with
        op := none, slots := Tab.set s.fw.slots (fwTarget s) s.fw.stage, hdrs := insertNat (s.fw.hdrs.filter (· != fwTarget s)) (fwTarget s), mark := some (fwTarget s) }) ∧
      (sectionsOk s.fw.stage = true → imageOk s s.fw.stage = true → mismatch = true → t.fw = { s.fw with
        op := none, slots := Tab.set s.fw.slots (fwTarget s) s.fw.stage, hdrs := s.fw.hdrs.filter (· != fwTarget s), mark := s.fw.mark.filter (· != fwTarget s) }) ∧
      (sectionsOk s.fw.stage = false ∨ imageOk s s.fw.stage = false → t.fw = { s.fw with op := none })) ∧
  (∀ (s : State) (b : Bool), s.fw.op = none → exec (.fwActivateEnd b) s = .next s) ∧
  (∀ (s : State) (port mac : Nat) (d : List Byte), datagramOk s port mac d = false → exec (.fwDatagramReceive port mac d) s = .next s) ∧
  (∀ (s : State) (port mac : Nat) (d h : List Byte), datagramOk s port mac d = true → s.fw.hdr = some h → s.fw.op = none → pieceFits s d = true →
    headerCode s.boot.floor h = 0 → (∀ e ∈ s.fw.asm, e.1 ≠ fieldBe d 4 4) → 8192 < chunkLen h (fieldBe d 4 4) →
    exec (.fwDatagramReceive port mac d) s = .next { s with fw := { s.fw with
      asm := (if 16 ≤ s.fw.asm.length then s.fw.asm.drop 1 else s.fw.asm) ++ [(fieldBe d 4 4, [(fieldBe d 8 1, (d.drop 32).take (fieldBe d 0x14 2))])] } })

/-- Attempts and results of the boot steps (R518, R519, R521, R522, R525). -/
def Obligations.BootAttempts : Prop :=
  ∀ (s : State) (i : Instr) (n : Nat), bootStepOf i = some n →
    (s.boot.st = 1 → s.boot.step = n →
      ∃ t, exec i s = .next t ∧ t.boot.st = 2 ∧ t.boot.step = n ∧ 1 ≤ t.boot.result ∧ t.boot.result ≤ 4 ∧
        (s.boot.treatment = 3 → t.boot.result = 4) ∧ (t.boot.reason = 0 ↔ t.boot.result ≠ 3) ∧
        (t.boot.result = 3 → t.boot.failedStep = some n ∧ t.boot.passed = s.boot.passed) ∧ (t.boot.result ≠ 3 → t.boot.failedStep = none ∧ t.boot.passed = n + 1) ∧
        t.parts = s.parts ∧ t.jobs = s.jobs ∧ t.convs = s.convs ∧ t.feeds = s.feeds ∧ t.cipher.moduleKey = s.cipher.moduleKey ∧
        t.boot.factory = s.boot.factory ∧ t.pending = s.pending) ∧
    (goAllowed s n = true → treatmentOf s n ≠ 4 → exec i s = exec i (startAttempt s n) ∧ Attempt (startAttempt s n) n (treatmentOf s n)) ∧
    (goAllowed s n = true → treatmentOf s n = 4 →
      ∃ t, exec i s = .next t ∧ t = { s with host := t.host, boot := { s.boot with st := 3 } }) ∧
    (goAllowed s n = false → ¬ (s.boot.st = 1 ∧ s.boot.step = n) →
      exec i s = .next (if s.boot.served = true ∧ s.boot.st ≠ 1 ∧ s.boot.st ≠ 3 then { s with boot := { s.boot with st := 2, result := 5 } } else s))

/-- The work of the fourteen boot steps (R520, R522 to R533, R406, R421, R433, R438, R441, R588, R624). -/
def Obligations.BootWork : Prop :=
  (∀ (s : State) (mv us : Nat) (bad : List Nat), Attempt s 0 0 → ∃ t, exec (.bootStepPower mv bad us) s = .next t ∧ t.power.vin = mv ∧
    (mv < 64000 ∨ 78000 < mv → t.boot.result = 3) ∧ (64000 ≤ mv → mv ≤ 78000 → 88 ≤ t.power.phases.length → t.boot.result ≠ 3) ∧ t.mem = s.mem ∧ t.time = s.time) ∧
  (∀ (s : State) (locks : List Nat) (ns us : Nat), Attempt s 1 0 →
    (s.power.op ∈ locks → ∃ t, exec (.bootStepClock locks ns us) s = .next t ∧ t.boot.result = 1 ∧ t.time = { TimeSt.reset with run := true, comp := s.time.comp } ∧
      t.power.op = s.power.op ∧ t.mem = s.mem) ∧
    (s.power.op ∉ locks → ∃ t, exec (.bootStepClock locks ns us) s = .next t ∧ t.boot.result = 3 ∧ t.time = s.time ∧ t.power = s.power)) ∧
  (∀ (s : State) (fuseOk a b : Bool) (us : Nat), Attempt s 2 0 →
    ∃ t, exec (.bootStepFuse fuseOk a b us) s = .next t ∧ (t.boot.result = 3 ↔ fuseOk = false ∨ (a = false ∧ b = false)) ∧ t.boot.wear = s.boot.wear ∧
      (fuseOk = true → a = true ∨ b = true → t.boot.wearFull = decide (2048 ≤ s.boot.wear.length))) ∧
  (∀ (s : State) (us : Nat), Attempt s 3 0 → fwSlotOk s (romSlot s false) = true →
    ∃ t, exec (.bootStepRom true us) s = .next t ∧ t.boot.result ≠ 3 ∧ t.boot.chosen = some (romSlot s false) ∧ t.host.mpStandby = decide (romPair s = 1)) ∧
  (∀ (s : State) (us : Nat), Attempt s 3 0 → fwSlotOk s (romSlot s false) = false →
    ∃ t, exec (.bootStepRom true us) s = .next t ∧ t.boot.result = 3 ∧ t.boot.romFailed = some (romSlot s false)) ∧
  (∀ (s : State) (us n : Nat) (startOk : Bool), Attempt s 4 0 → s.boot.chosen = some n →
    ∃ t, exec (.bootStepImage startOk us) s = .next t ∧ (imageOk s (slotMem s n) = true → startOk = true → t.boot.result = 1 ∧ t.boot.runSlot = some n ∧
        t.boot.fwVersion = fwVer (slotHeader s n)) ∧
      (imageOk s (slotMem s n) = false ∨ startOk = false → t.boot.result = 3 ∧ t.boot.imgFailed = some n ∧ t.fw.mark ≠ some n) ∧ t.fw.slots = s.fw.slots) ∧
  (∀ (s : State) (bad : List Nat) (ppr : List (Nat × Nat)) (us : Nat), Attempt s 5 0 →
    (∃ t, exec (.bootStepMemory true bad ppr us) s = .next t ∧ t.boot.result ≠ 3 ∧ (∀ a, isWindow a = false → Mem.get t.mem.bytes a = 0) ∧
      (∀ a, isWindow a = true → Mem.get t.mem.bytes a = Mem.get s.mem.bytes a) ∧ t.mem.blocks = [] ∧ t.mem.pages = [] ∧ (∀ k ∈ t.mem.poison, isWindow (64 * k) = true)) ∧
    (∃ t, exec (.bootStepMemory false bad ppr us) s = .next t ∧ t.boot.result = 3 ∧ t.mem = s.mem)) ∧
  (∀ (s : State) (bad noTrain : List Nat) (us : Nat), Attempt s 6 0 →
    ∃ t, exec (.bootStepFaces bad noTrain us) s = .next t ∧ ((∃ l ∈ noTrain, l < 8) → t.boot.result = 3 ∧ t.boot.wires = s.boot.wires) ∧
      (t.boot.result ≠ 3 → t.boot.half = []) ∧ t.mem = s.mem) ∧
  (∀ (s : State) (bad : List Nat) (us : Nat), Attempt s 7 0 →
    (∃ t, exec (.bootStepBenchLoad true bad us) s = .next t ∧ t.boot.result ≠ 3 ∧
      t.boot.pbOut = ((List.range 640).filter (fun p => !permanent s (unitKey 0 p))).filter (fun p => bad.contains p)) ∧
    (∃ t, exec (.bootStepBenchLoad false bad us) s = .next t ∧ t.boot.result = 3 ∧ t.boot.pbOut = s.boot.pbOut)) ∧
  (∀ (s : State) (bad rows : List Nat) (us : Nat), Attempt s 8 0 →
    ∃ t, exec (.bootStepBenchTest bad rows us) s = .next t ∧ (∀ e ∈ t.boot.phys, e.1 < 576 ∧ pbUsable t e.2 = true) ∧
      t.benches.map Prod.fst = t.boot.phys.map Prod.fst ∧ (∀ e ∈ t.benches, e.2.c0 = Bench.reset.c0 ∧ e.2.c1 = Bench.reset.c1 ∧ e.2.tags = []) ∧ t.mem = s.mem) ∧
  (∀ (s : State) (bad : List Nat) (ok : Bool) (us : Nat), Attempt s 9 0 →
    ∃ t, exec (.bootStepCipher bad ok us) s = .next t ∧ t.cipher.slots = [] ∧ t.cipher.moduleKey = s.cipher.moduleKey ∧ (t.boot.result = 3 ↔ ok = false) ∧ t.mem = s.mem) ∧
  (∀ (s : State) (finds : List PortFind) (us : Nat), Attempt s 10 0 →
    ∃ t, exec (.bootStepBoard finds us) s = .next t ∧ t.mem = s.mem ∧
      ∀ k f, k < 7 → finds[k]? = some f → f.signal = false → (getPort t k).st = .absent ∧ (getPort t k).lanes = []) ∧
  (∀ (s : State) (fitted trained : List Nat) (us : Nat), Attempt s 11 0 →
    ∃ t, exec (.bootStepSite fitted trained us) s = .next t ∧
      (∀ n, n < 9 → ((getSite t n).st = .up ↔ n ∈ fitted ∧ n ∈ trained) ∧ (getSite t n).fitted = decide (n ∈ fitted)) ∧
      (t.boot.result = 3 ↔ ∀ n, n < 9 → ¬ (n ∈ fitted ∧ n ∈ trained)) ∧ t.mem = s.mem) ∧
  (∀ (s : State) (us : Nat), Attempt s 12 0 →
    (lowestSlot s = true → ∃ t, exec (.bootStepTime us) s = .next t ∧ t.boot.result = 1 ∧
      t.time = { s.time with keeper := true, loaded := true, lastPulse := s.time.tb } ∧ t.mem = s.mem) ∧
    (lowestSlot s = false → ∃ t, exec (.bootStepTime us) s = .next t ∧ t.time = s.time ∧ (t.boot.result = 1 ↔ s.time.loaded = true ∧ s.time.agreed = true))) ∧
  (∀ (s : State) (us : Nat), Attempt s 13 0 →
    ∃ t, exec (.bootStepReady us) s = .next t ∧ t.boot.result = 1 ∧ t.boot.ready = true ∧ t.power.latch = 0 ∧ t.self.flags = 31 ∧ t.self.interval = 2000 ∧
      t.host.fnPtr = 0 ∧ t.cipher.encPtr = 0 ∧ t.cipher.decPtr = 0 ∧ s.boot.floor ≤ t.boot.floor ∧ t.mem = s.mem ∧ t.benches = s.benches)

/-- The four commands of the timebase (R439 to R441, R599; the load at V + TSYNC_COMP: DEDUCED, log 35). -/
def Obligations.TimeLock : Prop :=
  ∀ (s : State),
    (∀ v : Nat,
      (s.time.keeper = true → exec (.timeFrameReceive v) s = .next s) ∧
      (s.time.keeper = false → exec (.timeFrameReceive v) s = .next { s with time := { s.time with loadV := some (v % 2 ^ 64) } })) ∧
    (∃ t : State, exec .tsyncPulseDrive s = .next t ∧ t = { s with host := t.host, time := t.time } ∧ t.time.tb = s.time.tb ∧
      (if s.time.keeper = true ∧ s.time.run = true ∧ s.power.pgood = true ∧ s.time.tb % 2 ^ 24 = 0
       then t.time = { s.time with lastPulse := s.time.tb, lastDriven := s.time.tb } ∧ (s.power.holdNs ≤ 10000000000 → t.host = s.host)
       else t = s)) ∧
    (∃ t : State, exec .tsyncPulseReceive s = .next t ∧ t = { s with host := t.host, time := t.time } ∧
      (s.time.run = false → t = s) ∧
      (s.time.run = true → ¬ (s.time.lastDriven = s.time.tb ∧ s.time.keeper = true) →
        t.time.keeper = false ∧ t.time.run = true ∧ t.time.comp = s.time.comp ∧ t.time.lastDriven = s.time.lastDriven ∧ t.time.loadV = none ∧
        (∀ v : Nat, s.time.loadV = some v →
          t.time.tb = max s.time.tb (v + s.time.comp) ∧ t.time.loaded = true ∧ t.time.slew = .none ∧ t.time.lastPulse = t.time.tb ∧ t.host = s.host) ∧
        (s.time.loadV = none →
          let m : Nat := (s.time.tb - s.time.comp + 2 ^ 23) / 2 ^ 24 * 2 ^ 24
          let d : Int := ((s.time.tb - s.time.comp : Nat) : Int) - (m : Int)
          t.time.offset = d ∧ t.time.loaded = s.time.loaded ∧ (t.time.agreed = true ↔ s.time.loaded = true ∧ d.natAbs ≤ 2) ∧
          t.time.lastPulse = s.time.tb ∧
          (d.natAbs ≤ 2 ∨ s.boot.unlocked = true → t.time.tb = s.time.tb ∧ t.time.slew = s.time.slew) ∧
          (s.boot.unlocked = false → 2 < d.natAbs → d.natAbs ≤ 1000 →
            t.time.tb = s.time.tb ∧ t.time.slew = (if d < 0 then .forward d.natAbs else .back d.natAbs)) ∧
          (s.boot.unlocked = false → 1000 < d.natAbs →
            if d < 0 then t.time.tb = (m + s.time.comp) % 2 ^ 64 ∧ t.time.slew = .none
            else t.time.tb = s.time.tb ∧ t.time.slew = .hold d.natAbs) ∧
          (s.power.holdNs ≤ 10000000000 → (d.natAbs ≤ 1000 ∨ s.boot.unlocked = true) → t.host = s.host)))) ∧
    (∃ t : State, exec .timekeeperChanged s = .next t ∧ t = { s with host := t.host, time := t.time } ∧
      (if s.time.keeper = false ∧ s.time.run = true ∧ s.time.lastDriven = 0 ∧ s.time.lastPulse + 3 * 2 ^ 24 ≤ s.time.tb ∧ lowestSlot s = true
       then t.time = { s.time with keeper := true, lastPulse := s.time.tb } ∧
         t.host = (raisePf { s with time := t.time } 0x03DC (sourceId s srcMp) []).host
       else t = s))

/-- ALU, ADDI, ORSH, CSRR, FENCE and NOP of a running task (R68, R70, R632; the value of a reserved status register is free, R8). -/
def Obligations.CcRegisters : Prop :=
  ∀ (s : State) (lb c jk : Nat) (t : Task), CcRuns s lb c jk t →
    let x := getCtx s lb c
    (∀ (d a b fn : Nat) (v : Long),
      (fn, v) ∈ [(0, xreg x a + xreg x b), (1, xreg x a - xreg x b), (2, xreg x a &&& xreg x b), (3, xreg x a ||| xreg x b),
        (4, xreg x a ^^^ xreg x b), (5, xreg x a <<< ((xreg x b).toNat % 64)), (6, xreg x a >>> ((xreg x b).toNat % 64)),
        (7, (xreg x a).sshiftRight ((xreg x b).toNat % 64)), (8, xreg x a * xreg x b),
        (9, if (xreg x a).toInt < (xreg x b).toInt then 1 else 0), (10, if (xreg x a).toNat < (xreg x b).toNat then 1 else 0),
        (11, if (xreg x a).toInt < (xreg x b).toInt then xreg x a else xreg x b),
        (12, if (xreg x a).toInt < (xreg x b).toInt then xreg x b else xreg x a)] →
      ∃ (u : State) (y : BCtx), exec (.alu lb c d a b fn) s = .next u ∧ CtxStep s u lb c y ∧ RegWrite x y d v (xpois x a || xpois x b)) ∧
    (∀ d a imm : Nat, ∃ (u : State) (y : BCtx), exec (.addi lb c d a imm) s = .next u ∧ CtxStep s u lb c y ∧
      RegWrite x y d (xreg x a + (BitVec.ofNat 14 imm).signExtend 64) (xpois x a)) ∧
    (∀ d imm : Nat, ∃ (u : State) (y : BCtx), exec (.orsh lb c d imm) s = .next u ∧ CtxStep s u lb c y ∧
      RegWrite x y d ((xreg x d <<< 14) ||| BitVec.ofNat 64 (imm % 2 ^ 14)) (xpois x d)) ∧
    (∀ d : Nat, ∃ (u : State) (y : BCtx), exec (.csrr lb c d 0) s = .next u ∧ CtxStep s u lb c y ∧ RegWrite x y d (streamStatus x) false) ∧
    (∀ d : Nat, ∃ (u : State) (y : BCtx), exec (.csrr lb c d 1) s = .next u ∧ CtxStep s u lb c y ∧ RegWrite x y d (mxeStatus x) false) ∧
    (∀ d i : Nat, 2 ≤ i → ∃ (u : State) (y : BCtx) (v : Long), exec (.csrr lb c d i) s = .next u ∧
      CtxStep { s with freeCtr := s.freeCtr + 1 } u lb c y ∧ RegWrite x y d v false) ∧
    (∃ u : State, exec (.fence lb c) s = .next u ∧ CtxStep s u lb c { x with fence := x.issued, pc := x.pc + 4 }) ∧
    (∃ u : State, exec (.nop lb c) s = .next u ∧ CtxStep s u lb c { x with pc := x.pc + 4 })

/-- JMP, BEQ, BNE, BLT, WAIT, MXE and VSE of a running task, and their CC_FAULT (R69 to R72, R74, R75, R107, R632). -/
def Obligations.CcControl : Prop :=
  (∀ (s : State) (lb c jk : Nat) (t : Task), CcRuns s lb c jk t →
    let x := getCtx s lb c
    (∀ off : Nat, ∃ u, exec (.jmp lb c off) s = .next u ∧ CtxStep s u lb c { x with pc := x.pc + 4 * (BitVec.ofNat 26 off).signExtend 64 }) ∧
    (∀ d a imm : Nat, xpois x d = false → xpois x a = false →
      (∃ u, exec (.beq lb c d a imm) s = .next u ∧
        CtxStep s u lb c { x with pc := if xreg x d = xreg x a then x.pc + 4 * (BitVec.ofNat 14 imm).signExtend 64 else x.pc + 4 }) ∧
      (∃ u, exec (.bne lb c d a imm) s = .next u ∧
        CtxStep s u lb c { x with pc := if xreg x d = xreg x a then x.pc + 4 else x.pc + 4 * (BitVec.ofNat 14 imm).signExtend 64 }) ∧
      (∃ u, exec (.blt lb c d a imm) s = .next u ∧
        CtxStep s u lb c { x with pc := if (xreg x d).toInt < (xreg x a).toInt then x.pc + 4 * (BitVec.ofNat 14 imm).signExtend 64 else x.pc + 4 })) ∧
    (∀ fn : Nat, fn < 8 → (fn.testBit 0 = true → x.mxeQ = []) → (fn.testBit 1 = true → x.vseQ = []) → (fn.testBit 2 = true → x.tputs = []) →
      ∃ u, exec (.wait lb c fn) s = .next u ∧ CtxStep s u lb c { x with pc := x.pc + 4 }) ∧
    (∀ fn : Nat, fn < 8 → (fn.testBit 0 = true ∧ x.mxeQ ≠ [] ∨ fn.testBit 1 = true ∧ x.vseQ ≠ [] ∨ fn.testBit 2 = true ∧ x.tputs ≠ []) →
      exec (.wait lb c fn) s = .next s) ∧
    (∀ a b fn : Nat, fn < 4 → xpois x a = false →
      (8 ≤ x.mxeQ.length → exec (.mxe lb c a b fn) s = .next s) ∧
      (x.mxeQ.length < 8 → ∃ u, exec (.mxe lb c a b fn) s = .next u ∧ CtxStep s u lb c { x with
        pc := x.pc + 4, issued := x.issued + 1, mxeQ := x.mxeQ ++ [⟨fn, (xreg x a).toNat, if xpois x b then poisonF32 else (xreg x b).setWidth 32, x.issued⟩] })) ∧
    (∀ a b : Nat, xpois x a = false →
      (8 ≤ x.vseQ.length → exec (.vse lb c a b) s = .next s) ∧
      (x.vseQ.length < 8 → ∃ u, exec (.vse lb c a b) s = .next u ∧ CtxStep s u lb c { x with
        pc := x.pc + 4, issued := x.issued + 1, vseQ := x.vseQ ++ [⟨(xreg x a).toNat,
          [b, b + 1, b + 2, b + 3].map (fun n => if xpois x n then poisonF32.setWidth 64 else xreg x n), x.issued⟩] })) ∧
    (∀ d a imm : Nat, xpois x d = true ∨ xpois x a = true →
      exec (.beq lb c d a imm) s = .next (taskFault s lb c t.station 0x0310) ∧ exec (.bne lb c d a imm) s = .next (taskFault s lb c t.station 0x0310) ∧
      exec (.blt lb c d a imm) s = .next (taskFault s lb c t.station 0x0310)) ∧
    (∀ d a b fn : Nat, 0x0C < fn → exec (.alu lb c d a b fn) s = .next (taskFault s lb c t.station 0x0310)) ∧
    (∀ a b fn : Nat, 3 < fn ∨ xpois x a = true → exec (.mxe lb c a b fn) s = .next (taskFault s lb c t.station 0x0310)) ∧
    (∀ a b : Nat, xpois x a = true → exec (.vse lb c a b) s = .next (taskFault s lb c t.station 0x0310)) ∧
    (∀ fn : Nat, 7 < fn → exec (.wait lb c fn) s = .next (taskFault s lb c t.station 0x0310)) ∧
    getJob (taskFault s lb c t.station 0x0310) jk = Job.reset) ∧
  (∀ (s : State) (lb c jk : Nat) (t : Task) (st : Station), jobOf s lb c = some jk → (getCtx s lb c).running = some t → (getCtx s lb c).frozen = false →
    (getJob s jk).phase = .running → present s lb = true → (getBench s lb).failed = false → stationOf s jk t.station = some st →
    (st.codeSize ≤ (getCtx s lb c).pc.toNat ∨ opReserved (codeWord s jk st (getCtx s lb c).pc.toNat) = true) →
    (∀ (d a b imm fn : Nat) (errs : List (Nat × Bool)), ∀ i ∈ ([.alu lb c d a b fn, .addi lb c d a imm, .orsh lb c d imm, .ld lb c d a imm fn, .st lb c d a imm,
        .beq lb c d a imm, .bne lb c d a imm, .blt lb c d a imm, .jmp lb c imm, .mxe lb c a b fn, .vse lb c a b, .tput lb c a b (fn, errs), .tfree lb c fn,
        .wait lb c fn, .csrr lb c d imm, .fence lb c, .nop lb c] : List Instr), exec i s = .next (taskFault s lb c t.station 0x0310)) ∧ getJob (taskFault s lb c t.station 0x0310) jk = Job.reset)

/-- LD, ST, TPUT and TFREE of a running task (R70 to R73, R90, R91, R100, R215, R224, R632). -/
def Obligations.CcMemory : Prop :=
  ∀ (s : State) (lb c jk : Nat) (t : Task), CcRuns s lb c jk t →
    let x := getCtx s lb c
    (∀ a imm : Nat,
      let off := (xreg x a + (BitVec.ofNat 14 imm).signExtend 64).toNat
      fenceWaits x = false →
      (xpois x a = false → off % 8 = 0 → off < 0x120000 →
        (∀ d : Nat, (∀ e ∈ s.convs, e.1 / 4096 = jk → ∀ q ∈ e.2.slots, ∀ v, convDescOf s jk (e.1 % 4096) = some v → badWords s jk v q [(windowAddr lb off, 8)] = []) → ∃ (u : State) (y : BCtx), exec (.ld lb c d a imm 0) s = .next u ∧ CtxStep s u lb c y ∧
          RegWrite x y d (BitVec.ofNat 64 (leNat ((List.range 8).map (fun k => Mem.get s.mem.bytes (0x800000000000 + lb * 0x200000 + off + k)))))
            ((getBench s lb).tags.contains (off / 8))) ∧
        (∀ d ecc : Nat, let m := checkReads (spdEcc s lb c t.station off ecc) jk [(windowAddr lb off, 8)]
          ∃ (u : State) (y : BCtx), exec (.ld lb c d a imm ecc) s = .next u ∧ CtxStep m u lb c y ∧
            RegWrite (getCtx m lb c) y d (BitVec.ofNat 64 (rdLe m (windowAddr lb off) 8)) (rdTagged m (windowAddr lb off) 8)) ∧
        (∀ d : Nat, Mem.wf s.mem.bytes = true →
          ∃ u, exec (.st lb c d a imm) s = .next u ∧ u = { s with mem := u.mem, benches := u.benches } ∧ u.mem = { s.mem with bytes := u.mem.bytes } ∧
            (∀ k, k < 8 → Mem.get u.mem.bytes (0x800000000000 + lb * 0x200000 + off + k) = BitVec.ofNat 8 ((xreg x d).toNat / 2 ^ (8 * k))) ∧
            (∀ p, ¬ (0x800000000000 + lb * 0x200000 + off ≤ p ∧ p < 0x800000000000 + lb * 0x200000 + off + 8) → Mem.get u.mem.bytes p = Mem.get s.mem.bytes p) ∧
            getBench u lb = { (getBench s lb).modCtx c (fun x => { x with pc := x.pc + 4 }) with tags := (getBench u lb).tags } ∧
            (∀ w, (getBench u lb).tags.contains w = if w = off / 8 then xpois x d else (getBench s lb).tags.contains w) ∧
            (∀ n, n ≠ lb → getBench u n = getBench s n))) ∧
      (xpois x a = true ∨ off % 8 ≠ 0 → ∀ d ecc : Nat, exec (.ld lb c d a imm ecc) s = .next (taskFault s lb c t.station 0x0310) ∧
        exec (.st lb c d a imm) s = .next (taskFault s lb c t.station 0x0310)) ∧
      (xpois x a = false → off % 8 = 0 → 0x120000 ≤ off → ∀ d ecc : Nat,
        exec (.ld lb c d a imm ecc) s = .next (freezeBench s lb c 3 0 ((0x800000000000 + lb * 0x200000 + off) % 2 ^ 64)) ∧
        exec (.st lb c d a imm) s = .next (freezeBench s lb c 3 1 ((0x800000000000 + lb * 0x200000 + off) % 2 ^ 64)))) ∧
    (fenceWaits x = true → ∀ d a imm ecc : Nat, exec (.ld lb c d a imm ecc) s = .next s ∧ exec (.st lb c d a imm) s = .next s) ∧
    (∀ fn : Nat, t.ins.length ≤ fn → exec (.tfree lb c fn) s = .next (taskFault s lb c t.station 0x0310)) ∧
    (∀ (fn : Nat) (i : InRef), t.ins[fn]? = some i → unsettled s lb c t = true → exec (.tfree lb c fn) s = .next s) ∧
    (∀ (fn : Nat) (i : InRef), t.ins[fn]? = some i → unsettled s lb c t = false → keepsFeed s jk t = false → partnerTask s jk lb t = none →
      votingNow (getBench s lb) c = none → i.freed = false →
      ∃ u, exec (.tfree lb c fn) s = .next (wakePart u (jk / 2)) ∧ u.mem = s.mem ∧ u.jobs = s.jobs ∧
        getBench u lb = (getBench s lb).modCtx c (fun x => { x with pc := x.pc + 4, running := some { t with ins := modAt t.ins fn (fun i => { i with freed := true }) } }) ∧
        (∀ n, n ≠ lb → getBench u n = getBench s n) ∧
        u.convs = (freeSlot s jk i.conv i.home i.word).convs ∧
        ((convDescOf s jk i.conv).isSome = true → ∀ q ∈ (getConv (freeSlot s jk i.conv i.home i.word) jk i.conv).slots, ¬ (q.home = i.home ∧ q.word = i.word))) ∧
    (∀ (fn : Nat) (i : InRef), t.ins[fn]? = some i → unsettled s lb c t = false →
      (keepsFeed s jk t = true ∨ (votingNow (getBench s lb) c).isSome = true ∨ i.freed = true ∨
        ∃ (v : Task) (w : InRef), partnerTask s jk lb t = some v ∧ v.ins[fn]? = some w ∧ w.freed = false) →
      ∃ u, exec (.tfree lb c fn) s = .next (wakePart u (jk / 2)) ∧
        CtxStep s u lb c { x with pc := x.pc + 4, running := some { t with ins := modAt t.ins fn (fun i => { i with freed := true }) } }) ∧
    (∀ (a b fn k : Nat) (d : ConvDesc) (errs : List (Nat × Bool)), xpois x a = false → xpois x b = false → fn < t.nout → t.outs.getD fn 0xFFFF = k → k ≠ 0xFFFF → convDescOf s jk k = some d →
      let off := (xreg x a).toNat
      let m := checkReads (noteSpdErrs s c t.station errs) jk [(windowAddr lb off, 64 * (convWords d - 1))]
      let y := getCtx m lb c
      let ws := tileWordsAt m lb off d (descPayload d d.tensor t.step t.pass (bits (xreg x b).toNat 31 16) (bits (xreg x b).toNat 15 0) t.slot t.probe k (sourceId m lb))
      (0x120000 < off + 64 * (convWords d - 1) →
        exec (.tput lb c a b (fn, errs)) s = .next (freezeBench s lb c 3 0 ((0x800000000000 + lb * 0x200000 + off) % 2 ^ 64))) ∧
      (off + 64 * (convWords d - 1) ≤ 0x120000 →
        (t.sent.contains x.tputN = true ∨ (∃ v, votingNow (getBench m lb) c = some v ∧ v.nth ≠ x.tputN) →
          ∃ u, exec (.tput lb c a b (fn, errs)) s = .next u ∧ CtxStep m u lb c { y with pc := y.pc + 4, tputN := y.tputN + 1 }) ∧
        (t.sent.contains x.tputN = false →
          ((∃ v, votingNow (getBench m lb) c = some v ∧ v.nth = x.tputN) ∨ votingNow (getBench m lb) c = none ∧ taskLockstep t = true ∧ pairAlive m jk t.station lb = true →
            ∃ u, exec (.tput lb c a b (fn, errs)) s = .next u ∧ CtxStep m u lb c { y with pc := y.pc + 4, tputs := y.tputs ++ [⟨k, x.tputN, .signing, ws⟩], tputN := y.tputN + 1 }) ∧
          (votingNow (getBench m lb) c = none → (taskLockstep t && pairAlive m jk t.station lb) = false →
            (maySend m jk k d = false ∨ tputWaits m jk k = true →
              ∃ u, exec (.tput lb c a b (fn, errs)) s = .next u ∧
                CtxStep { m with convs := u.convs } u lb c { y with pc := y.pc + 4, tputs := y.tputs ++ [⟨k, x.tputN, .waiting m.time.tb, ws⟩], tputN := y.tputN + 1 } ∧
                getConv u jk k = { getConv m jk k with fullWaits := satAdd 32 (getConv m jk k).fullWaits 1, creditWait := (getConv m jk k).creditWait || isOutgoing d } ∧
                (∀ q, q ≠ k → getConv u jk q = getConv m jk q)) ∧
            (maySend m jk k d = true → tputWaits m jk k = false →
              ∃ u, exec (.tput lb c a b (fn, errs)) s = .next u ∧
                CtxStep (sendTile m jk k d ws).1 u lb c { getCtx (sendTile m jk k d ws).1 lb c with
                  pc := x.pc + 4, tputN := x.tputN + 1
                  tputs := x.tputs ++ (match (sendTile m jk k d ws).2 with | some ph => [⟨k, x.tputN, ph, ws⟩] | none => []) }))))) ∧
    (∀ (a b fn : Nat) (errs : List (Nat × Bool)), t.nout ≤ fn ∨ xpois x a = true ∨ xpois x b = true → exec (.tput lb c a b (fn, errs)) s = .next (taskFault s lb c t.station 0x0310))

/-- PRODUCT, ACC_STORE, ACC_LOAD and ACC_RELEASE (R73, R107, R110, R113 to R118, R123, R124, R127). -/
def Obligations.MatrixEngine : Prop :=
  ∀ (s : State) (lb c jk : Nat) (t : Task) (st : Station) (m : MxeCmd), MxeRuns s lb c jk t st m →
    let x := getCtx s lb c
    (m.fn = 3 → ∃ u, exec (.accRelease lb c) s = .next u ∧ CtxStep s u lb c { x with mxeQ := x.mxeQ.drop 1, accLive := false }) ∧
    (m.fn = 2 → m.off % 64 = 0 → m.off + 16384 ≤ 0x120000 →
      ∀ errs : List (Nat × Bool),
        let q := checkReads (noteSpdErrs s c t.station errs) jk [(windowAddr lb m.off, 16384)]
        ∃ (u : State) (y : BCtx), exec (.accLoad lb c errs) s = .next u ∧ CtxStep q u lb c y ∧
          y = { x with mxeQ := x.mxeQ.drop 1, accLive := true, acc := y.acc } ∧
          ∀ n, n < 4096 → Tab.get 0 y.acc n = if rdTagged q (windowAddr lb (m.off + 4 * n)) 4 then poisonF32 else BitVec.ofNat 32 (rdLe q (windowAddr lb (m.off + 4 * n)) 4)) ∧
    (m.fn = 1 → m.off % 64 = 0 → m.off + 16384 ≤ 0x120000 → Mem.wf s.mem.bytes = true →
      ∃ u, exec (.accStore lb c) s = .next u ∧ u = { s with mem := u.mem, benches := u.benches } ∧ u.mem = { s.mem with bytes := u.mem.bytes } ∧
        getCtx u lb c = { x with mxeQ := x.mxeQ.drop 1 } ∧ (∀ n, n ≠ lb → getBench u n = getBench s n) ∧
        (∀ n k, n < 4096 → k < 4 → Mem.get u.mem.bytes (0x800000000000 + lb * 0x200000 + m.off + 4 * n + k) = BitVec.ofNat 8 ((Tab.get 0 x.acc n).toNat / 2 ^ (8 * k))) ∧
        (∀ a, ¬ (0x800000000000 + lb * 0x200000 + m.off ≤ a ∧ a < 0x800000000000 + lb * 0x200000 + m.off + 16384) → Mem.get u.mem.bytes a = Mem.get s.mem.bytes a)) ∧
    (m.fn = 0 → m.off % 64 = 0 → m.off + 128 ≤ 0x120000 →
      let p := parseProd (rdData s (windowAddr lb m.off) 128)
      (prodFault p x.accLive = true → ∀ errs bad, exec (.product lb c errs bad) s = .next (taskFault s lb c t.station 0x0320)) ∧
      (prodFault p x.accLive = false →
        (∀ v, firstViolation (ownCause s lb (jk / 2)) (prodRanges p) = some v → ∀ errs bad, exec (.product lb c errs bad) s = .next (freezeBench s lb c v.1 v.2.1 v.2.2)) ∧
        (firstViolation (ownCause s lb (jk / 2)) (prodRanges p) = none → ∀ errs bad,
          let q := checkReads (noteSpdErrs s c t.station errs) jk (prodReads lb m.off p)
          (∃ (u : State) (y : BCtx), exec (.product lb c errs bad) s = .next u ∧ getCtx u lb c = y ∧
            y = { x with mxeQ := x.mxeQ.drop 1, accLive := p.outMode == 2, acc := y.acc, mxOvf := y.mxOvf, mxBlocks := y.mxBlocks, mxFlags := y.mxFlags } ∧
            y.mxBlocks = (if p.empty then 0 else p.blockCount % 65536) ∧ y.mxFlags.testBit 4 = p.empty ∧ y.mxOvf ≤ 0xFFFF ∧
            (∀ n k, n ≠ lb → getCtx u n k = getCtx s n k) ∧ u.parts = s.parts ∧ u.boot = s.boot ∧ u.cipher = s.cipher ∧
            (∀ j n, (getConv u j n).slots = (getConv s j n).slots)) ∧
          (p.outMode = 2 → ∃ u, exec (.product lb c errs bad) s = .next u ∧ u.mem = q.mem ∧
            (∀ i j, i < p.m → j < p.n → p.masked i j = false →
              Tab.get 0 (getCtx u lb c).acc (i * 64 + j) = prodAcc q p (if p.cont then Tab.get 0 x.acc (i * 64 + j) else 0) i j) ∧
            (∀ n, (∀ i j, i < p.m → j < p.n → n ≠ i * 64 + j) → Tab.get 0 (getCtx u lb c).acc n = Tab.get 0 x.acc n)) ∧
          (p.outMode ≠ 2 → p.way = 0 → (p.c.fmt = 1 ∨ p.c.fmt = 4) → (∀ e ∈ s.mem.pages, pageComp e.2 = false) →
            ∃ u, exec (.product lb c errs bad) s = .next u ∧
              ∀ a, (∀ i j, i < p.m → j < p.n → ¬ ((elemAddr p.c i j).1 ≤ a ∧ a < (elemAddr p.c i j).1 + fmtWidth p.c.fmt / 8)) →
                Mem.get u.mem.bytes a = Mem.get q.mem.bytes a)))) ∧
    (m.off % 64 = 0 → 0x120000 < m.off + 16384 →
      (m.fn = 1 → exec (.accStore lb c) s = .next (freezeBench s lb c 3 1 ((0x800000000000 + lb * 0x200000 + m.off) % 2 ^ 64))) ∧
      (m.fn = 2 → ∀ errs, exec (.accLoad lb c errs) s = .next (freezeBench s lb c 3 0 ((0x800000000000 + lb * 0x200000 + m.off) % 2 ^ 64)))) ∧
    (m.fn = 0 → m.off % 64 = 0 → 0x120000 < m.off + 128 → ∀ errs bad,
      exec (.product lb c errs bad) s = .next (freezeBench s lb c 3 0 ((0x800000000000 + lb * 0x200000 + m.off) % 2 ^ 64))) ∧
    (m.off % 64 ≠ 0 → (m.fn = 0 → ∀ errs bad, exec (.product lb c errs bad) s = .next (taskFault s lb c t.station 0x0320)) ∧
      (m.fn = 1 → exec (.accStore lb c) s = .next (taskFault s lb c t.station 0x0320)) ∧
      (m.fn = 2 → ∀ errs, exec (.accLoad lb c errs) s = .next (taskFault s lb c t.station 0x0320)))

/-- VSE_STREAM, TPUT_SLOT_GRANT and TILE_LAND (R73, R121, R158 to R178, R185, R220, R221, R224, R232, R631). -/
def Obligations.VectorStreamAndTiles : Prop :=
  (∀ (s : State) (lb c jk : Nat) (t : Task) (st : Station) (im : Image) (v : VseCmd), VseRuns s lb c jk t st im v →
    let x := getCtx s lb c
    (v.off % 64 ≠ 0 → ∀ errs, exec (.vseStream lb c errs) s = .next (taskFault s lb c t.station 0x0340)) ∧
    (v.off % 64 = 0 → 0x120000 < v.off + 384 → ∀ errs, exec (.vseStream lb c errs) s = .next (freezeBench s lb c 3 0 ((0x800000000000 + lb * 0x200000 + v.off) % 2 ^ 64))) ∧
    (v.off % 64 = 0 → v.off + 384 ≤ 0x120000 →
      (streamReadsAcc s lb v.off = true → (∃ m ∈ x.mxeQ, m.seq < v.seq) → ∀ errs, exec (.vseStream lb c errs) s = .next s) ∧
      ((∀ m ∈ x.mxeQ, streamReadsAcc s lb v.off = true → v.seq ≤ m.seq) → ∀ errs : List (Nat × Bool),
        let a := windowAddr lb v.off
        let inDesc := fun (e : Nat × Bool) => decide (a ≤ e.1 ∧ e.1 < a + 384)
        let q := checkReads (noteSpdErrs s c t.station (errs.filter inDesc)) jk [(a, 384)]
        let d := readStream q a
        let p := programOf im st d
        (streamOk d st x.accLive p = false → exec (.vseStream lb c errs) s = .next (taskFault q lb c t.station 0x0340)) ∧
        (streamOk d st x.accLive p = true →
          (∀ w, firstViolation (unitCause q (jk / 2)) (streamRanges d) = some w → exec (.vseStream lb c errs) s = .next (freezeBench q lb c w.1 w.2.1 w.2.2)) ∧
          (firstViolation (unitCause q (jk / 2)) (streamRanges d) = none →
            let r := checkReads (noteSpdErrs q c t.station (errs.filter (fun e => !inDesc e))) jk (streamReads d p)
            (∃ (u : State) (y : BCtx), exec (.vseStream lb c errs) s = .next u ∧ getCtx u lb c = y ∧
              y = { x with vseQ := x.vseQ.drop 1, stream := y.stream, accLive := y.accLive } ∧
              y.accLive = (x.accLive && !(d.accRelease && d.slots.any (fun z => z.dir != 0 && z.src == 1))) ∧
              (d.maskSlot = 0xFF → y.stream / 2 ^ 32 = d.rows * d.cols) ∧
              (∀ n k, n ≠ lb → getCtx u n k = getCtx s n k) ∧ u.parts = s.parts ∧ u.boot = s.boot ∧ u.jobs = s.jobs ∧
              (∀ j n, (getConv u j n).slots = (getConv s j n).slots)) ∧
            (∀ (i : VInstr) (z : Slot), p = [i] → i.op = 0x20 → 0x10 ≤ i.a → d.slot i.d = some z → z.r.fmt = 1 → z.way = 0 → d.mode = 0 → d.histEn = false →
              (∀ e ∈ s.mem.pages, pageComp e.2 = false) →
              ∃ u, exec (.vseStream lb c errs) s = .next u ∧
                ∀ b, (∀ k l, k < d.rows → l < d.cols → ¬ ((elemAddr z.r k l).1 ≤ b ∧ b < (elemAddr z.r k l).1 + 4)) → Mem.get u.mem.bytes b = Mem.get r.mem.bytes b)))))) ∧
  (∀ (s : State) (jk k : Nat) (d : ConvDesc), convDescOf s jk k = some d →
    let waits := fun (lb : Nat) => partOfLb s lb == some (jk / 2) &&
      (getCtx s lb (jk % 2)).tputs.any (fun w => w.conv == k && (match w.phase with | .waiting _ => true | _ => false))
    (maySend s jk k d = false → exec (.tputSlotGrant jk k) s = .next s) ∧
    (rotatePick 576 (getConv s jk k).prodPtr waits = none → exec (.tputSlotGrant jk k) s = .next s) ∧
    (∀ (lb since : Nat) (pre post : List Tput) (w : Tput), maySend s jk k d = true → rotatePick 576 (getConv s jk k).prodPtr waits = some lb →
      (getCtx s lb (jk % 2)).tputs = pre ++ w :: post → w.conv = k → w.phase = .waiting since → (∀ z ∈ pre, ∀ n, ¬ (z.conv = k ∧ z.phase = .waiting n)) →
      ∃ u, exec (.tputSlotGrant jk k) s = .next u ∧ (getConv u jk k).prodPtr = (lb + 1) % 576 ∧
        (getConv u jk k).waitNs = satAdd 64 (getConv s jk k).waitNs (s.time.tb - since) ∧ (getConv u jk k).creditWait = ((getConv s jk k).creditWait && tputWaits u jk k) ∧
        ((getCtx u lb (jk % 2)).tputs = pre ++ post ∨ ∃ n, (getCtx u lb (jk % 2)).tputs = pre ++ { w with phase := .sending n } :: post) ∧
        u.jobs = s.jobs ∧ u.parts = s.parts ∧ u.boot = s.boot ∧ (∀ q, q ≠ k → getConv u jk q = getConv s jk q))) ∧
  (∀ (s : State) (jk k home word : Nat),
    let sends := fun (lb : Nat) => partOfLb s lb == some (jk / 2) && (getCtx s lb (jk % 2)).tputs.any (fun w => w.conv == k && w.phase == .sending (home * 32768 + word))
    ((s.benches.map Prod.fst).find? sends = none → exec (.tileLand jk k home word) s = .next s) ∧
    (∀ (lb : Nat) (pre post : List Tput) (w : Tput), (s.benches.map Prod.fst).find? sends = some lb → (getCtx s lb (jk % 2)).tputs = pre ++ w :: post →
      w.conv = k → w.phase = .sending (home * 32768 + word) → (∀ z ∈ pre, ¬ (z.conv = k ∧ z.phase = .sending (home * 32768 + word))) →
      ∃ u, exec (.tileLand jk k home word) s = .next (goOn (tileArrived u jk k) jk) ∧ (getCtx u lb (jk % 2)).tputs = pre ++ post ∧
        (getConv u jk k).slots = (getConv s jk k).slots.filter (fun q => !(q.home == home && q.word == word)) ++
          ((getConv s jk k).slots.filter (fun q => q.home == home && q.word == word)).map (fun q => { q with landed := true }) ∧
        (∀ q ∈ (getConv u jk k).slots, q.home = home → q.word = word → q.landed = true) ∧ u.mem = s.mem ∧ u.jobs = s.jobs ∧ u.host = s.host))

/-- STEAL_REQUEST, STEAL_GRANT, STEAL_REFUSAL, STEAL_TIMEOUT (R62 to R65, R97, R98). -/
def Obligations.Stealing : Prop :=
  (∀ (s : State) (v : Nat) (ts : List Nat), present s v = false ∨ (getBench s v).failed = true → exec (.stealRequest v ts) s = .next s) ∧
  (∀ (s : State) (v thief jk : Nat) (r : StealReq), present s v = true → (getBench s v).failed = false → benchIdle s v = false → thief < 576 → thief ≠ v →
    (getBench s thief).steal = some r → r.victim = v → r.answer = .none → jobOf s v r.ctx = some jk →
    let ok := fun (t : Task) => t.station == r.station && !taskCont t && taskReady s jk v t
    (∀ (t : Task) (pre post : List Task), 2 ≤ readyCount s jk v r.station → (getCtx s v r.ctx).queue = pre ++ t :: post → ok t = true → (∀ z ∈ post, ok z = false) →
      jk % 2 = (if r.ctx = 0 then 0 else 1) →
      ∃ u, exec (.stealRequest v [thief]) s = .next u ∧ u = { s with benches := u.benches } ∧ (getBench u thief).steal = some { r with answer := .granted t } ∧
        getCtx u v r.ctx = { getCtx s v r.ctx with queue := pre ++ post } ∧ (∀ n, n ≠ v → n ≠ thief → getBench u n = getBench s n)) ∧
    (readyCount s jk v r.station < 2 ∨ (∀ z ∈ (getCtx s v r.ctx).queue, ok z = false) →
      ∃ u, exec (.stealRequest v [thief]) s = .next u ∧ u = { s with benches := u.benches } ∧ (getBench u thief).steal = some { r with answer := .refused } ∧
        getCtx u v 0 = getCtx s v 0 ∧ getCtx u v 1 = getCtx s v 1 ∧ (∀ n, n ≠ v → n ≠ thief → getBench u n = getBench s n))) ∧
  (∀ (s : State) (thief jk : Nat) (r : StealReq) (t : Task), (getBench s thief).steal = some r → r.answer = .granted t → jobOf s thief r.ctx = some jk →
    (∀ st, stationOf s jk t.station = some st → st.kind = 5 → t.node ≠ (0, 0)) →
    ∃ u, exec (.stealGrant thief) s = .next u ∧ u = { s with benches := u.benches, jobs := u.jobs } ∧
      (t ∈ (getCtx u thief (jk % 2)).queue ∨ (getCtx u thief (jk % 2)).running = some t) ∧
      (if r.home = r.station then Tab.get 0 (getJob u jk).stealsOwn r.home = Tab.get 0 (getJob s jk).stealsOwn r.home + 1 ∧ (getJob u jk).stealsFlex = (getJob s jk).stealsFlex
       else Tab.get 0 (getJob u jk).stealsFlex r.home = Tab.get 0 (getJob s jk).stealsFlex r.home + 1 ∧ (getJob u jk).stealsOwn = (getJob s jk).stealsOwn)) ∧
  (∀ (s : State) (thief jk : Nat) (r : StealReq), (getBench s thief).steal = some r → jobOf s thief r.ctx = some jk →
    (r.answer = .refused → ∃ u, exec (.stealRefusal thief) s = .next u ∧ u = { s with benches := u.benches, jobs := u.jobs } ∧
      (getBench u thief).excluded = (getBench s thief).excluded.filter (fun e => e.1 / 512 != r.victim) ++
        [(r.victim * 512 + r.station * 2 + r.ctx, min 3 ((getCtx s r.victim (jk % 2)).queue.countP (fun t => t.station == r.station && taskReady s jk r.victim t)))]) ∧
    (r.answer = .none → ∃ u, exec (.stealTimeout thief) s = .next u ∧ u = { s with benches := u.benches, jobs := u.jobs } ∧
      (getBench u thief).excluded = (getBench s thief).excluded.filter (fun e => e.1 / 512 != r.victim) ++
        [(r.victim * 512 + r.station * 2 + r.ctx, min 3 ((getCtx s r.victim (jk % 2)).queue.countP (fun t => t.station == r.station && taskReady s jk r.victim t)))]) ∧
    (r.answer ≠ .refused → exec (.stealRefusal thief) s = .next s) ∧ (r.answer ≠ .none → exec (.stealTimeout thief) s = .next s)) ∧
  (∀ (s : State) (thief : Nat), (getBench s thief).steal = none →
    exec (.stealGrant thief) s = .next s ∧ exec (.stealRefusal thief) s = .next s ∧ exec (.stealTimeout thief) s = .next s)

/-- LOCKSTEP_SIGNATURE, LOCKSTEP_VOTE, BENCH_FAILED, BENCH_SPARED, SPD_ROW_SPARED (R82, R83, R99 to R103, R534 to R536; code kept: DEDUCED, log 124). -/
def Obligations.LockstepAndRepair : Prop :=
  (∀ (s : State) (low c jk high n il ih : Nat) (t : Task) (wl wh : Tput), jobOf s low c = some jk → (getCtx s low c).running = some t →
    pairOf (getJob s jk) t.station low = some high → high ≠ low → firstSigning (getCtx s low c) = some n → signingAt (getCtx s low c) n = some il → signingAt (getCtx s high c) n = some ih →
    (getCtx s low c).tputs[il]? = some wl → (getCtx s high c).tputs[ih]? = some wh →
    let called := ∃ e ∈ s.benches, ∃ q ∈ e.2.votes, q.low = low ∧ q.ctx = c ∧ q.nth = n
    (signature wl.words = signature wh.words → (convDescOf s jk wl.conv).isSome = true → ∃ u, exec (.lockstepSignature low c) s = .next u ∧
      (getCtx u high c).tputs = (getCtx s high c).tputs.eraseIdx ih ∧ u.jobs = s.jobs ∧ u.parts = s.parts ∧ u.boot = s.boot ∧
      ((getCtx u low c).tputs = (getCtx s low c).tputs.eraseIdx il ∨ ∃ ph, (getCtx u low c).tputs = modAt (getCtx s low c).tputs il (fun w => { w with phase := ph }))) ∧
    (signature wl.words ≠ signature wh.words → called → exec (.lockstepSignature low c) s = .next s) ∧
    (signature wl.words ≠ signature wh.words → ¬ called → chooseVoter s jk t.station low high = none →
      ∃ u, exec (.lockstepSignature low c) s = .next u ∧ u.benches = s.benches ∧ u.mem = s.mem ∧ u.convs = s.convs ∧ u.parts = s.parts ∧ u.boot = s.boot ∧
        (getJob u jk).raisedOnce.contains (0x313, 2 ^ 128 + t.station * 2 ^ 64 + t.seq * 2 ^ 32 + n, t.step) = true ∧
        ((getJob s jk).raisedOnce.contains (0x313, 2 ^ 128 + t.station * 2 ^ 64 + t.seq * 2 ^ 32 + n, t.step) = true → u = s)) ∧
    (∀ v, signature wl.words ≠ signature wh.words → chooseVoter s jk t.station low high = some v → ¬ called →
      ∃ u, exec (.lockstepSignature low c) s = .next u ∧ (getBench u v).votes = (getBench s v).votes ++ [⟨low, high, c, v, n, t⟩] ∧
        u.mem = s.mem ∧ u.convs = s.convs ∧ u.parts = s.parts ∧ u.boot = s.boot)) ∧
  (∀ (s : State) (voter jk iv il ih : Nat) (v : Vote) (more : List Vote) (wv wl wh : Tput), (getBench s voter).votes = v :: more → jobOf s voter v.ctx = some jk →
    votingNow (getBench s voter) v.ctx = some v → signingAt (getCtx s voter v.ctx) v.nth = some iv → signingAt (getCtx s v.low v.ctx) v.nth = some il →
    signingAt (getCtx s v.high v.ctx) v.nth = some ih → (getCtx s voter v.ctx).tputs[iv]? = some wv → (getCtx s v.low v.ctx).tputs[il]? = some wl →
    (getCtx s v.high v.ctx).tputs[ih]? = some wh →
    (signature wv.words = signature wl.words → present s v.high = true → (getBench s v.high).failed = false → partOfLb s v.high ≠ none →
      ∃ u, exec (.lockstepVote voter) s = .next u ∧ (getBench u v.high).quarantined = true ∧ (getBench u v.high).failed = true ∧ (getBench u v.high).cause = 4) ∧
    (signature wv.words ≠ signature wl.words → signature wv.words = signature wh.words → present s v.low = true → (getBench s v.low).failed = false → partOfLb s v.low ≠ none →
      ∃ u, exec (.lockstepVote voter) s = .next u ∧ (getBench u v.low).quarantined = true ∧ (getBench u v.low).failed = true ∧ (getBench u v.low).cause = 4) ∧
    (signature wv.words ≠ signature wl.words → signature wv.words ≠ signature wh.words →
      ∃ u, exec (.lockstepVote voter) s = .next u ∧ (∀ b, (getBench u b).failed = (getBench s b).failed ∧ (getBench u b).quarantined = (getBench s b).quarantined) ∧
        v.low ∈ u.self.reqs ∧ v.high ∈ u.self.reqs ∧ voter ∈ u.self.reqs ∧ u.parts = s.parts ∧ u.boot = s.boot)) ∧
  (∀ (s : State) (lb cause p : Nat) (lost : List Nat), present s lb = true → (getBench s lb).failed = false → partOfLb s lb = some p →
    ∃ u, exec (.benchFailed lb (cause, lost)) s = .next u ∧ (getBench u lb).failed = true ∧ (getBench u lb).cause = cause ∧ (getBench u lb).withdrawn = false ∧
      (getBench u lb).votes = [] ∧ (getBench u lb).steal = none ∧ ((getBench u lb).quarantined = true ↔ (getBench s lb).quarantined = true ∨ cause = 4) ∧ u.parts = s.parts ∧
      u.boot.phys = s.boot.phys ∧
      (getJob s (2 * p) = Job.reset → getJob s (2 * p + 1) = Job.reset → (getCtx s lb 0).queue = [] → (getCtx s lb 1).queue = [] → (getCtx s lb 0).running = none →
        (getCtx s lb 1).running = none → ∀ w, (getBench u lb).tags.contains w = ((getBench s lb).tags.contains w || lost.contains w))) ∧
  (∀ (s : State) (lb cause : Nat) (lost : List Nat), present s lb = false ∨ (getBench s lb).failed = true → exec (.benchFailed lb (cause, lost)) s = .next s) ∧
  (∀ (s : State) (lb pb : Nat), Tab.find s.boot.phys lb = some pb → (getBench s lb).failed = true →
    (∀ x, spareFor s lb pb = some x → ∃ u, exec (.benchSpared lb) s = .next (goOnPart u (partOfLb s lb)) ∧ Tab.find u.boot.phys lb = some x ∧
      (∀ n, n ≠ lb → Tab.find u.boot.phys n = Tab.find s.boot.phys n) ∧ (getBench u lb).failed = false ∧ (getBench u lb).tags = (getBench s lb).tags ∧
      (getBench u lb).cache = (getBench s lb).cache ∧ (∀ n, n ≠ lb → getBench u n = getBench s n) ∧ u.mem = s.mem ∧ u.convs = s.convs ∧ u.jobs = s.jobs) ∧
    (spareFor s lb pb = none → ∃ u, exec (.benchSpared lb) s = .next (goOnPart u (partOfLb s lb)) ∧ present u lb = false ∧
      (∀ n, n ≠ lb → Tab.find u.boot.phys n = Tab.find s.boot.phys n) ∧ u.jobs = s.jobs)) ∧
  (∀ (s : State) (lb : Nat), (getBench s lb).failed = false → exec (.benchSpared lb) s = .next s) ∧
  (∀ (s : State) (lb row : Nat) (r : RowDue) (lost : List Nat), (getBench s lb).rowDue.find? (fun z => z.row == row) = some r → rowMayGo s lb r = true →
    (bankFull s ((Tab.find s.boot.phys lb).getD 0) (row / 256) = false → ∃ u, exec (.spdRowSpared lb (row, lost)) s = .next u ∧ u = { s with benches := u.benches, boot := u.boot, host := u.host } ∧
      getBench u lb = { getBench s lb with rowDue := (getBench s lb).rowDue.filter (·.row != row), rowErrs := Tab.del (getBench s lb).rowErrs row, sparesUsed := Tab.mod 0 (getBench s lb).sparesUsed (row / 256) (· + 1) } ∧ (∀ n, n ≠ lb → getBench u n = getBench s n) ∧ u.boot.phys = s.boot.phys) ∧
    (∀ p, bankFull s ((Tab.find s.boot.phys lb).getD 0) (row / 256) = true → present s lb = true → (getBench s lb).failed = false → partOfLb s lb = some p →
      ∃ u, exec (.spdRowSpared lb (row, lost)) s = .next u ∧ (getBench u lb).failed = true ∧ (getBench u lb).cause = 3)) ∧
  (∀ (s : State) (lb row : Nat) (lost : List Nat), (∀ r, (getBench s lb).rowDue.find? (fun z => z.row == row) = some r → rowMayGo s lb r = false) →
    exec (.spdRowSpared lb (row, lost)) s = .next s)

/-- TEND, HELD_TASK_RELEASE, STEP_BOUNDARY, JOB_STEP_LIMIT_STOP (R57, R58, R90, R92, R93, R196, R271). -/
def Obligations.StepsAndTasks : Prop :=
  (∀ (s : State) (lb c jk : Nat) (t : Task) (st : Station), CcRuns s lb c jk t → stationOf s jk t.station = some st →
    (workDone (getCtx s lb c) 7 = false → exec (.tend lb c) s = .next s) ∧
    (workDone (getCtx s lb c) 7 = true → votingNow (getBench s lb) c = none → partnerTask s jk lb t = none → st.kind ≠ 6 → st.kind ≠ 7 →
      ∃ u, exec (.tend lb c) s = .next (goOn u jk) ∧ Tab.get 0 (getJob u jk).tasksDone t.station = satAdd 64 1 (Tab.get 0 (getJob s jk).tasksDone t.station) ∧
        (isTree st = false → st.kind ≠ 5 → taskKeep t = false → taskCont t = false → t.probe = false →
          getCtx u lb c = { getCtx s lb c with running := none, accLive := false } ∧ (∀ n, n ≠ lb → getBench u n = getBench s n) ∧ u.mem = s.mem ∧
          (∀ i ∈ t.ins, i.freed = false → (convDescOf s jk i.conv).isSome = true → ∀ q ∈ (getConv u jk i.conv).slots, ¬ (q.home = i.home ∧ q.word = i.word)))) ∧
    (∀ v : Task, workDone (getCtx s lb c) 7 = true → votingNow (getBench s lb) c = none → partnerTask s jk lb t = some v →
      ∃ u, exec (.tend lb c) s = .next (wakePart (freeShared u jk t v) (jk / 2)) ∧ u = { s with benches := u.benches, jobs := u.jobs } ∧
        getCtx u lb c = { getCtx s lb c with running := none, accLive := (getCtx s lb c).accLive && taskKeep t } ∧ (∀ n, n ≠ lb → getBench u n = getBench s n) ∧
        (getJob u jk).tasksDone = (getJob s jk).tasksDone)) ∧
  (∀ (s : State) (jk : Nat), ((getJob s jk).phase ≠ .running → exec (.heldTaskRelease jk) s = .next s) ∧
    ((getJob s jk).phase = .running → exec (.heldTaskRelease jk) s = .next (goOn s jk))) ∧
  (∀ (s : State) (jk : Nat), (mayAdvance s jk = false → exec (.stepBoundary jk) s = .next s) ∧
    (mayAdvance s jk = true → (getJob s jk).held = false ∧ (getJob s jk).holds = [] ∧ (getJob s jk).stopping = none ∧ (getJob s jk).phase = .running ∧
      ∃ u, exec (.stepBoundary jk) s = .next (goOn u jk) ∧ (getJob u jk).step = (getJob s jk).step + 1 ∧ (getJob u jk).pass = 0 ∧
        (getJob u jk).changes = (getJob s jk).changes.filter (fun x => decide ((getJob s jk).step + 1 < x.2.2)) ∧
        (getJob u jk).members = membersAt (getJob s jk) ((getJob s jk).step + 1) ∧ u.parts = s.parts ∧ u.boot = s.boot)) ∧
  (∀ (s : State) (jk : Nat),
    let j := getJob s jk
    (j.phase = .running → j.stepOpen = true → j.probe = none → lastStep j ≤ j.step → drainedBefore s jk (j.step + 1) = true → roundsQuiet s jk (j.step + 1) = true →
      ∃ u, exec (.jobStepLimitStop jk) s = .next u ∧ getJob u jk = Job.reset ∧ u.parts = s.parts ∧ u.boot = s.boot) ∧
    (j.step < lastStep j ∨ j.stepOpen = false ∨ drainedBefore s jk (j.step + 1) = false → exec (.jobStepLimitStop jk) s = .next s))

/-- The tables of FP4 codes, T2 codes and E8M0 scales (R133, R134, R137). -/
def Obligations.FormatCodes : Prop :=
  [0, 1, 2, 3, 4, 5, 6, 7, 8, 9, 10, 11, 12, 13, 14, 15].map (fun c => (codeVal 7 c).asRat)
    = [0, 1 / 2, 1, 3 / 2, 2, 3, 4, 6, 0, -(1 / 2), -1, -(3 / 2), -2, -3, -4, -6].map some ∧
  Val.isNeg (codeVal 7 0) = false ∧ Val.isNeg (codeVal 7 8) = true ∧
  [0, 1, 3].map (fun c => (codeVal 8 c).asRat) = [some 0, some 1, some (-1)] ∧ codeVal 8 2 = .poison ∧
  (∀ c : Nat, c ≤ 0xFE → (elemVal 7 2 c).asRat = some ((2 : Rat) ^ ((c : Int) - 127)) ∧ (2 : Rat) ^ ((c : Int) - 127) ≠ 0) ∧
  (∀ f x : Nat, isNarrow f = true → elemVal f x 0xFF = .poison) ∧
  (∀ (f b : Nat) (vs : List (Val × RoundMode)), isNarrow f = true → (∀ v ∈ vs, v.1 = Val.zero) → (writeBlock f b vs).scale = 0)

/-- A CODED block that is wrong in size, as a reader receives it (R86). -/
def Obligations.WrongSizeBlock : Prop :=
  ∀ (s : State) (b n : Nat), b % 2048 = 0 → b < memTop → stackDown s b = false → blockState s b = .coded n →
    expandBlock n (Mem.read s.mem.bytes b (64 * n)) = none →
    (∀ k, k < 2048 → (rdByte s (b + k)).2 = true) ∧
    (∀ k row : Nat, k < 32 → ∃ d : List Byte, d.length = 64 ∧
      exec (.memRead (b + 64 * k) row 0) s = .next { raiseMem s 0x0370 b with mem := { s.mem with reply := (d, true) } })

/-- BOARD_TILE_RECEIVE, BOARD_CONV_BIND, CONV_CREDIT_RECEIVE, CONV_HOLD_RECEIVE, CONV_RELEASE_RECEIVE, FEED_WORD_RECEIVE, FEED_BUFFER_DRAIN (R215 to R217, R223, R227 to R232, R430, R467). -/
def Obligations.ConveyorEnds : Prop :=
  (∀ (s : State) (port tag i : Nat) (ws : List (Nat × List Byte)),
    (boardFrozen s port tag = true ∨ tagResetting s tag = false ∧ (jobOfTag s tag = none ∧ s.board.resetTags.contains tag = false ∨
        ∃ jk, jobOfTag s tag = some jk ∧ (boardConv s jk i = none ∨ ∃ k, boardConv s jk i = some k ∧ (convDescOf s jk k = none ∨
          ∃ d, convDescOf s jk k = some d ∧ (isIncoming d = false ∨ (getConv s jk k).broken = true)))) →
      ∃ u, exec (.boardTileReceive port tag i ws) s = .next u ∧ u = { s with board := { s.board with ports := u.board.ports } } ∧
        getPort u port = { getPort s port with cnt := { (getPort s port).cnt with noJob := satAdd 32 (getPort s port).cnt.noJob 1 } }) ∧
    (boardFrozen s port tag = false → tagResetting s tag = true → exec (.boardTileReceive port tag i ws) s = .next (sendFrame s .partReset (slotBehind s port) tag [1] [])) ∧
    (boardFrozen s port tag = false → tagResetting s tag = false → jobOfTag s tag = none → s.board.resetTags.contains tag = true →
      ∃ u, exec (.boardTileReceive port tag i ws) s = .next (sendFrame u .jobClosed (slotBehind s port) tag [] []) ∧ u = { s with board := { s.board with ports := u.board.ports } } ∧
        (getPort u port).cnt.noJob = satAdd 32 (getPort s port).cnt.noJob 1) ∧
    (∀ (jk k : Nat) (d : ConvDesc), boardFrozen s port tag = false → tagResetting s tag = false → jobOfTag s tag = some jk → boardConv s jk i = some k →
      convDescOf s jk k = some d → isIncoming d = true → (getConv s jk k).broken = false →
      ((getConv s jk k).rxSlot = none → pickSlot s jk k d = none → exec (.boardTileReceive port tag i ws) s = .next s) ∧
      (∀ p, (getConv s jk k).rxSlot = some p →
        (p.1 = 0x3FF → ownsRange s (jk / 2) (slotAddr s jk d p.1 p.2) (64 * convWords d) = false →
          ∃ u, exec (.boardTileReceive port tag i ws) s = .next u ∧ boardFrozen u port tag = true ∧ u.mem = s.mem ∧ u.jobs = s.jobs ∧
            (∀ q ∈ (getConv u jk k).slots, ¬ (q.home = p.1 ∧ q.word = p.2)) ∧ (getConv u jk k).partialRx = [] ∧ (getConv u jk k).rxSlot = none ∧
            (getPort u port).cnt.noJob = satAdd 32 (getPort s port).cnt.noJob 1) ∧
        (p.1 ≠ 0x3FF ∨ ownsRange s (jk / 2) (slotAddr s jk d p.1 p.2) (64 * convWords d) = true →
          (((getConv s jk k).partialRx ++ ws).any (fun w => metaEnd w.1) = false → ((getConv s jk k).partialRx ++ ws).length < convWords d →
            ∃ u, exec (.boardTileReceive port tag i ws) s = .next u ∧ u = { s with convs := u.convs } ∧
              getConv u jk k = { getConv s jk k with partialRx := (getConv s jk k).partialRx ++ ws } ∧ (∀ q, q ≠ k → getConv u jk q = getConv s jk q)) ∧
          (((getConv s jk k).partialRx ++ ws).any (fun w => metaEnd w.1) = true ∨ convWords d ≤ ((getConv s jk k).partialRx ++ ws).length →
            ∃ u, exec (.boardTileReceive port tag i ws) s = .next (finishTile u jk k d p ((getConv s jk k).partialRx ++ ws)) ∧ u = { s with convs := u.convs } ∧
              getConv u jk k = { getConv s jk k with partialRx := [], rxSlot := none }))))) ∧
  (∀ (s : State) (h : Nat × List Byte) (more : List (Nat × List Byte)) (jk k : Nat) (d : ConvDesc) (p : Nat × Nat), convDescOf s jk k = some d →
    (parityOk h = true → framedOk d (h :: more) = false → ∃ u, finishTile s jk k d p (h :: more) = raiseConv u jk k d 0x0362 ∧
      (getConv u jk k).discards = satAdd 32 (getConv s jk k).discards 1 ∧ (∀ q ∈ (getConv u jk k).slots, ¬ (q.home = p.1 ∧ q.word = p.2)) ∧ u.mem = s.mem) ∧
    (parityOk h = false → (getJob s jk).phase ≠ .closed → getJob (finishTile s jk k d p (h :: more)) jk = Job.reset)) ∧
  (∀ (s : State) (tag slot idx mine slots : Nat), (jobOfTag s tag = none →
      exec (.boardConvBind tag slot idx mine slots) s = .next { s with board := { s.board with offers := s.board.offers ++ [(tag, slot, idx, mine, slots)] } }) ∧
    (∀ (jk k : Nat) (d : ConvDesc), jobOfTag s tag = some jk → boardConv s jk mine = some k → convDescOf s jk k = some d →
      (isOutgoing d = true → (getConv s jk k).peer = some (slot, idx) → (getConv s jk k).bound = false → (getConv s jk k).broken = false → isIncoming d = false →
        ∃ u, exec (.boardConvBind tag slot idx mine slots) s = .next u ∧ u = { s with convs := u.convs } ∧
          getConv u jk k = { getConv s jk k with bound := true, offered := true, credits := slots } ∧ (∀ q, q ≠ k → getConv u jk q = getConv s jk q)) ∧
      (isOutgoing d = false → (getConv s jk k).peer = some (slot, idx) → (getConv s jk k).bound = false → (getConv s jk k).broken = false → isIncoming d = true →
        ∃ u, exec (.boardConvBind tag slot idx mine slots) s = .next (sendFrame u .bind slot (getJob s jk).tag [extIndex d, idx, convSlots s jk k d] []) ∧ u = { s with convs := u.convs } ∧
          getConv u jk k = { getConv s jk k with bound := true, offered := true }) ∧
      ((getConv s jk k).broken = true ∨ (getConv s jk k).bound = true ∨ (getConv s jk k).peer ≠ some (slot, idx) →
        exec (.boardConvBind tag slot idx mine slots) s = .next s))) ∧
  (∀ (s : State) (tag i : Nat), (∀ (jk k : Nat) (d : ConvDesc), jobOfTag s tag = some jk → boardConv s jk i = some k → convDescOf s jk k = some d →
      isOutgoing d = true → (getConv s jk k).bound = true →
      (∃ u, exec (.convCreditReceive tag i) s = .next (wakePart u (jk / 2)) ∧ u = { s with convs := u.convs } ∧
        getConv u jk k = { getConv s jk k with credits := (getConv s jk k).credits + 1 } ∧ (∀ q, q ≠ k → getConv u jk q = getConv s jk q)) ∧
      (∃ u, exec (.convHoldReceive tag i) s = .next (wakePart u (jk / 2)) ∧ u = { s with convs := u.convs } ∧
        getConv u jk k = { getConv s jk k with peerHold := true } ∧ (∀ q, q ≠ k → getConv u jk q = getConv s jk q)) ∧
      (∃ u, exec (.convReleaseReceive tag i) s = .next (wakePart u (jk / 2)) ∧ u = { s with convs := u.convs } ∧
        getConv u jk k = { getConv s jk k with peerHold := false } ∧ (∀ q, q ≠ k → getConv u jk q = getConv s jk q))) ∧
    (jobOfTag s tag = none → exec (.convCreditReceive tag i) s = .next s ∧ exec (.convHoldReceive tag i) s = .next s ∧ exec (.convReleaseReceive tag i) s = .next s)) ∧
  (∀ (s : State) (n : Nat) (word payload : List Byte), let m := beNat ((word ++ payload).take 2); let p := ((word ++ payload).drop 2).take 64
    (feedConv s n = none → exec (.feedWordReceive n word payload) s = .next s ∧ exec (.feedBufferDrain n) s = .next s) ∧
    (∀ (jk k : Nat) (d : ConvDesc), feedConv s n = some (jk, k) → convDescOf s jk k = some d →
      ((getFeed s n).frozen = false → ((getFeed s n).discarding = false ∨ metaDesc m = true) → (getFeed s n).buf.length < 4096 →
        ∃ u, exec (.feedWordReceive n word payload) s = .next u ∧ u = { s with feeds := u.feeds } ∧
          getFeed u n = { getFeed s n with discarding := false, buf := (getFeed s n).buf ++ [(m, p)] } ∧ (∀ q, q ≠ n → getFeed u q = getFeed s q)) ∧
      ((getFeed s n).frozen = false → ((getFeed s n).discarding = false ∨ metaDesc m = true) → 4096 ≤ (getFeed s n).buf.length →
        ∃ u, exec (.feedWordReceive n word payload) s = .next (raiseConv u jk k d 0x0364) ∧ (getFeed u n).discarding = true ∧
          (getConv u jk k).discards = satAdd 32 (getConv s jk k).discards 1 ∧ u = { s with feeds := u.feeds, convs := u.convs } ∧
          (∀ w, (getFeed s n).buf.getLast? = some w → metaEnd w.1 = true → (getFeed u n).buf = (getFeed s n).buf)) ∧
      ((getFeed s n).frozen = true → ∃ u, exec (.feedWordReceive n word payload) s = .next u ∧ u = { s with convs := u.convs } ∧ (metaDesc m = false → u = s)) ∧
      ((getFeed s n).frozen = true ∨ (getFeed s n).buf = [] → exec (.feedBufferDrain n) s = .next s) ∧
      ((getFeed s n).frozen = false → (getFeed s n).buf ≠ [] → (getFeed s n).slot = none → pickSlot s jk k d = none → exec (.feedBufferDrain n) s = .next s) ∧
      (∀ slot, (getFeed s n).frozen = false → (getFeed s n).buf ≠ [] → (getFeed s n).slot = some slot → slot.1 ≠ 0x3FF →
        (((getFeed s n).moving ++ (getFeed s n).buf).any (fun w => metaEnd w.1) = false → ((getFeed s n).moving ++ (getFeed s n).buf).length < convWords d →
          ∃ u, exec (.feedBufferDrain n) s = .next u ∧ u = { s with feeds := u.feeds } ∧
            getFeed u n = { getFeed s n with buf := [], moving := (getFeed s n).moving ++ (getFeed s n).buf }) ∧
        (∀ (pre post : List (Nat × List Byte)) (w : Nat × List Byte), (getFeed s n).buf = pre ++ w :: post → metaEnd w.1 = true → (∀ z ∈ pre, metaEnd z.1 = false) →
          ∃ u, exec (.feedBufferDrain n) s = .next (finishTile u jk k d slot ((getFeed s n).moving ++ (pre ++ [w]))) ∧ u = { s with feeds := u.feeds } ∧
            getFeed u n = { getFeed s n with buf := post, moving := [], slot := none }))))

/-- MEM_READ, MEM_WRITE, MEM_ACC_WRITE, MEM_PATROL, STACK_FAILED, STACK_REBUILT (R247 to R254, R257, R263 to R265, R268). -/
def Obligations.MemoryCommands : Prop :=
  (∀ (s : State) (a row : Nat), (memTop ≤ plainAddr a / 64 * 64 → ∀ ecc, exec (.memRead a row ecc) s = .next s) ∧
    (plainAddr a / 64 * 64 < memTop → wrongBlocks s (plainAddr a / 64 * 64) 64 = [] →
      exec (.memRead a row 0) s = .next { s with mem := { s.mem with reply := (rdData s (plainAddr a / 64 * 64) 64, rdTagged s (plainAddr a / 64 * 64) 64) } }) ∧
    (plainAddr a / 64 * 64 < memTop → stackDown s (plainAddr a / 64 * 64) = false → wrongBlocks s (plainAddr a / 64 * 64) 64 = [] →
      ((Tab.get [] (getStack s (physOf s (plainAddr a / 64 * 64))).corrected row).countP (fun t => decide (s.time.tb < t + 86400000000000)) < 3 →
        ∃ u, exec (.memRead a row 1) s = .next u ∧ u = { s with mem := { s.mem with stk := u.mem.stk, reply := u.mem.reply } } ∧
          u.mem.reply = (rdData s (plainAddr a / 64 * 64) 64, rdTagged s (plainAddr a / 64 * 64) 64) ∧
          Tab.get [] (getStack u (physOf s (plainAddr a / 64 * 64))).corrected row
            = (Tab.get [] (getStack s (physOf s (plainAddr a / 64 * 64))).corrected row).filter (fun t => decide (s.time.tb < t + 86400000000000)) ++ [s.time.tb]) ∧
      ((getStack s (physOf s (plainAddr a / 64 * 64))).remaps < 4096 → (getStack s (physOf s (plainAddr a / 64 * 64))).badRows.length < 15 →
        ∃ u, exec (.memRead a row 2) s = .next u ∧ plainAddr a / 64 ∈ u.mem.poison ∧ u.mem.bytes = s.mem.bytes ∧ u.jobs = s.jobs ∧
          (∀ n, n ∈ u.mem.poison ↔ n = plainAddr a / 64 ∨ n ∈ s.mem.poison)))) ∧
  (∀ (s : State) (a : Nat) (d : List Byte) (poison : Bool),
    (memTop ≤ a → ∀ cls, exec (.memWrite a d poison cls) s = .next s) ∧
    (a + d.length ≤ memTop → (∀ k, k < d.length → stackDown s (a + k) = false) → Mem.wf s.mem.bytes = true →
      ∃ u, exec (.memWrite a d poison none) s = .next u ∧ u = { s with mem := { s.mem with bytes := u.mem.bytes, poison := u.mem.poison, blocks := u.mem.blocks } } ∧
        (∀ k, k < d.length → Mem.get u.mem.bytes (a + k) = d.getD k 0) ∧
        (∀ p, ¬ (a ≤ p ∧ p < a + d.length) → Mem.get u.mem.bytes p = Mem.get s.mem.bytes p) ∧
        (∀ n, (∃ k, k < d.length ∧ (a + k) / 64 = n) → poison = true → n ∈ u.mem.poison) ∧
        (∀ n, a ≤ 64 * n → 64 * n + 64 ≤ a + d.length → poison = false → n ∉ u.mem.poison) ∧
        (∀ n, (∀ k, k < d.length → (a + k) / 64 ≠ n) → (n ∈ u.mem.poison ↔ n ∈ s.mem.poison))) ∧
    (a + d.length ≤ memTop → (∀ k, k < d.length → stackDown s (a + k) = true) → exec (.memWrite a d poison none) s = .next s)) ∧
  (∀ (s : State) (jk a tensor row col : Nat) (v : Word), aliasOf a = 1 → plainAddr a + 4 ≤ memTop → plainAddr a % 4 = 0 → stackDown s (plainAddr a) = false →
    rdTagged s (plainAddr a) 4 = false → partOfAddr s (plainAddr a) = some (jk / 2) → Mem.wf s.mem.bytes = true → blockState s (plainAddr a) = .plain →
    ∃ u, exec (.memAccWrite jk a tensor [(v.toNat, false, row, col)]) s = .next u ∧
      rdLe u (plainAddr a) 4 = (fadd (BitVec.ofNat 32 (rdLe s (plainAddr a) 4)) v).toNat ∧
      (∀ p, ¬ (plainAddr a ≤ p ∧ p < plainAddr a + 4) → Mem.get u.mem.bytes p = Mem.get s.mem.bytes p) ∧
      u = { s with mem := { s.mem with bytes := u.mem.bytes, poison := u.mem.poison } }) ∧
  (∀ (s : State) (jk a tensor : Nat) (es : List (Nat × Bool × Nat × Nat)), aliasOf a = 3 →
    ∃ w, w < 3 ∧ exec (.memAccWrite jk a tensor es) s = exec (.memAccWrite jk (w * 2 ^ 44 + plainAddr a) tensor es) s) ∧
  (∀ (s : State) (ph row : Nat), ∃ u, exec (.memPatrol ph row 0) s = .next u ∧ u = { s with mem := { s.mem with stk := u.mem.stk } } ∧
    getStack u ph = { getStack s ph with patrol := ((getStack s ph).patrol + 1) % 2 ^ 30 } ∧ (∀ q, q ≠ ph → getStack u q = getStack s q)) ∧
  (∀ (s : State) (ph : Nat), ((getStack s ph).failed = true ∨ 9 ≤ ph → exec (.stackFailed ph) s = .next s) ∧
    ((getStack s ph).failed = false → ph < 9 → ∃ u, exec (.stackFailed ph) s = .next u ∧ (getStack u ph).failed = true ∧ u.mem.stackMap = s.mem.stackMap ∧ u.parts = s.parts ∧
      (∀ l, lsOfPhys s ph = some l → l ∈ u.mem.failedLs ∧ (∀ jk, jk < 8 → (getJob u jk).phase = .closed) ∧ u.stock.held = []) ∧
      (lsOfPhys s ph = none → u.jobs = s.jobs ∧ u.mem.failedLs = s.mem.failedLs ∧
        (s.mem.spare = some ph → u.mem.spare = none ∧ u.stock.held = []) ∧ (s.mem.spare ≠ some ph → u.mem.spare = s.mem.spare ∧ u.stock = s.stock)))) ∧
  (∀ (s : State) (l : Nat), (s.mem.spare = none ∨ l ∉ s.mem.failedLs → exec (.stackRebuilt l) s = .next s) ∧
    (∀ sp, s.mem.spare = some sp → l ∈ s.mem.failedLs → l < s.mem.stackMap.length →
      ∃ u, exec (.stackRebuilt l) s = .next u ∧ u.mem.stackMap = modAt s.mem.stackMap l (fun _ => sp) ∧ u.mem.spare = none ∧ l ∉ u.mem.failedLs ∧
        (∀ a, a < memTop → lsOf a = l → Mem.get u.mem.bytes a = 0 ∧ a / 64 ∉ u.mem.poison) ∧
        (∀ a, a < memTop → lsOf a ≠ l → Mem.get u.mem.bytes a = Mem.get s.mem.bytes a) ∧ u.jobs = s.jobs ∧ u.parts = s.parts))

/-- LAYER_COMMIT (R196 to R199, R210). -/
def Obligations.LayerCommit : Prop :=
  (∀ h e floor cs : Nat, h < 256 → e < 65536 →
    headroomStep h e floor cs =
      if h = 0x80 then (floor, 0, false, some 0x035A)
      else if e.testBit 15 = true then (if int8 h < 127 then (ofInt8 (int8 h + 1), 0, true, none) else (h, 0, true, some 0x0351))
      else if e.testBit 14 = true then (h, 0, false, none)
      else if e % 16384 + 1 < cs then (h, e % 16384 + 1, false, none)
      else if int8 floor < int8 h then (ofInt8 (int8 h - 1), 0, false, none) else (h, 0, false, none)) ∧
  (∀ (s : State) (jk l step z t : Nat),
    let a := layerRec (getJob s jk) l
    PlainMem s a 128 → z < 2 ^ 32 →
    let u := lossRule s jk l step z t
    let lam := int8 (rdLe s (a + 5) 1)
    let grow := rdLe s (a + 0xA) 2
    rdLe u (a + 0x50) 4 = min (rdLe s (a + 0x50) 4 + z) 0xFFFFFFFF ∧
    (bit (rdLe s (a + 4) 1) 1 = true → rdLe u (a + 5) 1 = rdLe s (a + 5) 1 ∧ rdLe u (a + 0xA) 2 = grow) ∧
    (bit (rdLe s (a + 4) 1) 1 = false → t < z * 2 ^ rdLe s (a + 0x11) 1 →
      int8 (rdLe u (a + 5) 1) = max (lam - 1) (int8 (rdLe s (a + 0x13) 1)) ∧ rdLe u (a + 0xA) 2 = 0 ∧ rdLe u (a + 0x60) 4 = min (rdLe s (a + 0x60) 4 + 1) 0xFFFFFFFF) ∧
    (bit (rdLe s (a + 4) 1) 1 = false → z = 0 → rdLe s (a + 8) 2 ≤ grow + 1 →
      int8 (rdLe u (a + 5) 1) = min (lam + 1) (int8 (rdLe s (a + 0x12) 1)) ∧ rdLe u (a + 0xA) 2 = 0) ∧
    (bit (rdLe s (a + 4) 1) 1 = false → z = 0 → grow + 1 < rdLe s (a + 8) 2 → rdLe u (a + 5) 1 = rdLe s (a + 5) 1 ∧ rdLe u (a + 0xA) 2 = grow + 1) ∧
    (bit (rdLe s (a + 4) 1) 1 = false → z ≠ 0 → z * 2 ^ rdLe s (a + 0x11) 1 ≤ t → rdLe u (a + 5) 1 = rdLe s (a + 5) 1 ∧ rdLe u (a + 0xA) 2 = 0) ∧
    (∀ p, ¬ (a ≤ p ∧ p < a + 128) → Mem.get u.mem.bytes p = Mem.get s.mem.bytes p)) ∧
  (∀ (s : State) (jk l : Nat), (commitStepOf s jk l = none → exec (.layerCommit jk l) s = .next s) ∧
    (∀ step im, commitStepOf s jk l = some step → (getJob s jk).image = some im →
      ((getJob s jk).probe = none → ∃ u, exec (.layerCommit jk l) s = .next (wakePart u (jk / 2)) ∧
        u = { s with mem := u.mem, benches := u.benches, jobs := u.jobs, host := u.host, out := u.out, board := u.board, cipher := u.cipher, freeCtr := u.freeCtr } ∧
        (getJob u jk).step = (getJob s jk).step ∧ (getJob u jk).phase = (getJob s jk).phase ∧ (getJob u jk).probe = none ∧ (getJob u jk).members = (getJob s jk).members ∧
        u.mem.stackMap = s.mem.stackMap ∧ u.mem.pages = s.mem.pages) ∧
      ((getJob s jk).probe ≠ none → (∃ x ∈ layersOf im, x ≠ l ∧ x ∉ (getJob s jk).probeSeen.1) → ∃ u, exec (.layerCommit jk l) s = .next u ∧
        (getJob u jk).probeSeen.1 = (getJob s jk).probeSeen.1 ++ [l] ∧ (getJob u jk).probe = (getJob s jk).probe ∧ (getJob u jk).step = (getJob s jk).step ∧
        u.convs = s.convs ∧ u.boot = s.boot ∧ u.time = s.time)))

/-- CONTRIB and PARTIAL records (R271, R274, R277 to R281, R286, R326). Inputs wait at the chunk, in the model's own form. -/
def Obligations.ReductionInputs : Prop :=
  (∀ (s : State) (tag : Nat) (r : Rec) (sb : Bool), jobOfTag s tag = none → exec (.contribReceive tag r sb) s = .next s ∧ exec (.partialReceive tag r sb) s = .next s) ∧
  (∀ (s : State) (tag jk : Nat) (r : Rec) (sb : Bool) (c : Instr), jobOfTag s tag = some jk → c = .contribReceive tag r sb ∨ c = .partialReceive tag r sb →
    let j := getJob s jk
    let q : Rec := { r with stamp := if sb = true then r.stamp else now s }
    (j.cut.epoch < r.epoch → ∃ u, exec c s = .next u ∧ u = { s with jobs := u.jobs } ∧ (∀ x, x ≠ jk → getJob u x = getJob s x) ∧
      getJob u jk = { j with ahead := j.ahead ++ [if c = .partialReceive tag r sb then { q with kind := 1 } else { q with kind := 0, level := 0 }] }) ∧
    (∀ (im : Image) (g : TensorEnt), r.epoch < j.cut.epoch → j.image = some im → tensorByCoords im r.tensor r.shard = some g → exec c s = .next (bumpStep s jk g.layer 0x1C 1)) ∧
    (∀ (im : Image) (old : Image × List (Nat × Nat) × Nat) (g : TensorEnt), r.epoch < j.cut.epoch → j.image = some im → tensorByCoords im r.tensor r.shard = none → j.oldImage = some old →
      tensorByCoords old.1 r.tensor r.shard = some g → exec c s = .next (bumpStep s jk g.layer 0x1C 1)) ∧
    (r.epoch = j.cut.epoch → j.image.bind (fun im => gradNamed im r) = none → exec c s = .next s)) ∧
  (∀ (s : State) (tag : Nat) (r : Rec) (sb : Bool) (jk k : Nat) (im : Image) (st : Station) (g : TensorEnt), Routes s tag r jk k im st g → r.epoch = (getJob s jk).cut.epoch →
    (r.data.length ≠ 513 * r.gblocks → exec (.contribReceive tag r sb) s = .next s) ∧ (r.data.length ≠ 1025 * r.gblocks → exec (.partialReceive tag r sb) s = .next s)) ∧
  (∀ (s : State) (tag : Nat) (r : Rec) (sb : Bool) (jk k : Nat) (im : Image) (st : Station) (g : TensorEnt) (c : Instr) (i : RInput) (l : Nat),
    Routes s tag r jk k im st g → r.epoch = (getJob s jk).cut.epoch →
    let stamp := if sb = true then r.stamp else now s
    let g16 := splitG16 r.gblocks r.data
    let f32 := splitF32 r.gblocks r.data
    (c = .contribReceive tag r sb ∧ r.data.length = 513 * r.gblocks ∧ l = 1 ∧
        i = ⟨r.node % 2, r.sender, r.step, true, bit r.flags 2, r.count, r.zeroed, bit r.flags 3, stamp, g16.1, g16.2⟩ ∨
      c = .partialReceive tag r sb ∧ r.data.length = 1025 * r.gblocks ∧ l = r.level + 1 ∧
        i = ⟨r.node % 2, r.sender, r.step, false, bit r.flags 2, r.count, r.zeroed, bit r.flags 3, stamp, f32.1, f32.2⟩) →
    let j := getJob s jk
    let d : NodeId := ⟨k, r.chunk, l, r.node / 2⟩
    let ms := setFor j r.step
    let sent := i.child ∈ expectedChildren ms d ∧ childHost ms d i.child = some i.sender
    let room := decide (j.nodes.countP (fun nd => nd.id.station == k && nd.buffered) < nodeBuffers im st)
    let chunk := fun (step : Nat) (probe : Bool) => (findNode j d step probe).getD (newNode d step probe)
    let newer := ∃ nd ∈ j.nodes, nd.id = d ∧ nd.opened.isSome = true ∧ r.step < nd.step
    let late := sent ∧ ((openChunk j d r.step = none ∧ newer) ∨
      ∃ nd, openChunk j d r.step = some nd ∧ i.probe = nd.probe ∧ (nd.forwarded = true ∨ nodeClose j nd ≤ max i.stamp (nd.opened.getD 0)))
    let stale := ∃ nd ∈ j.nodes, nd.id = d ∧ nd.opened.isSome = true ∧ nd.probe = false ∧ ((nd.forwarded = true ∧ r.step < nd.step) ∨ r.step + 1 < nd.step)
    (¬ sent → (openChunk j d r.step).isSome = true ∨ newer → exec c s = .next s) ∧
    (openChunk j d r.step = none → ¬ newer → ∃ u, exec c s = .next u ∧
      NodeOnly s u jk d r.step i.probe { chunk r.step i.probe with early := (chunk r.step i.probe).early ++ [i], buffered := (chunk r.step i.probe).buffered || room }) ∧
    (∀ nd, sent → openChunk j d r.step = some nd → findNode j d r.step nd.probe = some nd →
      (i.probe ≠ nd.probe → (nd.probe = true → formsProbe j = true) →
        exec c s = .next (if nd.probe = true then bumpStep (bumpStep s jk g.layer 0x14 1) jk g.layer 0x20 1 else bumpStep s jk g.layer 0x14 1)) ∧
      (i.probe ≠ nd.probe → nd.probe = true → formsProbe j = false → ∃ u, exec c s = .next u ∧
        NodeOnly s u jk d r.step i.probe { chunk r.step i.probe with early := (chunk r.step i.probe).early ++ [i], buffered := (chunk r.step i.probe).buffered || room }) ∧
      (i.probe = nd.probe → nd.forwarded = false → max i.stamp (nd.opened.getD 0) < nodeClose j nd →
        ((∃ x ∈ nd.inputs, x.child = i.child) → exec c s = .next s) ∧
        ((∀ x ∈ nd.inputs, x.child ≠ i.child) →
          (nd.buffered = true → let nd' := { nd with inputs := nd.inputs ++ [i] }
            ∃ u, exec c s = .next u ∧ NodeOnly s u jk d r.step nd.probe { nd' with forwarded := nodeFull j nd' }) ∧
          (nd.buffered = false → ∃ u, exec c s = .next u ∧ NodeOnly s u jk d r.step nd.probe { nd with early := nd.early ++ [i], buffered := room })))) ∧
    (late →
      (i.probe = true → exec c s = .next (bumpStep s jk g.layer 0x14 1)) ∧
      (i.probe = false → stale → exec c s = .next (bumpStep s jk g.layer 0x18 1)) ∧
      (i.probe = false → ¬ stale → j.policy.late = 1 → exec c s = .next (bumpStep s jk g.layer 0x14 1)) ∧
      (i.probe = false → ¬ stale → j.policy.late ≠ 1 → let w := chunk (r.step + 1) false
        (w.buffered = true ∨ room = true → let w' := { w with buffered := true, folds := w.folds ++ [{ i with folded := true }] }
          ∃ u, exec c s = .next u ∧ NodeOnly (bumpStep s jk g.layer 0x10 1) u jk d (r.step + 1) false
            { w' with forwarded := w.forwarded || (w.opened.isSome && nodeFull j w') }) ∧
        (w.buffered = false → room = false → ∃ u, exec c s = .next u ∧ NodeOnly s u jk d (r.step + 1) false { w with early := w.early ++ [i] })))) ∧
  (∀ (s : State) (jk l off n : Nat), let a := stepRec (getJob s jk) l + off
    (65535 < l → bumpStep s jk l off n = s) ∧
    (l ≤ 65535 → PlainMem s a 4 → let u := bumpStep s jk l off n
      rdLe u a 4 = min (rdLe s a 4 + n) 0xFFFFFFFF ∧ u = { s with mem := u.mem, benches := u.benches } ∧
      ∀ p, ¬ (a ≤ p ∧ p < a + 4) → Mem.get u.mem.bytes p = Mem.get s.mem.bytes p))

/-- Nodes and RESULT records (R275 to R277, R279, R280, R282, R283, R286, R288, R294, R300). A refusal travels as a control frame of the model's own
(DESIGN CHOICE); that the replica refuses is the event's operand. -/
def Obligations.ReductionResults : Prop :=
  (∀ (s : State) (jk k c l n : Nat), (∀ nd ∈ (getJob s jk).nodes, nd.id = ⟨k, c, l, n⟩ → nd.opened = none ∨ nd.forwarded = true ∨ l = 0 ∨ now s < nodeClose (getJob s jk) nd) →
    exec (.reduceWindowClose jk k c l n) s = .next s) ∧
  (∀ (s : State) (jk k c l n : Nat) (nd : RNode) (im : Image) (st : Station) (g : TensorEnt), gradOf s jk k = some (im, st, g) →
    let j := getJob s jk
    let d : NodeId := ⟨k, c, l, n⟩
    let ms := setFor j nd.step
    j.nodes.find? (fun x => x.id == d && x.opened.isSome && !x.forwarded && decide (nodeClose j x ≤ now s)) = some nd → findNode j d nd.step nd.probe = some nd → l ≠ 0 → nd.early = [] →
    (nodeFull j nd = true ∨ nd.probe = true → ∃ u, exec (.reduceWindowClose jk k c l n) s = .next u ∧ NodeOnly s u jk d nd.step nd.probe { nd with forwarded := true }) ∧
    (∀ ch q, nd.probe = false → (expectedChildren ms d).filter (fun x => !(nd.inputs.any (fun i => i.child == x))) = [ch] → nodeHost ms (l - 1) (2 * n + ch) = some q →
      Tab.get 0 j.misses q / 256 ≠ nd.step → Tab.get 0 j.misses q / 256 ≠ nd.step + 1 → 1 < j.policy.missLimit →
      ∃ u, exec (.reduceWindowClose jk k c l n) s = .next u ∧ u = { bumpStep s jk g.layer 0x20 1 with jobs := u.jobs } ∧
        findNode (getJob u jk) d nd.step nd.probe = some { nd with forwarded := true } ∧ Tab.get 0 (getJob u jk).misses q = (nd.step + 1) * 256 + 1 ∧
        getJob u jk = { j with nodes := (getJob u jk).nodes, misses := (getJob u jk).misses })) ∧
  (∀ (nd : RNode) (a b : RInput) (g m : Nat), (nd.inputs = [a, b] ∨ nd.inputs = [b, a]) → nd.folds = [] → a.child = 0 → b.child = 1 → a.count ≠ 0 → b.count ≠ 0 →
    m < 256 * g → (nodeArith nd g).places.getD m 0 = toF32 (Val.add (inputVal a m) (inputVal b m)) ∧ (nodeArith nd g).count = a.count + b.count) ∧
  (∀ (nd : RNode) (g : Nat), nodeArith { nd with inputs := nd.inputs.filter (fun i => i.count != 0), folds := nd.folds.filter (fun i => i.count != 0) } g = nodeArith nd g) ∧
  (∀ (t : TensorEnt) (step pass c m : Nat) (o : NodeOut), o.count = 0 → (rootCodes t step pass c o).getD m 0 = 0) ∧
  (∀ (s : State) (jk k c l n : Nat) (refusing : List Nat), (∀ nd ∈ (getJob s jk).nodes, nd.id = ⟨k, c, l, n⟩ → nd.forwarded = false ∨ nd.done = true) →
    exec (.reduceNodeDone jk k c l n refusing) s = .next s) ∧
  (∀ (s : State) (jk k c l n q : Nat) (refusing : List Nat) (nd : RNode) (im : Image) (st : Station) (g : TensorEnt), gradOf s jk k = some (im, st, g) →
    let j := getJob s jk
    let d : NodeId := ⟨k, c, l, n⟩
    j.nodes.find? (fun x => x.id == d && x.forwarded && !x.done) = some nd → findNode j d nd.step nd.probe = some nd →
    let o := nodeArith nd (4 * chunkSubs g c)
    l < treeDepth j.policy.replicas → nodeHost (setFor j nd.step) (l + 1) (n / 2) = some q → q ≠ j.policy.replica →
    ∃ v r, exec (.reduceNodeDone jk k c l n refusing) s = .next (passBuffer (sendRec v jk q r) jk k) ∧
      NodeOnly s v jk d nd.step nd.probe { nd with done := true, buffered := false, inputs := [], folds := [] } ∧
      r.kind = 1 ∧ r.tensor = g.id ∧ r.epoch = j.cut.epoch ∧ r.step = nd.step ∧ r.chunk = c ∧ r.level = l ∧ r.node = n ∧ r.count = o.count ∧ r.zeroed = o.zeroed ∧
      r.sender = j.policy.replica ∧ r.stamp = now s ∧ bit r.flags 2 = nd.probe ∧ bit r.flags 3 = o.folded ∧ (bit r.flags 0 = true ↔ o.count = 0) ∧
      r.data = packCodes 1 (o.places.map (·.toNat)) ++ o.hexps.map (BitVec.ofNat 8)) ∧
  (∀ (s : State) (tag : Nat) (r : Rec), jobOfTag s tag = none → exec (.resultReceive tag r) s = .next s) ∧
  (∀ (s : State) (tag jk rk : Nat) (r : Rec) (im : Image) (st : Station) (m : TensorEnt), ResultFor s tag r jk rk im st m →
    let j := getJob s jk
    let full := (ownerHere s j rk || standbyHere s j rk) && !r.data.isEmpty
    let was := resultOf j m.layer r.step
    (r.epoch < j.cut.epoch → exec (.resultReceive tag r) s = .next s) ∧
    (j.cut.epoch < r.epoch → ∃ u, exec (.resultReceive tag r) s = .next u ∧ u = { s with jobs := u.jobs } ∧ getJob u jk = { j with ahead := j.ahead ++ [{ r with kind := 2 }] }) ∧
    (r.epoch = j.cut.epoch → r.data.length ≠ 513 * r.gblocks → r.data ≠ [] → exec (.resultReceive tag r) s = .next (bumpStep s jk m.layer 0x20 1)) ∧
    (r.epoch = j.cut.epoch → r.data.length = 513 * r.gblocks ∨ r.data = [] →
      (full = true → commitStep s j rk r.step ≠ noStep → commitStep s j rk r.step ≠ r.step →
        exec (.resultReceive tag r) s = .next (sendFrame s .refuse (moduleOf j r.sender) tag [r.tensor, r.chunk, r.step] [])) ∧
      (full = false → (rk, r.chunk) ∈ was.held ∨ bit r.flags 1 = true → exec (.resultReceive tag r) s = .next s) ∧
      (full = false → (rk, r.chunk) ∉ was.held → bit r.flags 1 = false → was.held.length + 1 ≠ layerChunks im m.layer →
        ∃ u, exec (.resultReceive tag r) s = .next u ∧ u = { s with jobs := u.jobs } ∧
        resultOf (getJob u jk) m.layer r.step =
          ⟨was.step, was.z + r.zeroed, was.t + r.gblocks * r.count, min was.countMin r.count, max was.countMax r.count, was.held ++ [(rk, r.chunk)]⟩ ∧
        getJob u jk = { j with results := (getJob u jk).results }) ∧
      (full = true → commitStep s j rk r.step = noStep ∨ commitStep s j rk r.step = r.step → (commitSlot im m r.step).isSome = true → r.step < 2 ^ 32 →
        let a := shardAddr j rk + 0x18 + 4 * (r.step % 2)
        PlainMem s a 4 → (∀ x, x < 4 → pageComp (pageEntry s ((a + x) / 0x200000)) = false) →
        ∃ v, exec (.resultReceive tag r) s = .next (wakePart (releaseUpdates v jk rk) (jk / 2)) ∧
          commitStep v (getJob v jk) rk r.step = r.step ∧ Tab.get 0 (getShard v jk rk).landed r.chunk = now s ∧
          v = { s with mem := v.mem, benches := v.benches, jobs := v.jobs } ∧ (getJob v jk).members = j.members ∧ (getJob v jk).step = j.step))) ∧
  (∀ (s : State) (jk : Nat) (refusing : List Nat), let j := getJob s jk
    ((∀ h ∈ j.heldResults, now s < h.sent + 10000) → ∃ u, exec (.resultResend jk refusing) s = .next u ∧ u = { s with jobs := u.jobs } ∧ getJob u jk = j) ∧
    (∀ h, j.heldResults = [h] → h.sent + 10000 ≤ now s → h.dst ≠ j.policy.replica →
      ∃ v, v = { s with jobs := v.jobs } ∧ getJob v jk = { j with heldResults := [] } ∧
        (h.dst ∉ refusing → exec (.resultResend jk refusing) s = .next (sendRec v jk h.dst (parseRec h.bytes))) ∧
        (h.dst ∈ refusing → ∃ u, exec (.resultResend jk refusing) s = .next u ∧ (getJob u jk).heldResults = [{ h with sent := now s }] ∧
          u = { sendRec v jk h.dst (parseRec h.bytes) with jobs := u.jobs })))

/-- Scales, versions, states, refreshes, acknowledgements, tallies and reinstallation (R291 to R294, R297, R298, R300, R303, R305, R325, R561).
That records wait in order of arrival is the model's own form of the ingress (DEDUCED). -/
def Obligations.ShardHolders : Prop :=
  (∀ (s : State) (tag t sp q : Nat) (x : Rec), jobOfTag s tag = none → exec (.scaleReceive tag x) s = .next s ∧ (∀ sh, exec (.scaleAcceptReceive tag (t, sh) sp q) s = .next s) ∧
    exec (.versionReceive tag x) s = .next s ∧ exec (.stateReceive tag x) s = .next s ∧ exec (.refreshReceive tag x) s = .next s ∧
    exec (.versionAckReceive tag x) s = .next s ∧ exec (.tallyReceive tag x) s = .next s ∧ exec (.reinstallReceive tag x) s = .next s) ∧
  (∀ (s : State) (tag jk r : Nat) (x : Rec) (im : Image) (t : TensorEnt), Names s tag x jk r im t →
    let j := getJob s jk
    (x.data.length ≠ 12 → exec (.scaleReceive tag x) s = .next (bumpStep s jk t.layer 0x20 1)) ∧
    (x.data.length = 12 → standbyHere s j r = false → rejoins j = false → exec (.scaleReceive tag x) s = .next s) ∧
    (x.data.length = 12 → PlainMem s (shardAddr j r + 0x2C) 12 → ∃ v, v = { s with mem := v.mem, benches := v.benches } ∧ rdData v (shardAddr j r + 0x2C) 12 = x.data ∧
      (∀ p, ¬ (shardAddr j r + 0x2C ≤ p ∧ p < shardAddr j r + 0x38) → Mem.get v.mem.bytes p = Mem.get s.mem.bytes p) ∧
      (standbyHere s j r = true → exec (.scaleReceive tag x) s =
        .next (sendFrame v .scaleAccept (moduleOf j (shardOwner s j r)) j.tag (x.tensor :: padTo 0 4 x.shard ++ [x.step, j.policy.replica]) [])) ∧
      (standbyHere s j r = false → rejoins j = true → exec (.scaleReceive tag x) s = .next v))) ∧
  (∀ (s : State) (tag tensor step replica jk r : Nat) (shard : List Nat) (t : TensorEnt), jobOfTag s tag = some jk →
    (getJob s jk).image.bind (fun im => masterOf im tensor shard) = some (t, r) →
    let j := getJob s jk
    (ownerHere s j r = false ∨ shardStandby s j r ≠ replica → exec (.scaleAcceptReceive tag (tensor, shard) step replica) s = .next s) ∧
    (ownerHere s j r = true → shardStandby s j r = replica → ∃ v, exec (.scaleAcceptReceive tag (tensor, shard) step replica) s = .next (wakePart (releaseUpdates v jk r) (jk / 2)) ∧
      v = { s with jobs := v.jobs } ∧ getShard v jk r = { getShard s jk r with scaleOk := some step, standbyPending := false } ∧
      getJob v jk = { j with shards := (getJob v jk).shards })) ∧
  (∀ (s : State) (tag jk r : Nat) (rc : Rec) (im : Image) (t : TensorEnt), Names s tag rc jk r im t →
    let j := getJob s jk
    let vx := { rc with kind := 3 }
    let sx := { rc with kind := 4 }
    let fx := { rc with kind := 8 }
    let cv := chunkVersion s j r rc.chunk
    let vt := versionTensors im t
    let st := stateTensors im t
    let quiet := snapshotReads s jk = false ∧ (rc.chunk ≠ 0xFFFF → tallyFirst s jk r rc.chunk rc.version t = false)
    let short := bumpStep s jk t.layer 0x20 1
    (j.ingress = [] → ¬ quiet → (∃ u, exec (.versionReceive tag rc) s = .next u ∧ IngressOnly s u jk [vx]) ∧
      (∃ u, exec (.stateReceive tag rc) s = .next u ∧ IngressOnly s u jk [sx]) ∧ (∃ u, exec (.refreshReceive tag rc) s = .next u ∧ IngressOnly s u jk [fx])) ∧
    (j.ingress = [] → quiet → rc.version ≤ cv →
      (∃ u, exec (.versionReceive tag rc) s = .next u ∧ IngressOnly s u jk []) ∧ (∃ u, exec (.stateReceive tag rc) s = .next u ∧ IngressOnly s u jk [])) ∧
    (j.ingress = [] → quiet → cv < rc.version →
      (rc.data.length ≠ partsBytes st rc.chunk → ∃ u, exec (.stateReceive tag rc) s = .next u ∧ IngressOnly short u jk []) ∧
      (rc.data.length ≠ partsBytes vt rc.chunk → ∃ u, exec (.versionReceive tag rc) s = .next u ∧ IngressOnly short u jk []) ∧
      (rc.data.length = partsBytes st rc.chunk → ∃ u, exec (.stateReceive tag rc) s = .next u ∧ IngressOnly s u jk (if standbyHere s j r then [sx] else [])) ∧
      (standbyHere s j r = true → rc.data.length = partsBytes vt rc.chunk → ∃ u, exec (.versionReceive tag rc) s = .next u ∧ IngressOnly s u jk [vx]) ∧
      (standbyHere s j r = false → rc.data.length = partsBytes vt rc.chunk → (getShard s jk r).asked = false →
        ∃ w, w = { writeParts s (jk / 2) im vt rc.chunk rc.data with jobs := w.jobs } ∧ (getJob w jk).ingress = [] ∧ Tab.find (getShard w jk r).landed rc.chunk = none ∧
          exec (.versionReceive tag rc) s = .next (drainIngress (modJob (wakePart (setChunkVersion w jk r rc.chunk rc.version t im) (jk / 2)) jk (fun x => { x with ingress := [] ++ x.ingress })) jk 1))) ∧
    (∀ y, j.ingress = [y] → quiet → cv < rc.version → standbyHere s j r = true → rc.data.length = partsBytes vt rc.chunk → (getShard s jk r).asked = false →
      recShard s jk y = some (im, t, r) → y.kind = 4 → y.epoch = rc.epoch → y.tensor = rc.tensor → y.shard = rc.shard → y.chunk = rc.chunk → y.version = rc.version → y.data.length = partsBytes st rc.chunk →
        ∃ w, w = { writeParts (writeParts s (jk / 2) im vt rc.chunk rc.data) (jk / 2) im st rc.chunk y.data with jobs := w.jobs } ∧
          exec (.versionReceive tag rc) s = .next (drainIngress (modJob (wakePart (setChunkVersion w jk r rc.chunk rc.version t im) (jk / 2)) jk (fun x => { x with ingress := [] ++ x.ingress })) jk 2)) ∧
    (let sb := standbyHere s j r
     let own := ownerHere s j r
     let takes := bit rc.flags 1 && !own
     let awaited := if own then none else roundAwaited s jk r rc.version im t
     let rt := roundTensors im t
     let all := fun (ts : List TensorEnt) => rc.data.length == partsBytes ts rc.chunk
     let ts := if takes then (if all (vt ++ st ++ rt) then vt ++ st ++ rt else vt ++ st)
       else if sb && awaited.isSome then vt ++ rt else if all (vt ++ st) then vt ++ st else vt
     let w := writeParts s (jk / 2) im ts rc.chunk rc.data
     let m := if takes then wrLe (setRoles w jk r false true) (shardAddr j r + 6) 2 j.policy.replica else w
     let again := fun (v : State) => drainIngress (modJob v jk (fun x => { x with ingress := [] ++ x.ingress })) jk 1
     (j.ingress = [] → quiet → rc.chunk ≠ 0xFFFF →
      (rc.version < cv → ∃ u, exec (.refreshReceive tag rc) s = .next u ∧ IngressOnly s u jk []) ∧
      (cv ≤ rc.version → all ts = false → ∃ u, exec (.refreshReceive tag rc) s = .next u ∧ IngressOnly short u jk []) ∧
      (cv ≤ rc.version → all ts = true → j.torn = [] → chunkVersion m j r rc.chunk = rc.version →
        (takes = true ∨ own = true ∨ (sb = true ∧ awaited.isSome = true) ∨ (awaited = none ∧ rc.chunk + 1 ≠ chunkCount t) →
          ∃ u, exec (.refreshReceive tag rc) s = .next u ∧ IngressOnly m u jk []) ∧
        (takes = false → sb = false → ∀ q, awaited = some q →
          ((insertNat (getRShard j r).refreshed rc.chunk).length ≠ chunkCount t → ∃ u, exec (.refreshReceive tag rc) s = .next u ∧ u = { m with jobs := u.jobs } ∧
            (getRShard (getJob u jk) r).refreshed = insertNat (getRShard j r).refreshed rc.chunk) ∧
          ((insertNat (getRShard j r).refreshed rc.chunk).length = chunkCount t → ∃ v, v = { m with jobs := v.jobs } ∧
            exec (.refreshReceive tag rc) s = .next (again (roundInstalled v jk r q rc.version)))) ∧
        (takes = false → own = false → awaited = none → rc.chunk + 1 = chunkCount t → ∃ v, v = { m with jobs := v.jobs } ∧ getJob v jk = j ∧
          exec (.refreshReceive tag rc) s = .next (again (noteMismatch (bumpStep (bumpStep v jk t.layer 0x30 1) jk t.layer 0x34 1) jk r j.policy.replica t))))) ∧
     (j.ingress = [] → snapshotReads s jk = false → rc.chunk = 0xFFFF →
      (sb = false → ∃ u, exec (.refreshReceive tag rc) s = .next u ∧ IngressOnly s u jk []) ∧
      (sb = true → ∃ v, v = { s with jobs := v.jobs } ∧ getJob v jk = j ∧
        exec (.refreshReceive tag rc) s = .next (again (mirrorRound v jk r rc.version awaited.isSome t rc.data)))))) ∧
  (∀ (s : State) (tag jk r : Nat) (x : Rec) (im : Image) (t : TensorEnt), Names s tag x jk r im t →
    let j := getJob s jk
    let a := fun p => if p = j.policy.replica then shardVersion s j r else if p = x.sender then max (Tab.get 0 (getShard s jk r).acks p) x.version else Tab.get 0 (getShard s jk r).acks p
    (x.data ≠ [] → exec (.versionAckReceive tag x) s = .next (bumpStep s jk t.layer 0x20 1)) ∧
    (x.data = [] → ∃ u, exec (.versionAckReceive tag x) s = .next u ∧ u = { s with mem := u.mem, benches := u.benches, jobs := u.jobs } ∧ getJob u jk = { j with shards := (getJob u jk).shards } ∧
      Tab.get 0 (getShard u jk r).acks x.sender = max (Tab.get 0 (getShard s jk r).acks x.sender) x.version ∧
      (ownerHere s j r = false → standbyHere s j r = false → u.mem = s.mem) ∧
      ((ownerHere s j r = true ∨ standbyHere s j r = true) → PlainMem s (shardAddr j r) 64 → ∀ q, q < 2 → commitStep u (getJob u jk) r q =
        if commitStep s j r q ≠ noStep ∧ ∀ p ∈ ackers j, commitStep s j r q + 1 ≤ a p then noStep else commitStep s j r q))) ∧
  (∀ (s : State) (tag jk r : Nat) (x : Rec) (im : Image) (t : TensorEnt), Names s tag x jk r im t →
    let j := getJob s jk
    let own := rdLe s (shardAddr j r + 0x28) 4
    (x.data ≠ [] → exec (.tallyReceive tag x) s = .next (bumpStep s jk t.layer 0x20 1)) ∧
    (x.data = [] → ownerHere s j r = false ∨ x.version < own ∨ (x.version = own ∧ x.tally = rdLe s (shardAddr j r + 0x20) 8) → exec (.tallyReceive tag x) s = .next s) ∧
    (x.data = [] → ownerHere s j r = true → own < x.version → ∃ u, exec (.tallyReceive tag x) s = .next u ∧ u = { s with jobs := u.jobs } ∧
      Tab.find (getShard u jk r).tallies x.sender = some (x.version, x.tally) ∧ getJob u jk = { j with shards := (getJob u jk).shards }) ∧
    (x.data = [] → ownerHere s j r = true → x.version = own → x.tally ≠ rdLe s (shardAddr j r + 0x20) 8 →
      exec (.tallyReceive tag x) s = .next (sendRefresh (noteMismatch s jk r x.sender t) jk r x.sender 0 t))) ∧
  (∀ (s : State) (jk r : Nat) (im : Image) (t : TensorEnt), (getJob s jk).image = some im → masterAt im r = some t →
    let j := getJob s jk
    let need := if j.stepOpen = true then j.step + 1 else j.step
    let late := (((getShard s jk r).lastVersion).getD j.stepStart) + j.policy.ackNs
    (j.phase ≠ .running ∨ ownerHere s j r = true ∨ need ≤ shardVersion s j r ∨ now s < late → exec (.reinstallTimeout jk r) s = .next s) ∧
    (j.phase = .running → ownerHere s j r = false → shardVersion s j r < need → late ≤ now s → ∃ v, v = { s with jobs := v.jobs } ∧
      getShard v jk r = { getShard s jk r with asked := true, lastVersion := some (now s) } ∧
      exec (.reinstallTimeout jk r) s = .next (sendRec v jk (shardOwner s j r) (mkRec s jk t 9 j.step 0xFFFF (shardVersion s j r) 0 [])))) ∧
  (∀ (s : State) (tag jk r : Nat) (x : Rec) (im : Image) (t : TensorEnt), Names s tag x jk r im t → (getJob s jk).reshard = none →
    let j := getJob s jk
    let cs := if x.chunk = 0xFFFF then List.range (chunkCount t) else [x.chunk]
    (x.data ≠ [] → exec (.reinstallReceive tag x) s = .next (bumpStep s jk t.layer 0x20 1)) ∧
    (x.data = [] → ownerHere s j r = false → standbyHere s j r = false → exec (.reinstallReceive tag x) s = .next s) ∧
    (x.data = [] → ownerHere s j r = true → ∃ v, v = cs.foldl (fun u c => sendVersion u jk x.sender r im t c (chunkVersion u (getJob u jk) r c) (chunkVersion u (getJob u jk) r c) 0) s ∧
      exec (.reinstallReceive tag x) s = .next (sendRec v jk x.sender
        (mkRec v jk t 7 (shardVersion v j r) 0xFFFF (shardVersion v j r) 0 (readScales v (shardAddr j r))))) ∧
    (x.data = [] → ownerHere s j r = false → standbyHere s j r = true → exec (.reinstallReceive tag x) s = .next (cs.foldl (fun u c =>
      sendParts u jk x.sender im (versionTensors im t ++ stateTensors im t) c (mkRec u jk t 8 (chunkVersion u j r c) c (chunkVersion u j r c) 0 [])) s))) ∧
  (∀ (s : State) (tag jk : Nat) (x : Rec) (oi : Image) (os : List (Nat × Nat)) (t : TensorEnt), jobOfTag s tag = some jk → x.epoch < (getJob s jk).cut.epoch →
    (getJob s jk).oldImage = some (oi, os, x.epoch) → tensorByCoords oi x.tensor x.shard = some t → t.cls = 2 → exec (.reinstallReceive tag x) s =
      .next (sendParts s jk x.sender oi (keptTensors oi t) x.chunk { mkRec s jk t 8 x.step x.chunk x.version 0 [] with epoch := x.epoch })) ∧
  (∀ (s : State) (jk r q at' : Nat) (im : Image) (t : TensorEnt), (getJob s jk).image = some im → masterAt im r = some t → (getShard s jk r).lastSent = some at' →
    let j := getJob s jk
    (ownerHere s j r = false ∨ unacked s jk r = [] ∨ now s < at' + j.policy.ackNs → exec (.ackTimeout jk r) s = .next s) ∧
    (ownerHere s j r = true → unacked s jk r = [q] → at' + j.policy.ackNs ≤ now s →
      ((getShard s jk r).resent = true → now s < at' + 2 * j.policy.ackNs → exec (.ackTimeout jk r) s = .next s) ∧
      ((getShard s jk r).resent = true → at' + 2 * j.policy.ackNs ≤ now s → exec (.ackTimeout jk r) s = .next (declareLost s jk q)) ∧
      ((getShard s jk r).resent = false → chunkCount t = 1 → ∃ v, v = { s with jobs := v.jobs } ∧ getShard v jk r = { getShard s jk r with resent := true } ∧
        exec (.ackTimeout jk r) s = .next (sendVersion v jk q r im t 0 (chunkVersion v j r 0) (chunkVersion v j r 0) 0))))

/-- Notices and the re-shard (R300, R302, R304, R305, R323 to R327, R356, R495, R570). The causes' numbers in a pause notice are the
model's own (DESIGN CHOICE). -/
def Obligations.NoticesAndSwitch : Prop :=
  (∀ (s : State) (tag q e c m o : Nat) (b : Bool), jobOfTag s tag = none → exec (.replicaLostNotice tag q e) s = .next s ∧ exec (.replicaReadmitNotice tag q e) s = .next s ∧
    (∀ sh, exec (.ownerTakeoverNotice tag (q, sh) m o) s = .next s) ∧ exec (.pauseNoticeReceive tag c b m) s = .next s ∧ exec (.drainedReceive tag e q m) s = .next s ∧
    exec (.reshardSwitch tag e) s = .next s) ∧
  (∀ (s : State) (jk q : Nat) (port : Option Nat), let j := getJob s jk
    (j.phase = .closed ∨ pathsDown s jk (moduleOf j q) port = false ∨ q ∉ j.members ∨ q ∈ j.lostSeen → exec (.peerDownTimeout jk q port) s = .next s) ∧
    (j.phase ≠ .closed → pathsDown s jk (moduleOf j q) port = true → q ∈ j.members → q ∉ j.lostSeen →
      exec (.peerDownTimeout jk q port) s = .next (applyLoss (notifyAll s jk .replicaLost [q, j.step + 2]) jk q (j.step + 2))) ∧
    (∀ k, pathsDown s jk (moduleOf j q) (some k) = true ↔ ∃ t, (getPort s k).downSince = some t ∧ t + 1000000 ≤ now s)) ∧
  (∀ (s : State) (tag jk q e : Nat), jobOfTag s tag = some jk →
    let j := getJob s jk
    let kept := j.changes.filter (fun c => !(c.1 == q && !c.2.1))
    let e' := match j.changes.find? (fun c => c.1 == q && !c.2.1) with | some o => if j.step < e then min e o.2.2 else o.2.2 | none => e
    (q ∉ j.members → exec (.replicaLostNotice tag q e) s = .next (wakePart s (jk / 2))) ∧
    (q ∈ j.members → q ∈ j.lostSeen → ∃ v, exec (.replicaLostNotice tag q e) s = .next (wakePart v (jk / 2)) ∧ v = { s with jobs := v.jobs } ∧
      getJob v jk = { j with changes := kept ++ [(q, false, e')] }) ∧
    (q ∈ j.members → q ∉ j.lostSeen → ∃ v, v = { s with jobs := v.jobs } ∧ getJob v jk = { j with changes := kept ++ [(q, false, e')], lostSeen := j.lostSeen ++ [q] } ∧
      exec (.replicaLostNotice tag q e) s = .next (wakePart (askAllOld (shardsAfterLoss (raisePart v (some (jk / 2)) 0x0384 (sourceId s srcMp)
        [(4, 0xFFFFFFFF), (4, j.step), (4, 0xFFFFFFFF), (2, 0), (2, 0), (2, 0), (2, 0), (4, j.cut.epoch), (2, q)]) jk q) jk) (jk / 2)))) ∧
  (∀ (s : State) (tag jk q e : Nat), jobOfTag s tag = some jk →
    let j := getJob s jk
    let after' := j.changes.filter (fun c => !(c.1 == q && c.2.1)) ++ [(q, true, e)]
    (q ≠ j.policy.replica → ∃ u, exec (.replicaReadmitNotice tag q e) s = .next u ∧ u = { s with jobs := u.jobs } ∧ getJob u jk = { j with changes := after' }) ∧
    (∀ im t r, q = j.policy.replica → j.image = some im → held im = [(t, r)] → ∃ v, v = { s with jobs := v.jobs } ∧ (getJob v jk).changes = after' ∧
      getShard v jk r = { getShard s jk r with asked := true, lastVersion := some (now s) } ∧
      exec (.replicaReadmitNotice tag q e) s = .next (sendRec v jk (shardOwner s j r) (mkRec s jk t 9 j.step 0xFFFF (shardVersion s j r) 0 [])))) ∧
  (∀ (s : State) (jk r : Nat) (im : Image) (t : TensorEnt), (getJob s jk).image = some im → masterAt im r = some t →
    let j := getJob s jk
    let due := fun (c : Nat × Nat) => c.2 + j.policy.takeoverNs ≤ now s ∧ commitStep s j r (chunkVersion s j r c.1) = chunkVersion s j r c.1
    (standbyHere s j r = false ∨ (∀ c ∈ (getShard s jk r).landed, ¬ due c) → exec (.takeoverTimeout jk r) s = .next s) ∧
    (standbyHere s j r = true → (∃ c ∈ (getShard s jk r).landed, due c) → exec (.takeoverTimeout jk r) s = .next (wakePart (takeOver s jk r t) (jk / 2)))) ∧
  (∀ (s : State) (tag jk r tensor former owner : Nat) (shard : List Nat) (t : TensorEnt), jobOfTag s tag = some jk →
    (getJob s jk).image.bind (fun im => masterOf im tensor shard) = some (t, r) →
    let j := getJob s jk
    let a := shardAddr j r
    PlainMem s a 64 → ∃ v, v = { s with mem := v.mem, benches := v.benches } ∧ shardOwner v j r = owner % 65536 ∧
      shardStandby v j r = (nextReplica j owner former).getD 0xFFFF % 65536 ∧ ownerHere v j r = false ∧
      (∀ p, ¬ (a + 4 ≤ p ∧ p < a + 8) → p ≠ a + 0xE → Mem.get v.mem.bytes p = Mem.get s.mem.bytes p) ∧
      (ownerHere s j r = false → standbyHere v j r = standbyHere s j r ∧ exec (.ownerTakeoverNotice tag (tensor, shard) former owner) s = .next v) ∧
      (ownerHere s j r = true → j.round.policy = none → standbyHere v j r = false ∧ exec (.ownerTakeoverNotice tag (tensor, shard) former owner) s = .next (settlePolicies (freeShardCtxs v jk r) jk))) ∧
  (∀ (s : State) (tag jk m : Nat) (round : Bool), jobOfTag s tag = some jk →
    let j := getJob s jk
    (hasHold j .hostPause = true ∨ (∃ x ∈ j.holdAt, x.1 = .hostPause) → exec (.pauseNoticeReceive tag 0 round m) s = .next s) ∧
    (hasHold j .hostPause = false → (∀ x ∈ j.holdAt, x.1 ≠ .hostPause) →
      (j.held = false ∨ holdDue j (j.step + 1) (.hostPause, round) = false → ∃ u, exec (.pauseNoticeReceive tag 0 round m) s = .next u ∧ u = { s with jobs := u.jobs } ∧ getJob u jk = { j with holdAt := j.holdAt ++ [(.hostPause, round)] }) ∧
      (j.held = true → holdDue j (j.step + 1) (.hostPause, round) = true → ∃ v, exec (.pauseNoticeReceive tag 0 round m) s =
        .next (raisePart v (some (jk / 2)) 0x0454 (sourceId s srcMp) [(4, j.tag), (4, j.step + 1), (1, buddySlot s), (1, 0)]) ∧
        v = { s with jobs := v.jobs } ∧ getJob v jk = { j with holds := j.holds ++ [.hostPause] })) ∧
    (hasHold j .divergence = false → (∀ x ∈ j.holdAt, x.1 ≠ .divergence) → j.held = false → ∃ u, exec (.pauseNoticeReceive tag 1 round m) s = .next u ∧
      u = { s with mem := u.mem, benches := u.benches, jobs := u.jobs } ∧ (j.round.policy = none → u.mem = s.mem) ∧
      (∀ p, p ≠ roundRec j + 4 → Mem.get u.mem.bytes p = Mem.get s.mem.bytes p) ∧ (j.round.policy ≠ none → PlainMem s (roundRec j + 4) 1 → rdLe u (roundRec j + 4) 1 = 1) ∧
      (getJob u jk).holdAt = j.holdAt ++ [(.divergence, round)] ∧ (getJob u jk).round.pausers = insertNat j.round.pausers m) ∧
    (hasHold j .lost = false → (∀ x ∈ j.holdAt, x.1 ≠ .lost) → j.held = false →
      (∀ x, j.reshard = some x → x.missing = none → ∃ u, exec (.pauseNoticeReceive tag 2 round m) s = .next u ∧ u = { s with host := u.host, jobs := u.jobs } ∧
        getJob u jk = { j with reshard := none, holdAt := j.holdAt ++ [(.lost, round)] }) ∧
      (j.reshard = none → ∃ u, exec (.pauseNoticeReceive tag 2 round m) s = .next u ∧ u = { s with jobs := u.jobs } ∧ getJob u jk = { j with holdAt := j.holdAt ++ [(.lost, round)] }))) ∧
  (∀ (s : State) (jk : Nat), (getJob s jk).reshard = none → exec (.reshardDrained jk) s = .next s) ∧
  (∀ (s : State) (jk : Nat) (x : Reshard), (getJob s jk).reshard = some x →
    let j := getJob s jk
    let co := coordinatorAt j x.step
    let me := (j.policy.replica, cutIndex j.cut)
    (x.drained = false ∧ reshardReady s jk x = false ∨ x.missing ≠ none ∨ x.sentTo = co → exec (.reshardDrained jk) s = .next s) ∧
    ((x.drained = true ∨ reshardReady s jk x = true) → x.missing = none → x.sentTo ≠ co → ∃ v, v = { s with host := v.host, jobs := v.jobs } ∧
      v.host = (if x.drained = true then s else raisePart s (some (jk / 2)) 0x0390 (sourceId s srcMp) [(4, x.epoch), (4, x.step)]).host ∧
      (co ≠ moduleOf j j.policy.replica → getJob v jk = { j with reshard := some { x with drained := true, sentTo := co } } ∧
        exec (.reshardDrained jk) s = .next (sendFrame v .drained co j.tag [x.epoch, me.1, me.2] [])) ∧
      (co = moduleOf j j.policy.replica → getJob v jk = { j with reshard := some { x with drained := true, sentTo := co, drains := x.drains ++ [me] } } ∧
        exec (.reshardDrained jk) s = .next (trySwitch v jk)))) ∧
  (∀ (s : State) (tag jk epoch rep idx : Nat), jobOfTag s tag = some jk →
    let j := getJob s jk
    (j.reshard = none → exec (.drainedReceive tag epoch rep idx) s = .next s ∧ exec (.reshardSwitch tag epoch) s = .next s) ∧
    (∀ x, j.reshard = some x → (x.epoch ≠ epoch ∨ (rep, idx) ∈ x.drains → exec (.drainedReceive tag epoch rep idx) s = .next s) ∧
      (x.epoch ≠ epoch ∨ x.drained = false ∨ x.missing ≠ none → exec (.reshardSwitch tag epoch) s = .next s) ∧
      (x.epoch = epoch → (rep, idx) ∉ x.drains → ∃ v, v = { s with jobs := v.jobs } ∧ getJob v jk = { j with reshard := some { x with drains := x.drains ++ [(rep, idx)] } } ∧
        ((∃ p ∈ (drainSet j x.step).flatMap (fun q => (modulesOf j q).map (fun k => (q, k))), p ∉ x.drains ++ [(rep, idx)]) →
          exec (.drainedReceive tag epoch rep idx) s = .next v) ∧
        (coordinatorAt j x.step = moduleOf j j.policy.replica → x.drained = true → x.missing = none →
          (∀ p ∈ (drainSet j x.step).flatMap (fun q => (modulesOf j q).map (fun k => (q, k))), p ∈ x.drains ++ [(rep, idx)]) →
          exec (.drainedReceive tag epoch rep idx) s = .next (doSwitch (notifyAll v jk .switchEpoch [epoch]) jk))))) ∧
  (∀ (s : State) (tag jk epoch : Nat) (x : Reshard) (oi : Image), jobOfTag s tag = some jk → (getJob s jk).reshard = some x → (getJob s jk).image = some oi →
    x.epoch = epoch → x.drained = true → x.missing = none → (getJob s jk).round.policy = none → (getJob s jk).nodes = [] → (getJob s jk).ahead = [] →
    let j := getJob s jk
    let v := ownTables (setComp (setComp (modJob s jk (fun j => { j with
      oldImage := some (oi, j.owners, j.cut.epoch), image := some x.image, cut := x.cut, owners := x.owners, shards := [], heldResults := [] })) oi false) x.image true) jk
    (held x.image = [] → ∃ w, exec (.reshardSwitch tag epoch) s = .next (wakePart (longDone w x.reply 0) (jk / 2)) ∧ w = { v with host := w.host, jobs := w.jobs } ∧
      getJob w jk = { getJob v jk with reshard := none }) ∧
    (∀ t r, held x.image = [(t, r)] →
      let o := x.owners.getD r (0xFFFF, 0xFFFF)
      let w := buildShard (initShard v jk r x.image t x.step o.1 o.2) jk oi x.image t (fun _ w _ c => some (readChunk s oi w c))
      let lacking := fun m => modJob w jk (fun j => { j with reshard := some { x with missing := some m } })
      (oldRanks oi x.image t = none → exec (.reshardSwitch tag epoch) s =
        .next (finishReshard (shardLost (lacking []) jk t) jk { x with missing := some [] })) ∧
      (∀ ro old, oldRanks oi x.image t = some [ro] → masterAt oi ro = some old → chunkCount old = 1 →
        (ownerHere s j ro = true ∨ standbyHere s j ro = true ∨ (ownerHere w (getJob w jk) r = false ∧ standbyHere w (getJob w jk) r = false) → exec (.reshardSwitch tag epoch) s =
          .next (finishReshard (lacking []) jk { x with missing := some [] })) ∧
        (∀ q, (j.owners.getD ro (0xFFFF, 0xFFFF)).1 = q → q ∈ ackers j → q ≠ j.policy.replica →
          ownerHere s j ro = false → standbyHere s j ro = false → ownerHere w (getJob w jk) r = true → exec (.reshardSwitch tag epoch) s =
          .next (sendRec (lacking [(ro, 0)]) jk q { mkRec (lacking [(ro, 0)]) jk old 9 x.step 0 x.step 0 [] with epoch := j.cut.epoch })))))

/-- Rounds (R332, R334, R347, R350, R351, R356, R358, R495). The records lie where the policy names them; the numbers of a resume's causes are
the model's own (DESIGN CHOICE). -/
def Obligations.OuterRounds : Prop :=
  (∀ (s : State) (jk r k : Nat) (im : Image) (t : TensorEnt) (st : Station) (pol : RoundPolicy), roundParts s jk r = some (im, t, k, st) → shardPolicy (getJob s jk) r = some pol →
    let j := getJob s jk
    let a := roundShard j r
    (roundState s j r ≠ 1 ∨ (getRShard j r).formed.length ≠ chunkCount t → exec (.roundHandoffDone jk r) s = .next s) ∧
    (roundState s j r = 1 → (getRShard j r).formed.length = chunkCount t → PlainMem s a 64 → now s < 2 ^ 64 → (∀ q ∈ partnersOf j r, ctxState (wrLe s (a + 5) 1 (getRShard j r).lam) j r q.2 ≠ 3) →
      (pol.mode = 1 ∨ xSpoil im st = none ∨ hasLayer t.layer = false) →
      ∃ u w off n, exec (.roundHandoffDone jk r) s = .next u ∧ w = { s with mem := w.mem, benches := w.benches } ∧ u = { s with mem := u.mem, benches := u.benches, jobs := u.jobs } ∧
        roundState u j r = 2 ∧ rdLe u (a + 0x10) 8 = now s ∧
        (∀ q ∈ partnersOf j r, (getHaul (getJob u jk) r q.2).sends =
          (getHaul j r q.2).sends ++ (if takesHaul w j r (roundOf s j r) q = true then [newSend 0 (roundOf s j r) 0 off n] else [])) ∧
        { getJob u jk with round := j.round } = j)) ∧
  (∀ (s : State) (jk r k : Nat) (im : Image) (t : TensorEnt) (st : Station) (pol : RoundPolicy), roundParts s jk r = some (im, t, k, st) → shardPolicy (getJob s jk) r = some pol →
    let j := getJob s jk
    let full := ((partnersOf j r).filter (expectedAt s j im pol r (roundOf s j r))).all (fun q => (haulStamp (getHaul j r q.2) 1 (roundOf s j r - pol.lag)).isSome)
    let deadline := rdLe s (roundShard j r + 0x10) 8 + pol.waitNs
    (roundState s j r ≠ 2 ∨ (full = false ∧ now s < deadline) → exec (.roundClose jk r) s = .next s) ∧
    (roundState s j r = 2 → (full = true ∨ deadline ≤ now s) → ∃ u, exec (.roundClose jk r) s = .next (wakePart u (jk / 2)) ∧
      u = { s with mem := u.mem, benches := u.benches, jobs := u.jobs, host := u.host } ∧ (getRShard (getJob u jk) r).merged = List.range (chunkCount t) ∧
      (getRShard (getJob u jk) r).outer = [] ∧ (getJob u jk).step = j.step ∧ (getJob u jk).phase = j.phase ∧ (getJob u jk).members = j.members)) ∧
  (∀ (w : List Word) (a b : MergeTerm) (n : Nat), let wa := w.getD a.age 0
    let wb := w.getD b.age 0
    mergePlace w [a, b] n = fdiv (fadd (fadd 0 (fmul wa (a.vals.getD n 0))) (fmul wb (b.vals.getD n 0))) (fadd (fadd 0 wa) wb)) ∧
  (∀ (s : State) (tag tensor round rep : Nat) (shard : List Nat), jobOfTag s tag = none → exec (.roundStateAcceptReceive tag (tensor, shard) round rep) s = .next s ∧
    exec (.roundReadyReport tag rep) s = .next s ∧ exec (.roundResume tag round) s = .next s) ∧
  (∀ (s : State) (tag tensor round rep jk r k : Nat) (shard : List Nat) (im : Image) (t : TensorEnt) (st : Station), jobOfTag s tag = some jk → (getJob s jk).image = some im →
    masterOf im tensor shard = some (t, r) → roundParts s jk r = some (im, t, k, st) →
    let j := getJob s jk
    let a := roundShard j r
    (roundState s j r ≠ 5 ∨ roundOf s j r ≠ round ∨ shardStandby s j r ≠ rep ∨ ownerHere s j r = false → exec (.roundStateAcceptReceive tag (tensor, shard) round rep) s = .next s) ∧
    (roundState s j r = 5 → roundOf s j r = round → shardStandby s j r = rep → ownerHere s j r = true → (getRShard j r).pause = false →
      (∀ q ∈ partnersOf j r, bit q.1.flags 1 = false) → PlainMem s a 64 → round + 1 < 2 ^ 32 →
      ∃ w, exec (.roundStateAcceptReceive tag (tensor, shard) round rep) s = .next (wakePart w (jk / 2)) ∧
        w = { s with mem := w.mem, benches := w.benches, host := w.host, out := w.out, board := w.board, cipher := w.cipher, freeCtr := w.freeCtr } ∧
        roundState w j r = 0 ∧ roundOf w j r = round + 1 ∧ ∀ p, p ≠ a + 4 → ¬ (a + 8 ≤ p ∧ p < a + 12) → Mem.get w.mem.bytes p = Mem.get s.mem.bytes p)) ∧
  (∀ (s : State) (tag jk m : Nat), jobOfTag s tag = some jk →
    let j := getJob s jk
    ∃ v, v = { s with jobs := v.jobs } ∧ getJob v jk = { j with round := { j.round with reports := insertNat j.round.reports m, pausers := insertNat j.round.pausers m } } ∧
      (coordinatorOf j ≠ thisModule j → exec (.roundReadyReport tag m) s = .next v) ∧
      ((∃ p ∈ insertNat j.round.pausers m, p ∉ insertNat j.round.reports m) → exec (.roundReadyReport tag m) s = .next v) ∧
      (coordinatorOf j = thisModule j → (∀ p ∈ insertNat j.round.pausers m, p ∈ insertNat j.round.reports m) →
        exec (.roundReadyReport tag m) s = .next (resumeRound (notifyAll v jk .resume [1]) jk))) ∧
  (∀ (s : State) (tag jk cause : Nat), jobOfTag s tag = some jk →
    (cause ≠ 1 → exec (.roundResume tag cause) s = .next (wakePart (endHold s jk .hostPause) (jk / 2))) ∧
    ((getJob s jk).image = none → exec (.roundResume tag 1) s = .next s) ∧
    ((getJob s jk).image ≠ none → ∃ v, exec (.roundResume tag 1) s = .next (wakePart (endHold v jk .divergence) (jk / 2)) ∧
      v = { s with mem := v.mem, benches := v.benches, jobs := v.jobs, host := v.host } ∧ (getJob v jk).round.reports = [] ∧ (getJob v jk).round.pausers = [] ∧
      (getJob v jk).step = (getJob s jk).step ∧ (getJob v jk).holds = (getJob s jk).holds))

/-- Hauls on the wire (R340, R341, R343, R344, R346, R353, R354, R379 to R382, R384, R386, R391, R409). -/
def Obligations.HaulTraffic : Prop :=
  (∀ (s : State) (c : Instr) (n a pt : Nat) (d : List Byte), packetOf c = some (n, a, pt, d) →
    (fieldBe d 3 1 ≠ n → 1 ≤ fieldBe d 3 1 → fieldBe d 3 1 ≤ 8 → exec c s = .next s) ∧ (d.length < 84 → exec c s = .next s) ∧ (findCtxs s d = [] → olderEpoch s d = none → exec c s = .next s) ∧
    (∀ jk, 84 ≤ d.length → findCtxs s d = [] → olderEpoch s d = some jk → snapshotReads s jk = false → crc32c (d.take (d.length - 4)) = fieldLe d (d.length - 4) 4 → fieldBe d 3 1 = n →
      exec c s = .next (bumpRound s jk 0x1C 1)) ∧
    (∀ jk r p, (findCtxs s d).head? = some (jk, r, p) → snapshotReads s jk = true ∨ (getPart s (jk / 2)).resetting = true → exec c s = .next s)) ∧
  (∀ (s : State) (c : Instr) (n a pt jk r p : Nat) (d : List Byte) (q : Partner) (pol : RoundPolicy), packetOf c = some (n, a, pt, d) → Concerns s n d jk r p q pol →
    let j := getJob s jk
    let crcOk := crc32c (d.take (d.length - 4)) = fieldLe d (d.length - 4) 4
    let formOk := fieldBe d 0 2 = 0x474E ∧ fieldBe d 2 1 = (if pol.mode = 1 then 1 else 2) ∧ fieldBe d 6 1 = pol.site ∧ 1 ≤ n ∧ n ≤ 8 ∧ (pol.mode = 1 → n = 1 ∨ n = 6 ∨ n = 7)
    (¬ crcOk → exec c s = .next (bumpCtx s jk r p 0x3A)) ∧
    (crcOk → ¬ formOk → exec c s = .next (bumpCtx s jk r p 0x3E)) ∧
    (crcOk → formOk → pol.mode ≠ 1 → fieldBe d 0x14 4 < j.cut.epoch → exec c s = .next (bumpRound s jk 0x1C 1)) ∧
    (crcOk → formOk → pol.mode ≠ 1 → j.cut.epoch < fieldBe d 0x14 4 → exec c s = .next s) ∧
    (crcOk → formOk → (pol.mode = 1 ∨ fieldBe d 0x14 4 = j.cut.epoch) → ctxState s j r p = 0 → exec c s = .next s) ∧
    (crcOk → formOk → (pol.mode = 1 ∨ fieldBe d 0x14 4 = j.cut.epoch) → ctxState s j r p ≠ 0 → bit (fieldBe d 4 1) 7 = true → bit pol.flags 0 = false →
      (getHaul j r p).raised.2 = roundOf s j r + 1 → exec c s = .next (bumpCtx s jk r p 0x3C))) ∧
  (∀ (s : State) (jk r p off : Nat), let a := jobCtx (getJob s jk) r p + off
    PlainMem s a 2 → rdLe (bumpCtx s jk r p off) a 2 = min (rdLe s a 2 + 1) 65535 ∧ ∀ x, ¬ (a ≤ x ∧ x < a + 2) → Mem.get (bumpCtx s jk r p off).mem.bytes x = Mem.get s.mem.bytes x) ∧
  (∀ (s t : State) (c : Instr) (n a pt jk r p : Nat) (d body : List Byte) (q : Partner) (pol : RoundPolicy), packetOf c = some (n, a, pt, d) → 1 ≤ n → n ≤ 8 →
    fieldBe d 3 1 = n → checkPkt s d = (t, some (jk, r, p, body)) → shardPolicy (getJob t jk) r = some pol → (partnersOf (getJob t jk) r)[p]? = some (q, p) →
    ctxState t (getJob t jk) r p ≠ 2 → pol.mode ≠ 1 → (parseHdr d).inc < rdLe t (jobCtx (getJob t jk) r p + 8) 4 →
    ∃ u, exec c s = .next u ∧ u = { t with jobs := u.jobs } ∧ (getHaul (getJob u jk) r p) = { getHaul (getJob t jk) r p with heard := now t }) ∧
  (∀ (s t : State) (c : Instr) (n a pt jk r p : Nat) (d body : List Byte) (q : Partner) (pol : RoundPolicy), packetOf c = some (n, a, pt, d) → 1 ≤ n → n ≤ 4 →
    Arrives s n d jk r p q pol t body → (getHaul (getJob t jk) r p).anySeq = false →
    let j := getJob t jk
    let b := jobCtx j r p
    let h := parseHdr d
    let base := rdLe t (b + 0x28) 8
    let map := rdLe t (b + 0x30) 8
    let hc := getHaul j r p
    let v := modHaul t jk r p (fun x => { x with heard := now t })
    (seqFate base map h.seq = .beyond → exec c s = .next v) ∧
    (seqFate base map h.seq = .duplicate → exec c s = .next (sendAck (bumpRound v jk 0x34 1) jk r p)) ∧
    (seqFate base map h.seq = .fresh → hc.ackDue.1 < 3 → n ≠ 2 ∨ ctxState (setRx v b (markSeq base map h.seq).1 (markSeq base map h.seq).2) j r p ≠ 1 →
      (∀ x ∈ hc.recvs, x.type ≠ n ∨ x.round ≠ h.round) → hc.parity = [] → 1 < segCount h.len → PlainMem t (b + 0x28) 16 → (markSeq base map h.seq).1 < 2 ^ 64 → (markSeq base map h.seq).2 < 2 ^ 64 →
      ∃ u, exec c s = .next u ∧ u = { t with mem := u.mem, benches := u.benches, jobs := u.jobs } ∧
        (rdLe u (b + 0x28) 8, rdLe u (b + 0x30) 8) = markSeq base map h.seq ∧
        getHaul (getJob u jk) r p = { hc with heard := now t, ackDue := (hc.ackDue.1 + 1, if hc.ackDue.1 = 0 then now t else hc.ackDue.2), recvs := hc.recvs ++ [{ newRecv n h.round h.full h.len with segs := [(h.seg, body)], seqs := [(h.seg, h.seq)] }] }) ∧
    (seqFate base map h.seq = .fresh → hc.ackDue.1 < 3 → n = 2 → ctxState (setRx v b (markSeq base map h.seq).1 (markSeq base map h.seq).2) j r p = 1 →
      ∃ w, w = { t with mem := w.mem, benches := w.benches, jobs := w.jobs } ∧ (getHaul (getJob w jk) r p).recvs = hc.recvs ∧
        exec c s = .next ((sendPkt w jk r p (plainPkt 8 h.round [])).getD w))) ∧
  (∀ (s t : State) (a pt jk r p : Nat) (d body : List Byte) (q : Partner) (pol : RoundPolicy), Arrives s 5 d jk r p q pol t body →
    let h := parseHdr d
    let hc := getHaul (getJob t jk) r p
    let b := jobCtx (getJob t jk) r p
    let base := rdLe t (b + 0x28) 8
    let map := rdLe t (b + 0x30) 8
    let g : ParityPkt := ⟨h.round, h.len, h.seg, h.groupN, h.seq, body⟩
    (hc.parity = [] → rebuilt hc base map g = none → ∃ u, exec (.haulParityReceive a pt d) s = .next u ∧ u = { t with jobs := u.jobs } ∧
      getHaul (getJob u jk) r p = { hc with heard := now t, parity := if (missingOf base map g).isEmpty then [] else [g] }) ∧
    (∀ ty k n x, hc.parity = [] → rebuilt hc base map g = some (ty, k, n, x) → seqFate base map n = .fresh → PlainMem t (b + 0x28) 16 →
      (markSeq base map n).1 < 2 ^ 64 → (markSeq base map n).2 < 2 ^ 64 →
      ∃ w v, w = { t with mem := w.mem, benches := w.benches, jobs := w.jobs } ∧ (rdLe w (b + 0x28) 8, rdLe w (b + 0x30) 8) = markSeq base map n ∧
        Tab.find (((findRecv (getJob w jk) r p ty h.round).map (·.segs)).getD []) k = some x ∧
        v = tryComplete (sendAck (bumpRound w jk 0x30 1) jk r p) jk r p ty h.round pol q.site ∧
        exec (.haulParityReceive a pt d) s = .next (modHaul v jk r p (fun y => { y with parity := y.parity.filter (fun e =>
          !(missingOf (rdLe v (jobCtx (getJob v jk) r p + 0x28) 8) (rdLe v (jobCtx (getJob v jk) r p + 0x28 + 8) 8) e).isEmpty) })))) ∧
  (∀ (s t : State) (a pt jk r p : Nat) (d body : List Byte) (q : Partner) (pol : RoundPolicy), Arrives s 6 d jk r p q pol t body →
    let j := getJob t jk
    let b := jobCtx j r p
    ∀ f x, (getHaul j r p).flight = [f] → (getHaul j r p).sends = [x] → (getHaul j r p).newMirror = false → covers (fieldLe body 0 8) (fieldLe body 8 8) f.seq = true → f.tries ≠ 0 →
      x.seq0 ≤ f.seq → f.seq < x.seq0 + segCount x.len → (insertNat x.acked (f.seq - x.seq0)).length < segCount x.len → (parseHdr d).round = 0xFFFFFFFF →
      PlainMem t b 64 → (partnerRec j p + 32 ≤ b ∨ b + 64 ≤ partnerRec j p) →
      ∃ u, exec (.haulAckReceive a pt d) s = .next u ∧ u = { t with mem := u.mem, benches := u.benches, jobs := u.jobs } ∧
        getHaul (getJob u jk) r p = { getHaul j r p with heard := now t, flight := [], sends := [{ x with acked := insertNat x.acked (f.seq - x.seq0) }] } ∧
        rdLe u (b + 0x20) 8 = rdLe t (b + 0x18) 8 ∧ rdLe u (b + 0x14) 4 = 0xFFFFFFFF) ∧
  (∀ (s t : State) (a pt jk r p : Nat) (d body : List Byte) (q : Partner) (pol : RoundPolicy), Arrives s 7 d jk r p q pol t body →
    let j := getJob t jk
    let b := jobCtx j r p
    (getHaul j r p).sends = [] → PlainMem t b 64 → (roundRec j + 2112 ≤ b ∨ b + 64 ≤ roundRec j) → p < 64 →
      ∃ u, exec (.haulKeepaliveReceive a pt d) s = .next u ∧ u = { t with mem := u.mem, benches := u.benches, jobs := u.jobs } ∧
        rdLe u (b + 0x14) 4 = (parseHdr d).round % 2 ^ 32 ∧ (getHaul (getJob u jk) r p).heard = now t ∧ (getHaul (getJob u jk) r p).sends = []) ∧
  (∀ (s t : State) (a pt jk r p : Nat) (d body : List Byte) (q : Partner) (pol : RoundPolicy), Arrives s 8 d jk r p q pol t body →
    let j := getJob t jk
    let v := modHaul t jk r p (fun x => { x with heard := now t })
    let mine := ∃ o, (getHaul j r p).own = some o ∧ o.1 = (parseHdr d).round
    (ctxState t j r p ≠ 3 ∨ ¬ mine → exec (.haulRefuseReceive a pt d) s = .next v) ∧
    (ctxState t j r p = 3 → mine → exec (.haulRefuseReceive a pt d) s = .next (backToActive v jk r p (roundOf t j r)))) ∧
  (∀ (s : State) (jk r p : Nat), let j := getJob s jk
    let b := jobCtx j r p
    let hc := getHaul j r p
    let may := j.phase = .running ∧ j.round.policy ≠ none ∧ snapshotReads s jk = false ∧ ctxState s j r p ≠ 0 ∧ (getRtt j p).paced ≤ now s
    let window := rdLe s (b + 0x18) 8 - rdLe s (b + 0x20) 8
    (¬ may → exec (.haulPacketSend jk r p) s = .next s) ∧ (hc.sends = [] → exec (.haulPacketSend jk r p) s = .next s) ∧
    (∀ pol x d, may → shardPolicy j r = some pol → bit pol.flags 1 = false → hc.sends = [x] → x.next < segCount x.len →
      (64 ≤ window → exec (.haulPacketSend jk r p) s = .next s) ∧
      (window < 64 → haulSegment s j r x x.next = some d →
        (sendPkt s jk r p (dataPkt x (rdLe s (b + 0x18) 8) x.next d) = none → exec (.haulPacketSend jk r p) s = .next s) ∧
        (∀ w, sendPkt s jk r p (dataPkt x (rdLe s (b + 0x18) 8) x.next d) = some w → (getHaul (getJob w jk) r p).sends = [x] → (getHaul (getJob w jk) r p).flight = hc.flight →
          ∃ u rto, exec (.haulPacketSend jk r p) s = .next u ∧ u = { w with mem := u.mem, benches := u.benches, jobs := u.jobs } ∧
            (getHaul (getJob u jk) r p).sends = [{ x with seq0 := if x.next = 0 then rdLe s (b + 0x18) 8 else x.seq0, next := x.next + 1 }] ∧
            (getHaul (getJob u jk) r p).flight = hc.flight ++ [⟨rdLe s (b + 0x18) 8, (x.content, x.round, x.next), now w, now w, 0, false, rto⟩])))) ∧
  (∀ (s : State) (jk r p seq : Nat), let j := getJob s jk
    let hc := getHaul j r p
    (snapshotReads s jk = true ∨ now s < (getRtt j p).paced ∨ hc.flight = [] → exec (.haulRtoExpire jk r p seq) s = .next s) ∧
    (∀ f, hc.flight = [f] → (f.seq ≠ seq ∨ now s < f.last + f.rto → exec (.haulRtoExpire jk r p seq) s = .next s) ∧
      (∀ x d w, snapshotReads s jk = false → (getRtt j p).paced ≤ now s → f.seq = seq → f.last + f.rto ≤ now s → hc.sends = [x] → x.seq0 ≤ seq → seq < x.seq0 + segCount x.len →
        haulSegment s j r x f.what.2.2 = some d → sendPkt s jk r p (dataPkt x seq f.what.2.2 d) = some w → (getHaul (getJob w jk) r p).flight = [f] →
        ∃ u, exec (.haulRtoExpire jk r p seq) s = .next u ∧ u = { w with mem := u.mem, benches := u.benches, jobs := u.jobs } ∧
          (getHaul (getJob u jk) r p).flight = [{ f with last := now w, tries := f.tries + 1, rto := min 8000000000 (2 * f.rto) }]))) ∧
  (∀ (s : State) (jk r p : Nat), let j := getJob s jk
    let hc := getHaul j r p
    (hc.ackDue.1 = 0 ∨ now s < hc.ackDue.2 + 100000 ∨ snapshotReads s jk = true → exec (.haulAckDelayTimer jk r p) s = .next s) ∧
    (hc.ackDue.1 ≠ 0 → hc.ackDue.2 + 100000 ≤ now s → snapshotReads s jk = false → ∃ v, v = { s with jobs := v.jobs } ∧ getHaul (getJob v jk) r p = { hc with ackDue := (0, 0) } ∧
      exec (.haulAckDelayTimer jk r p) s = .next ((sendPkt v jk r p (plainPkt 6 (lastClosed s j r) (rdData s (jobCtx j r p + 0x28) 16))).getD v))) ∧
  (∀ (s : State) (jk r p : Nat), let j := getJob s jk
    let c := ctxState s j r p
    let waits := c = 2 ∨ c = 3 ∨ (c ≠ 0 ∧ roundState s j r = 6)
    (j.round.policy = none ∨ ¬ waits ∨ now s < (getHaul j r p).kept + 1000000000 ∨ snapshotReads s jk = true → exec (.keepaliveTimer jk r p) s = .next s) ∧
    (j.round.policy ≠ none → waits → (getHaul j r p).kept + 1000000000 ≤ now s → snapshotReads s jk = false → ∃ v, v = { s with jobs := v.jobs } ∧
      getHaul (getJob v jk) r p = { getHaul j r p with kept := now s } ∧
      exec (.keepaliveTimer jk r p) s = .next ((sendPkt v jk r p (plainPkt 7 (lastClosed s j r) [])).getD v))) ∧
  (∀ (s : State) (jk r p : Nat), let j := getJob s jk
    let b := jobCtx j r p
    (j.round.policy = none ∨ ctxState s j r p ≠ 3 ∨ now s < (getHaul j r p).heard + 10000000000 → exec (.catchupTimeout jk r p) s = .next s) ∧
    (∀ t q, j.round.policy ≠ none → ctxState s j r p = 3 → (getHaul j r p).heard + 10000000000 ≤ now s → j.image.bind (fun im => masterAt im r) = some t →
      (partnersOf j r)[p]? = some (q, p) → PlainMem s b 64 → (roundShard j r + 64 ≤ b ∨ b + 64 ≤ roundShard j r) →
      ∃ u, exec (.catchupTimeout jk r p) s = .next u ∧ u = { s with mem := u.mem, benches := u.benches, jobs := u.jobs, host := u.host } ∧
        ctxState u (getJob u jk) r p = 2 ∧ (getHaul (getJob u jk) r p).own = none ∧ (∀ x ∈ (getHaul (getJob u jk) r p).sends, x.content ≠ 1) ∧
        (∀ x ∈ (getHaul (getJob u jk) r p).recvs, x.type ≠ 2)))

/-- Links (R421, R422, R424, R425, R427, R430, R432 to R437, R449). The queue of delivered frames is the model's own form (DESIGN CHOICE). -/
def Obligations.LinkTraffic : Prop :=
  (∀ (s : State) (k a b : Nat) (d : List Byte) (ok : Bool) (es : List Nat), carries (getPort s k) = false → exec (.flitReceive k d) s = .next s ∧
    exec (.flitNakReceive k a b) s = .next s ∧ exec (.boardPortRetrain k ok) s = .next s ∧ exec (.laneBerWindow k es) s = .next s ∧ exec (.laneSignalLoss k a) s = .next s) ∧
  (∀ (s : State) (k : Nat) (d : List Byte), let p := getPort s k
    let seq := fieldBe d 0 2
    let sound := d.length = 512 ∧ crc64 (d.take 0x1F8) = fieldBe d 0x1F8 8
    let v := ackFlits s k (fieldBe d 2 2)
    let body := (d.drop 8).take 496
    (p.retrain = true → exec (.flitReceive k d) s = .next s) ∧
    (carries p = true → p.retrain = false →
      ((¬ sound ∨ (fieldBe d 4 1 = 1 ∧ seq ≠ p.rxNext)) → (p.naked = true ∧ (sound ∨ seq ≠ p.rxNext) → exec (.flitReceive k d) s = .next s) ∧
        (p.naked = false → p.fails < 7 → ∃ u, exec (.flitReceive k d) s = .next u ∧ u = { s with board := u.board, out := s.out ++ [⟨.nak, k, [p.rxNext], []⟩] } ∧
          getPort u k = { p with naked := true, fails := p.fails + 1 }) ∧
        (p.naked = false → p.fails = 7 → ∃ u, exec (.flitReceive k d) s = .next u ∧ u = { s with board := u.board } ∧ getPort u k = { p with naked := true, fails := 0, retrain := true })) ∧
      (sound → fieldBe d 4 1 ≠ 1 → exec (.flitReceive k d) s = .next v) ∧
      (sound → fieldBe d 4 1 = 1 → seq = p.rxNext → bit (fieldBe d 5 1) 0 = false → p.rxBuf = [] → ∃ u, exec (.flitReceive k d) s = .next u ∧ u = { v with board := u.board } ∧
        getPort u k = { getPort v k with naked := false, fails := 0, rxNext := (p.rxNext + 1) % 65536, rxBuf := [] }) ∧
      (sound → fieldBe d 4 1 = 1 → seq = p.rxNext → bit (fieldBe d 5 1) 0 = true → body.headD 0 = 1 → 456 < fieldBe body 0x10 2 →
        ∃ u, exec (.flitReceive k d) s = .next u ∧ u = { v with board := u.board } ∧
          getPort u k = { getPort v k with naked := false, fails := 0, rxNext := (p.rxNext + 1) % 65536, rxBuf := body } ∧ u.board.delivered = s.board.delivered) ∧
      (sound → fieldBe d 4 1 = 1 → seq = p.rxNext → bit (fieldBe d 5 1) 0 = true → let n := 40 + fieldBe body 0x10 2
        n ≤ 496 → fieldBe body 0 1 = 1 → 1 ≤ fieldBe body 1 1 → fieldBe body 1 1 ≤ 7 → (bit (fieldBe body 2 1) 6 = false ∨ fieldBe body 0xC 4 = s.board.slotId) →
        let tag := fieldBe body 4 4
        let loose := fieldBe body 1 1 = typeStock ∨ fieldBe body 1 1 = typeTime
        let stray := jobOfTag s tag = none ∧ (tag ≠ 0 ∨ fieldBe body 1 1 ≤ typeRecord)
        let w := modPort v k (fun p => { p with naked := false, fails := 0, rxNext := (p.rxNext + 1) % 65536, rxBuf := body.drop n })
        (body.drop n).headD 0 = 0 →
        (¬ loose → stray → exec (.flitReceive k d) s = .next (modPort (noJobFrame w k (fieldBe body 8 4) tag) k (fun p => { p with rxBuf := [] }))) ∧
        (¬ loose → ¬ stray → tagResetting s tag = true →
          exec (.flitReceive k d) s = .next (modPort (refuseFrame w (fieldBe body 8 4) tag (fieldBe body 1 1)) k (fun p => { p with rxBuf := [] }))) ∧
        (loose ∨ (¬ stray ∧ tagResetting s tag = false) → ∃ u, exec (.flitReceive k d) s = .next u ∧ u = { v with board := u.board } ∧ u.board.delivered = s.board.delivered ++ [(k, body.take n)] ∧
          getPort u k = { getPort v k with naked := false, fails := 0, rxNext := (p.rxNext + 1) % 65536, rxBuf := [] })))) ∧
  (∀ (s : State) (k fack : Nat), let v := ackFlits s k fack
    v = { s with board := v.board, out := v.out } ∧
      getPort v k = { getPort s k with replay := (getPort s k).replay.filter (fun f => decide (32768 ≤ (fack + 65536 - f.1) % 65536)) } ∧
      ∀ n, n ≠ k → getPort v n = getPort s n) ∧
  (∀ (s : State) (k fseq fack : Nat), ((getPort s k).retrain = true → exec (.flitNakReceive k fseq fack) s = .next s) ∧
    (carries (getPort s k) = true → (getPort s k).retrain = false →
      let v := ackFlits s k fack
      let again := ((getPort v k).replay.take 4096).dropWhile (fun f => f.1 != fseq)
      ∃ u, exec (.flitNakReceive k fseq fack) s = .next u ∧ u = { v with board := u.board, out := v.out ++ again.map (fun f => ⟨.flit, k, [f.1], f.2⟩) } ∧
        getPort u k = { getPort v k with cnt := { (getPort v k).cnt with retries := min ((getPort v k).cnt.retries + again.length) 0xFFFFFFFF } })) ∧
  (∀ (s : State) (k : Nat), let p := getPort s k
    (∀ ok, p.retrain = false → exec (.boardPortRetrain k ok) s = .next s) ∧
    (carries p = true → p.retrain = true →
      (p.trainFails < 2 → ∃ u, exec (.boardPortRetrain k false) s = .next u ∧ u = { s with board := u.board } ∧ getPort u k = { p with trainFails := p.trainFails + 1 }) ∧
      (2 ≤ p.trainFails → exec (.boardPortRetrain k false) s = .next (portDown s k)) ∧
      (p.marked = [] → ∃ u, exec (.boardPortRetrain k true) s = .next u ∧
        u = { s with board := u.board, out := s.out ++ (p.replay.take 4096).map (fun f => ⟨.flit, k, [f.1], f.2⟩) } ∧
        getPort u k = { p with retrain := false, trainFails := 0, fails := 0, naked := false }) ∧
      (∀ l x rest, p.marked = [l] → p.spare = x :: rest → s.self.link ≠ some k → ∃ u, exec (.boardPortRetrain k true) s = .next u ∧
        u = { s with board := u.board, out := u.out, boot := u.boot, host := u.host } ∧ getPort u k = { p with retrain := false, trainFails := 0, fails := 0, naked := false, lanes := p.lanes.map (fun y => if y = l then x else y), spare := rest, marked := [], overs := Tab.del p.overs l }))) ∧
  (∀ (s : State) (k : Nat) (errs : List Nat), carries (getPort s k) = true → (getPort s k).lanes.Nodup →
    let p := getPort s k
    let above := fun (l : Nat) => belowLimit s.boot.qual.2 36 (errs.getD l 0) = false
    ∃ u, exec (.laneBerWindow k errs) s = .next u ∧ u = { s with board := u.board } ∧ (getPort u k).cnt = { p.cnt with worst := (p.lanes.map (fun l => errs.getD l 0)).foldl max 0 } ∧
      (∀ l ∈ p.lanes, (¬ above l → Tab.get 0 (getPort u k).overs l = 0) ∧ (above l → Tab.get 0 (getPort u k).overs l = Tab.get 0 p.overs l + 1)) ∧
      (∀ l, l ∈ (getPort u k).marked ↔ l ∈ p.marked ∨ (l ∈ p.lanes ∧ above l ∧ 1 ≤ Tab.get 0 p.overs l))) ∧
  (∀ (s : State) (k l : Nat), carries (getPort s k) = true → let p := getPort s k
    ∃ u, exec (.laneSignalLoss k l) s = .next u ∧ u = { s with board := u.board } ∧
      getPort u k = (if l ∈ p.lanes ∧ l ∉ p.marked then { p with marked := p.marked ++ [l], retrain := true } else p)) ∧
  (∀ (s : State) (k : Nat), let p := getPort s k
    let good := (List.range 18).filter (fun l => !unusable s (unitKey 4 (laneUnit k l)))
    (7 ≤ k ∨ (p.st ≠ .down ∧ p.st ≠ .absent) ∨ good.length < 4 → exec (.boardPortReturnsToUp k) s = .next s) ∧
    (k < 7 → (p.st = .down ∨ p.st = .absent) → 4 ≤ good.length → let n := laneCount good.length
      ∃ u, exec (.boardPortReturnsToUp k) s = .next u ∧ u = { s with board := u.board, host := u.host } ∧ (16 ≤ good.length → u.host = s.host) ∧
        getPort u k = { BPort.reset with st := if 16 ≤ good.length then .up else .degraded, lanes := good.take n, spare := good.drop n, cnt := p.cnt })) ∧
  (∀ (s : State) (peer ch tag base map : Nat), ((∀ f ∈ s.board.flows, sameFlow peer ch tag f = false) → exec (.siteFrameAckReceive peer ch tag base map) s = .next s) ∧
    (∀ f, s.board.flows.find? (sameFlow peer ch tag) = some f → (∀ h ∈ f.unacked, h.sent ≠ notSent) → ∃ u, exec (.siteFrameAckReceive peer ch tag base map) s = .next u ∧
      u = { s with board := u.board } ∧ getFlow u peer ch tag = { f with unacked := f.unacked.filter (fun h => !ackCovers base map h.seq), down := false, downSince := none })) ∧
  (∀ (s : State) (peer ch tag seq : Nat), let f := getFlow s peer ch tag
    ((∀ h ∈ f.unacked, h.seq ≠ seq ∨ h.sent = notSent) → exec (.siteFrameRetxTimer peer ch tag seq) s = .next s) ∧
    (∀ h, f.unacked = [h] → h.seq = seq → h.sent ≠ notSent → s.board.flows.find? (sameFlow peer ch tag) = some f →
      (f.down = true ∨ now s < h.sent + 200000 → exec (.siteFrameRetxTimer peer ch tag seq) s = .next s) ∧
      (f.down = false → h.sent + 200000 ≤ now s → 8 ≤ h.tries → ∃ v, v = { s with board := v.board } ∧ getFlow v peer ch tag = { f with down := true, downSince := some (now s) } ∧
        exec (.siteFrameRetxTimer peer ch tag seq) s = .next (raisePf v 0x03D6 (siteSource s f.port) [(1, f.port), (4, peer)])) ∧
      (f.down = false → h.sent + 200000 ≤ now s → h.tries < 8 →
        (∀ w, putFrame s f { h with port := f.port } = (w, false) → exec (.siteFrameRetxTimer peer ch tag seq) s = .next w) ∧
        (∀ w, putFrame s f { h with port := f.port } = (w, true) → getFlow w peer ch tag = f → ∃ u, exec (.siteFrameRetxTimer peer ch tag seq) s = .next u ∧
          u = { w with board := u.board } ∧ getFlow u peer ch tag = { f with unacked := [{ h with sent := now w, tries := h.tries + 1, port := f.port }] })))) ∧
  (∀ (s : State) (peer ch tag : Nat) (seqs : List Nat), let f := getFlow s peer ch tag
    let got := fun q => q ∈ f.rxHeld ∨ q ∈ seqs
    ∃ v g, v = { s with board := v.board } ∧ getFlow v peer ch tag = g ∧ f.rxBase ≤ g.rxBase ∧ ¬ got g.rxBase ∧ (∀ q, f.rxBase ≤ q → q < g.rxBase → got q) ∧
      (∀ q, q ∈ g.rxHeld ↔ got q ∧ g.rxBase < q ∧ q ≤ g.rxBase + 64) ∧ g.unacked = f.unacked ∧
      (flowPort s ((jobOfTag s tag).getD 0 / 2) peer ch = none → exec (.siteAckTimer peer ch tag seqs) s = .next v) ∧
      (∀ port, flowPort s ((jobOfTag s tag).getD 0 / 2) peer ch = some port → exec (.siteAckTimer peer ch tag seqs) s =
        .next (putFrame (emit v .frameAck peer [ch, tag, port] (ackBody g)) { g with port := port } ⟨0, typeAck, ackBody g, now s, 0, port⟩).1)) ∧
  (∀ (s : State) (peer ch tag : Nat), let f := getFlow s peer ch tag
    let part := (jobOfTag s tag).getD 0 / 2
    (flowPort s part peer ch = none ∨ f.port ∈ pathSet s part ∨ f.unacked = [] → exec (.flowMoveRetxTimer peer ch tag) s = .next s) ∧
    (∀ port, flowPort s part peer ch = some port → f.port ∉ pathSet s part → portAt s f.port = none → f.unacked ≠ [] → (∀ h ∈ f.unacked, h.sent = notSent) →
      ∃ u, exec (.flowMoveRetxTimer peer ch tag) s = .next u ∧ u = { s with board := u.board } ∧ getFlow u peer ch tag = { f with port := port })) ∧
  (∀ (s : State) (n : Nat) (up : Bool), let p := getSite s n
    (p.fitted = false ∨ 8 < n ∨ (p.st = .up ↔ up = true) → exec (.sitePortLinkChange n up) s = .next s) ∧
    (p.fitted = true → n ≤ 8 → (p.st = .up ↔ up = false) → (up = true → s.board.flows = []) → ∃ u, exec (.sitePortLinkChange n up) s = .next u ∧
      u = { s with board := u.board, host := u.host } ∧
      getSite u n = { p with st := if up = true then .up else .down, trained := p.trained || up, downSince := if up = true then none else some (now s) })) ∧
  (∀ (s : State) (n : Nat), let p := getSite s n
    let x := getSite s 8
    (p.serves = none ∨ p.downSince = none ∨ n = 8 ∨ p.st ≠ .down ∨ x.trained = false ∨ x.st ≠ .up ∨ x.serves ≠ none → exec (.sitePortSpared n) s = .next s) ∧
    (∀ pos t, p.serves = some pos → p.downSince = some t → (now s < t + 10000000000 → exec (.sitePortSpared n) s = .next s) ∧
      (n ≠ 8 → p.st = .down → t + 10000000000 ≤ now s → x.trained = true → x.st = .up → x.serves = none → s.board.flows = [] → s.self.link ≠ some 15 →
        ∃ u, exec (.sitePortSpared n) s = .next u ∧ u = { s with board := u.board, boot := u.boot, host := u.host } ∧ getSite u n = { p with serves := none } ∧
          getSite u 8 = { x with serves := some pos }))) ∧
  (∀ (s : State) (p site : Nat) (us : List Nat), let need := us.length = 10 ∧ ∀ u ∈ us, 90 < u
    let spare := us.length = 60 ∧ (∀ u ∈ us, u < 30) ∧ 2 ≤ (pathSet s p).length
    (¬ need → exec (.pathNeed p us site) s = .next s) ∧ (¬ spare → exec (.pathSurplus p us) s = .next s) ∧
    (need → exec (.pathNeed p us site) s = .next (raisePart s (some p) 0x03D7 (sourceId s srcMp) [(1, p), (1, (pathSet s p).length), (1, us.sum / 10), (1, site)])) ∧
    (spare → exec (.pathSurplus p us) s = .next (raisePart s (some p) 0x03D8 (sourceId s srcMp) [(1, p), (1, (pathSet s p).length)]))) ∧
  (∀ (s : State) (n addr : Nat) (v6 : Bool), let e := (getSite s n).entry
    let own := e ≠ [] ∧ (if v6 = true then addr = fieldBe e 0x14 16 else bit (fieldLe e 1 1) 1 = true ∧ addr = fieldBe e 0x24 4)
    let up := (getSite s n).st = .up ∨ (getSite s n).st = .degraded
    (up ∧ own → exec (.arpNsRequestReceive n addr v6) s = .next { s with out := s.out ++ [⟨.arpReply, n, [b2n v6, addr, fieldBe e 6 6], []⟩] }) ∧
    (¬ (up ∧ own) → exec (.arpNsRequestReceive n addr v6) s = .next s)) ∧
  (∀ (s : State) (n : Nat), ∃ u, exec (.pauseFrameReceive n) s = .next u ∧ u = { s with board := u.board } ∧
    getSite u n = { getSite s n with cnt := { (getSite s n).cnt with pauses := min ((getSite s n).cnt.pauses + 1) 0xFFFFFFFF } } ∧ ∀ m, m ≠ n → getSite u m = getSite s m)

/-- Self-test in service and spares of wires and engines (R526, R529, R537, R540 to R554). -/
def Obligations.SelfTestInService : Prop :=
  (∀ (s : State) (peer : Bool), (s.self.nextTick = none → exec (.selftestTick peer) s = .next s) ∧
    (∀ t, s.self.nextTick = some t → (now s < t → exec (.selftestTick peer) s = .next s) ∧
      (t ≤ now s → let next := some (t + s.self.interval * 1000000)
        (bit s.self.flags 0 = false → exec (.selftestTick peer) s = .next { s with self := { s.self with nextTick := next } }) ∧
        (∀ pb, s.self.flags = 3 → s.self.slice = none → s.self.line = none → s.self.reqs = [] → nextUnit s 0 = some pb →
          let w := { s.self.bench with next := pb + 1 }
          (lbOfPb s pb = none → exec (.selftestTick peer) s = .next { s with self := { s.self with nextTick := next, bench := w, slice := some (pb, none), parts := 3 } }) ∧
          (lbOfPb s pb ≠ none → exec (.selftestTick peer) s = .next { s with self := { s.self with nextTick := next, bench := w, line := some (pb, now s, true), parts := 3 } })) ∧
        (∀ c pos x, s.self.flags = 9 → s.cipher.testing = none → s.boot.cipherSkip = false → s.cipher.testDue = [] → nextUnit s 1 = some c →
          s.cipher.place.find? (fun e => e.2 == c) = some (pos, c) → s.cipher.spare = some x → ∃ u, exec (.selftestTick peer) s = .next u ∧
            u = { s with self := { s.self with nextTick := next, cipher := { s.self.cipher with next := c + 1 } }, cipher := u.cipher, host := u.host } ∧
            u.cipher = { s.cipher with place := Tab.set s.cipher.place pos x, spare := none, testing := some (c, pos), cleared := insertNat s.cipher.cleared c }) ∧
        (∀ i, s.self.flags = 17 → s.self.link = none → nextUnit s 2 = some i → let v := { s with self := { s.self with nextTick := next, links := { s.self.links with next := i + 1 } } }
          (7 ≤ i ∨ peer = true → exec (.selftestTick peer) s = .next { v with self := { v.self with link := some i } }) ∧
          (i < 7 → peer = false → exec (.selftestTick peer) s = .next (closeSweep (countSkipped v 2) 2)))))) ∧
  (∀ (s : State) (k : Nat), ((getSweep s k).next = 0 ∨ nextUnit s k ≠ none → closeSweep s k = s) ∧
    ((getSweep s 1).next ≠ 0 → nextUnit s 1 = none → let w := s.self.cipher
      closeSweep s 1 = { raisePf s 0x0442 (sourceId s srcMp) [(1, 6), (4, w.sweep), (2, w.tested), (2, w.failed), (2, w.skipped), (2, w.abandoned)] with
        self := { s.self with cipher := ⟨(w.sweep + 1) % 2 ^ 32, 0, 0, 0, 0, 0⟩ } })) ∧
  (∀ (s : State) (b : Bool), (s.self.line = none → exec (.benchWithdraw b) s = .next s) ∧
    (∀ pb t w, s.self.line = some (pb, t, w) → (lbOfPb s pb = none → exec (.benchWithdraw b) s = .next s) ∧
      (∀ lb, lbOfPb s pb = some lb → (s.self.slice ≠ none ∨ mayWithdraw s lb b = false ∨ t + s.self.interval * 1000000 < now s → exec (.benchWithdraw b) s = .next s) ∧
        (s.self.slice = none → mayWithdraw s lb b = true → now s ≤ t + s.self.interval * 1000000 → ∃ v,
          v = { s with benches := v.benches, self := { s.self with line := none, slice := some (pb, some lb), saved := insertNat s.self.saved lb } } ∧
          getBench v lb = { getBench s lb with withdrawn := true } ∧ (∀ n, n ≠ lb → getBench v n = getBench s n) ∧
          exec (.benchWithdraw b) s = .next (goOnPart (moveQueue (moveQueue (redealGranted v lb id) lb 0) lb 1) (partOfLb s lb)))))) ∧
  (∀ (s : State) (o seg : Nat) (rows : List (Nat × Nat)), (s.self.slice = none → exec (.benchSliceDone o seg rows) s = .next s) ∧
    (∀ pb lb, s.self.slice = some (pb, lb) → let v := { s with self := { s.self with slice := none } }
      ((bit s.self.parts 1 = false ∨ o = 0) → rows = [] → (lb = none → exec (.benchSliceDone o seg rows) s = .next (closeSweep (countTested v 0 false) 0)) ∧
        (∀ l, lb = some l → ∃ w, w = { v with benches := w.benches, self := { v.self with saved := v.self.saved.filter (· != l) } } ∧
          getBench w l = { getBench s l with withdrawn := false } ∧ exec (.benchSliceDone o seg rows) s = .next (closeSweep (countTested (goOnPart w (partOfLb s l)) 0 false) 0))) ∧
      (bit s.self.parts 1 = true → 2 ≤ o → exec (.benchSliceDone o seg rows) s = .next (closeSweep (countTested (failSliced v pb lb 5 seg) 0 true) 0)))) ∧
  (∀ (s : State) (o seg : Nat), (s.cipher.testing = none → exec (.cipherSliceDone o seg) s = .next s) ∧
    (∀ c p, s.cipher.testing = some (c, p) → ∃ w, w = { s with cipher := w.cipher } ∧ w.cipher.testing = none ∧
      (12 ≤ p → w.cipher = { s.cipher with testing := none }) ∧
      (p < 12 → w.cipher = { s.cipher with testing := none, place := Tab.set s.cipher.place p c, spare := match Tab.find s.cipher.place p with | some y => some y | none => s.cipher.spare }) ∧
      (o = 0 → exec (.cipherSliceDone o seg) s = .next (closeSweep (countTested w 1 false) 1)) ∧
      (o = 1 → exec (.cipherSliceDone o seg) s = .next (closeSweep (countTested (raiseTest w none 0x0441 6 c (if p < 12 then some p else none) seg) 1 false) 1)) ∧
      (2 ≤ o → exec (.cipherSliceDone o seg) s = .next (closeSweep (countTested (dropCore (raiseTest w none 0x0440 6 c (if p < 12 then some p else none) seg) c) 1 true) 1)))) ∧
  (∀ (s : State) (fails : List Nat), (s.self.link = none → exec (.linkSliceDone fails) s = .next s) ∧
    (∀ i, s.self.link = some i → let v := { s with self := { s.self with link := none } }
      (fails = [] → exec (.linkSliceDone fails) s = .next (closeSweep (countTested v 2 false) 2)) ∧
      (∀ f, fails = [f] → i < 7 → f ∈ (getPort s i).spare → ∃ w, exec (.linkSliceDone fails) s = .next (closeSweep (countTested w 2 true) 2) ∧
        w = { v with board := w.board, boot := w.boot, host := w.host } ∧ getPort w i = { getPort s i with spare := (getPort s i).spare.filter (· != f) }))) ∧
  (∀ (s : State) (u e0 e1 : Nat), let below := belowLimit s.boot.qual.2 36 e0 = true ∨ belowLimit s.boot.qual.2 36 e1 = true
    let free := (spareWires s (u / 2048)).find? (fun x => x / 1024 == u / 1024)
    (below ∨ wireServes s u = none ∨ free = none → exec (.wireSpared u e0 e1) s = .next s) ∧
    (∀ l x, ¬ below → wireServes s u = some l → free = some x → s.self.link ≠ some (7 + u / 2048) → ∃ t, exec (.wireSpared u e0 e1) s = .next t ∧
      t = { s with boot := t.boot, host := t.host } ∧ t.boot.wires = Tab.set s.boot.wires l x)) ∧
  (∀ (s : State) (pos : Nat), (Tab.find s.boot.engines pos = none ∨ freeEngines s = [] → exec (.engineSpared pos) s = .next s) ∧
    (∀ e x rest, Tab.find s.boot.engines pos = some e → freeEngines s = x :: rest → ∃ t, exec (.engineSpared pos) s = .next t ∧
      t = { s with boot := t.boot, host := t.host } ∧ t.boot.engines = Tab.set s.boot.engines pos x)) ∧
  (∀ s : State, let d := now s - s.self.counted
    let off := bit s.self.flags 0 = false ∨ (bit s.self.flags 1 = false ∧ bit s.self.flags 2 = false)
    (s.boot.ready = false ∨ ¬ off ∨ d < 1280000000000 → exec .correctedCountRestart s = .next s) ∧
    (s.boot.ready = true → off → 1280000000000 ≤ d → ∃ u, exec .correctedCountRestart s = .next u ∧ u = { s with self := u.self, benches := u.benches } ∧
      u.self = { s.self with counted := s.self.counted + d / 1280000000000 * 1280000000000 } ∧ ∀ n, getBench u n = { getBench s n with rowErrs := [] }))

/-- Canonical memories are an invariant of every step; the form is the model's own (log 142). -/
def Obligations.StepKeepsMemory : Prop :=
  ∀ s t : State, MemCanon s → step s = .next t → MemCanon t

/-- The invariant at reset (log 142). -/
def Obligations.MemoryAtReset : Prop :=
  MemCanon State.reset ∧ State.reset.mem.bytes = [] ∧ State.reset.host.hostMem = [] ∧ State.reset.fw.stage = [] ∧ State.reset.fw.slots = []
end

