-- ==== Sys2Proof/Laws/Mem.lean ====
section
/-! SUPPORT. Byte memories: what a read gives after a write, every operation keeps the canonical form, and what a store to the
module's memory leaves alone. -/

namespace Sys2Proof.Machine

theorem padTo_length {α : Type} (d : α) (n : Nat) (l : List α) : (padTo d n l).length = n := by
  simp only [padTo, List.length_append, List.length_take, List.length_replicate]
  omega

/-! ## One byte -/

/-- A write leaves every other byte as it was. -/
theorem Mem.get_set_ne (m : Mem) (a x : Nat) (v : Byte) (h : x ≠ a) : Mem.get (Mem.set m a v) x = Mem.get m x := by
  induction m with
  | nil => by_cases hv : v = 0#8 <;> simp [Mem.set, Mem.get, hv, Ne.symm h]
  | cons c r ih =>
    obtain ⟨k, w⟩ := c
    by_cases h1 : a < k
    · by_cases hv : v = 0#8 <;> simp [Mem.set, Mem.get, h1, hv, Ne.symm h]
    · by_cases h2 : a = k
      · subst h2; by_cases hv : v = 0#8 <;> simp [Mem.set, Mem.get, hv, Ne.symm h]
      · simp [Mem.set, Mem.get, h1, h2, ih]

/-- Below its least address a memory reads 0. -/
theorem Mem.get_below (m : Mem) : ∀ lo x, Mem.wfFrom lo m = true → x < lo → Mem.get m x = 0 := by
  induction m with
  | nil => intros; rfl
  | cons c r ih =>
    intro lo x h hx
    simp only [Mem.wfFrom, Bool.and_eq_true, decide_eq_true_eq] at h
    have hne : ¬ c.1 = x := by omega
    simpa [Mem.get, hne] using ih (c.1 + 1) x h.2 (by omega)

/-- The byte written is read back. -/
theorem Mem.get_set_same (m : Mem) (a : Nat) (v : Byte) : ∀ lo, Mem.wfFrom lo m = true → Mem.get (Mem.set m a v) a = v := by
  induction m with
  | nil => intro lo _; by_cases hv : v = 0#8 <;> simp [Mem.set, Mem.get, hv]
  | cons c r ih =>
    intro lo h
    obtain ⟨k, w⟩ := c
    simp only [Mem.wfFrom, Bool.and_eq_true, decide_eq_true_eq] at h
    have below := fun y (hy : y < k + 1) => Mem.get_below r (k + 1) y h.2 hy
    by_cases h1 : a < k
    · by_cases hv : v = 0#8
      · simp [Mem.set, Mem.get, h1, hv, show ¬ k = a by omega, below a (by omega)]
      · simp [Mem.set, Mem.get, h1, hv]
    · by_cases h2 : a = k
      · subst h2; by_cases hv : v = 0#8
        · simp [Mem.set, hv, below a (by omega)]
        · simp [Mem.set, Mem.get, hv]
      · simp [Mem.set, Mem.get, h1, h2, Ne.symm h2, ih (k + 1) h.2]

theorem Mem.wfFrom_mono (m : Mem) (lo lo' : Nat) (h : Mem.wfFrom lo m = true) (hl : lo' ≤ lo) : Mem.wfFrom lo' m = true := by
  cases m with
  | nil => rfl
  | cons c r =>
    simp only [Mem.wfFrom, Bool.and_eq_true, decide_eq_true_eq] at h ⊢
    exact ⟨⟨by omega, h.1.2⟩, h.2⟩

theorem Mem.wfFrom_set (m : Mem) (a : Nat) (v : Byte) : ∀ lo, Mem.wfFrom lo m = true → lo ≤ a → Mem.wfFrom lo (Mem.set m a v) = true := by
  induction m with
  | nil => intro lo _ hl; by_cases hv : v = 0#8 <;> simp [Mem.set, Mem.wfFrom, hv, hl]
  | cons c r ih =>
    intro lo h hl
    obtain ⟨k, w⟩ := c
    have h' := h
    simp only [Mem.wfFrom, Bool.and_eq_true, decide_eq_true_eq, BitVec.ofNat_eq_ofNat, ne_eq] at h'
    by_cases h1 : a < k
    · by_cases hv : v = 0#8
      · simpa [Mem.set, h1, hv] using h
      · simp [Mem.set, h1, hv, Mem.wfFrom, hl, h'.1.2, h'.2, show a + 1 ≤ k by omega]
    · by_cases h2 : a = k
      · subst h2; by_cases hv : v = 0#8
        · simpa [Mem.set, hv] using Mem.wfFrom_mono r (a + 1) lo h'.2 (by omega)
        · simp [Mem.set, hv, Mem.wfFrom, hl, h'.2]
      · simp [Mem.set, h1, h2, Mem.wfFrom, h'.1.1, h'.1.2, ih (k + 1) h'.2 (by omega)]

/-- A write keeps the canonical form. -/
theorem Mem.wf_set (m : Mem) (a : Nat) (v : Byte) (h : Mem.wf m = true) : Mem.wf (Mem.set m a v) = true :=
  Mem.wfFrom_set m a v 0 h (Nat.zero_le a)

/-! ## Runs of bytes -/

theorem Mem.wf_write (d : List Byte) : ∀ (m : Mem) (a : Nat), Mem.wf m = true → Mem.wf (Mem.write m a d) = true := by
  induction d with
  | nil => intro m a h; exact h
  | cons b r ih => intro m a h; exact ih _ _ (Mem.wf_set m a b h)

theorem Mem.wf_put (cs : Mem) : ∀ m : Mem, Mem.wf m = true → Mem.wf (Mem.put m cs) = true := by
  induction cs with
  | nil => intro m h; exact h
  | cons c r ih => intro m h; exact ih _ (Mem.wf_set m c.1 c.2 h)

theorem Mem.wfFrom_filter (p : Host.Cell → Bool) (m : Mem) : ∀ lo, Mem.wfFrom lo m = true → Mem.wfFrom lo (m.filter p) = true := by
  induction m with
  | nil => intro lo h; exact h
  | cons c r ih =>
    intro lo h
    simp only [Mem.wfFrom, Bool.and_eq_true, decide_eq_true_eq, BitVec.ofNat_eq_ofNat, ne_eq] at h
    by_cases hp : p c = true
    · simp [hp, Mem.wfFrom, h.1.1, h.1.2, ih _ h.2]
    · simpa [hp] using Mem.wfFrom_mono _ (c.1 + 1) lo (ih _ h.2) (by omega)

theorem Mem.wf_clear (m : Mem) (p : Nat → Bool) (h : Mem.wf m = true) : Mem.wf (Mem.clear m p) = true :=
  Mem.wfFrom_filter _ m 0 h

theorem Mem.wf_move (m : Mem) (a n b : Nat) (h : Mem.wf m = true) : Mem.wf (Mem.move m a n b) = true :=
  Mem.wf_put _ _ (Mem.wf_clear _ _ h)

/-- Bytes moved as a whole keep their order. -/
theorem Mem.wf_slice (m : Mem) (a n b : Nat) (h : Mem.wf m = true) : Mem.wf (Mem.slice m a n b) = true := by
  have go : ∀ (l : Mem) (lo : Nat), Mem.wfFrom lo l = true → (∀ c ∈ l, a ≤ c.1) → Mem.wfFrom (lo - a + b) (l.map (fun c => (c.1 - a + b, c.2))) = true := by
    intro l
    induction l with
    | nil => intro lo _ _; rfl
    | cons c r ih =>
      intro lo hl ha
      simp only [Mem.wfFrom, Bool.and_eq_true, decide_eq_true_eq] at hl
      have h0 := ha c (List.mem_cons_self ..)
      have h1 := ih (c.1 + 1) hl.2 (fun d hd => ha d (List.mem_cons_of_mem c hd))
      have e : c.1 + 1 - a + b = c.1 - a + b + 1 := by omega
      rw [e] at h1
      simp only [List.map_cons, Mem.wfFrom, Bool.and_eq_true, decide_eq_true_eq]
      exact ⟨⟨by omega, hl.1.2⟩, h1⟩
  refine Mem.wfFrom_mono _ _ 0 (go _ 0 (Mem.wfFrom_filter _ m 0 h) ?_) (Nat.zero_le _)
  intro c hc
  have := (List.mem_filter.mp hc).2
  simp only [Bool.and_eq_true, decide_eq_true_eq] at this
  exact this.1

/-- A run of bytes leaves every byte outside it as it was. -/
theorem Mem.get_write_ne (d : List Byte) : ∀ (m : Mem) (a x : Nat), ¬ (a ≤ x ∧ x < a + d.length) → Mem.get (Mem.write m a d) x = Mem.get m x := by
  induction d with
  | nil => intro m a x _; rfl
  | cons b r ih =>
    intro m a x h
    simp only [List.length_cons] at h
    rw [Mem.write, ih _ _ _ (by omega), Mem.get_set_ne _ _ _ _ (by omega)]

/-- Byte k of a run is read back. -/
theorem Mem.get_write (d : List Byte) : ∀ (m : Mem) (a k : Nat), Mem.wf m = true → k < d.length → Mem.get (Mem.write m a d) (a + k) = d.getD k 0 := by
  induction d with
  | nil => intro m a k _ h; simp at h
  | cons b r ih =>
    intro m a k hw h
    cases k with
    | zero => rw [Mem.write, Nat.add_zero, Mem.get_write_ne _ _ _ _ (by omega)]; exact Mem.get_set_same m a b 0 hw
    | succ n =>
      have := ih (Mem.set m a b) (a + 1) n (Mem.wf_set m a b hw) (by simpa using h)
      rw [Mem.write, show a + (n + 1) = a + 1 + n by omega]; simpa using this

/-- What reset lists: nothing, so every memory of the machine is in canonical form. -/
theorem Mem.wf_reset : Mem.wf State.reset.mem.bytes = true ∧ Mem.wf State.reset.host.hostMem = true := by decide

/-! ## Stores of cells (R81, R248, R257, R264) -/

theorem foldl_set_ne (cs : List WCell) : ∀ (m : Mem) (x : Nat), (∀ c ∈ cs, c.1 ≠ x) → Mem.get (cs.foldl (fun m c => Mem.set m c.1 c.2.1) m) x = Mem.get m x := by
  induction cs with
  | nil => intro m x _; rfl
  | cons c r ih =>
    intro m x h
    rw [List.foldl_cons, ih _ _ (fun d hd => h d (List.mem_cons_of_mem c hd)), Mem.get_set_ne _ _ _ _ (Ne.symm (h c (List.mem_cons_self ..)))]

theorem foldl_set_wf (cs : List WCell) : ∀ m : Mem, Mem.wf m = true → Mem.wf (cs.foldl (fun m c => Mem.set m c.1 c.2.1) m) = true := by
  induction cs with
  | nil => intro m h; exact h
  | cons c r ih => intro m h; exact ih _ (Mem.wf_set m c.1 c.2.1 h)

/-- Changing benches one after another changes nothing else. -/
theorem foldl_modBench {α : Type} (f : α → Nat) (g : α → Bench → Bench) (l : List α) :
    ∀ s : State, ∃ b, l.foldl (fun s r => modBench s (f r) (g r)) s = { s with benches := b } := by
  induction l with
  | nil => intro s; exact ⟨s.benches, rfl⟩
  | cons r t ih => intro s; obtain ⟨b, hb⟩ := ih (modBench s (f r) (g r)); exact ⟨b, hb⟩

/-- A store changes bytes, flags and block states of memory, and tags of scratchpads; nothing else. -/
theorem applyCells_frame (s : State) (cs : List WCell) : ∃ b p k, applyCells s cs = { s with
    mem := { s.mem with bytes := (cs.filter (fun c => !stackDown s c.1 && (isWindow c.1 || decide (c.1 < memTop)))).foldl (fun m c => Mem.set m c.1 c.2.1) s.mem.bytes, poison := p, blocks := k }, benches := b } := by
  obtain ⟨b, hb⟩ := foldl_modBench (fun r : Nat × Nat × Bool => windowLb (r.1 * 8))
    (fun r b => { b with tags := mergeFlag b.tags 8 (windowOff (r.1 * 8) / 8, r.2.1, r.2.2) })
    (groupCells 8 ((cs.filter (fun c => !stackDown s c.1 && (isWindow c.1 || decide (c.1 < memTop)))).filter (fun c => isWindow c.1)))
    { s with mem := { s.mem with bytes := (cs.filter (fun c => !stackDown s c.1 && (isWindow c.1 || decide (c.1 < memTop)))).foldl (fun m c => Mem.set m c.1 c.2.1) s.mem.bytes } }
  unfold applyCells
  simp only
  rw [hb]
  exact ⟨b, _, _, rfl⟩

/-- A store keeps the canonical form of memory. -/
theorem applyCells_wf (s : State) (cs : List WCell) (h : Mem.wf s.mem.bytes = true) : Mem.wf (applyCells s cs).mem.bytes = true := by
  obtain ⟨b, p, k, e⟩ := applyCells_frame s cs
  rw [e]; exact foldl_set_wf _ _ h

/-- A store leaves every byte it does not name as it was. -/
theorem applyCells_get_ne (s : State) (cs : List WCell) (x : Nat) (h : ∀ c ∈ cs, c.1 ≠ x) : Mem.get (applyCells s cs).mem.bytes x = Mem.get s.mem.bytes x := by
  obtain ⟨b, p, k, e⟩ := applyCells_frame s cs
  rw [e]; exact foldl_set_ne _ _ _ (fun c hc => h c ((List.mem_filter.mp hc).1))

theorem foldl_del_nil (l : List (Nat × Nat × Bool)) :
    l.foldl (fun (t : Tab BlockState) r => if r.2.1 = 2048 then Tab.del t r.1 else t) [] = [] := by
  induction l with
  | nil => rfl
  | cons r t ih =>
    have e : Tab.del ([] : Tab BlockState) r.1 = [] := rfl
    rw [List.foldl_cons, e, ite_self]
    exact ih

/-- Where no block is coded or raw, a store makes none. -/
theorem applyCells_blocks (s : State) (cs : List WCell) (h : s.mem.blocks = []) : (applyCells s cs).mem.blocks = [] := by
  obtain ⟨b, hb⟩ := foldl_modBench (fun r : Nat × Nat × Bool => windowLb (r.1 * 8))
    (fun r b => { b with tags := mergeFlag b.tags 8 (windowOff (r.1 * 8) / 8, r.2.1, r.2.2) })
    (groupCells 8 ((cs.filter (fun c => !stackDown s c.1 && (isWindow c.1 || decide (c.1 < memTop)))).filter (fun c => isWindow c.1)))
    { s with mem := { s.mem with bytes := (cs.filter (fun c => !stackDown s c.1 && (isWindow c.1 || decide (c.1 < memTop)))).foldl (fun m c => Mem.set m c.1 c.2.1) s.mem.bytes } }
  unfold applyCells
  simp only
  rw [hb]
  simp only [h, foldl_del_nil]

/-- In a memory without coded blocks a store leaves the reading of every byte it does not name. -/
theorem rdByte_applyCells_ne (s : State) (cs : List WCell) (x : Nat) (hb : s.mem.blocks = []) (h : ∀ c ∈ cs, c.1 ≠ x) :
    (rdByte (applyCells s cs) x).1 = (rdByte s x).1 := by
  have g := applyCells_get_ne s cs x h
  have k := applyCells_blocks s cs hb
  obtain ⟨b, p, q, e⟩ := applyCells_frame s cs
  have d : stackDown (applyCells s cs) x = stackDown s x := by rw [e]; rfl
  unfold rdByte
  rw [d]
  by_cases hw : isWindow x = true
  · simp [hw, g]
  · by_cases hd : stackDown s x = true
    · simp [hw, hd]
    · simp [hw, hd, blockState, Tab.get, Tab.find, k, hb, g]

theorem rdLe_applyCells_ne (s : State) (cs : List WCell) (a n : Nat) (hb : s.mem.blocks = []) (h : ∀ c ∈ cs, ¬ (a ≤ c.1 ∧ c.1 < a + n)) :
    rdLe (applyCells s cs) a n = rdLe s a n := by
  unfold rdLe rdData rdBytes
  rw [List.map_map, List.map_map]
  congr 1
  apply List.map_congr_left
  intro k hk
  have := List.mem_range.mp hk
  exact rdByte_applyCells_ne s cs (a + k) hb (fun c hc e => h c hc (by omega))

/-- Bytes stored elsewhere, as a run: every other byte is as it was. -/
theorem wrBytes_get_ne (s : State) (a x : Nat) (d : List Byte) (t : Bool) (h : ¬ (a ≤ x ∧ x < a + d.length)) :
    Mem.get (wrBytes s a d t).mem.bytes x = Mem.get s.mem.bytes x := by
  refine applyCells_get_ne s _ x ?_
  intro c hc
  simp only [cellsOf, List.mem_map] at hc
  obtain ⟨⟨v, i⟩, hi, rfl⟩ := hc
  have := (List.mem_zipIdx hi).2.1
  simp only at this ⊢
  omega

end Sys2Proof.Machine
end

