-- ==== Sys2Proof/Laws/Canon.lean ====
section
/-! SUPPORT. Canonical memories: how an operation shows that it keeps them. -/

namespace Sys2Proof.Machine

/-- An operation that may give no state keeps canonical memories. -/
structure CanonO (o : Option State) : Prop where
  ok : ∀ t, o = some t → MemCanon t

/-- A command that may stop keeps canonical memories. -/
structure CanonE (o : Host.Outcome State Fault Refusal) : Prop where
  ok : ∀ t, o = .next t → MemCanon t

/-- An operation that may give no state and a value keeps canonical memories. -/
structure CanonP {α : Type} (o : Option (State × α)) : Prop where
  ok : ∀ p, o = some p → MemCanon p.1

/-- An operation that gives a state or a value keeps canonical memories. -/
structure CanonS {α : Type} (o : State ⊕ α) : Prop where
  ok : ∀ t, o = .inl t → MemCanon t

theorem MemCanon.bytes {s : State} (h : MemCanon s) : Mem.wf s.mem.bytes = true := h.1
theorem MemCanon.hostMem {s : State} (h : MemCanon s) : Mem.wf s.host.hostMem = true := h.2.1
theorem MemCanon.stage {s : State} (h : MemCanon s) : Mem.wf s.fw.stage = true := h.2.2.1
theorem MemCanon.slots {s : State} (h : MemCanon s) : s.fw.slots.all (fun e => Mem.wf e.2) = true := h.2.2.2

theorem canon_mk {pending : List Instr} {freeCtr : Nat} {parts : Tab Part} {jobs : Tab Job} {benches : Tab Bench} {convs : Tab Conv}
    {feeds : Tab Feed} {mem : MemSt} {stock : StockSt} {host : HostSt} {time : TimeSt} {board : BoardSt} {cipher : CipherSt} {boot : BootSt}
    {fw : FwSt} {self : SelfSt} {power : PowerSt} {jtag : JtagSt} {out : List OutMsg}
    (h1 : Mem.wf mem.bytes = true)
    (h2 : Mem.wf host.hostMem = true) (h3 : Mem.wf fw.stage = true) (h4 : fw.slots.all (fun e => Mem.wf e.2) = true) :
    MemCanon (State.mk pending freeCtr parts jobs benches convs feeds mem stock host time board cipher boot fw self power jtag out) := ⟨h1, h2, h3, h4⟩

theorem canon_free {s : State} (n : Nat) (h : MemCanon s) : MemCanon { s with freeCtr := n } := h

theorem canon_ite {c : Prop} [Decidable c] {a b : State} (ha : MemCanon a) (hb : MemCanon b) : MemCanon (if c then a else b) := by
  split <;> assumption

theorem canon_else {c : Prop} [Decidable c] {a b : State} (k : MemCanon a → MemCanon b) (h : MemCanon a) : MemCanon (if c then a else b) :=
  canon_ite h (k h)

theorem canon_then {c : Prop} [Decidable c] {a b : State} (k : MemCanon a → MemCanon b) (h : MemCanon a) : MemCanon (if c then b else a) :=
  canon_ite (k h) h

theorem canon_ite_fst {α : Type} {c : Prop} [Decidable c] {a b : State × α} (ha : MemCanon a.1) (hb : MemCanon b.1) :
    MemCanon (if c then a else b).1 := by split <;> assumption

theorem canon_iteO {c : Prop} [Decidable c] {a b : Option State} (ha : CanonO a) (hb : CanonO b) : CanonO (if c then a else b) := by
  split <;> assumption

theorem canon_iteE {c : Prop} [Decidable c] {a b : Host.Outcome State Fault Refusal} (ha : CanonE a) (hb : CanonE b) :
    CanonE (if c then a else b) := by split <;> assumption

theorem canon_none : CanonO none := ⟨by intro t h; cases h⟩
theorem canon_some {s : State} (h : MemCanon s) : CanonO (some s) := ⟨by intro t e; cases e; exact h⟩
theorem canon_next {s : State} (h : MemCanon s) : CanonE (.next s) := ⟨by intro t e; cases e; exact h⟩
theorem canon_done {s : State} (h : MemCanon s) : CanonE (done s) := canon_next h
theorem canon_refused {r : Refusal} : CanonE (.refused r) := ⟨by intro t h; cases h⟩

theorem canon_fst {α : Type} {p : State × α} {s : State} {x : α} (e : p = (s, x)) (h : MemCanon p.1) : MemCanon s := by
  subst e; exact h

theorem canon_of_some {o : Option State} {s : State} (e : o = some s) (h : CanonO o) : MemCanon s := h.ok s e

theorem canon_got {s : State} (h : CanonO (some s)) : MemCanon s := h.ok s rfl

theorem canon_noneP {α : Type} : CanonP (α := α) none := ⟨by intro t h; cases h⟩
theorem canon_someP {α : Type} {p : State × α} (h : MemCanon p.1) : CanonP (some p) := ⟨by intro t e; cases e; exact h⟩
theorem canon_iteP {α : Type} {c : Prop} [Decidable c] {a b : Option (State × α)} (ha : CanonP a) (hb : CanonP b) :
    CanonP (if c then a else b) := by split <;> assumption
theorem canon_ofP {α : Type} {o : Option (State × α)} {p : State × α} (e : o = some p) (h : CanonP o) : MemCanon p.1 := h.ok p e
theorem canon_inl {α : Type} {s : State} (h : MemCanon s) : CanonS (α := α) (.inl s) := ⟨by intro t e; cases e; exact h⟩
theorem canon_inr {α : Type} {x : α} : CanonS (.inr x) := ⟨by intro t e; cases e⟩
theorem canon_iteS {α : Type} {c : Prop} [Decidable c] {a b : State ⊕ α} (ha : CanonS a) (hb : CanonS b) :
    CanonS (if c then a else b) := by split <;> assumption
theorem canon_ofS {α : Type} {o : State ⊕ α} {s : State} (e : o = .inl s) (h : CanonS o) : MemCanon s := h.ok s e

theorem canon_foldl {α : Type} {f : State → α → State} {l : List α} (hf : ∀ s x, MemCanon s → MemCanon (f s x)) {s : State}
    (h : MemCanon s) : MemCanon (l.foldl f s) := by
  induction l generalizing s with
  | nil => exact h
  | cons x r ih => exact ih (hf s x h)

theorem canon_foldl_fst {α β : Type} {f : State × β → α → State × β} {l : List α} (hf : ∀ a x, MemCanon a.1 → MemCanon (f a x).1)
    {a : State × β} (h : MemCanon a.1) : MemCanon (l.foldl f a).1 := by
  induction l generalizing a with
  | nil => exact h
  | cons x r ih => exact ih (hf a x h)

theorem canon_cut {s : State} {q : Prop} (h : MemCanon s) (k : MemCanon s → q) : q := k h
theorem canon_cut_fst {α : Type} {p : State × α} {q : Prop} (h : MemCanon p.1) (k : MemCanon p.1 → q) : q := k h

theorem canon_cutO {x : Option State} {q : Prop} (h : CanonO x) (k : CanonO x → q) : q := k h

theorem canon_map {α : Type} {o : Option α} {f : α → State} (h : ∀ a, MemCanon (f a)) : CanonO (o.map f) := by
  cases o with
  | none => exact canon_none
  | some a => exact canon_some (h a)

theorem canon_bind {α : Type} {o : Option α} {f : α → Option State} (h : ∀ a, CanonO (f a)) : CanonO (o.bind f) := by
  cases o with
  | none => exact canon_none
  | some a => exact h a

theorem canon_orElse {a b : Option State} (ha : CanonO a) (hb : CanonO b) : CanonO (a.orElse (fun _ => b)) := by
  cases a with
  | none => exact hb
  | some s => exact ha

theorem canon_getD {o : Option State} {s : State} (h : CanonO o) (hs : MemCanon s) : MemCanon (o.getD s) := by
  cases o with
  | none => exact hs
  | some a => exact h.ok a rfl

theorem canon_cut_host {x : HostSt} {q : Prop} (h : Mem.wf x.hostMem = true) (k : Mem.wf x.hostMem = true → q) : q := k h
theorem canon_cutM {x : Mem} {q : Prop} (h : Mem.wf x = true) (k : Mem.wf x = true → q) : q := k h
theorem canon_cut_mem {x : MemSt} {q : Prop} (h : Mem.wf x.bytes = true) (k : Mem.wf x.bytes = true → q) : q := k h

theorem slots_set (t : Tab Mem) (n : Nat) (m : Mem) (h : t.all (fun e => Mem.wf e.2) = true) (hm : Mem.wf m = true) :
    (Tab.set t n m).all (fun e => Mem.wf e.2) = true := by
  induction t with
  | nil => simpa [Tab.set] using hm
  | cons e r ih =>
    obtain ⟨k, w⟩ := e
    simp only [List.all_cons, Bool.and_eq_true] at h
    simp only [Tab.set]
    split
    · simp [hm, h.1, h.2]
    · split
      · simp [hm, h.2]
      · simp [h.1, ih h.2]

end Sys2Proof.Machine
end

