-- ==== Sys2Proof/Laws/CanonModule.lean ====
section
/-! SUPPORT. Canonical memories through time, rings, operands, power, keys, frames and bring-up: each operation keeps them, one lemma per operation. -/

namespace Sys2Proof.Machine

/-! ## Ops -/

theorem canon_bumpFree (s : State) (h0 : MemCanon s) : MemCanon (bumpFree s) := h0

theorem canon_modPart (s : State) (p : Nat) (f : Part → Part) (h0 : MemCanon s) : MemCanon (modPart s p f) := h0

theorem canon_modJob (s : State) (j : Nat) (f : Job → Job) (h0 : MemCanon s) : MemCanon (modJob s j f) := h0

theorem canon_modBench (s : State) (lb : Nat) (f : Bench → Bench) (h0 : MemCanon s) : MemCanon (modBench s lb f) := h0

theorem canon_modCtx (s : State) (lb c : Nat) (f : BCtx → BCtx) (h0 : MemCanon s) : MemCanon (modCtx s lb c f) := h0

theorem canon_modConv (s : State) (j k : Nat) (f : Conv → Conv) (h0 : MemCanon s) : MemCanon (modConv s j k f) := h0

theorem canon_modFeed (s : State) (n : Nat) (f : Feed → Feed) (h0 : MemCanon s) : MemCanon (modFeed s n f) := h0

theorem canon_requestTest (s : State) (lb : Nat) (h0 : MemCanon s) : MemCanon (requestTest s lb) := by
  unfold requestTest
  repeat' first
    | with_reducible assumption
    | (intro x; clear_value x)
    | lift_lets
    | (with_reducible first
        | apply canon_ite | apply MemCanon.bytes | apply MemCanon.hostMem | apply MemCanon.stage | apply MemCanon.slots | apply canon_mk)

theorem canon_modFunc (s : State) (f : Nat) (g : Func → Func) (h0 : MemCanon s) : MemCanon (modFunc s f g) := h0

theorem canon_hostWrite (s : State) (a : Nat) (d : List Byte) (h0 : MemCanon s) : MemCanon (hostWrite s a d) := by
  unfold hostWrite
  repeat' first
    | with_reducible assumption
    | (intro x; refine canon_cut_host (x := x) ?_ ?_; rotate_left; clear_value x; intro _; rotate_left; dsimp -zeta only [x]; try clear x)
    | lift_lets
    | dsimp only
    | (with_reducible first
        | apply Mem.wf_write | apply MemCanon.bytes | apply MemCanon.hostMem | apply MemCanon.stage | apply MemCanon.slots | apply canon_mk)

theorem canon_fireVector (s : State) (f v : Nat) (h0 : MemCanon s) : MemCanon (fireVector s f v) := by
  unfold fireVector
  repeat' first
    | with_reducible assumption
    | (intro x; clear_value x)
    | lift_lets
    | (with_reducible first | apply canon_modFunc | apply canon_hostWrite | apply canon_ite)

theorem canon_putEvent (s : State) (f : Nat) (e : Event) (h0 : MemCanon s) : MemCanon (putEvent s f e) := by
  unfold putEvent
  repeat' first
    | with_reducible assumption
    | (intro x
       first
         | (refine canon_cut (s := x) ?_ ?_; rotate_left; clear_value x; intro _; rotate_left; dsimp -zeta only [x]; try clear x)
         | clear_value x)
    | lift_lets
    | (with_reducible first | apply canon_hostWrite | apply canon_modFunc | apply canon_fireVector | apply canon_ite)

theorem canon_setErr (s : State) (b : Nat) (h0 : MemCanon s) : MemCanon (setErr s b) := by
  unfold setErr
  repeat' first
    | with_reducible assumption
    | (intro x
       first
         | (refine canon_cut (s := x) ?_ ?_; rotate_left; clear_value x; intro _; rotate_left; dsimp -zeta only [x]; try clear x)
         | (refine canon_cut_host (x := x) ?_ ?_; rotate_left; clear_value x; intro _; rotate_left; dsimp -zeta only [x]; try clear x))
    | lift_lets
    | (with_reducible first
        | apply canon_fireVector | apply canon_ite | apply MemCanon.bytes | apply MemCanon.hostMem | apply MemCanon.stage | apply MemCanon.slots
        | apply canon_mk)

theorem canon_fireErr (s : State) (b : Nat) (h0 : MemCanon s) : MemCanon (fireErr s b) := by
  unfold fireErr
  repeat' first
    | with_reducible assumption
    | lift_lets
    | (with_reducible first | apply canon_fireVector | apply canon_ite)

theorem canon_dropEvent (s : State) (f : Nat) (h0 : MemCanon s) : MemCanon (dropEvent s f) := by
  unfold dropEvent
  repeat' first
    | with_reducible assumption
    | lift_lets
    | (with_reducible first | apply canon_setErr | apply canon_modFunc)

theorem canon_flushLost (s : State) (f : Nat) (h0 : MemCanon s) : MemCanon (flushLost s f) := by
  unfold flushLost
  repeat' first
    | with_reducible assumption
    | (intro x; clear_value x)
    | lift_lets
    | (with_reducible first | apply canon_modFunc | apply canon_putEvent | apply canon_ite)

theorem canon_sendEvent (s : State) (f : Nat) (e : Event) (h0 : MemCanon s) : MemCanon (sendEvent s f e) := by
  unfold sendEvent
  repeat' first
    | with_reducible assumption
    | lift_lets
    | (with_reducible first | apply canon_putEvent | apply canon_flushLost | apply canon_dropEvent | apply canon_ite)

theorem canon_raisePart (s : State) (p : Option Nat) (code source : Nat) (items : List (Nat × Nat)) (h0 : MemCanon s) :
    MemCanon (raisePart s p code source items) := by
  unfold raisePart
  repeat' first
    | with_reducible assumption
    | lift_lets
    | with_reducible apply canon_sendEvent
    | (with_reducible apply canon_foldl; intro _ _ _)

theorem canon_raiseAll (s : State) (code source : Nat) (items : List (Nat × Nat)) (h0 : MemCanon s) : MemCanon (raiseAll s code source items) := by
  unfold raiseAll
  repeat' first
    | with_reducible assumption
    | lift_lets
    | with_reducible apply canon_sendEvent
    | (with_reducible apply canon_foldl; intro _ _ _)

theorem canon_raisePf (s : State) (code source : Nat) (items : List (Nat × Nat)) (h0 : MemCanon s) : MemCanon (raisePf s code source items) :=
  canon_sendEvent _ _ _ h0

theorem canon_raiseFunc (s : State) (f : Nat) (pf : Bool) (p : Option Nat) (code : Nat) (items : List (Nat × Nat)) (h0 : MemCanon s) :
    MemCanon (raiseFunc s f pf p code items) := by
  unfold raiseFunc
  repeat' first
    | with_reducible assumption
    | (intro x
       first
         | (refine canon_cut (s := x) ?_ ?_; rotate_left; clear_value x; intro _; rotate_left; dsimp -zeta only [x]; try clear x)
         | clear_value x)
    | lift_lets
    | (with_reducible first | apply canon_sendEvent | apply canon_ite)

theorem canon_emit (s : State) (k : MsgKind) (dst : Nat) (args : List Nat) (d : List Byte) (h0 : MemCanon s) : MemCanon (emit s k dst args d) := h0

theorem canon_raiseBench (s : State) (lb c st code : Nat) (more : List (Nat × Nat)) (h0 : MemCanon s) : MemCanon (raiseBench s lb c st code more) :=
  canon_raisePart _ _ _ _ _ h0

theorem canon_addFreeze (s : State) (z : Freeze) (h0 : MemCanon s) : MemCanon (addFreeze s z) := by
  unfold addFreeze
  repeat' first
    | with_reducible assumption
    | (intro x; refine canon_cut_host (x := x) ?_ ?_; rotate_left; clear_value x; intro _; rotate_left; dsimp -zeta only [x]; try clear x)
    | lift_lets
    | split
    | (with_reducible first | apply MemCanon.bytes | apply MemCanon.hostMem | apply MemCanon.stage | apply MemCanon.slots | apply canon_mk)

theorem canon_recordFreeze (s : State) (z : Freeze) (h0 : MemCanon s) : MemCanon (recordFreeze s z) := by
  unfold recordFreeze
  repeat' first
    | with_reducible assumption
    | (intro x
       first
         | (refine canon_cut (s := x) ?_ ?_; rotate_left; clear_value x; intro _; rotate_left; dsimp -zeta only [x]; try clear x)
         | clear_value x)
    | lift_lets
    | (with_reducible first | apply canon_addFreeze | apply canon_fireErr | apply canon_raisePart | apply canon_ite)

theorem canon_addBusy (s : State) (lb c : Nat) (h0 : MemCanon s) : MemCanon (addBusy s lb c) := by
  unfold addBusy
  repeat' first
    | with_reducible assumption
    | (intro x; clear_value x)
    | lift_lets
    | (with_reducible first | apply canon_modJob | apply canon_ite)
    | split

/-! ## Spare -/

theorem canon_modBoot (s : State) (f : BootSt → BootSt) (h0 : MemCanon s) : MemCanon (modBoot s f) := h0

theorem canon_modPower (s : State) (f : PowerSt → PowerSt) (h0 : MemCanon s) : MemCanon (modPower s f) := h0

theorem canon_modLog (s : State) (f : LogState → LogState) (h0 : MemCanon s) : MemCanon (modLog s f) := h0

theorem canon_addRecord (s : State) (type step result reason : Nat) (detail : List Byte) (h0 : MemCanon s) :
    MemCanon (addRecord s type step result reason detail) := h0

theorem canon_eventRecord (s : State) (code : Nat) (items : List (Nat × Nat)) (h0 : MemCanon s) : MemCanon (eventRecord s code items) := h0

theorem canon_putMap (s : State) (e : Nat) (h0 : MemCanon s) : MemCanon (putMap s e) := h0

theorem canon_repairRecord (s : State) (e cause : Nat) (h0 : MemCanon s) : MemCanon (repairRecord s e cause) := h0

theorem canon_softEntry (s : State) (k : Nat) (h0 : MemCanon s) : MemCanon (softEntry s k) := by
  unfold softEntry
  repeat' first
    | with_reducible assumption
    | lift_lets
    | (with_reducible first | apply canon_putMap | apply canon_modLog | apply canon_ite)

theorem canon_noteSpares (s : State) (h0 : MemCanon s) : MemCanon (noteSpares s) := by
  unfold noteSpares
  repeat' first
    | with_reducible assumption
    | lift_lets
    | (with_reducible first | apply canon_setErr | apply canon_ite)

theorem canon_noteSparesBy (s : State) (code : Nat) (items : List (Nat × Nat)) (h0 : MemCanon s) : MemCanon (noteSparesBy s code items) := by
  unfold noteSparesBy
  repeat' first
    | with_reducible assumption
    | lift_lets
    | (with_reducible first | apply canon_setErr | apply canon_eventRecord | apply canon_ite)

theorem canon_repairUnit (s : State) (cls unit logical : Nat) (by' : Option Nat) (cause : Nat) (h0 : MemCanon s) :
    MemCanon (repairUnit s cls unit logical by' cause) := by
  unfold repairUnit
  repeat' first
    | with_reducible assumption
    | lift_lets
    | (with_reducible first | apply canon_repairRecord | apply canon_softEntry)

theorem canon_repairOut (s : State) (cls unit cause : Nat) (h0 : MemCanon s) : MemCanon (repairOut s cls unit cause) := by
  unfold repairOut
  repeat' first
    | with_reducible assumption
    | lift_lets
    | (with_reducible first | apply canon_repairRecord | apply canon_softEntry)

theorem canon_spareEvent (s : State) (code : Nat) (items : List (Nat × Nat)) (h0 : MemCanon s) : MemCanon (spareEvent s code items) := by
  unfold spareEvent
  repeat' first
    | with_reducible assumption
    | lift_lets
    | (with_reducible first | apply canon_noteSpares | apply canon_eventRecord)

/-! ## Rings -/

theorem canon_modRing (s : State) (f r : Nat) (g : Ring → Ring) (h0 : MemCanon s) : MemCanon (modRing s f r g) := h0

theorem canon_dmaError (s : State) (f r : Nat) (h0 : MemCanon s) : MemCanon (dmaError s f r) := by
  unfold dmaError
  repeat' first
    | with_reducible assumption
    | (intro x
       first
         | (refine canon_cut (s := x) ?_ ?_; rotate_left; clear_value x; intro _; rotate_left; dsimp -zeta only [x]; try clear x)
         | clear_value x)
    | lift_lets
    | (with_reducible first | apply canon_setErr | apply canon_modFunc | apply canon_modRing | apply canon_raisePf | apply canon_ite)

theorem canon_putCq (s : State) (f r : Nat) (c : Completion) (h0 : MemCanon s) : MemCanon (putCq s f r c) := by
  unfold putCq
  repeat' first
    | with_reducible assumption
    | (intro x
       first
         | (refine canon_cut (s := x) ?_ ?_; rotate_left; clear_value x; intro _; rotate_left; dsimp -zeta only [x]; try clear x)
         | clear_value x)
    | lift_lets
    | (with_reducible first | apply canon_hostWrite | apply canon_modRing | apply canon_fireVector | apply canon_ite)

theorem canon_writeHeld (s : State) (f r fuel : Nat) (h0 : MemCanon s) : MemCanon (writeHeld s f r fuel) := by
  induction fuel generalizing s with
  | zero => exact h0
  | succ k ih =>
    unfold writeHeld
    repeat' first
      | with_reducible assumption
      | (intro x; clear_value x)
      | lift_lets
      | (with_reducible first | apply ih | apply canon_modRing | apply canon_putCq | apply canon_ite)
      | split

theorem canon_complete (s : State) (f r : Nat) (c : Completion) (fails : Bool) (h0 : MemCanon s) : MemCanon (complete s f r c fails) := by
  unfold complete
  repeat' first
    | with_reducible assumption
    | (intro x; clear_value x)
    | lift_lets
    | (with_reducible first | apply canon_modRing | apply canon_dmaError | apply canon_putCq | apply canon_ite)

theorem canon_popFetched (s : State) (f r : Nat) (h0 : MemCanon s) : MemCanon (popFetched s f r) := h0

theorem canon_refuseUnknown (s : State) (f r fuel : Nat) (h0 : MemCanon s) : MemCanon (refuseUnknown s f r fuel) := by
  induction fuel generalizing s with
  | zero => exact h0
  | succ k ih =>
    unfold refuseUnknown
    repeat' first
      | with_reducible assumption
      | lift_lets
      | (with_reducible first | apply ih | apply canon_complete | apply canon_popFetched | apply canon_ite)
      | split

theorem canon_doRingService (f r : Nat) (descs : List (List Byte)) (fails : Bool) (s : State) (h0 : MemCanon s) :
    MemCanon (doRingService f r descs fails s) := by
  unfold doRingService
  repeat' first
    | with_reducible assumption
    | (intro x
       first
         | (refine canon_cut (s := x) ?_ ?_; rotate_left; clear_value x; intro _; rotate_left; dsimp -zeta only [x]; try clear x)
         | (refine canon_cut_host (x := x) ?_ ?_; rotate_left; clear_value x; intro _; rotate_left; dsimp -zeta only [x]; try clear x)
         | clear_value x)
    | lift_lets
    | (with_reducible first
        | apply canon_modRing | apply canon_dmaError | apply canon_flushLost | apply canon_refuseUnknown | apply canon_ite | apply MemCanon.bytes
        | apply MemCanon.hostMem | apply MemCanon.stage | apply MemCanon.slots | apply canon_mk)

theorem canon_execMpRingService (func ring : Nat) (descs : List (List Byte)) (fails : Bool) (s : State) (h0 : MemCanon s) :
    CanonE (execMpRingService func ring descs fails s) := canon_done (canon_doRingService _ _ _ _ _ h0)

theorem canon_doCoalTimer (f w : Nat) (s : State) (h0 : MemCanon s) : MemCanon (doCoalTimer f w s) := by
  unfold doCoalTimer
  repeat' first
    | with_reducible assumption
    | (intro x
       first
         | (refine canon_cut (s := x) ?_ ?_; rotate_left; clear_value x; intro _; rotate_left; dsimp -zeta only [x]; try clear x)
         | clear_value x)
    | lift_lets
    | (with_reducible first | apply canon_modFunc | apply canon_modRing | apply canon_fireVector | apply canon_ite)

theorem canon_execMsixCoalTimer (func queue : Nat) (s : State) (h0 : MemCanon s) : CanonE (execMsixCoalTimer func queue s) :=
  canon_done (canon_doCoalTimer _ _ _ h0)

theorem canon_answerCall (s : State) (c : Call) (a : Answer) (io : HostIo) (h0 : MemCanon s) : MemCanon (answerCall s c a io) := by
  unfold answerCall
  repeat' first
    | with_reducible assumption
    | (intro x
       first
         | (refine canon_cut (s := x) ?_ ?_; rotate_left; clear_value x; intro _; rotate_left; dsimp -zeta only [x]; try clear x)
         | clear_value x)
    | lift_lets
    | (with_reducible first | apply canon_hostWrite | apply canon_complete)

theorem canon_refuseNaming (s : State) (p f r : Nat) (h0 : MemCanon s) : MemCanon (refuseNaming s p f r) := by
  unfold refuseNaming
  repeat' first
    | with_reducible assumption
    | (intro x
       first
         | (refine canon_cut (s := x) ?_ ?_; rotate_left; clear_value x; intro _; rotate_left; dsimp -zeta only [x]; try clear x)
         | clear_value x)
    | lift_lets
    | (with_reducible first | apply canon_modRing | apply canon_complete)
    | (with_reducible apply canon_foldl; intro _ _ _)

theorem canon_withCmd (w : PsmRow) (pick : Desc → Bool) (f r : Nat) (io : HostIo) (body : State → Call → State × Answer) (s : State) (h0 : MemCanon s) (hb : ∀ s c, MemCanon s → MemCanon (body s c).1) :
    MemCanon (withCmd w pick f r io body s) := by
  unfold withCmd
  repeat' first
    | with_reducible assumption
    | (intro x; refine canon_cut (s := x) ?_ ?_; rotate_left; clear_value x; intro _; rotate_left; dsimp -zeta only [x]; try clear x)
    | lift_lets
    | (with_reducible first | apply hb | apply canon_popFetched | apply canon_answerCall | apply canon_refuseUnknown | apply canon_ite)
    | split
    | dsimp only

/-! ## Operands -/

theorem canon_raiseMem (s : State) (code a : Nat) (h0 : MemCanon s) : MemCanon (raiseMem s code a) := by
  unfold raiseMem
  repeat' first
    | with_reducible assumption
    | (intro x; clear_value x)
    | lift_lets
    | (with_reducible first | apply canon_raisePart | apply canon_raiseAll | apply canon_ite)

theorem canon_noteSizes (s : State) (a n : Nat) (h0 : MemCanon s) : MemCanon (noteSizes s a n) := by
  unfold noteSizes
  repeat' first
    | with_reducible assumption
    | lift_lets
    | with_reducible apply canon_raiseMem
    | (with_reducible apply canon_foldl; intro _ _ _)

theorem canon_applyCells (s : State) (cs0 : List WCell) (h0 : MemCanon s) : MemCanon (applyCells s cs0) := by
  unfold applyCells
  repeat' first
    | with_reducible assumption
    | (intro x
       first
         | (refine canon_cut (s := x) ?_ ?_; rotate_left; clear_value x; intro _; rotate_left; dsimp -zeta only [x]; try clear x)
         | (refine canon_cut_mem (x := x) ?_ ?_; rotate_left; clear_value x; intro _; rotate_left; dsimp -zeta only [x]; try clear x)
         | clear_value x)
    | lift_lets
    | with_reducible apply canon_modBench
    | (with_reducible apply canon_foldl; intro _ _ _)
    | dsimp only
    | (with_reducible first
        | apply foldl_set_wf | apply MemCanon.bytes | apply MemCanon.hostMem | apply MemCanon.stage | apply MemCanon.slots | apply canon_mk)

theorem canon_compressBlock (s : State) (w b : Nat) (h0 : MemCanon s) : MemCanon (compressBlock s w b) := by
  unfold compressBlock
  repeat' first
    | with_reducible assumption
    | (intro x
       first
         | (refine canon_cut_mem (x := x) ?_ ?_; rotate_left; clear_value x; intro _; rotate_left; dsimp -zeta only [x]; try clear x)
         | clear_value x)
    | lift_lets
    | split
    | dsimp only
    | (with_reducible first
        | apply Mem.wf_write | apply MemCanon.bytes | apply MemCanon.hostMem | apply MemCanon.stage | apply MemCanon.slots | apply canon_mk)

theorem canon_applyComp (s : State) (w : Nat) (cs : List WCell) (h0 : MemCanon s) : MemCanon (applyComp s w cs) := by
  unfold applyComp
  repeat' first
    | with_reducible assumption
    | (intro x; clear_value x)
    | lift_lets
    | (with_reducible first | apply canon_compressBlock | apply canon_applyCells)
    | (with_reducible apply canon_foldl; intro _ _ _)

theorem canon_wrBytes (s : State) (a : Nat) (d : List Byte) (tag : Bool) (h0 : MemCanon s) : MemCanon (wrBytes s a d tag) := canon_applyCells _ _ h0

theorem canon_wrLe (s : State) (a n v : Nat) (h0 : MemCanon s) : MemCanon (wrLe s a n v) := canon_wrBytes _ _ _ _ h0

theorem canon_wrOwn (s : State) (p a : Nat) (d : List Byte) (tag : Bool) (h0 : MemCanon s) : MemCanon (wrOwn s p a d tag) := canon_applyCells _ _ h0

theorem canon_wrOwnLe (s : State) (p a n v : Nat) (h0 : MemCanon s) : MemCanon (wrOwnLe s p a n v) := canon_wrOwn _ _ _ _ _ h0

theorem canon_headroomOr (s : State) (jk tensor row col : Nat) (ovf nan : Bool) (h0 : MemCanon s) :
    MemCanon (headroomOr s jk tensor row col ovf nan) := by
  unfold headroomOr
  repeat' first
    | with_reducible assumption
    | (intro x; clear_value x)
    | lift_lets
    | (with_reducible first | apply canon_wrOwnLe | apply canon_ite)
    | split

theorem canon_accFp32 (s : State) (c : AccCell) (h0 : MemCanon s) : MemCanon (accFp32 s c) := canon_wrBytes _ _ _ _ h0

theorem canon_accG16 (s : State) (jk : Nat) (c : AccCell) (h0 : MemCanon s) : MemCanon (accG16 s jk c) := by
  unfold accG16
  repeat' first
    | with_reducible assumption
    | (intro x
       first
         | (refine canon_cut (s := x) ?_ ?_; rotate_left; clear_value x; intro _; rotate_left; dsimp -zeta only [x]; try clear x)
         | clear_value x)
    | lift_lets
    | (with_reducible first | apply canon_wrBytes | apply canon_headroomOr)
    | split

theorem canon_accWrite (s : State) (jk way : Nat) (cs : List AccCell) (h0 : MemCanon s) : MemCanon (accWrite s jk way cs) := by
  unfold accWrite
  repeat' first
    | with_reducible assumption
    | lift_lets
    | (with_reducible first | apply canon_accFp32 | apply canon_accG16 | apply canon_ite)
    | (with_reducible apply canon_foldl; intro _ _ _)

/-! ## Sweeps -/

theorem canon_modSelf (s : State) (f : SelfSt → SelfSt) (h0 : MemCanon s) : MemCanon (modSelf s f) := h0

theorem canon_modSweep (s : State) (k : Nat) (f : Sweep → Sweep) (h0 : MemCanon s) : MemCanon (modSweep s k f) := h0

theorem canon_restartCounts (s : State) (h0 : MemCanon s) : MemCanon (restartCounts s) := h0

theorem canon_closeSweep (s : State) (k : Nat) (h0 : MemCanon s) : MemCanon (closeSweep s k) := by
  unfold closeSweep
  repeat' first
    | with_reducible assumption
    | (intro x
       first
         | (refine canon_cut (s := x) ?_ ?_; rotate_left; clear_value x; intro _; rotate_left; dsimp -zeta only [x]; try clear x)
         | clear_value x)
    | lift_lets
    | (with_reducible first | apply canon_raisePf | apply canon_modSweep | apply canon_restartCounts | apply canon_ite)

theorem canon_countTested (s : State) (k : Nat) (failed : Bool) (h0 : MemCanon s) : MemCanon (countTested s k failed) := h0

theorem canon_countSkipped (s : State) (k : Nat) (h0 : MemCanon s) : MemCanon (countSkipped s k) := h0

theorem canon_countAbandoned (s : State) (k : Nat) (h0 : MemCanon s) : MemCanon (countAbandoned s k) := h0

theorem canon_abandonLink (s : State) (u : Nat) (h0 : MemCanon s) : MemCanon (abandonLink s u) := by
  unfold abandonLink
  repeat' first
    | with_reducible assumption
    | lift_lets
    | (with_reducible first | apply canon_closeSweep | apply canon_countAbandoned | apply canon_modSelf | apply canon_ite)

theorem canon_abandonSpareCore (s : State) (h0 : MemCanon s) : MemCanon (abandonSpareCore s) := by
  unfold abandonSpareCore
  repeat' first
    | with_reducible assumption
    | (intro x; clear_value x)
    | lift_lets
    | (with_reducible first | apply canon_closeSweep | apply canon_countAbandoned)
    | split
    | (with_reducible first | apply MemCanon.bytes | apply MemCanon.hostMem | apply MemCanon.stage | apply MemCanon.slots | apply canon_mk)

/-! ## Cipher -/

theorem canon_modCipher (s : State) (f : CipherSt → CipherSt) (h0 : MemCanon s) : MemCanon (modCipher s f) := h0

theorem canon_modSlot (s : State) (n : Nat) (f : KeySlot → KeySlot) (h0 : MemCanon s) : MemCanon (modSlot s n f) := h0

theorem canon_raiseKey (s : State) (code n : Nat) (h0 : MemCanon s) : MemCanon (raiseKey s code n) := canon_raisePart _ _ _ _ _ h0

theorem canon_drawSalt (s : State) (h0 : MemCanon s) : MemCanon (drawSalt s).2 := by
  unfold drawSalt
  repeat' first
    | (with_reducible first | assumption | apply canon_bumpFree)

theorem canon_newGeneration (s : State) (n : Nat) (h0 : MemCanon s) : MemCanon (newGeneration s n) := h0

theorem canon_activateSlot (s : State) (n : Nat) (h0 : MemCanon s) : MemCanon (activateSlot s n) := h0

theorem canon_expireSlot (s : State) (n : Nat) (h0 : MemCanon s) : MemCanon (expireSlot s n) := by
  unfold expireSlot
  repeat' first
    | with_reducible assumption
    | (intro x; clear_value x)
    | lift_lets
    | (with_reducible first | apply canon_activateSlot | apply canon_raiseKey | apply canon_modSlot | apply canon_ite)

theorem canon_rekeyDue (s : State) (n : Nat) (h0 : MemCanon s) : MemCanon (rekeyDue s n) := by
  unfold rekeyDue
  repeat' first
    | with_reducible assumption
    | (intro x; clear_value x)
    | lift_lets
    | (with_reducible first | apply canon_raiseKey | apply canon_modSlot | apply canon_ite)

theorem canon_erasePrevious (s : State) (n : Nat) (h0 : MemCanon s) : MemCanon (erasePrevious s n) := by
  unfold erasePrevious
  repeat' first
    | with_reducible assumption
    | (intro x; clear_value x)
    | lift_lets
    | (with_reducible first | apply canon_modSlot | apply canon_ite)

theorem canon_eraseSlot (s : State) (n : Nat) (h0 : MemCanon s) : MemCanon (eraseSlot s n) := h0

theorem canon_erasePartKeys (s : State) (p : Nat) (h0 : MemCanon s) : MemCanon (erasePartKeys s p) := h0

theorem canon_clearKeys (s : State) (h0 : MemCanon s) : MemCanon (clearKeys s) := by
  unfold clearKeys
  repeat' first
    | with_reducible assumption
    | lift_lets
    | (with_reducible first | apply canon_raisePf | apply canon_modCipher)

theorem canon_execKeyPreviousErase (slot : Nat) (s : State) (h0 : MemCanon s) : CanonE (execKeyPreviousErase slot s) :=
  canon_done (canon_erasePrevious _ _ h0)

theorem canon_execKeyRekeyDue (slot : Nat) (s : State) (h0 : MemCanon s) : CanonE (execKeyRekeyDue slot s) := canon_done (canon_rekeyDue _ _ h0)

theorem canon_execKeyExpired (slot : Nat) (s : State) (h0 : MemCanon s) : CanonE (execKeyExpired slot s) := canon_done (canon_expireSlot _ _ h0)

theorem canon_execCipherRngFault (s : State) (h0 : MemCanon s) : CanonE (execCipherRngFault s) := by
  unfold execCipherRngFault
  repeat' first
    | with_reducible assumption
    | lift_lets
    | (with_reducible first | apply canon_raisePf | apply canon_modCipher | apply canon_ite | apply canon_done)

theorem canon_execRngHealthRestored (s : State) (h0 : MemCanon s) : CanonE (execRngHealthRestored s) := canon_done h0

theorem canon_issueNonce (s : State) (n : Nat) (dir : Bool) (h0 : MemCanon s) : MemCanon (issueNonce s n dir).1 := by
  unfold issueNonce
  repeat' first
    | with_reducible assumption
    | (intro x
       first
         | (refine canon_cut (s := x) ?_ ?_; rotate_left; clear_value x; intro _; rotate_left; dsimp -zeta only [x]; try clear x)
         | clear_value x)
    | lift_lets
    | (with_reducible first | apply canon_expireSlot | apply canon_rekeyDue | apply canon_modSlot)
    | split

theorem canon_useCore (s : State) (enc : Bool) (pc : Nat × Nat) (h0 : MemCanon s) : MemCanon (useCore s enc pc) := h0

theorem canon_dropCore (s : State) (core : Nat) (h0 : MemCanon s) : MemCanon (dropCore s core) := by
  unfold dropCore
  repeat' first
    | with_reducible assumption
    | (intro x
       first
         | (refine canon_cut (s := x) ?_ ?_; rotate_left; clear_value x; intro _; rotate_left; dsimp -zeta only [x]; try clear x)
         | clear_value x)
    | intro _
    | lift_lets
    | (with_reducible first
        | apply canon_modCipher | apply canon_noteSpares | apply canon_repairOut | apply canon_abandonSpareCore | apply canon_repairUnit
        | apply canon_raisePf | apply canon_noteSparesBy | apply canon_fireErr | apply canon_ite)
    | split

theorem canon_sealSlot (s : State) (n : Nat) (dir : Bool) (aad : List Byte → List Byte) (d : List Byte) (h0 : MemCanon s) :
    MemCanon (sealSlot s n dir aad d).1 := by
  unfold sealSlot
  repeat' first
    | with_reducible assumption
    | lift_lets
    | (with_reducible first | apply canon_issueNonce | refine canon_fst (by assumption) ?_)
    | split

theorem canon_storeSlot (s : State) (n : Nat) (d : List Byte) (h0 : MemCanon s) : MemCanon (storeSlot s n d).1 := by
  unfold storeSlot
  repeat' first
    | with_reducible assumption
    | (intro x; clear_value x)
    | lift_lets
    | (with_reducible first | apply canon_issueNonce | refine canon_fst (by assumption) ?_)
    | split
    | dsimp only
    | (with_reducible first | apply MemCanon.bytes | apply MemCanon.hostMem | apply MemCanon.stage | apply MemCanon.slots | apply canon_mk)

theorem canon_latch (s : State) (o : CipherOut) (h0 : MemCanon s) : MemCanon (latch s o) := h0

theorem canon_doEncrypt (n : Nat) (dir : Bool) (aad d : List Byte) (faulty : Bool) (s : State) (h0 : MemCanon s) :
    MemCanon (doEncrypt n dir aad d faulty s) := by
  unfold doEncrypt
  repeat' first
    | with_reducible assumption
    | (intro x; clear_value x)
    | lift_lets
    | (with_reducible first
        | apply canon_sealSlot | apply canon_latch | apply canon_useCore | apply canon_storeSlot | apply canon_modCipher | apply canon_raisePart
        | apply canon_ite | refine canon_fst (by assumption) ?_)
    | split
    | dsimp only

theorem canon_execCipherEncryptOp (slot : Nat) (dir : Bool) (aad data : List Byte) (faulty : Bool) (s : State) (h0 : MemCanon s) :
    CanonE (execCipherEncryptOp slot dir aad data faulty s) := canon_done (canon_doEncrypt _ _ _ _ _ _ h0)

theorem canon_doDecrypt (n : Nat) (nonce aad d tag : List Byte) (s : State) (h0 : MemCanon s) : MemCanon (doDecrypt n nonce aad d tag s) := by
  unfold doDecrypt
  repeat' first
    | with_reducible assumption
    | (intro x
       first
         | (refine canon_cut (s := x) ?_ ?_; rotate_left; clear_value x; intro _; rotate_left; dsimp -zeta only [x]; try clear x)
         | clear_value x)
    | lift_lets
    | (with_reducible first | apply canon_useCore | apply canon_latch | apply canon_ite)
    | split
    | (with_reducible first | apply MemCanon.bytes | apply MemCanon.hostMem | apply MemCanon.stage | apply MemCanon.slots | apply canon_mk)

theorem canon_execCipherDecryptOp (slot : Nat) (nonce aad data tag : List Byte) (s : State) (h0 : MemCanon s) :
    CanonE (execCipherDecryptOp slot nonce aad data tag s) := canon_done (canon_doDecrypt _ _ _ _ _ _ h0)

/-! ## Frames -/

theorem canon_modPort (s : State) (k : Nat) (f : BPort → BPort) (h0 : MemCanon s) : MemCanon (modPort s k f) := h0

theorem canon_modSite (s : State) (k : Nat) (f : SPort → SPort) (h0 : MemCanon s) : MemCanon (modSite s k f) := h0

theorem canon_sendFlit (s : State) (k : Nat) (sof : Bool) (payload : List Byte) (h0 : MemCanon s) : MemCanon (sendFlit s k sof payload) := by
  unfold sendFlit
  repeat' first
    | with_reducible assumption
    | (intro x
       first
         | (refine canon_cut (s := x) ?_ ?_; rotate_left; clear_value x; intro _; rotate_left; dsimp -zeta only [x]; try clear x)
         | clear_value x)
    | lift_lets
    | (with_reducible first | apply canon_modPort | apply canon_emit | apply canon_ite)

theorem canon_sendOnPort (s : State) (k : Nat) (frame : List Byte) (h0 : MemCanon s) : MemCanon (sendOnPort s k frame) := by
  unfold sendOnPort
  repeat' first
    | with_reducible assumption
    | lift_lets
    | with_reducible apply canon_sendFlit
    | (with_reducible apply canon_foldl; intro _ _ _)

theorem canon_boardFrame (s : State) (slot type tag : Nat) (d : List Byte) (h0 : MemCanon s) : MemCanon (boardFrame s slot type tag d) := by
  unfold boardFrame
  repeat' first
    | with_reducible assumption
    | lift_lets
    | (with_reducible first | apply canon_sendOnPort | apply canon_ite)
    | split

theorem canon_setFlow (s : State) (f : Flow) (h0 : MemCanon s) : MemCanon (setFlow s f) := h0

theorem canon_putFrame (s : State) (f : Flow) (h : HeldFrame) (h0 : MemCanon s) : MemCanon (putFrame s f h).1 := by
  unfold putFrame
  repeat' first
    | with_reducible assumption
    | (intro x; clear_value x)
    | lift_lets
    | (with_reducible first | apply canon_emit | apply canon_sealSlot | apply canon_ite_fst | refine canon_fst (by assumption) ?_)
    | split

theorem canon_pumpFlow (s : State) (peer chan tag fuel : Nat) (h0 : MemCanon s) : MemCanon (pumpFlow s peer chan tag fuel) := by
  induction fuel generalizing s with
  | zero => exact h0
  | succ k ih =>
    unfold pumpFlow
    repeat' first
      | with_reducible assumption
      | (intro x; clear_value x)
      | lift_lets
      | (with_reducible first | apply ih | apply canon_putFrame | apply canon_setFlow | refine canon_fst (by assumption) ?_)
      | split

theorem canon_siteFrame (s : State) (peer type tag : Nat) (d : List Byte) (h0 : MemCanon s) : MemCanon (siteFrame s peer type tag d) := by
  unfold siteFrame
  repeat' first
    | with_reducible assumption
    | (intro x
       first
         | (refine canon_cut (s := x) ?_ ?_; rotate_left; clear_value x; intro _; rotate_left; dsimp -zeta only [x]; try clear x)
         | clear_value x)
    | lift_lets
    | (with_reducible first | apply canon_setFlow | apply canon_pumpFlow)

theorem canon_sendFrame (s : State) (k : MsgKind) (dst : Nat) (tag : Nat) (args : List Nat) (d : List Byte) (h0 : MemCanon s) :
    MemCanon (sendFrame s k dst tag args d) := by
  unfold sendFrame
  repeat' first
    | with_reducible assumption
    | (intro x
       first
         | (refine canon_cut (s := x) ?_ ?_; rotate_left; clear_value x; intro _; rotate_left; dsimp -zeta only [x]; try clear x)
         | clear_value x)
    | lift_lets
    | (with_reducible first | apply canon_emit | apply canon_boardFrame | apply canon_siteFrame | apply canon_ite)
    | (with_reducible apply canon_foldl; intro _ _ _)

/-! ## Image -/



/-! ## Reset -/

theorem canon_noteCut (s : State) (h0 : MemCanon s) : MemCanon (noteCut s) := by
  unfold noteCut
  repeat' first
    | with_reducible assumption
    | (intro x; clear_value x)
    | lift_lets
    | (with_reducible first | apply canon_modLog | apply canon_ite)

theorem canon_cutActivation (s : State) (writing : Bool) (h0 : MemCanon s) : MemCanon (cutActivation s writing) := by
  unfold cutActivation
  repeat' first
    | with_reducible assumption
    | (intro x
       first
         | (have _g : FwSt := x; clear _g; dsimp -zeta only [x]; clear x)
         | clear_value x)
    | lift_lets
    | with_reducible apply canon_ite
    | split
    | dsimp only
    | (with_reducible first | apply MemCanon.bytes | apply MemCanon.hostMem | apply MemCanon.stage | apply MemCanon.slots | apply canon_mk)

theorem canon_mainReset (s : State) (h0 : MemCanon s) : MemCanon (mainReset s) := ⟨rfl, h0.2.1, h0.2.2.1, h0.2.2.2⟩

theorem canon_stopConversion (s : State) (h0 : MemCanon s) : MemCanon (stopConversion s) := by
  unfold stopConversion
  repeat' first
    | with_reducible assumption
    | (intro x
       first
         | (refine canon_cut (s := x) ?_ ?_; rotate_left; clear_value x; intro _; rotate_left; dsimp -zeta only [x]; try clear x)
         | clear_value x)
    | lift_lets
    | (with_reducible first
        | apply canon_mainReset | apply canon_cutActivation | apply canon_noteCut | apply canon_modBoot | apply canon_modPower | apply MemCanon.bytes
        | apply MemCanon.hostMem | apply MemCanon.stage | apply MemCanon.slots | apply canon_mk)

/-! ## Time -/

theorem canon_modTime (s : State) (f : TimeSt → TimeSt) (h0 : MemCanon s) : MemCanon (modTime s f) := h0

theorem canon_idle (s : State) (h0 : MemCanon s) : MemCanon (idle s) := h0

theorem canon_doPulseDrive (s : State) (h0 : MemCanon s) : MemCanon (doPulseDrive s) := by
  unfold doPulseDrive
  repeat' first
    | with_reducible assumption
    | (intro x
       first
         | (refine canon_cut (s := x) ?_ ?_; rotate_left; clear_value x; intro _; rotate_left; dsimp -zeta only [x]; try clear x)
         | clear_value x)
    | lift_lets
    | (with_reducible first | apply canon_raisePf | apply canon_modTime | apply canon_ite)

theorem canon_execTsyncPulseDrive (s : State) (h0 : MemCanon s) : CanonE (execTsyncPulseDrive s) := canon_done (canon_doPulseDrive _ h0)

theorem canon_doTimeFrame (v : Nat) (s : State) (h0 : MemCanon s) : MemCanon (doTimeFrame v s) := by
  unfold doTimeFrame
  repeat' first
    | with_reducible assumption
    | lift_lets
    | (with_reducible first | apply canon_modTime | apply canon_ite)

theorem canon_execTimeFrameReceive (v : Nat) (s : State) (h0 : MemCanon s) : CanonE (execTimeFrameReceive v s) :=
  canon_done (canon_doTimeFrame _ _ h0)

theorem canon_doPulseReceive (s : State) (h0 : MemCanon s) : MemCanon (doPulseReceive s) := by
  unfold doPulseReceive
  repeat' first
    | with_reducible assumption
    | (intro x
       first
         | (refine canon_cut (s := x) ?_ ?_; rotate_left; clear_value x; intro _; rotate_left; dsimp -zeta only [x]; try clear x)
         | clear_value x)
    | lift_lets
    | (with_reducible first | apply canon_modTime | apply canon_raisePf | apply canon_ite)
    | split

theorem canon_execTsyncPulseReceive (s : State) (h0 : MemCanon s) : CanonE (execTsyncPulseReceive s) := canon_done (canon_doPulseReceive _ h0)

theorem canon_doTakeKeeper (s : State) (h0 : MemCanon s) : MemCanon (doTakeKeeper s) := by
  unfold doTakeKeeper
  repeat' first
    | with_reducible assumption
    | (intro x; clear_value x)
    | lift_lets
    | (with_reducible first | apply canon_raisePf | apply canon_modTime | apply canon_ite)

theorem canon_execTimekeeperChanged (s : State) (h0 : MemCanon s) : CanonE (execTimekeeperChanged s) := canon_done (canon_doTakeKeeper _ h0)

/-! ## Power -/

theorem canon_releasePerst (s : State) (slot : Nat) (h0 : MemCanon s) : MemCanon (releasePerst s slot) := h0

theorem canon_doPerstDeassert (slot : Nat) (s : State) (h0 : MemCanon s) : MemCanon (doPerstDeassert slot s) := by
  unfold doPerstDeassert
  repeat' first
    | with_reducible assumption
    | (intro x; clear_value x)
    | lift_lets
    | (with_reducible first | apply canon_modPower | apply canon_releasePerst | apply canon_ite)

theorem canon_execPerstDeassert (slot : Nat) (s : State) (h0 : MemCanon s) : CanonE (execPerstDeassert slot s) :=
  canon_done (canon_doPerstDeassert _ _ h0)

theorem canon_doHeldPerst (slot : Nat) (s : State) (h0 : MemCanon s) : MemCanon (doHeldPerst slot s) := by
  unfold doHeldPerst
  repeat' first
    | with_reducible assumption
    | (intro x; clear_value x)
    | lift_lets
    | (with_reducible first | apply canon_releasePerst | apply canon_ite)

theorem canon_execHeldPerstDeassertion (slot : Nat) (s : State) (h0 : MemCanon s) : CanonE (execHeldPerstDeassertion slot s) :=
  canon_done (canon_doHeldPerst _ _ h0)

theorem canon_doPerstAssert (writing : Bool) (s : State) (h0 : MemCanon s) : MemCanon (doPerstAssert writing s) := by
  unfold doPerstAssert
  repeat' first
    | with_reducible assumption
    | lift_lets
    | (with_reducible first | apply canon_modPower | apply canon_mainReset | apply canon_cutActivation | apply canon_noteCut | apply canon_ite)

theorem canon_execPerstAssert (writing : Bool) (s : State) (h0 : MemCanon s) : CanonE (execPerstAssert writing s) :=
  canon_done (canon_doPerstAssert _ _ h0)

theorem canon_doAuxStart (mv : Nat) (s : State) (h0 : MemCanon s) : MemCanon (doAuxStart mv s) := by
  unfold doAuxStart
  repeat' first
    | with_reducible assumption
    | (intro x
       first
         | (refine canon_cut (s := x) ?_ ?_; rotate_left; clear_value x; intro _; rotate_left; dsimp -zeta only [x]; try clear x)
         | clear_value x)
    | lift_lets
    | (with_reducible first | apply canon_modPower | apply canon_ite)

theorem canon_execInputAuxStart (mv : Nat) (s : State) (h0 : MemCanon s) : CanonE (execInputAuxStart mv s) := canon_done (canon_doAuxStart _ _ h0)

theorem canon_doAuxStop (mv : Nat) (s : State) (h0 : MemCanon s) : MemCanon (doAuxStop mv s) := by
  unfold doAuxStop
  repeat' first
    | with_reducible assumption
    | (intro x
       first
         | (refine canon_cut (s := x) ?_ ?_; rotate_left; clear_value x; intro _; rotate_left; dsimp -zeta only [x]; try clear x)
         | clear_value x)
    | lift_lets
    | (with_reducible first | apply canon_modPower | apply canon_stopConversion | apply canon_ite)

theorem canon_execInputAuxStop (mv : Nat) (s : State) (h0 : MemCanon s) : CanonE (execInputAuxStop mv s) := canon_done (canon_doAuxStop _ _ h0)

theorem canon_execPwrEnRise (s : State) (h0 : MemCanon s) : CanonE (execPwrEnRise s) := canon_done h0

theorem canon_doConversionStart (mv plate : Nat) (s : State) (h0 : MemCanon s) : MemCanon (doConversionStart mv plate s) := by
  unfold doConversionStart
  repeat' first
    | with_reducible assumption
    | (intro x
       first
         | (refine canon_cut (s := x) ?_ ?_; rotate_left; clear_value x; intro _; rotate_left; dsimp -zeta only [x]; try clear x)
         | clear_value x)
    | lift_lets
    | (with_reducible first | apply canon_modPower | apply canon_modLog | apply canon_ite)

theorem canon_execConversionStart (mv plate : Nat) (s : State) (h0 : MemCanon s) : CanonE (execConversionStart mv plate s) :=
  canon_done (canon_doConversionStart _ _ _ h0)

theorem canon_checkWear (s : State) (h0 : MemCanon s) : MemCanon (checkWear s) := by
  unfold checkWear
  repeat' first
    | with_reducible assumption
    | (intro x; clear_value x)
    | lift_lets
    | (with_reducible first | apply canon_raisePf | apply canon_modPower | apply canon_ite)

theorem canon_writeBins (s : State) (h0 : MemCanon s) : MemCanon (writeBins s) := h0

theorem canon_doPwrEnFall (s : State) (h0 : MemCanon s) : MemCanon (doPwrEnFall s) := by
  unfold doPwrEnFall
  repeat' first
    | with_reducible assumption
    | (intro x; refine canon_cut (s := x) ?_ ?_; rotate_left; clear_value x; intro _; rotate_left; dsimp -zeta only [x]; try clear x)
    | lift_lets
    | (with_reducible first | apply canon_modPower | apply canon_stopConversion | apply canon_writeBins | apply canon_checkWear | apply canon_ite)

theorem canon_execPwrEnFall (s : State) (h0 : MemCanon s) : CanonE (execPwrEnFall s) := canon_done (canon_doPwrEnFall _ h0)

theorem canon_execPwrEnLowRelease (s : State) (h0 : MemCanon s) : CanonE (execPwrEnLowRelease s) := by
  unfold execPwrEnLowRelease
  repeat' first
    | with_reducible assumption
    | lift_lets
    | (with_reducible first | apply canon_modPower | apply canon_ite | apply canon_done)

theorem canon_execRailOutOfRegulation (s : State) (h0 : MemCanon s) : CanonE (execRailOutOfRegulation s) := canon_done h0

theorem canon_faultStop (s : State) (bitNo : Nat) (h0 : MemCanon s) : MemCanon (faultStop s bitNo) := by
  unfold faultStop
  repeat' first
    | with_reducible assumption
    | (intro x
       first
         | (refine canon_cut (s := x) ?_ ?_; rotate_left; clear_value x; intro _; rotate_left; dsimp -zeta only [x]; try clear x)
         | clear_value x)
    | lift_lets
    | (with_reducible first | apply canon_stopConversion | apply canon_modPower | apply canon_ite)

theorem canon_raiseOn (s : State) (code : Nat) (items : List (Nat × Nat)) (h0 : MemCanon s) : MemCanon (raiseOn s code items) := by
  unfold raiseOn
  repeat' first
    | with_reducible assumption
    | lift_lets
    | (with_reducible first | apply canon_raisePf | apply canon_ite)

theorem canon_doInputRange (mv : Nat) (s : State) (h0 : MemCanon s) : MemCanon (doInputRange mv s) := by
  unfold doInputRange
  repeat' first
    | with_reducible assumption
    | (intro x; refine canon_cut (s := x) ?_ ?_; rotate_left; clear_value x; intro _; rotate_left; dsimp -zeta only [x]; try clear x)
    | lift_lets
    | (with_reducible first | apply canon_modPower | apply canon_raiseOn | apply canon_ite)

theorem canon_execInputOutOfRange (mv : Nat) (s : State) (h0 : MemCanon s) : CanonE (execInputOutOfRange mv s) :=
  canon_done (canon_doInputRange _ _ h0)

theorem canon_doInputFault (mv : Nat) (s : State) (h0 : MemCanon s) : MemCanon (doInputFault mv s) := by
  unfold doInputFault
  repeat' first
    | with_reducible assumption
    | (intro x; refine canon_cut (s := x) ?_ ?_; rotate_left; clear_value x; intro _; rotate_left; dsimp -zeta only [x]; try clear x)
    | lift_lets
    | (with_reducible first | apply canon_modPower | apply canon_faultStop | apply canon_ite)

theorem canon_execInputFaultStop (mv : Nat) (s : State) (h0 : MemCanon s) : CanonE (execInputFaultStop mv s) := canon_done (canon_doInputFault _ _ h0)

theorem canon_doThermtrip (temp : Nat) (s : State) (h0 : MemCanon s) : MemCanon (doThermtrip temp s) := by
  unfold doThermtrip
  repeat' first
    | with_reducible assumption
    | lift_lets
    | (with_reducible first | apply canon_modPower | apply canon_faultStop | apply canon_ite)

theorem canon_execThermtrip (temp : Nat) (s : State) (h0 : MemCanon s) : CanonE (execThermtrip temp s) := canon_done (canon_doThermtrip _ _ h0)

theorem canon_doPhaseFault (ph : Nat) (s : State) (h0 : MemCanon s) : MemCanon (doPhaseFault ph s) := by
  unfold doPhaseFault
  repeat' first
    | with_reducible assumption
    | (intro x; refine canon_cut (s := x) ?_ ?_; rotate_left; clear_value x; intro _; rotate_left; dsimp -zeta only [x]; try clear x)
    | lift_lets
    | (with_reducible first
        | apply canon_softEntry | apply canon_modPower | apply canon_repairRecord | apply canon_raisePf | apply canon_noteSpares
        | apply canon_faultStop | apply canon_ite)
    | split

theorem canon_execRegPhaseFault (phase : Nat) (s : State) (h0 : MemCanon s) : CanonE (execRegPhaseFault phase s) :=
  canon_done (canon_doPhaseFault _ _ h0)

theorem canon_noteLimits (s : State) (old : Nat) (h0 : MemCanon s) : MemCanon (noteLimits s old) := by
  unfold noteLimits
  repeat' first
    | with_reducible assumption
    | (intro x
       first
         | (refine canon_cut (s := x) ?_ ?_; rotate_left; clear_value x; intro _; rotate_left; dsimp -zeta only [x]; try clear x)
         | clear_value x)
    | lift_lets
    | (with_reducible first | apply canon_raisePf | apply canon_ite)

theorem canon_governorRead (g : GovIn) (s : State) (h0 : MemCanon s) : MemCanon (governorRead g s) := by
  unfold governorRead
  repeat' first
    | with_reducible assumption
    | (intro x; clear_value x)
    | lift_lets
    | (with_reducible first | apply canon_checkWear | apply canon_modPower)

theorem canon_doGovernorTick (g : GovIn) (s : State) (h0 : MemCanon s) : MemCanon (doGovernorTick g s) := by
  unfold doGovernorTick
  repeat' first
    | with_reducible assumption
    | (intro x
       first
         | (refine canon_cut (s := x) ?_ ?_; rotate_left; clear_value x; intro _; rotate_left; dsimp -zeta only [x]; try clear x)
         | clear_value x)
    | lift_lets
    | (with_reducible first
        | apply canon_governorRead | apply canon_modPower | apply canon_noteLimits | apply canon_fireErr | apply canon_raisePf | apply canon_ite)

theorem canon_doCurrentTrip (s : State) (h0 : MemCanon s) : MemCanon (doCurrentTrip s) := by
  unfold doCurrentTrip
  repeat' first
    | with_reducible assumption
    | (intro x; clear_value x)
    | lift_lets
    | (with_reducible first | apply canon_modPower | apply canon_ite)

theorem canon_execCoreCurrentTrip (s : State) (h0 : MemCanon s) : CanonE (execCoreCurrentTrip s) := canon_done (canon_doCurrentTrip _ h0)

theorem canon_execDroopDetect (_face : Nat) (s : State) (h0 : MemCanon s) : CanonE (execDroopDetect _face s) := canon_done h0

theorem canon_doWearHour (s : State) (h0 : MemCanon s) : MemCanon (doWearHour s) := by
  unfold doWearHour
  repeat' first
    | with_reducible assumption
    | (intro x; refine canon_cut (s := x) ?_ ?_; rotate_left; clear_value x; intro _; rotate_left; dsimp -zeta only [x]; try clear x)
    | lift_lets
    | (with_reducible first | apply canon_modLog | apply canon_checkWear | apply canon_modPower | apply canon_ite)

theorem canon_execWearBinHour (s : State) (h0 : MemCanon s) : CanonE (execWearBinHour s) := canon_done (canon_doWearHour _ h0)

theorem canon_execClockRefLost (s : State) (h0 : MemCanon s) : CanonE (execClockRefLost s) := by
  unfold execClockRefLost
  repeat' first
    | with_reducible assumption
    | lift_lets
    | (with_reducible first | apply canon_raiseOn | apply canon_modPower | apply canon_ite | apply canon_done)

theorem canon_execRefclkReturn (s : State) (h0 : MemCanon s) : CanonE (execRefclkReturn s) := canon_done h0

theorem canon_doCoolant (t : Nat) (s : State) (h0 : MemCanon s) : MemCanon (doCoolant t s) := by
  unfold doCoolant
  repeat' first
    | with_reducible assumption
    | (intro x
       first
         | (refine canon_cut (s := x) ?_ ?_; rotate_left; clear_value x; intro _; rotate_left; dsimp -zeta only [x]; try clear x)
         | clear_value x)
    | lift_lets
    | (with_reducible first | apply canon_modPower | apply canon_raiseOn | apply canon_ite)

theorem canon_execCoolantInletRange (temp : Nat) (s : State) (h0 : MemCanon s) : CanonE (execCoolantInletRange temp s) :=
  canon_done (canon_doCoolant _ _ h0)

/-! ## Boot -/

theorem canon_refuseGo (s : State) (h0 : MemCanon s) : MemCanon (refuseGo s) := by
  unfold refuseGo
  repeat' first
    | with_reducible assumption
    | lift_lets
    | (with_reducible first | apply canon_modBoot | apply canon_ite)

theorem canon_sampleFor (s : State) (n : Nat) (h0 : MemCanon s) : MemCanon (sampleFor s n) := by
  unfold sampleFor
  repeat' first
    | with_reducible assumption
    | lift_lets
    | (with_reducible first | apply canon_modPower | apply canon_modBoot | apply canon_modTime | apply canon_ite)

theorem canon_startAttempt (s : State) (n : Nat) (h0 : MemCanon s) : MemCanon (startAttempt s n) := by
  unfold startAttempt
  repeat' first
    | with_reducible assumption
    | (intro x
       first
         | (refine canon_cut (s := x) ?_ ?_; rotate_left; clear_value x; intro _; rotate_left; dsimp -zeta only [x]; try clear x)
         | clear_value x)
    | lift_lets
    | (with_reducible first
        | apply canon_refuseGo | apply canon_modBoot | apply canon_fireVector | apply canon_sampleFor | apply canon_addRecord | apply canon_ite)

theorem canon_endAttempt (s : State) (n result cause us : Nat) (detail : List Nat) (h0 : MemCanon s) :
    MemCanon (endAttempt s n result cause us detail) := h0

theorem canon_runStep (n us : Nat) (work : Nat → State → State × BootOut × List Nat) (skip : State → State) (s : State) (h0 : MemCanon s) (hb : ∀ a s, MemCanon s → MemCanon (work a s).1) (hk : ∀ s, MemCanon s → MemCanon (skip s)) :
    MemCanon (runStep n us work skip s) := by
  unfold runStep
  repeat' first
    | with_reducible assumption
    | (intro x; refine canon_cut (s := x) ?_ ?_; rotate_left; clear_value x; intro _; rotate_left; dsimp -zeta only [x]; try clear x)
    | lift_lets
    | (with_reducible first
        | apply hk | apply hb | apply canon_startAttempt | apply canon_endAttempt | apply canon_ite | refine canon_fst (by assumption) ?_)
    | split

theorem canon_retest (s : State) (c : Nat) (tested : Nat → Bool) (bad : List Nat) (h0 : MemCanon s) : MemCanon (retest s c tested bad) := by
  unfold retest
  repeat' first
    | with_reducible assumption
    | (intro x
       first
         | (refine canon_cut (s := x) ?_ ?_; rotate_left; clear_value x; intro _; rotate_left; dsimp -zeta only [x]; try clear x)
         | clear_value x)
    | lift_lets
    | (with_reducible first | apply canon_modBoot | apply canon_modLog | apply canon_softEntry)
    | (with_reducible apply canon_foldl; intro _ _ _)

theorem canon_workPower (mv : Nat) (bad : List Nat) (_t : Nat) (s : State) (h0 : MemCanon s) : MemCanon (workPower mv bad _t s).1 := by
  unfold workPower
  repeat' first
    | with_reducible assumption
    | (intro x
       first
         | (refine canon_cut (s := x) ?_ ?_; rotate_left; clear_value x; intro _; rotate_left; dsimp -zeta only [x]; try clear x)
         | clear_value x)
    | lift_lets
    | (with_reducible first | apply canon_modPower | apply canon_retest | apply canon_ite_fst)

theorem canon_execBootStepPower (mv : Nat) (bad : List Nat) (us : Nat) (s : State) (h0 : MemCanon s) : CanonE (execBootStepPower mv bad us s) := by
  unfold execBootStepPower
  repeat' first
    | with_reducible assumption
    | intro _
    | lift_lets
    | (with_reducible first | apply canon_runStep | apply canon_workPower | apply canon_done)

theorem canon_workClock (locks : List Nat) (ns t : Nat) (s : State) (h0 : MemCanon s) : MemCanon (workClock locks ns t s).1 := by
  unfold workClock
  repeat' first
    | with_reducible assumption
    | (intro x
       first
         | (refine canon_cut (s := x) ?_ ?_; rotate_left; clear_value x; intro _; rotate_left; dsimp -zeta only [x]; try clear x)
         | clear_value x)
    | lift_lets
    | (with_reducible first | apply canon_modTime | apply canon_modPower | apply canon_modBoot | apply canon_ite | apply canon_ite_fst)

theorem canon_execBootStepClock (locks : List Nat) (ns us : Nat) (s : State) (h0 : MemCanon s) : CanonE (execBootStepClock locks ns us s) := by
  unfold execBootStepClock
  repeat' first
    | with_reducible assumption
    | intro _
    | lift_lets
    | (with_reducible first | apply canon_runStep | apply canon_workClock | apply canon_done)

theorem canon_takeCopies (s : State) (a b : Bool) (h0 : MemCanon s) : MemCanon (takeCopies s a b) := h0

theorem canon_workFuse (fuseOk a b : Bool) (t : Nat) (s : State) (h0 : MemCanon s) : MemCanon (workFuse fuseOk a b t s).1 := by
  unfold workFuse
  repeat' first
    | with_reducible assumption
    | (intro x; refine canon_cut (s := x) ?_ ?_; rotate_left; clear_value x; intro _; rotate_left; dsimp -zeta only [x]; try clear x)
    | lift_lets
    | (with_reducible first
        | apply canon_modBoot | apply canon_raisePf | apply canon_takeCopies | apply canon_modLog | apply canon_ite | apply canon_ite_fst)

theorem canon_execBootStepFuse (fuseOk crcA crcB : Bool) (us : Nat) (s : State) (h0 : MemCanon s) : CanonE (execBootStepFuse fuseOk crcA crcB us s) := by
  unfold execBootStepFuse
  repeat' first
    | with_reducible assumption
    | intro _
    | lift_lets
    | (with_reducible first | apply canon_runStep | apply canon_workFuse | apply canon_done)

theorem canon_workRom (agree : Bool) (t : Nat) (s : State) (h0 : MemCanon s) : MemCanon (workRom agree t s).1 := by
  unfold workRom
  repeat' first
    | with_reducible assumption
    | (intro x
       first
         | (refine canon_cut (s := x) ?_ ?_; rotate_left; clear_value x; intro _; rotate_left; dsimp -zeta only [x]; try clear x)
         | (refine canon_cut_host (x := x) ?_ ?_; rotate_left; clear_value x; intro _; rotate_left; dsimp -zeta only [x]; try clear x)
         | clear_value x)
    | lift_lets
    | (with_reducible first | apply canon_softEntry | apply canon_addRecord | apply canon_modBoot | apply canon_ite | apply canon_ite_fst)
    | dsimp only
    | (with_reducible first | apply MemCanon.bytes | apply MemCanon.hostMem | apply MemCanon.stage | apply MemCanon.slots | apply canon_mk)

theorem canon_execBootStepRom (agree : Bool) (us : Nat) (s : State) (h0 : MemCanon s) : CanonE (execBootStepRom agree us s) := by
  unfold execBootStepRom
  repeat' first
    | with_reducible assumption
    | intro _
    | lift_lets
    | (with_reducible first | apply canon_runStep | apply canon_workRom | apply canon_done)

theorem canon_workImage (startOk : Bool) (t : Nat) (s : State) (h0 : MemCanon s) : MemCanon (workImage startOk t s).1 := by
  unfold workImage modFw
  repeat' first
    | with_reducible assumption
    | (intro x
       first
         | (refine canon_cut (s := x) ?_ ?_; rotate_left; clear_value x; intro _; rotate_left; dsimp -zeta only [x]; try clear x)
         | (refine canon_cut_host (x := x) ?_ ?_; rotate_left; clear_value x; intro _; rotate_left; dsimp -zeta only [x]; try clear x)
         | clear_value x)
    | lift_lets
    | (with_reducible first | apply canon_modBoot | apply canon_ite_fst)
    | split
    | dsimp only
    | (with_reducible first | apply MemCanon.bytes | apply MemCanon.hostMem | apply MemCanon.stage | apply MemCanon.slots | apply canon_mk)

theorem canon_execBootStepImage (startOk : Bool) (us : Nat) (s : State) (h0 : MemCanon s) : CanonE (execBootStepImage startOk us s) := by
  unfold execBootStepImage
  repeat' first
    | with_reducible assumption
    | intro _
    | lift_lets
    | (with_reducible first | apply canon_runStep | apply canon_workImage | apply canon_done)

theorem canon_mapStacks (s : State) (h0 : MemCanon s) : MemCanon (mapStacks s) := h0

theorem canon_zeroMemory (s : State) (h0 : MemCanon s) : MemCanon (zeroMemory s) := by
  unfold zeroMemory
  repeat' first
    | with_reducible assumption
    | (intro x; refine canon_cut_mem (x := x) ?_ ?_; rotate_left; clear_value x; intro _; rotate_left; dsimp -zeta only [x]; try clear x)
    | lift_lets
    | dsimp only
    | (with_reducible first
        | apply Mem.wf_clear | apply MemCanon.bytes | apply MemCanon.hostMem | apply MemCanon.stage | apply MemCanon.slots | apply canon_mk)

theorem canon_repairRows (s : State) (ppr : List (Nat × Nat)) (h0 : MemCanon s) : MemCanon (repairRows s ppr) := by
  unfold repairRows
  repeat' first
    | with_reducible assumption
    | (intro x
       first
         | (refine canon_cut (s := x) ?_ ?_; rotate_left; clear_value x; intro _; rotate_left; dsimp -zeta only [x]; try clear x)
         | clear_value x)
    | lift_lets
    | with_reducible apply canon_addRecord
    | (with_reducible apply canon_foldl; intro _ _ _)
    | dsimp only
    | (with_reducible first | apply MemCanon.bytes | apply MemCanon.hostMem | apply MemCanon.stage | apply MemCanon.slots | apply canon_mk)

theorem canon_workMemory (reach : Bool) (bad : List Nat) (ppr : List (Nat × Nat)) (_t : Nat) (s : State) (h0 : MemCanon s) :
    MemCanon (workMemory reach bad ppr _t s).1 := by
  unfold workMemory
  repeat' first
    | with_reducible assumption
    | (intro x
       first
         | (refine canon_cut (s := x) ?_ ?_; rotate_left; clear_value x; intro _; rotate_left; dsimp -zeta only [x]; try clear x)
         | clear_value x)
    | lift_lets
    | (with_reducible first | apply canon_zeroMemory | apply canon_repairRows | apply canon_mapStacks | apply canon_retest | apply canon_ite_fst)

theorem canon_execBootStepMemory (reach : Bool) (bad : List Nat) (ppr : List (Nat × Nat)) (us : Nat) (s : State) (h0 : MemCanon s) :
    CanonE (execBootStepMemory reach bad ppr us s) := by
  unfold execBootStepMemory
  repeat' first
    | with_reducible assumption
    | intro _
    | lift_lets
    | (with_reducible first | apply canon_runStep | apply canon_workMemory | apply canon_done)

theorem canon_workFaces (badWires noTrain : List Nat) (t : Nat) (s : State) (h0 : MemCanon s) : MemCanon (workFaces badWires noTrain t s).1 := by
  unfold workFaces
  repeat' first
    | with_reducible assumption
    | (intro x
       first
         | (refine canon_cut (s := x) ?_ ?_; rotate_left; clear_value x; intro _; rotate_left; dsimp -zeta only [x]; try clear x)
         | clear_value x)
    | lift_lets
    | (with_reducible first | apply canon_retest | apply canon_modBoot | apply canon_ite_fst)

theorem canon_execBootStepFaces (badWires noTrain : List Nat) (us : Nat) (s : State) (h0 : MemCanon s) :
    CanonE (execBootStepFaces badWires noTrain us s) := by
  unfold execBootStepFaces
  repeat' first
    | with_reducible assumption
    | intro _
    | lift_lets
    | (with_reducible first | apply canon_runStep | apply canon_workFaces | apply canon_done)

theorem canon_workLoad (placed : Bool) (bad : List Nat) (_t : Nat) (s : State) (h0 : MemCanon s) : MemCanon (workLoad placed bad _t s).1 := by
  unfold workLoad
  repeat' first
    | with_reducible assumption
    | (intro x
       first
         | (refine canon_cut (s := x) ?_ ?_; rotate_left; clear_value x; intro _; rotate_left; dsimp -zeta only [x]; try clear x)
         | clear_value x)
    | lift_lets
    | (with_reducible first | apply canon_softEntry | apply canon_modBoot | apply canon_ite_fst)
    | (with_reducible apply canon_foldl; intro _ _ _)

theorem canon_execBootStepBenchLoad (placed : Bool) (bad : List Nat) (us : Nat) (s : State) (h0 : MemCanon s) :
    CanonE (execBootStepBenchLoad placed bad us s) := by
  unfold execBootStepBenchLoad
  repeat' first
    | with_reducible assumption
    | intro _
    | lift_lets
    | (with_reducible first | apply canon_runStep | apply canon_workLoad | apply canon_done)

theorem canon_placeBenches (s : State) (h0 : MemCanon s) : MemCanon (placeBenches s) := by
  unfold placeBenches
  repeat' first
    | with_reducible assumption
    | (intro x
       first
         | (refine canon_cut (s := x) ?_ ?_; rotate_left; clear_value x; intro _; rotate_left; dsimp -zeta only [x]; try clear x)
         | clear_value x)
    | lift_lets
    | (with_reducible first
        | apply canon_modBoot | apply MemCanon.bytes | apply MemCanon.hostMem | apply MemCanon.stage | apply MemCanon.slots | apply canon_mk)

theorem canon_workBenches (bad rows : List Nat) (_t : Nat) (s : State) (h0 : MemCanon s) : MemCanon (workBenches bad rows _t s).1 := by
  unfold workBenches
  repeat' first
    | with_reducible assumption
    | (intro x
       first
         | (refine canon_cut (s := x) ?_ ?_; rotate_left; clear_value x; intro _; rotate_left; dsimp -zeta only [x]; try clear x)
         | clear_value x)
    | lift_lets
    | (with_reducible first | apply canon_placeBenches | apply canon_retest | apply canon_ite_fst)

theorem canon_execBootStepBenchTest (bad rows : List Nat) (us : Nat) (s : State) (h0 : MemCanon s) : CanonE (execBootStepBenchTest bad rows us s) := by
  unfold execBootStepBenchTest
  repeat' first
    | with_reducible assumption
    | intro _
    | lift_lets
    | (with_reducible first | apply canon_runStep | apply canon_workBenches | apply canon_placeBenches | apply canon_done)

theorem canon_placeCores (s : State) (h0 : MemCanon s) : MemCanon (placeCores s) := h0

theorem canon_workCipher (bad : List Nat) (ok : Bool) (_t : Nat) (s : State) (h0 : MemCanon s) : MemCanon (workCipher bad ok _t s).1 := by
  unfold workCipher
  repeat' first
    | with_reducible assumption
    | (intro x
       first
         | (refine canon_cut (s := x) ?_ ?_; rotate_left; clear_value x; intro _; rotate_left; dsimp -zeta only [x]; try clear x)
         | clear_value x)
    | lift_lets
    | (with_reducible first
        | apply canon_clearKeys | apply canon_placeCores | apply canon_retest | apply canon_raisePf | apply canon_ite | apply canon_ite_fst)
    | (with_reducible apply canon_foldl; intro _ _ _)
    | split

theorem canon_skipCipher (s : State) (h0 : MemCanon s) : MemCanon (skipCipher s) := h0

theorem canon_execBootStepCipher (bad : List Nat) (ok : Bool) (us : Nat) (s : State) (h0 : MemCanon s) : CanonE (execBootStepCipher bad ok us s) := by
  unfold execBootStepCipher
  repeat' first
    | with_reducible assumption
    | intro _
    | lift_lets
    | (with_reducible first | apply canon_runStep | apply canon_workCipher | apply canon_skipCipher | apply canon_done)

theorem canon_trainPort (t : Nat) (s : State) (kf : Nat × PortFind) (h0 : MemCanon s) : MemCanon (trainPort t s kf).1 := by
  unfold trainPort
  repeat' first
    | with_reducible assumption
    | (intro x; clear_value x)
    | lift_lets
    | (with_reducible first | apply canon_raisePf | apply canon_addRecord | apply canon_ite_fst)
    | (with_reducible apply canon_foldl; intro _ _ _)
    | dsimp only
    | (with_reducible first | apply MemCanon.bytes | apply MemCanon.hostMem | apply MemCanon.stage | apply MemCanon.slots | apply canon_mk)

theorem canon_workBoard (finds : List PortFind) (t : Nat) (s : State) (h0 : MemCanon s) : MemCanon (workBoard finds t s).1 := by
  unfold workBoard
  repeat' first
    | with_reducible assumption
    | (intro x
       first
         | (refine canon_cut (s := x) ?_ ?_; rotate_left; clear_value x; intro _; rotate_left; dsimp -zeta only [x]; try clear x)
         | (refine canon_cut_fst (p := x) ?_ ?_; rotate_left; clear_value x; intro _; rotate_left; dsimp -zeta only [x]; try clear x)
         | clear_value x)
    | lift_lets
    | (with_reducible first | apply canon_retest | apply canon_trainPort | apply canon_ite_fst)
    | (with_reducible apply canon_foldl_fst; intro _ _ _)

theorem canon_execBootStepBoard (finds : List PortFind) (us : Nat) (s : State) (h0 : MemCanon s) : CanonE (execBootStepBoard finds us s) := by
  unfold execBootStepBoard
  repeat' first
    | with_reducible assumption
    | intro _
    | lift_lets
    | (with_reducible first | apply canon_runStep | apply canon_workBoard | apply canon_done)

theorem canon_workSite (fitted trained : List Nat) (t : Nat) (s : State) (h0 : MemCanon s) : MemCanon (workSite fitted trained t s).1 := by
  unfold workSite
  repeat' first
    | with_reducible assumption
    | (intro x
       first
         | (refine canon_cut (s := x) ?_ ?_; rotate_left; clear_value x; intro _; rotate_left; dsimp -zeta only [x]; try clear x)
         | clear_value x)
    | lift_lets
    | (with_reducible first | apply canon_retest | apply canon_raisePf | apply canon_ite | apply canon_ite_fst)
    | split
    | (with_reducible first | apply MemCanon.bytes | apply MemCanon.hostMem | apply MemCanon.stage | apply MemCanon.slots | apply canon_mk)

theorem canon_skipSite (s : State) (h0 : MemCanon s) : MemCanon (skipSite s) := h0

theorem canon_execBootStepSite (fitted trained : List Nat) (us : Nat) (s : State) (h0 : MemCanon s) : CanonE (execBootStepSite fitted trained us s) := by
  unfold execBootStepSite
  repeat' first
    | with_reducible assumption
    | intro _
    | lift_lets
    | (with_reducible first | apply canon_runStep | apply canon_workSite | apply canon_skipSite | apply canon_done)

theorem canon_workTime (t : Nat) (s : State) (h0 : MemCanon s) : MemCanon (workTime t s).1 := by
  unfold workTime
  repeat' first
    | with_reducible assumption
    | (intro x
       first
         | (refine canon_cut (s := x) ?_ ?_; rotate_left; clear_value x; intro _; rotate_left; dsimp -zeta only [x]; try clear x)
         | clear_value x)
    | lift_lets
    | (with_reducible first | apply canon_modBoot | apply canon_sendFrame | apply canon_modTime | apply canon_ite_fst)
    | (with_reducible apply canon_foldl; intro _ _ _)

theorem canon_skipTime (s : State) (h0 : MemCanon s) : MemCanon (skipTime s) := h0

theorem canon_execBootStepTime (us : Nat) (s : State) (h0 : MemCanon s) : CanonE (execBootStepTime us s) := by
  unfold execBootStepTime
  repeat' first
    | with_reducible assumption
    | intro _
    | lift_lets
    | (with_reducible first | apply canon_runStep | apply canon_workTime | apply canon_skipTime | apply canon_done)

theorem canon_burnUnit (s : State) (k : Nat) (h0 : MemCanon s) : MemCanon (burnUnit s k) := by
  unfold burnUnit
  repeat' first
    | with_reducible assumption
    | (intro x
       first
         | (refine canon_cut (s := x) ?_ ?_; rotate_left; clear_value x; intro _; rotate_left; dsimp -zeta only [x]; try clear x)
         | clear_value x)
    | lift_lets
    | (with_reducible first
        | apply canon_modBoot | apply canon_putMap | apply canon_modLog | apply canon_addRecord | apply canon_raisePf | apply canon_ite)

theorem canon_burnImage (s : State) (h0 : MemCanon s) : MemCanon (burnImage s) := by
  unfold burnImage
  repeat' first
    | with_reducible assumption
    | (intro x; clear_value x)
    | lift_lets
    | with_reducible apply canon_modBoot
    | split

theorem canon_resetPointers (s : State) (h0 : MemCanon s) : MemCanon (resetPointers s) := h0

theorem canon_workReady (_t : Nat) (s : State) (h0 : MemCanon s) : MemCanon (workReady _t s).1 := by
  unfold workReady modFw
  repeat' first
    | with_reducible assumption
    | (intro x
       first
         | (refine canon_cut (s := x) ?_ ?_; rotate_left; clear_value x; intro _; rotate_left; dsimp -zeta only [x]; try clear x)
         | clear_value x)
    | lift_lets
    | (with_reducible first
        | apply canon_burnUnit | apply canon_resetPointers | apply canon_burnImage | apply canon_modPower | apply canon_raisePf | apply canon_modBoot
        | apply canon_fireVector | apply canon_noteSpares | apply canon_ite)
    | (with_reducible apply canon_foldl; intro _ _ _)
    | split
    | dsimp only
    | (with_reducible first | apply MemCanon.bytes | apply MemCanon.hostMem | apply MemCanon.stage | apply MemCanon.slots | apply canon_mk)

theorem canon_execBootStepReady (us : Nat) (s : State) (h0 : MemCanon s) : CanonE (execBootStepReady us s) := by
  unfold execBootStepReady
  repeat' first
    | with_reducible assumption
    | intro _
    | lift_lets
    | (with_reducible first | apply canon_runStep | apply canon_workReady | apply canon_done)

end Sys2Proof.Machine
end

