-- ==== Sys2Proof/Laws/CanonBench.lean ====
section
/-! SUPPORT. Canonical memories through conveyors, tasks, scheduling and bench commands: each operation keeps them, one lemma per operation. -/

namespace Sys2Proof.Machine

/-! ## Conv -/

theorem canon_raiseConv (s : State) (jk k : Nat) (d : ConvDesc) (code : Nat) (h0 : MemCanon s) : MemCanon (raiseConv s jk k d code) :=
  canon_raisePart _ _ _ _ _ h0

theorem canon_toPeer (s : State) (jk : Nat) (c : Conv) (kind : MsgKind) (h0 : MemCanon s) : MemCanon (toPeer s jk c kind) := by
  unfold toPeer
  repeat' first
    | with_reducible assumption
    | lift_lets
    | (with_reducible first | apply canon_sendFrame | apply canon_ite)
    | split

theorem canon_evalHold (s : State) (jk k : Nat) (h0 : MemCanon s) : MemCanon (evalHold s jk k) := by
  unfold evalHold
  repeat' first
    | with_reducible assumption
    | (intro x
       first
         | (refine canon_cut (s := x) ?_ ?_; rotate_left; clear_value x; intro _; rotate_left; dsimp -zeta only [x]; try clear x)
         | clear_value x)
    | lift_lets
    | (with_reducible first | apply canon_modConv | apply canon_toPeer | apply canon_ite)
    | split

theorem canon_allocSlot (s : State) (jk k : Nat) (p : Nat × Nat) (h0 : MemCanon s) : MemCanon (allocSlot s jk k p) := by
  unfold allocSlot
  repeat' first
    | with_reducible assumption
    | lift_lets
    | (with_reducible first | apply canon_evalHold | apply canon_modConv)

theorem canon_freeSlot (s : State) (jk k home word : Nat) (h0 : MemCanon s) : MemCanon (freeSlot s jk k home word) := by
  unfold freeSlot
  repeat' first
    | with_reducible assumption
    | (intro x
       first
         | (refine canon_cut (s := x) ?_ ?_; rotate_left; clear_value x; intro _; rotate_left; dsimp -zeta only [x]; try clear x)
         | clear_value x)
    | lift_lets
    | (with_reducible first | apply canon_modConv | apply canon_toPeer | apply canon_evalHold | apply canon_ite)
    | split

theorem canon_storeWords (s : State) (jk k home word : Nat) (ws : List CWord) (h0 : MemCanon s) : MemCanon (storeWords s jk k home word ws) := by
  unfold storeWords
  repeat' first
    | with_reducible assumption
    | (intro x
       first
         | (refine canon_cut (s := x) ?_ ?_; rotate_left; clear_value x; intro _; rotate_left; dsimp -zeta only [x]; try clear x)
         | clear_value x)
    | lift_lets
    | (with_reducible first | apply canon_applyComp | apply canon_wrOwn | apply canon_modConv | apply canon_ite)
    | split

theorem canon_checkSlot (s : State) (jk k : Nat) (x : CSlot) (rs : List (Nat × Nat)) (h0 : MemCanon s) : MemCanon (checkSlot s jk k x rs) := by
  unfold checkSlot
  repeat' first
    | with_reducible assumption
    | (intro x
       first
         | (refine canon_cut (s := x) ?_ ?_; rotate_left; clear_value x; intro _; rotate_left; dsimp -zeta only [x]; try clear x)
         | clear_value x)
    | lift_lets
    | (with_reducible first | apply canon_applyCells | apply canon_raiseConv | apply canon_modConv | apply canon_ite)
    | split

theorem canon_checkSlotParity (s : State) (jk k : Nat) (x : CSlot) (h0 : MemCanon s) : MemCanon (checkSlotParity s jk k x) := by
  unfold checkSlotParity
  repeat' first
    | (with_reducible first | assumption | apply canon_checkSlot)
    | split

theorem canon_checkReads (s : State) (jk : Nat) (rs : List (Nat × Nat)) (h0 : MemCanon s) : MemCanon (checkReads s jk rs) := by
  unfold checkReads
  repeat' first
    | with_reducible assumption
    | lift_lets
    | with_reducible apply canon_checkSlot
    | (with_reducible apply canon_foldl; intro _ _ _)

theorem canon_takeSlot (s : State) (jk k : Nat) (p : Nat × Nat) (h0 : MemCanon s) : MemCanon (takeSlot s jk k p) := by
  unfold takeSlot
  repeat' first
    | with_reducible assumption
    | lift_lets
    | (with_reducible first | apply canon_allocSlot | apply canon_modConv)

theorem canon_endWaits (s : State) (jk k : Nat) (us : List Tput) (h0 : MemCanon s) : MemCanon (endWaits s jk k us) := h0

theorem canon_sendTile (s : State) (jk k : Nat) (d : ConvDesc) (ws : List CWord) (h0 : MemCanon s) : MemCanon (sendTile s jk k d ws).1 := by
  unfold sendTile
  repeat' first
    | with_reducible assumption
    | (intro x
       first
         | (refine canon_cut (s := x) ?_ ?_; rotate_left; clear_value x; intro _; rotate_left; dsimp -zeta only [x]; try clear x)
         | clear_value x)
    | lift_lets
    | (with_reducible first | apply canon_modConv | apply canon_sendFrame | apply canon_storeWords | apply canon_takeSlot | apply canon_ite_fst)
    | split

theorem canon_noteWait (s : State) (jk k : Nat) (d : ConvDesc) (h0 : MemCanon s) : MemCanon (noteWait s jk k d) := h0

theorem canon_landIn (s : State) (jk k : Nat) (d : ConvDesc) (p : Nat × Nat) (ws : List CWord) (h0 : MemCanon s) : MemCanon (landIn s jk k d p ws) := by
  unfold landIn
  repeat' first
    | with_reducible assumption
    | (intro x
       first
         | (refine canon_cut (s := x) ?_ ?_; rotate_left; clear_value x; intro _; rotate_left; dsimp -zeta only [x]; try clear x)
         | clear_value x)
    | lift_lets
    | (with_reducible first | apply canon_storeWords | apply canon_wrOwn | apply canon_raiseConv | apply canon_modConv | apply canon_ite)
    | (with_reducible apply canon_foldl; intro _ _ _)

theorem canon_completePartial (s : State) (jk k : Nat) (d : ConvDesc) (h0 : MemCanon s) : MemCanon (completePartial s jk k d) := by
  unfold completePartial
  repeat' first
    | with_reducible assumption
    | (intro x; clear_value x)
    | lift_lets
    | (with_reducible first | apply canon_landIn | apply canon_modConv)
    | split

theorem canon_breakConv (s : State) (jk k : Nat) (h0 : MemCanon s) : MemCanon (breakConv s jk k) := by
  unfold breakConv
  repeat' first
    | with_reducible assumption
    | (intro x
       first
         | (refine canon_cut (s := x) ?_ ?_; rotate_left; clear_value x; intro _; rotate_left; dsimp -zeta only [x]; try clear x)
         | clear_value x)
    | lift_lets
    | (with_reducible first | apply canon_completePartial | apply canon_modConv | apply canon_endWaits | apply canon_raiseConv | apply canon_ite)
    | split
    | (with_reducible first | apply MemCanon.bytes | apply MemCanon.hostMem | apply MemCanon.stage | apply MemCanon.slots | apply canon_mk)

/-! ## Contexts -/

theorem canon_modHaul (s : State) (jk r p : Nat) (f : HaulCtx → HaulCtx) (h0 : MemCanon s) : MemCanon (modHaul s jk r p f) := h0

theorem canon_modRound (s : State) (jk : Nat) (f : RoundSt → RoundSt) (h0 : MemCanon s) : MemCanon (modRound s jk f) := h0

theorem canon_modRShard (s : State) (jk r : Nat) (f : RoundShard → RoundShard) (h0 : MemCanon s) : MemCanon (modRShard s jk r f) := h0

theorem canon_bumpRound (s : State) (jk off n : Nat) (h0 : MemCanon s) : MemCanon (bumpRound s jk off n) := by
  unfold bumpRound
  repeat' first
    | with_reducible assumption
    | (intro x; clear_value x)
    | lift_lets
    | (with_reducible first | apply canon_wrLe | apply canon_ite)

theorem canon_releaseHauls (s : State) (jk r p : Nat) (pick : SendHaul → Bool) (h0 : MemCanon s) : MemCanon (releaseHauls s jk r p pick) := by
  unfold releaseHauls
  repeat' first
    | with_reducible assumption
    | (intro x
       first
         | (refine canon_cut (s := x) ?_ ?_; rotate_left; clear_value x; intro _; rotate_left; dsimp -zeta only [x]; try clear x)
         | clear_value x)
    | lift_lets
    | (with_reducible first | apply canon_modHaul | apply canon_bumpRound)

theorem canon_setMasks (s : State) (jk r : Nat) (h0 : MemCanon s) : MemCanon (setMasks s jk r) := by
  unfold setMasks
  repeat' first
    | with_reducible assumption
    | (intro x
       first
         | (refine canon_cut (s := x) ?_ ?_; rotate_left; clear_value x; intro _; rotate_left; dsimp -zeta only [x]; try clear x)
         | clear_value x)
    | lift_lets
    | (with_reducible first | apply canon_wrBytes | apply canon_wrLe)

theorem canon_setCtxState (s : State) (jk r p v : Nat) (h0 : MemCanon s) : MemCanon (setCtxState s jk r p v) := by
  unfold setCtxState
  repeat' first
    | with_reducible assumption
    | lift_lets
    | (with_reducible first | apply canon_setMasks | apply canon_wrLe)

theorem canon_openCtx (s : State) (jk r p v inc : Nat) (h0 : MemCanon s) : MemCanon (openCtx s jk r p v inc) := by
  unfold openCtx
  repeat' first
    | with_reducible assumption
    | (intro x
       first
         | (refine canon_cut (s := x) ?_ ?_; rotate_left; clear_value x; intro _; rotate_left; dsimp -zeta only [x]; try clear x)
         | clear_value x)
    | lift_lets
    | (with_reducible first | apply canon_wrBytes | apply canon_modHaul | apply canon_setMasks)

theorem canon_freeCtx (s : State) (jk r p : Nat) (h0 : MemCanon s) : MemCanon (freeCtx s jk r p) := by
  unfold freeCtx
  repeat' first
    | with_reducible assumption
    | (intro x
       first
         | (refine canon_cut (s := x) ?_ ?_; rotate_left; clear_value x; intro _; rotate_left; dsimp -zeta only [x]; try clear x)
         | clear_value x)
    | lift_lets
    | (with_reducible first | apply canon_releaseHauls | apply canon_wrBytes | apply canon_setMasks | apply canon_modHaul | apply canon_ite)

theorem canon_freeShardCtxs (s : State) (jk r : Nat) (h0 : MemCanon s) : MemCanon (freeShardCtxs s jk r) := by
  unfold freeShardCtxs
  repeat' first
    | with_reducible assumption
    | lift_lets
    | with_reducible apply canon_freeCtx
    | (with_reducible apply canon_foldl; intro _ _ _)

theorem canon_freeJobCtxs (s : State) (jk : Nat) (h0 : MemCanon s) : MemCanon (freeJobCtxs s jk) := by
  unfold freeJobCtxs
  repeat' first
    | with_reducible assumption
    | (intro x; clear_value x)
    | lift_lets
    | (with_reducible first | apply canon_freeShardCtxs | apply canon_ite)
    | (with_reducible apply canon_foldl; intro _ _ _)
    | split

theorem canon_openShardCtxs (s : State) (jk r inc : Nat) (h0 : MemCanon s) : MemCanon (openShardCtxs s jk r inc) := by
  unfold openShardCtxs
  repeat' first
    | with_reducible assumption
    | lift_lets
    | (with_reducible first | apply canon_openCtx | apply canon_ite)
    | (with_reducible apply canon_foldl; intro _ _ _)

theorem canon_moveRounds (s : State) (old new : RoundPolicy) (n : Nat) (h0 : MemCanon s) : MemCanon (moveRounds s old new n) := by
  unfold moveRounds
  repeat' first
    | with_reducible assumption
    | (intro x
       first
         | (refine canon_cut (s := x) ?_ ?_; rotate_left; clear_value x; intro _; rotate_left; dsimp -zeta only [x]; try clear x)
         | (have _g : _ → _ → _ → _ → State := x; clear _g; dsimp -zeta only [x]; clear x)
         | clear_value x)
    | lift_lets
    | (with_reducible first | apply canon_wrBytes | apply canon_ite)

/-! ## Notices -/

theorem canon_longDone (s : State) (r : LongRef) (status : Nat) (h0 : MemCanon s) : MemCanon (longDone s r status) := canon_sendEvent _ _ _ h0

theorem canon_raiseShard (s : State) (jk code step : Nat) (t : TensorEnt) (more : List (Nat × Nat)) (h0 : MemCanon s) :
    MemCanon (raiseShard s jk code step t more) := canon_raisePart _ _ _ _ _ h0

theorem canon_notifyAll (s : State) (jk : Nat) (k : MsgKind) (args : List Nat) (h0 : MemCanon s) : MemCanon (notifyAll s jk k args) := by
  unfold notifyAll
  repeat' first
    | with_reducible assumption
    | lift_lets
    | with_reducible apply canon_sendFrame
    | (with_reducible apply canon_foldl; intro _ _ _)

theorem canon_raiseCkpt (s : State) (jk code tag stp : Nat) (h0 : MemCanon s) : MemCanon (raiseCkpt s jk code tag stp) := canon_raisePart _ _ _ _ _ h0

theorem canon_raiseHeld (s : State) (jk e : Nat) (h : HoldCause) (h0 : MemCanon s) : MemCanon (raiseHeld s jk e h) := canon_raisePart _ _ _ _ _ h0

theorem canon_announceHold (s : State) (jk : Nat) (h : HoldCause) (round : Bool) (h0 : MemCanon s) : MemCanon (announceHold s jk h round) := by
  unfold announceHold
  repeat' first
    | with_reducible assumption
    | (intro x; clear_value x)
    | lift_lets
    | (with_reducible first | apply canon_raiseHeld | apply canon_modJob | apply canon_ite)

theorem canon_endHold (s : State) (jk : Nat) (h : HoldCause) (h0 : MemCanon s) : MemCanon (endHold s jk h) := by
  unfold endHold
  repeat' first
    | with_reducible assumption
    | (intro x
       first
         | (refine canon_cut (s := x) ?_ ?_; rotate_left; clear_value x; intro _; rotate_left; dsimp -zeta only [x]; try clear x)
         | clear_value x)
    | lift_lets
    | (with_reducible first | apply canon_modJob | apply canon_raiseCkpt | apply canon_ite)

theorem canon_shardLost (s : State) (jk : Nat) (t : TensorEnt) (h0 : MemCanon s) : MemCanon (shardLost s jk t) := by
  unfold shardLost
  repeat' first
    | with_reducible assumption
    | (intro x; refine canon_cut (s := x) ?_ ?_; rotate_left; clear_value x; intro _; rotate_left; dsimp -zeta only [x]; try clear x)
    | lift_lets
    | (with_reducible first
        | apply canon_raiseShard | apply canon_raisePart | apply canon_modJob | apply canon_longDone | apply canon_announceHold
        | apply canon_notifyAll | apply canon_ite)
    | split

/-! ## Sched -/

theorem canon_startOn (s : State) (lb c : Nat) (t : Task) (h0 : MemCanon s) : MemCanon (startOn s lb c t) := h0

theorem canon_noteChain (s : State) (jk lb : Nat) (t : Task) (h0 : MemCanon s) : MemCanon (noteChain s jk lb t) := by
  unfold noteChain
  repeat' first
    | with_reducible assumption
    | lift_lets
    | (with_reducible first | apply canon_modJob | apply canon_ite)

theorem canon_startTask (s : State) (jk lb : Nat) (t : Task) (h0 : MemCanon s) : MemCanon (startTask s jk lb t) := by
  unfold startTask
  repeat' first
    | with_reducible assumption
    | (intro x
       first
         | (refine canon_cut (s := x) ?_ ?_; rotate_left; clear_value x; intro _; rotate_left; dsimp -zeta only [x]; try clear x)
         | clear_value x)
    | lift_lets
    | (with_reducible first | apply canon_startOn | apply canon_noteChain | apply canon_ite)
    | split

theorem canon_selectCtx (s : State) (lb c : Nat) (h0 : MemCanon s) : CanonO (selectCtx s lb c) := by
  unfold selectCtx
  repeat' first
    | (with_reducible first | assumption | exact canon_none)
    | (intro x; clear_value x)
    | lift_lets
    | (with_reducible first | apply canon_startTask | apply canon_modCtx | apply canon_iteO | apply canon_some)
    | split

theorem canon_stealCtx (s : State) (lb c : Nat) (h0 : MemCanon s) : CanonO (stealCtx s lb c) := by
  unfold stealCtx
  repeat' first
    | (with_reducible first | assumption | exact canon_none)
    | intro _
    | lift_lets
    | (with_reducible first | apply canon_modBench | apply canon_iteO | apply canon_map | apply canon_bind)

theorem canon_endRewrites (s : State) (lb : Nat) (h0 : MemCanon s) : MemCanon (endRewrites s lb) := h0

theorem canon_selectFiller (s : State) (lb : Nat) (h0 : MemCanon s) : MemCanon (selectFiller s lb) := by
  have h1 := canon_selectCtx s lb 1 h0
  have h2 := fun c => canon_stealCtx s lb c h0
  unfold selectFiller
  split
  · exact canon_ite h0 (canon_getD h1 h0)
  · dsimp only
    have h3 : CanonO ((if heldProducer s lb then stealCtx s lb 0 else none).orElse (fun _ => selectCtx s lb 1)) :=
      canon_orElse (canon_iteO (h2 0) canon_none) h1
    split
    · rename_i e
      exact canon_of_some e h3
    · exact canon_getD (canon_orElse (h2 0) (h2 1)) h0

theorem canon_selectNext (s : State) (lb : Nat) (h0 : MemCanon s) : MemCanon (selectNext s lb) := by
  unfold selectNext
  repeat' first
    | with_reducible assumption
    | (intro x; refine canon_cut (s := x) ?_ ?_; rotate_left; clear_value x; intro _; rotate_left; dsimp -zeta only [x]; try clear x)
    | lift_lets
    | (with_reducible first
        | apply canon_endRewrites | apply canon_startOn | apply canon_selectCtx | apply canon_selectFiller | apply canon_ite
        | refine canon_of_some (by assumption) ?_)
    | split

theorem canon_notePass (s : State) (jk : Nat) (h0 : MemCanon s) : MemCanon (notePass s jk) := by
  unfold notePass
  repeat' first
    | with_reducible assumption
    | (intro x; clear_value x)
    | lift_lets
    | (with_reducible first | apply canon_modJob | apply canon_ite)
    | split

theorem canon_wakePart (s : State) (p : Nat) (h0 : MemCanon s) : MemCanon (wakePart s p) := by
  unfold wakePart
  repeat' first
    | with_reducible assumption
    | (intro x; refine canon_cut (s := x) ?_ ?_; rotate_left; clear_value x; intro _; rotate_left; dsimp -zeta only [x]; try clear x)
    | lift_lets
    | (with_reducible first | apply canon_notePass | apply canon_selectNext | apply canon_ite)
    | (with_reducible apply canon_foldl; intro _ _ _)

theorem canon_countQuery (s : State) (jk : Nat) (st : Station) (t : Task) (h0 : MemCanon s) : MemCanon (countQuery s jk st t) := by
  unfold countQuery
  repeat' first
    | with_reducible assumption
    | (intro x; clear_value x)
    | lift_lets
    | (with_reducible first | apply canon_modJob | apply canon_wrOwnLe)

theorem canon_enqueue (s : State) (jk lb : Nat) (t : Task) (h0 : MemCanon s) : MemCanon (enqueue s jk lb t) := by
  unfold enqueue
  repeat' first
    | with_reducible assumption
    | (intro x; have _g : _ → _ → State := x; clear _g; dsimp -zeta only [x]; clear x)
    | lift_lets
    | (with_reducible first | apply canon_modCtx | apply canon_countQuery)
    | split

theorem canon_waitTask (s : State) (jk : Nat) (t : Task) (o : Option Nat) (h0 : MemCanon s) : MemCanon (waitTask s jk t o) := h0

theorem canon_bumpGroup (s : State) (jk k lb : Nat) (h0 : MemCanon s) : MemCanon (bumpGroup s jk k lb) := h0

theorem canon_freeInputs (s : State) (jk : Nat) (t : Task) (h0 : MemCanon s) : MemCanon (freeInputs s jk t) := by
  unfold freeInputs
  repeat' first
    | with_reducible assumption
    | lift_lets
    | (with_reducible first | apply canon_freeSlot | apply canon_ite)
    | (with_reducible apply canon_foldl; intro _ _ _)

theorem canon_putTile (s : State) (jk k lb : Nat) (ws : List CWord) (h0 : MemCanon s) : MemCanon (putTile s jk k lb ws) := by
  unfold putTile
  repeat' first
    | with_reducible assumption
    | lift_lets
    | (with_reducible first
        | apply canon_sendTile | apply canon_modCtx | apply canon_noteWait | apply canon_ite | refine canon_fst (by assumption) ?_)
    | split

theorem canon_completeLost (s : State) (jk lb : Nat) (t : Task) (h0 : MemCanon s) : MemCanon (completeLost s jk lb t) := by
  unfold completeLost
  repeat' first
    | with_reducible assumption
    | (intro x; refine canon_cut (s := x) ?_ ?_; rotate_left; clear_value x; intro _; rotate_left; dsimp -zeta only [x]; try clear x)
    | lift_lets
    | (with_reducible first | apply canon_freeInputs | apply canon_modJob | apply canon_putTile | apply canon_ite)
    | (with_reducible apply canon_foldl; intro _ _ _)
    | split

theorem canon_dealTask (s : State) (jk : Nat) (t : Task) (h0 : MemCanon s) : MemCanon (dealTask s jk t) := by
  unfold dealTask
  repeat' first
    | with_reducible assumption
    | (intro x; clear_value x)
    | lift_lets
    | (with_reducible first | apply canon_completeLost | apply canon_bumpGroup | apply canon_enqueue | apply canon_waitTask | apply canon_ite)
    | split

theorem canon_dealWaiting (s : State) (jk : Nat) (h0 : MemCanon s) : MemCanon (dealWaiting s jk) := by
  unfold dealWaiting
  repeat' first
    | with_reducible assumption
    | (intro x; clear_value x)
    | lift_lets
    | (with_reducible first | apply canon_dealTask | apply canon_modJob)
    | (with_reducible apply canon_foldl; intro _ _ _)

theorem canon_nextSeq (s : State) (jk k step : Nat) (h0 : MemCanon s) : MemCanon (nextSeq s jk k step).2 := by
  unfold nextSeq
  repeat' first
    | with_reducible assumption
    | (intro x; clear_value x)
    | lift_lets
    | with_reducible apply canon_modJob

theorem canon_loseChains (s : State) (jk lb : Nat) (h0 : MemCanon s) : MemCanon (loseChains s jk lb) := by
  unfold loseChains
  repeat' first
    | with_reducible assumption
    | (intro x
       first
         | (refine canon_cut (s := x) ?_ ?_; rotate_left; clear_value x; intro _; rotate_left; dsimp -zeta only [x]; try clear x)
         | clear_value x)
    | lift_lets
    | (with_reducible first | apply canon_modJob | apply canon_raiseBench | apply canon_modCtx | apply canon_completeLost)
    | (with_reducible apply canon_foldl; intro _ _ _)

theorem canon_tearUpdate (s : State) (jk : Nat) (t : Task) (h0 : MemCanon s) : MemCanon (tearUpdate s jk t) := by
  unfold tearUpdate
  repeat' first
    | with_reducible assumption
    | (intro x
       first
         | (refine canon_cut (s := x) ?_ ?_; rotate_left; clear_value x; intro _; rotate_left; dsimp -zeta only [x]; try clear x)
         | clear_value x)
    | lift_lets
    | (with_reducible first | apply canon_wrLe | apply canon_modJob | apply canon_shardLost | apply canon_sendFrame | apply canon_ite)
    | split

theorem canon_dropTputs (s : State) (jk lb : Nat) (h0 : MemCanon s) : MemCanon (dropTputs s jk lb) := by
  unfold dropTputs
  repeat' first
    | with_reducible assumption
    | (intro x
       first
         | (refine canon_cut (s := x) ?_ ?_; rotate_left; clear_value x; intro _; rotate_left; dsimp -zeta only [x]; try clear x)
         | clear_value x)
    | lift_lets
    | (with_reducible first | apply canon_modCtx | apply canon_endWaits | apply canon_freeSlot | apply canon_modConv)
    | (with_reducible apply canon_foldl; intro _ _ _)
    | split

theorem canon_haltCtx (s : State) (lb c : Nat) (h0 : MemCanon s) : MemCanon (haltCtx s lb c) := by
  unfold haltCtx
  repeat' first
    | with_reducible assumption
    | (intro x; refine canon_cut (s := x) ?_ ?_; rotate_left; clear_value x; intro _; rotate_left; dsimp -zeta only [x]; try clear x)
    | lift_lets
    | (with_reducible first | apply canon_modCtx | apply canon_dropTputs | apply canon_addBusy | apply canon_loseChains | apply canon_tearUpdate)
    | split

theorem canon_freezeBench (s : State) (lb c cause access addr : Nat) (h0 : MemCanon s) : MemCanon (freezeBench s lb c cause access addr) := by
  unfold freezeBench
  repeat' first
    | with_reducible assumption
    | (intro x; refine canon_cut (s := x) ?_ ?_; rotate_left; clear_value x; intro _; rotate_left; dsimp -zeta only [x]; try clear x)
    | lift_lets
    | (with_reducible first | apply canon_haltCtx | apply canon_recordFreeze | apply canon_selectNext)

/-! ## Jobs -/

theorem canon_spdCorrected (s : State) (lb c st off : Nat) (h0 : MemCanon s) : MemCanon (spdCorrected s lb c st off) := h0

theorem canon_spdUncorrectable (s : State) (lb c st off : Nat) (h0 : MemCanon s) : MemCanon (spdUncorrectable s lb c st off) := by
  unfold spdUncorrectable
  repeat' first
    | with_reducible assumption
    | (intro x; refine canon_cut (s := x) ?_ ?_; rotate_left; clear_value x; intro _; rotate_left; dsimp -zeta only [x]; try clear x)
    | lift_lets
    | (with_reducible first | apply canon_modBench | apply canon_raiseBench)

theorem canon_spdEcc (s : State) (lb c st off kind : Nat) (h0 : MemCanon s) : MemCanon (spdEcc s lb c st off kind) := by
  unfold spdEcc
  repeat' first
    | with_reducible assumption
    | lift_lets
    | (with_reducible first | apply canon_spdCorrected | apply canon_spdUncorrectable | apply canon_ite)

theorem canon_noteSpdErrs (s : State) (c st : Nat) (errs : List (Nat × Bool)) (h0 : MemCanon s) : MemCanon (noteSpdErrs s c st errs) := by
  unfold noteSpdErrs
  repeat' first
    | with_reducible assumption
    | lift_lets
    | (with_reducible first | apply canon_spdEcc | apply canon_ite)
    | (with_reducible apply canon_foldl; intro _ _ _)

theorem canon_setComp (s : State) (im : Image) (on : Bool) (h0 : MemCanon s) : MemCanon (setComp s im on) := h0

theorem canon_emptyBenches (s : State) (jk : Nat) (h0 : MemCanon s) : MemCanon (emptyBenches s jk) := h0

theorem canon_dropConvs (s : State) (jk : Nat) (h0 : MemCanon s) : MemCanon (dropConvs s jk) := h0

theorem canon_endCkpt (s : State) (jk status : Nat) (all : Bool) (h0 : MemCanon s) : MemCanon (endCkpt s jk status all) := by
  unfold endCkpt
  repeat' first
    | with_reducible assumption
    | (intro x; clear_value x)
    | lift_lets
    | (with_reducible first | apply canon_longDone | apply canon_ite)
    | split
    | (with_reducible first | apply MemCanon.bytes | apply MemCanon.hostMem | apply MemCanon.stage | apply MemCanon.slots | apply canon_mk)

theorem canon_endLong (s : State) (jk status : Nat) (all : Bool) (h0 : MemCanon s) : MemCanon (endLong s jk status all) := by
  unfold endLong
  repeat' first
    | with_reducible assumption
    | (intro x
       first
         | (refine canon_cut (s := x) ?_ ?_; rotate_left; clear_value x; intro _; rotate_left; dsimp -zeta only [x]; try clear x)
         | clear_value x)
    | lift_lets
    | (with_reducible first | apply canon_longDone | apply canon_endCkpt)
    | split

theorem canon_breakAll (s : State) (jk : Nat) (h0 : MemCanon s) : MemCanon (breakAll s jk) := by
  unfold breakAll
  repeat' first
    | with_reducible assumption
    | lift_lets
    | with_reducible apply canon_breakConv
    | (with_reducible apply canon_foldl; intro _ _ _)
    | split

theorem canon_freeJob (s : State) (jk status : Nat) (all : Bool) (h0 : MemCanon s) : MemCanon (freeJob s jk status all) := by
  unfold freeJob
  repeat' first
    | with_reducible assumption
    | (intro x; refine canon_cut (s := x) ?_ ?_; rotate_left; clear_value x; intro _; rotate_left; dsimp -zeta only [x]; try clear x)
    | lift_lets
    | (with_reducible first
        | apply canon_endLong | apply canon_freeJobCtxs | apply canon_breakAll | apply canon_setComp | apply canon_modJob | apply canon_dropConvs
        | apply canon_emptyBenches)
    | split

theorem canon_closeJob (s : State) (jk cause : Nat) (h0 : MemCanon s) : MemCanon (closeJob s jk cause) := by
  unfold closeJob
  repeat' first
    | with_reducible assumption
    | (intro x; clear_value x)
    | lift_lets
    | (with_reducible first | apply canon_wakePart | apply canon_raiseFunc | apply canon_freeJob | apply canon_ite)

theorem canon_taskFault (s : State) (lb c st code : Nat) (h0 : MemCanon s) : MemCanon (taskFault s lb c st code) := by
  unfold taskFault
  repeat' first
    | with_reducible assumption
    | (intro x; refine canon_cut (s := x) ?_ ?_; rotate_left; clear_value x; intro _; rotate_left; dsimp -zeta only [x]; try clear x)
    | lift_lets
    | (with_reducible first | apply canon_raiseBench | apply canon_modCtx | apply canon_closeJob)
    | split

/-! ## Cc -/

theorem canon_ccRun (s : State) (lb c : Nat) (f : Nat → BCtx → Task → State) (h0 : MemCanon s) (hb : ∀ a b c, MemCanon (f a b c)) :
    MemCanon (ccRun s lb c f) := by
  unfold ccRun
  repeat' first
    | with_reducible assumption
    | (intro x; clear_value x)
    | lift_lets
    | (with_reducible first | apply hb | apply canon_taskFault | apply canon_ite)
    | split

theorem canon_writeD (s : State) (lb c d : Nat) (v : Long) (p : Bool) (h0 : MemCanon s) : MemCanon (writeD s lb c d v p) := h0

theorem canon_doAlu (lb c d a b fn : Nat) (s : State) (h0 : MemCanon s) : MemCanon (doAlu lb c d a b fn s) := by
  unfold doAlu
  repeat' first
    | with_reducible assumption
    | intro _
    | lift_lets
    | (with_reducible first | apply canon_ccRun | apply canon_writeD | apply canon_taskFault)
    | split

theorem canon_execAlu (lb ctx d a b fn : Nat) (s : State) (h0 : MemCanon s) : CanonE (execAlu lb ctx d a b fn s) :=
  canon_done (canon_doAlu _ _ _ _ _ _ _ h0)

theorem canon_doAddi (lb c d a imm : Nat) (s : State) (h0 : MemCanon s) : MemCanon (doAddi lb c d a imm s) := by
  unfold doAddi
  repeat' first
    | with_reducible assumption
    | intro _
    | lift_lets
    | (with_reducible first | apply canon_ccRun | apply canon_writeD)

theorem canon_execAddi (lb ctx d a imm : Nat) (s : State) (h0 : MemCanon s) : CanonE (execAddi lb ctx d a imm s) :=
  canon_done (canon_doAddi _ _ _ _ _ _ h0)

theorem canon_doOrsh (lb c d imm : Nat) (s : State) (h0 : MemCanon s) : MemCanon (doOrsh lb c d imm s) := by
  unfold doOrsh
  repeat' first
    | with_reducible assumption
    | intro _
    | lift_lets
    | (with_reducible first | apply canon_ccRun | apply canon_writeD)

theorem canon_execOrsh (lb ctx d imm : Nat) (s : State) (h0 : MemCanon s) : CanonE (execOrsh lb ctx d imm s) := canon_done (canon_doOrsh _ _ _ _ _ h0)

theorem canon_ldstAddr (s : State) (lb c : Nat) (x : BCtx) (t : Task) (a imm access : Nat) (h0 : MemCanon s) :
    CanonS (ldstAddr s lb c x t a imm access) := by
  unfold ldstAddr
  repeat' first
    | (with_reducible first | assumption | exact canon_inr)
    | (intro x; clear_value x)
    | lift_lets
    | (with_reducible first | apply canon_taskFault | apply canon_freezeBench | apply canon_iteS | apply canon_inl)

theorem canon_doLd (lb c d a imm ecc : Nat) (s : State) (h0 : MemCanon s) : MemCanon (doLd lb c d a imm ecc s) := by
  unfold doLd
  repeat' first
    | with_reducible assumption
    | (intro x; refine canon_cut (s := x) ?_ ?_; rotate_left; clear_value x; intro _; rotate_left; dsimp -zeta only [x]; try clear x)
    | intro _
    | lift_lets
    | (with_reducible first
        | apply canon_ccRun | apply canon_ldstAddr | apply canon_checkReads | apply canon_spdEcc | apply canon_writeD | apply canon_ite
        | refine canon_ofS (by assumption) ?_)
    | split

theorem canon_execLd (lb ctx d a imm ecc : Nat) (s : State) (h0 : MemCanon s) : CanonE (execLd lb ctx d a imm ecc s) :=
  canon_done (canon_doLd _ _ _ _ _ _ _ h0)

theorem canon_doSt (lb c d a imm : Nat) (s : State) (h0 : MemCanon s) : MemCanon (doSt lb c d a imm s) := by
  unfold doSt
  repeat' first
    | with_reducible assumption
    | intro _
    | lift_lets
    | (with_reducible first
        | apply canon_ccRun | apply canon_ldstAddr | apply canon_modCtx | apply canon_wrBytes | apply canon_ite
        | refine canon_ofS (by assumption) ?_)
    | split

theorem canon_execSt (lb ctx d a imm : Nat) (s : State) (h0 : MemCanon s) : CanonE (execSt lb ctx d a imm s) := canon_done (canon_doSt _ _ _ _ _ _ h0)

theorem canon_branchIf (lb c d a imm : Nat) (p : Long → Long → Bool) (s : State) (h0 : MemCanon s) : MemCanon (branchIf lb c d a imm p s) := by
  unfold branchIf
  repeat' first
    | with_reducible assumption
    | intro _
    | lift_lets
    | (with_reducible first | apply canon_ccRun | apply canon_taskFault | apply canon_modCtx | apply canon_ite)

theorem canon_execBeq (lb ctx d a imm : Nat) (s : State) (h0 : MemCanon s) : CanonE (execBeq lb ctx d a imm s) := by
  unfold execBeq
  repeat' first
    | with_reducible assumption
    | lift_lets
    | (with_reducible first | apply canon_branchIf | apply canon_done)

theorem canon_execBne (lb ctx d a imm : Nat) (s : State) (h0 : MemCanon s) : CanonE (execBne lb ctx d a imm s) := by
  unfold execBne
  repeat' first
    | with_reducible assumption
    | lift_lets
    | (with_reducible first | apply canon_branchIf | apply canon_done)

theorem canon_execBlt (lb ctx d a imm : Nat) (s : State) (h0 : MemCanon s) : CanonE (execBlt lb ctx d a imm s) :=
  canon_done (canon_branchIf _ _ _ _ _ _ _ h0)

theorem canon_doJmp (lb c off : Nat) (s : State) (h0 : MemCanon s) : MemCanon (doJmp lb c off s) := by
  unfold doJmp
  repeat' first
    | with_reducible assumption
    | intro _
    | lift_lets
    | (with_reducible first | apply canon_ccRun | apply canon_modCtx)

theorem canon_execJmp (lb ctx off : Nat) (s : State) (h0 : MemCanon s) : CanonE (execJmp lb ctx off s) := canon_done (canon_doJmp _ _ _ _ h0)

theorem canon_doMxe (lb c a b fn : Nat) (s : State) (h0 : MemCanon s) : MemCanon (doMxe lb c a b fn s) := by
  unfold doMxe
  repeat' first
    | with_reducible assumption
    | intro _
    | lift_lets
    | (with_reducible first | apply canon_ccRun | apply canon_taskFault | apply canon_modCtx | apply canon_ite)

theorem canon_execMxe (lb ctx a b fn : Nat) (s : State) (h0 : MemCanon s) : CanonE (execMxe lb ctx a b fn s) :=
  canon_done (canon_doMxe _ _ _ _ _ _ h0)

theorem canon_doVse (lb c a b : Nat) (s : State) (h0 : MemCanon s) : MemCanon (doVse lb c a b s) := by
  unfold doVse
  repeat' first
    | with_reducible assumption
    | intro _
    | lift_lets
    | (with_reducible first | apply canon_ccRun | apply canon_taskFault | apply canon_modCtx | apply canon_ite)

theorem canon_execVse (lb ctx a b : Nat) (s : State) (h0 : MemCanon s) : CanonE (execVse lb ctx a b s) := canon_done (canon_doVse _ _ _ _ _ h0)

theorem canon_launchTile (s : State) (jk k : Nat) (d : ConvDesc) (ws : List CWord) (put : State → TputPhase → State) (gone : State → State)
    (h0 : MemCanon s) (hp : ∀ s ph, MemCanon s → MemCanon (put s ph)) (hg : ∀ s, MemCanon s → MemCanon (gone s)) :
    MemCanon (launchTile s jk k d ws put gone) := by
  unfold launchTile
  split
  · split
    · rename_i e
      exact hp _ _ (canon_fst e (canon_sendTile _ _ _ _ _ h0))
    · rename_i e
      exact hg _ (canon_fst e (canon_sendTile _ _ _ _ _ h0))
  · exact hp _ _ (canon_noteWait _ _ _ _ h0)

theorem canon_doTput (lb c a b fn : Nat) (errs : List (Nat × Bool)) (s : State) (h0 : MemCanon s) : MemCanon (doTput lb c a b fn errs s) := by
  unfold doTput
  repeat' first
    | with_reducible assumption
    | (intro x
       first
         | (refine canon_cut (s := x) ?_ ?_; rotate_left; clear_value x; intro _; rotate_left; dsimp -zeta only [x]; try clear x)
         | (have _g : _ → State := x; clear _g; dsimp -zeta only [x]; clear x)
         | (have _g : _ → _ → State := x; clear _g; dsimp -zeta only [x]; clear x)
         | clear_value x)
    | intro _
    | lift_lets
    | (with_reducible first
        | apply canon_ccRun | apply canon_taskFault | apply canon_freezeBench | apply canon_checkReads | apply canon_noteSpdErrs | apply canon_modCtx
        | apply canon_launchTile | apply canon_ite)
    | split

theorem canon_execTput (lb ctx a b : Nat) (fn : Met Nat) (s : State) (h0 : MemCanon s) : CanonE (execTput lb ctx a b fn s) :=
  canon_done (canon_doTput _ _ _ _ _ _ _ h0)

theorem canon_freeInput (s : State) (jk lb c n : Nat) (t : Task) (h0 : MemCanon s) : MemCanon (freeInput s jk lb c n t) := by
  unfold freeInput
  repeat' first
    | with_reducible assumption
    | (intro x
       first
         | (refine canon_cut (s := x) ?_ ?_; rotate_left; clear_value x; intro _; rotate_left; dsimp -zeta only [x]; try clear x)
         | clear_value x)
    | lift_lets
    | (with_reducible first | apply canon_freeSlot | apply canon_modCtx | apply canon_ite)
    | split

theorem canon_doTfree (lb c fn : Nat) (s : State) (h0 : MemCanon s) : MemCanon (doTfree lb c fn s) := by
  unfold doTfree
  repeat' first
    | with_reducible assumption
    | intro _
    | lift_lets
    | (with_reducible first
        | apply canon_ccRun | apply canon_taskFault | apply canon_wakePart | apply canon_modCtx | apply canon_freeInput | apply canon_ite)

theorem canon_execTfree (lb ctx fn : Nat) (s : State) (h0 : MemCanon s) : CanonE (execTfree lb ctx fn s) := canon_done (canon_doTfree _ _ _ _ h0)

theorem canon_doWait (lb c fn : Nat) (s : State) (h0 : MemCanon s) : MemCanon (doWait lb c fn s) := by
  unfold doWait
  repeat' first
    | with_reducible assumption
    | intro _
    | lift_lets
    | (with_reducible first | apply canon_ccRun | apply canon_taskFault | apply canon_modCtx | apply canon_ite)

theorem canon_execWait (lb ctx fn : Nat) (s : State) (h0 : MemCanon s) : CanonE (execWait lb ctx fn s) := canon_done (canon_doWait _ _ _ _ h0)

theorem canon_doCsrr (lb c d imm : Nat) (s : State) (h0 : MemCanon s) : MemCanon (doCsrr lb c d imm s) := by
  unfold doCsrr
  repeat' first
    | with_reducible assumption
    | intro _
    | lift_lets
    | (with_reducible first | apply canon_ccRun | apply canon_writeD | apply canon_bumpFree | apply canon_ite)

theorem canon_execCsrr (lb ctx d imm : Nat) (s : State) (h0 : MemCanon s) : CanonE (execCsrr lb ctx d imm s) := canon_done (canon_doCsrr _ _ _ _ _ h0)

theorem canon_doFence (lb c : Nat) (s : State) (h0 : MemCanon s) : MemCanon (doFence lb c s) := by
  unfold doFence
  repeat' first
    | with_reducible assumption
    | intro _
    | lift_lets
    | (with_reducible first | apply canon_ccRun | apply canon_modCtx)

theorem canon_execFence (lb ctx : Nat) (s : State) (h0 : MemCanon s) : CanonE (execFence lb ctx s) := canon_done (canon_doFence _ _ _ h0)

theorem canon_doNop (lb c : Nat) (s : State) (h0 : MemCanon s) : MemCanon (doNop lb c s) := by
  unfold doNop
  repeat' first
    | with_reducible assumption
    | intro _
    | lift_lets
    | (with_reducible first | apply canon_ccRun | apply canon_modCtx)

theorem canon_execNop (lb ctx : Nat) (s : State) (h0 : MemCanon s) : CanonE (execNop lb ctx s) := canon_done (canon_doNop _ _ _ h0)

theorem canon_doTputSlotGrant (jk k : Nat) (s : State) (h0 : MemCanon s) : MemCanon (doTputSlotGrant jk k s) := by
  unfold doTputSlotGrant
  repeat' first
    | with_reducible assumption
    | (intro x
       first
         | (refine canon_cut (s := x) ?_ ?_; rotate_left; clear_value x; intro _; rotate_left; dsimp -zeta only [x]; try clear x)
         | clear_value x)
    | lift_lets
    | (with_reducible first
        | apply canon_modConv | apply canon_sendTile | apply canon_endWaits | apply canon_modCtx | apply canon_ite
        | refine canon_fst (by assumption) ?_)
    | split

theorem canon_execTputSlotGrant (job conv : Nat) (s : State) (h0 : MemCanon s) : CanonE (execTputSlotGrant job conv s) :=
  canon_done (canon_doTputSlotGrant _ _ _ h0)

/-! ## Tiles -/

theorem canon_markJoined (s : State) (jk : Nat) (t : Ready) (h0 : MemCanon s) : MemCanon (markJoined s jk t) := h0

theorem canon_formTask (s : State) (jk k : Nat) (st : Station) (c : Coords) (ins : List InRef) (node : Nat × Nat) (h0 : MemCanon s) :
    MemCanon (formTask s jk k st c ins node) := canon_dealTask _ _ _ h0

theorem canon_releaseApply (s : State) (jk k lb : Nat) (st : Station) (key : Nat × Nat × Nat × Nat) (h0 : MemCanon s) :
    MemCanon (releaseApply s jk k lb st key) := by
  unfold releaseApply
  repeat' first
    | with_reducible assumption
    | (intro x
       first
         | (refine canon_cut (s := x) ?_ ?_; rotate_left; clear_value x; intro _; rotate_left; dsimp -zeta only [x]; try clear x)
         | clear_value x)
    | lift_lets
    | (with_reducible first | apply canon_modJob | apply canon_freeInputs | apply canon_formTask)
    | (with_reducible apply canon_foldl; intro _ _ _)
    | (with_reducible first | apply MemCanon.bytes | apply MemCanon.hostMem | apply MemCanon.stage | apply MemCanon.slots | apply canon_mk)

theorem canon_treeEnded (s : State) (jk lb : Nat) (st : Station) (t : Task) (h0 : MemCanon s) : MemCanon (treeEnded s jk lb st t) := by
  unfold treeEnded
  repeat' first
    | with_reducible assumption
    | (intro x
       first
         | (refine canon_cut (s := x) ?_ ?_; rotate_left; clear_value x; intro _; rotate_left; dsimp -zeta only [x]; try clear x)
         | clear_value x)
    | lift_lets
    | (with_reducible first | apply canon_modJob | apply canon_releaseApply | apply canon_formTask | apply canon_ite)

theorem canon_openSlot (s : State) (jk k : Nat) (st : Station) (c : Coords) (h0 : MemCanon s) : MemCanon (openSlot s jk k st c) := by
  unfold openSlot
  repeat' first
    | with_reducible assumption
    | (intro x
       first
         | (refine canon_cut (s := x) ?_ ?_; rotate_left; clear_value x; intro _; rotate_left; dsimp -zeta only [x]; try clear x)
         | clear_value x)
    | lift_lets
    | (with_reducible first | apply canon_wrOwn | apply canon_modJob | apply canon_ite)

theorem canon_putCode (s : State) (p : Nat) (g : Region) (i j code : Nat) (tag : Bool) (h0 : MemCanon s) : MemCanon (putCode s p g i j code tag) :=
  canon_wrOwn _ _ _ _ _ h0

theorem canon_storeTile (s : State) (p : Nat) (im : Image) (t : TensorEnt) (d : ConvDesc) (ws : List CWord) (r0 c0 : Nat) (h0 : MemCanon s) :
    MemCanon (storeTile s p im t d ws r0 c0) := by
  unfold storeTile
  repeat' first
    | with_reducible assumption
    | (intro x
       first
         | (refine canon_cut (s := x) ?_ ?_; rotate_left; clear_value x; intro _; rotate_left; dsimp -zeta only [x]; try clear x)
         | clear_value x)
    | lift_lets
    | (with_reducible first | apply canon_applyComp | apply canon_putCode | apply canon_applyCells | apply canon_ite)
    | (with_reducible apply canon_foldl; intro _ _ _)

theorem canon_landKv (s : State) (jk k : Nat) (st : Station) (isV : Bool) (t : Ready) (h0 : MemCanon s) : MemCanon (landKv s jk k st isV t) := by
  unfold landKv
  repeat' first
    | with_reducible assumption
    | (intro x
       first
         | (refine canon_cut (s := x) ?_ ?_; rotate_left; clear_value x; intro _; rotate_left; dsimp -zeta only [x]; try clear x)
         | clear_value x)
    | lift_lets
    | (with_reducible first
        | apply canon_checkSlotParity | apply canon_openSlot | apply canon_storeTile | apply canon_freeSlot | apply canon_modJob
        | apply canon_wrOwnLe)
    | split

theorem canon_landQuery (s : State) (jk k : Nat) (st : Station) (t : Ready) (h0 : MemCanon s) : MemCanon (landQuery s jk k st t) := by
  unfold landQuery
  repeat' first
    | with_reducible assumption
    | (intro x; refine canon_cut (s := x) ?_ ?_; rotate_left; clear_value x; intro _; rotate_left; dsimp -zeta only [x]; try clear x)
    | lift_lets
    | (with_reducible first | apply canon_markJoined | apply canon_openSlot | apply canon_formTask)

theorem canon_landAttention (s : State) (jk k : Nat) (st : Station) (h0 : MemCanon s) : MemCanon (landAttention s jk k st) := by
  unfold landAttention
  repeat' first
    | with_reducible assumption
    | (intro x
       first
         | (refine canon_cut (s := x) ?_ ?_; rotate_left; clear_value x; intro _; rotate_left; dsimp -zeta only [x]; try clear x)
         | clear_value x)
    | lift_lets
    | (with_reducible first | apply canon_landKv | apply canon_landQuery | apply canon_ite)
    | (with_reducible apply canon_foldl; intro _ _ _)

theorem canon_queryEnded (s : State) (jk : Nat) (st : Station) (t : Task) (h0 : MemCanon s) : MemCanon (queryEnded s jk st t) := by
  unfold queryEnded
  repeat' first
    | with_reducible assumption
    | (intro x
       first
         | (refine canon_cut (s := x) ?_ ?_; rotate_left; clear_value x; intro _; rotate_left; dsimp -zeta only [x]; try clear x)
         | clear_value x)
    | lift_lets
    | (with_reducible first | apply canon_wrOwnLe | apply canon_landAttention | apply canon_ite)

theorem canon_joinTiles (s : State) (jk k : Nat) (st : Station) (fuel : Nat) (h0 : MemCanon s) : MemCanon (joinTiles s jk k st fuel) := by
  induction fuel generalizing s with
  | zero => exact h0
  | succ k ih =>
    unfold joinTiles
    repeat' first
      | with_reducible assumption
      | (intro x
         first
           | (refine canon_cut (s := x) ?_ ?_; rotate_left; clear_value x; intro _; rotate_left; dsimp -zeta only [x]; try clear x)
           | clear_value x)
      | lift_lets
      | (with_reducible first | apply ih | apply canon_markJoined | apply canon_formTask)
      | (with_reducible apply canon_foldl; intro _ _ _)
      | split

theorem canon_serveStation (s : State) (jk k : Nat) (h0 : MemCanon s) : MemCanon (serveStation s jk k) := by
  unfold serveStation
  repeat' first
    | with_reducible assumption
    | lift_lets
    | (with_reducible first | apply canon_landAttention | apply canon_joinTiles | apply canon_ite)
    | split

theorem canon_tileArrived (s : State) (jk k : Nat) (h0 : MemCanon s) : MemCanon (tileArrived s jk k) := by
  unfold tileArrived
  repeat' first
    | with_reducible assumption
    | lift_lets
    | (with_reducible first | apply canon_serveStation | apply canon_ite)
    | split

theorem canon_breakTo (s : State) (jk slot : Nat) (h0 : MemCanon s) : MemCanon (breakTo s jk slot) := by
  unfold breakTo
  repeat' first
    | with_reducible assumption
    | lift_lets
    | (with_reducible first | apply canon_wakePart | apply canon_tileArrived | apply canon_breakConv | apply canon_ite)
    | (with_reducible apply canon_foldl; intro _ _ _)
    | split

theorem canon_setLanded (s : State) (jk k home word : Nat) (h0 : MemCanon s) : MemCanon (setLanded s jk k home word) := h0

theorem canon_landWords (s : State) (jk k : Nat) (ws : List CWord) (h0 : MemCanon s) : CanonO (landWords s jk k ws) := by
  unfold landWords
  repeat' first
    | (with_reducible first | assumption | exact canon_none)
    | lift_lets
    | (with_reducible first | apply canon_tileArrived | apply canon_setLanded | apply canon_storeWords | apply canon_takeSlot | apply canon_some)
    | split

/-! ## Fail -/

theorem canon_raiseRepair (s : State) (p : Option Nat) (code cls unit logical : Nat) (more : List (Nat × Nat)) (h0 : MemCanon s) :
    MemCanon (raiseRepair s p code cls unit logical more) := by
  unfold raiseRepair
  repeat' first
    | with_reducible assumption
    | (intro x; clear_value x)
    | lift_lets
    | (with_reducible first | apply canon_raisePart | apply canon_eventRecord)

theorem canon_abandonSlice (s : State) (pb : Nat) (h0 : MemCanon s) : MemCanon (abandonSlice s pb) := by
  unfold abandonSlice
  repeat' first
    | with_reducible assumption
    | lift_lets
    | (with_reducible first | apply canon_closeSweep | apply canon_countAbandoned | apply canon_modSelf | apply canon_ite)
    | split

theorem canon_moveBench (s : State) (lb x : Nat) (h0 : MemCanon s) : MemCanon (moveBench s lb x) := h0

theorem canon_loseSlots (s : State) (jk k lb : Nat) (d : ConvDesc) (h0 : MemCanon s) : MemCanon (loseSlots s jk k lb d) := by
  unfold loseSlots
  repeat' first
    | with_reducible assumption
    | (intro x
       first
         | (refine canon_cut (s := x) ?_ ?_; rotate_left; clear_value x; intro _; rotate_left; dsimp -zeta only [x]; try clear x)
         | clear_value x)
    | lift_lets
    | (with_reducible first | apply canon_applyCells | apply canon_raiseConv | apply canon_modConv)
    | (with_reducible apply canon_foldl; intro _ _ _)

theorem canon_loseBench (s : State) (lb : Nat) (h0 : MemCanon s) : MemCanon (loseBench s lb) := by
  unfold loseBench
  repeat' first
    | with_reducible assumption
    | (intro x; refine canon_cut (s := x) ?_ ?_; rotate_left; clear_value x; intro _; rotate_left; dsimp -zeta only [x]; try clear x)
    | lift_lets
    | (with_reducible first | apply canon_loseSlots | apply canon_modSelf | apply canon_modBoot)
    | (with_reducible apply canon_foldl; intro _ _ _)
    | split

theorem canon_spareBench (s : State) (lb : Nat) (h0 : MemCanon s) : MemCanon (spareBench s lb) := by
  unfold spareBench
  repeat' first
    | with_reducible assumption
    | (intro x; clear_value x)
    | lift_lets
    | (with_reducible first
        | apply canon_raiseRepair | apply canon_noteSpares | apply canon_repairUnit | apply canon_moveBench | apply canon_abandonSlice
        | apply canon_loseBench | apply canon_ite)
    | split

theorem canon_redeal (s : State) (jk : Nat) (ts : List Task) (h0 : MemCanon s) : MemCanon (redeal s jk ts) := by
  unfold redeal
  repeat' first
    | with_reducible assumption
    | lift_lets
    | with_reducible apply canon_dealTask
    | (with_reducible apply canon_foldl; intro _ _ _)

theorem canon_breakPairs (s : State) (jk lb : Nat) (h0 : MemCanon s) : MemCanon (breakPairs s jk lb).1 := by
  unfold breakPairs
  repeat' first
    | with_reducible assumption
    | (intro x
       first
         | (refine canon_cut (s := x) ?_ ?_; rotate_left; clear_value x; intro _; rotate_left; dsimp -zeta only [x]; try clear x)
         | clear_value x)
    | lift_lets
    | (with_reducible first | apply canon_modJob | apply canon_modCtx)
    | (with_reducible apply canon_foldl_fst; intro _ _ _)

theorem canon_settleTput (s : State) (jk lb n : Nat) (h0 : MemCanon s) : MemCanon (settleTput s jk lb n) := by
  unfold settleTput
  repeat' first
    | with_reducible assumption
    | (intro x; clear_value x)
    | intro _
    | lift_lets
    | (with_reducible first | apply canon_launchTile | apply canon_modCtx)
    | split

theorem canon_giveUpCopy (s : State) (jk h : Nat) (t : Task) (h0 : MemCanon s) : MemCanon (giveUpCopy s jk h t).1 := by
  unfold giveUpCopy
  repeat' first
    | with_reducible assumption
    | (intro x; clear_value x)
    | lift_lets
    | (with_reducible first | apply canon_modCtx | apply canon_addBusy | apply canon_ite_fst)
    | split

theorem canon_dropVotes (s : State) (lb c : Nat) (h0 : MemCanon s) : MemCanon (dropVotes s lb c) := by
  unfold dropVotes
  repeat' first
    | with_reducible assumption
    | (intro x
       first
         | (refine canon_cut (s := x) ?_ ?_; rotate_left; clear_value x; intro _; rotate_left; dsimp -zeta only [x]; try clear x)
         | clear_value x)
    | lift_lets
    | with_reducible apply canon_addBusy
    | (with_reducible apply canon_foldl; intro _ _ _)
    | dsimp only
    | (with_reducible first | apply MemCanon.bytes | apply MemCanon.hostMem | apply MemCanon.stage | apply MemCanon.slots | apply canon_mk)

theorem canon_partCopies (s : State) (jk lb : Nat) (t : Task) (h0 : MemCanon s) : MemCanon (partCopies s jk lb t).1 := by
  unfold partCopies
  repeat' first
    | with_reducible assumption
    | lift_lets
    | (with_reducible first | apply canon_giveUpCopy | apply canon_ite_fst)
    | split

theorem canon_runAgain (s : State) (jk lb : Nat) (t : Task) (h0 : MemCanon s) : MemCanon (runAgain s jk lb t).1 := by
  unfold runAgain
  repeat' first
    | with_reducible assumption
    | lift_lets
    | (with_reducible first | apply canon_completeLost | apply canon_ite_fst)

theorem canon_failCtx (s : State) (lb c : Nat) (h0 : MemCanon s) : MemCanon (failCtx s lb c) := by
  unfold failCtx
  repeat' first
    | with_reducible assumption
    | (intro x
       first
         | (refine canon_cut (s := x) ?_ ?_; rotate_left; clear_value x; intro _; rotate_left; dsimp -zeta only [x]; try clear x)
         | clear_value x)
    | lift_lets
    | (with_reducible first
        | apply canon_modCtx | apply canon_dropVotes | apply canon_haltCtx | apply canon_partCopies | apply canon_breakPairs | apply canon_runAgain
        | apply canon_redeal | apply canon_ite | apply canon_ite_fst)
    | split

theorem canon_redealGranted (s : State) (lb : Nat) (f : Task → Task) (h0 : MemCanon s) : MemCanon (redealGranted s lb f) := by
  unfold redealGranted
  repeat' first
    | with_reducible assumption
    | lift_lets
    | (with_reducible first | apply canon_dealTask | apply canon_modBench)
    | split

theorem canon_failBench (s : State) (lb cause : Nat) (lost : List Nat) (h0 : MemCanon s) : MemCanon (failBench s lb cause lost) := by
  unfold failBench
  repeat' first
    | with_reducible assumption
    | (intro x
       first
         | (refine canon_cut (s := x) ?_ ?_; rotate_left; clear_value x; intro _; rotate_left; dsimp -zeta only [x]; try clear x)
         | clear_value x)
    | lift_lets
    | (with_reducible first
        | apply canon_modBench | apply canon_raiseRepair | apply canon_redealGranted | apply canon_failCtx | apply canon_wakePart
        | apply canon_spareBench | apply canon_ite)
    | split

theorem canon_dropTput (s : State) (lb c n : Nat) (h0 : MemCanon s) : MemCanon (dropTput s lb c n) := h0

theorem canon_raiseMismatch (s : State) (jk low high c n : Nat) (t : Task) (h0 : MemCanon s) : MemCanon (raiseMismatch s jk low high c n t) := by
  unfold raiseMismatch
  repeat' first
    | with_reducible assumption
    | (intro x; clear_value x)
    | lift_lets
    | (with_reducible first | apply canon_raiseBench | apply canon_modJob | apply canon_ite)

theorem canon_callVote (s : State) (jk low high c n : Nat) (t : Task) (h0 : MemCanon s) : MemCanon (callVote s jk low high c n t) := by
  unfold callVote
  repeat' first
    | with_reducible assumption
    | (intro x; refine canon_cut (s := x) ?_ ?_; rotate_left; clear_value x; intro _; rotate_left; dsimp -zeta only [x]; try clear x)
    | lift_lets
    | (with_reducible first | apply canon_raiseMismatch | apply canon_selectNext | apply canon_modBench | apply canon_ite)
    | split

theorem canon_doLockstepSignature (low c : Nat) (s : State) (h0 : MemCanon s) : MemCanon (doLockstepSignature low c s) := by
  unfold doLockstepSignature
  repeat' first
    | with_reducible assumption
    | lift_lets
    | (with_reducible first | apply canon_settleTput | apply canon_dropTput | apply canon_callVote | apply canon_ite)
    | split
    | dsimp only

theorem canon_execLockstepSignature (lb ctx : Nat) (s : State) (h0 : MemCanon s) : CanonE (execLockstepSignature lb ctx s) :=
  canon_done (canon_doLockstepSignature _ _ _ h0)

theorem canon_endVote (s : State) (voter c : Nat) (h0 : MemCanon s) : MemCanon (endVote s voter c) := by
  unfold endVote
  repeat' first
    | with_reducible assumption
    | (intro x; refine canon_cut (s := x) ?_ ?_; rotate_left; clear_value x; intro _; rotate_left; dsimp -zeta only [x]; try clear x)
    | lift_lets
    | (with_reducible first | apply canon_modBench | apply canon_modCtx | apply canon_addBusy | apply canon_wakePart)
    | split

theorem canon_doLockstepVote (voter : Nat) (s : State) (h0 : MemCanon s) : MemCanon (doLockstepVote voter s) := by
  unfold doLockstepVote
  repeat' first
    | with_reducible assumption
    | lift_lets
    | (with_reducible first
        | apply canon_settleTput | apply canon_dropTput | apply canon_raiseBench | apply canon_failBench | apply canon_endVote | apply canon_modCtx
        | apply canon_requestTest | apply canon_ite)
    | (with_reducible apply canon_foldl; intro _ _ _)
    | split
    | dsimp only

theorem canon_execLockstepVote (voter : Nat) (s : State) (h0 : MemCanon s) : CanonE (execLockstepVote voter s) :=
  canon_done (canon_doLockstepVote _ _ h0)

theorem canon_execBenchFailed (lb : Nat) (cause : Losing Nat) (s : State) (h0 : MemCanon s) : CanonE (execBenchFailed lb cause s) :=
  canon_done (canon_failBench _ _ _ _ h0)

theorem canon_serveThief (s : State) (victim thief : Nat) (h0 : MemCanon s) : MemCanon (serveThief s victim thief) := by
  unfold serveThief
  repeat' first
    | with_reducible assumption
    | (intro x
       first
         | (refine canon_cut (s := x) ?_ ?_; rotate_left; clear_value x; intro _; rotate_left; dsimp -zeta only [x]; try clear x)
         | (have _g : _ → _ → State := x; clear _g; dsimp -zeta only [x]; clear x)
         | clear_value x)
    | lift_lets
    | (with_reducible first | apply canon_modBench | apply canon_modCtx | apply canon_ite)
    | split

theorem canon_serveThieves (s : State) (victim : Nat) (ts : List Nat) (fuel : Nat) (h0 : MemCanon s) : MemCanon (serveThieves s victim ts fuel) := by
  induction fuel generalizing s ts with
  | zero => exact h0
  | succ k ih =>
    unfold serveThieves
    repeat' first
      | with_reducible assumption
      | lift_lets
      | (with_reducible first | apply ih | apply canon_serveThief)
      | split

theorem canon_doStealRequest (victim : Nat) (thieves : List Nat) (s : State) (h0 : MemCanon s) : MemCanon (doStealRequest victim thieves s) := by
  unfold doStealRequest
  repeat' first
    | with_reducible assumption
    | lift_lets
    | (with_reducible first | apply canon_serveThieves | apply canon_selectNext | apply canon_ite)

theorem canon_execStealRequest (victim : Nat) (thieves : List Nat) (s : State) (h0 : MemCanon s) : CanonE (execStealRequest victim thieves s) :=
  canon_done (canon_doStealRequest _ _ _ h0)

theorem canon_doStealGrant (thief : Nat) (s : State) (h0 : MemCanon s) : MemCanon (doStealGrant thief s) := by
  unfold doStealGrant
  repeat' first
    | with_reducible assumption
    | (intro x; refine canon_cut (s := x) ?_ ?_; rotate_left; clear_value x; intro _; rotate_left; dsimp -zeta only [x]; try clear x)
    | lift_lets
    | (with_reducible first | apply canon_modBench | apply canon_selectNext | apply canon_modJob | apply canon_enqueue)
    | split

theorem canon_execStealGrant (thief : Nat) (s : State) (h0 : MemCanon s) : CanonE (execStealGrant thief s) := canon_done (canon_doStealGrant _ _ h0)

theorem canon_excludeVictim (s : State) (thief : Nat) (r : StealReq) (h0 : MemCanon s) : MemCanon (excludeVictim s thief r) := by
  unfold excludeVictim
  repeat' first
    | with_reducible assumption
    | (intro x; clear_value x)
    | lift_lets
    | (with_reducible first | apply canon_selectNext | apply canon_modBench)

theorem canon_doStealRefusal (thief : Nat) (s : State) (h0 : MemCanon s) : MemCanon (doStealRefusal thief s) := by
  unfold doStealRefusal
  repeat' first
    | with_reducible assumption
    | lift_lets
    | (with_reducible first | apply canon_excludeVictim | apply canon_ite)
    | split

theorem canon_execStealRefusal (thief : Nat) (s : State) (h0 : MemCanon s) : CanonE (execStealRefusal thief s) :=
  canon_done (canon_doStealRefusal _ _ h0)

theorem canon_doStealTimeout (thief : Nat) (s : State) (h0 : MemCanon s) : MemCanon (doStealTimeout thief s) := by
  unfold doStealTimeout
  repeat' first
    | with_reducible assumption
    | lift_lets
    | (with_reducible first | apply canon_excludeVictim | apply canon_ite)
    | split

theorem canon_execStealTimeout (thief : Nat) (s : State) (h0 : MemCanon s) : CanonE (execStealTimeout thief s) :=
  canon_done (canon_doStealTimeout _ _ h0)

/-! ## Bar4 -/

theorem canon_freezeFunc (s : State) (f cause access addr : Nat) (h0 : MemCanon s) : MemCanon (freezeFunc s f cause access addr) := by
  unfold freezeFunc
  repeat' first
    | with_reducible assumption
    | (intro x; refine canon_cut (s := x) ?_ ?_; rotate_left; clear_value x; intro _; rotate_left; dsimp -zeta only [x]; try clear x)
    | lift_lets
    | (with_reducible first | apply canon_modFunc | apply canon_recordFreeze)

theorem canon_refuseHost (s : State) (f cause access addr : Nat) (h0 : MemCanon s) : MemCanon (refuseHost s f cause access addr) := by
  unfold refuseHost
  repeat' first
    | with_reducible assumption
    | lift_lets
    | (with_reducible first | apply canon_raisePf | apply canon_modFunc | apply canon_freezeFunc | apply canon_ite)

theorem canon_answerRead (s : State) (d : List Byte) (poisoned : Bool) (h0 : MemCanon s) : MemCanon (answerRead s d poisoned) := h0

theorem canon_noteHostErrs (s : State) (errs : List (Nat × Bool)) (h0 : MemCanon s) : MemCanon (noteHostErrs s errs) := canon_noteSpdErrs _ _ _ _ h0

theorem canon_doBar4Read (f off n : Nat) (errs : List (Nat × Bool)) (s : State) (h0 : MemCanon s) : MemCanon (doBar4Read f off n errs s) := by
  unfold doBar4Read
  repeat' first
    | with_reducible assumption
    | (intro x
       first
         | (refine canon_cut (s := x) ?_ ?_; rotate_left; clear_value x; intro _; rotate_left; dsimp -zeta only [x]; try clear x)
         | (have _g : _ → State := x; clear _g; dsimp -zeta only [x]; clear x)
         | clear_value x)
    | lift_lets
    | (with_reducible first | apply canon_answerRead | apply canon_refuseHost | apply canon_noteHostErrs | apply canon_noteSizes | apply canon_ite)
    | split

theorem canon_execBar4Read (func off : Nat) (len : Met Nat) (s : State) (h0 : MemCanon s) :
    CanonE (execBar4Read func off len s) := canon_done (canon_doBar4Read _ _ _ _ _ h0)

theorem canon_doBar4Write (f off : Nat) (d : List Byte) (errs : List (Nat × Bool)) (s : State) (h0 : MemCanon s) :
    MemCanon (doBar4Write f off d errs s) := by
  unfold doBar4Write
  repeat' first
    | with_reducible assumption
    | (intro x; clear_value x)
    | lift_lets
    | (with_reducible first | apply canon_refuseHost | apply canon_applyComp | apply canon_noteHostErrs | apply canon_ite)
    | split

theorem canon_execBar4Write (func off : Nat) (data : Met (List Byte)) (s : State) (h0 : MemCanon s) :
    CanonE (execBar4Write func off data s) := canon_done (canon_doBar4Write _ _ _ _ _ h0)

end Sys2Proof.Machine
end

