-- ==== Sys2Proof/Laws/CanonData.lean ====
section
/-! SUPPORT. Canonical memories through memory, links, registers, shards and partitions: each operation keeps them, one lemma per operation. -/

namespace Sys2Proof.Machine

/-! ## Memctl -/

theorem canon_modStack (s : State) (ph : Nat) (f : Stack → Stack) (h0 : MemCanon s) : MemCanon (modStack s ph f) := h0

theorem canon_discardHeld (s : State) (p : Held → Bool) (h0 : MemCanon s) : MemCanon (discardHeld s p).1 := by
  unfold discardHeld
  repeat' first
    | with_reducible assumption
    | (intro x; clear_value x)
    | lift_lets
    | dsimp only
    | (with_reducible first | apply MemCanon.bytes | apply MemCanon.hostMem | apply MemCanon.stage | apply MemCanon.slots | apply canon_mk)

theorem canon_stockReduced (s : State) (n : Nat) (h0 : MemCanon s) : MemCanon (stockReduced s n) := by
  unfold stockReduced
  repeat' first
    | with_reducible assumption
    | (intro x; refine canon_cut (s := x) ?_ ?_; rotate_left; clear_value x; intro _; rotate_left; dsimp -zeta only [x]; try clear x)
    | lift_lets
    | (with_reducible first | apply canon_raiseAll | apply canon_sendFrame)
    | split

theorem canon_failStack (s : State) (ph : Nat) (h0 : MemCanon s) : MemCanon (failStack s ph) := by
  unfold failStack
  repeat' first
    | with_reducible assumption
    | (intro x
       first
         | (refine canon_cut (s := x) ?_ ?_; rotate_left; clear_value x; intro _; rotate_left; dsimp -zeta only [x]; try clear x)
         | (refine canon_cut_mem (x := x) ?_ ?_; rotate_left; clear_value x; intro _; rotate_left; dsimp -zeta only [x]; try clear x)
         | clear_value x)
    | lift_lets
    | (with_reducible first
        | apply canon_modStack | apply canon_fireErr | apply canon_repairUnit | apply canon_eventRecord | apply canon_repairOut
        | apply canon_raiseAll | apply canon_closeJob | apply canon_endCkpt | apply canon_discardHeld | apply canon_stockReduced
        | apply canon_noteSpares | apply canon_ite)
    | (with_reducible apply canon_foldl; intro _ _ _)
    | split
    | (with_reducible first | apply MemCanon.bytes | apply MemCanon.hostMem | apply MemCanon.stage | apply MemCanon.slots | apply canon_mk)

theorem canon_execStackFailed (stack : Nat) (s : State) (h0 : MemCanon s) : CanonE (execStackFailed stack s) := canon_done (canon_failStack _ _ h0)

theorem canon_execGovernorTick (g : GovIn) (s : State) (h0 : MemCanon s) : CanonE (execGovernorTick g s) := by
  unfold execGovernorTick
  repeat' first
    | with_reducible assumption
    | (intro x
       first
         | (refine canon_cut (s := x) ?_ ?_; rotate_left; clear_value x; intro _; rotate_left; dsimp -zeta only [x]; try clear x)
         | clear_value x)
    | lift_lets
    | (with_reducible first | apply canon_doGovernorTick | apply canon_modPower | apply canon_failStack | apply canon_iteE | apply canon_done)
    | (with_reducible apply canon_foldl; intro _ _ _)

theorem canon_zeroStack (s : State) (l : Nat) (h0 : MemCanon s) : MemCanon (zeroStack s l) := by
  unfold zeroStack
  repeat' first
    | with_reducible assumption
    | (intro x
       first
         | (refine canon_cut_mem (x := x) ?_ ?_; rotate_left; clear_value x; intro _; rotate_left; dsimp -zeta only [x]; try clear x)
         | clear_value x)
    | lift_lets
    | dsimp only
    | (with_reducible first
        | apply Mem.wf_clear | apply MemCanon.bytes | apply MemCanon.hostMem | apply MemCanon.stage | apply MemCanon.slots | apply canon_mk)

theorem canon_doStackRebuilt (l : Nat) (s : State) (h0 : MemCanon s) : MemCanon (doStackRebuilt l s) := by
  unfold doStackRebuilt
  repeat' first
    | with_reducible assumption
    | (intro x
       first
         | (refine canon_cut (s := x) ?_ ?_; rotate_left; clear_value x; intro _; rotate_left; dsimp -zeta only [x]; try clear x)
         | (refine canon_cut_mem (x := x) ?_ ?_; rotate_left; clear_value x; intro _; rotate_left; dsimp -zeta only [x]; try clear x)
         | (refine canon_cutM (x := x) ?_ ?_; rotate_left; clear_value x; intro _; rotate_left; dsimp -zeta only [x]; try clear x))
    | lift_lets
    | (with_reducible first
        | apply canon_zeroStack | apply canon_repairRecord | apply canon_eventRecord | apply canon_noteSpares | apply canon_raiseAll
        | apply canon_ite)
    | split
    | (with_reducible first
        | apply Mem.wf_clear | apply MemCanon.bytes | apply MemCanon.hostMem | apply MemCanon.stage | apply MemCanon.slots | apply canon_mk)

theorem canon_execStackRebuilt (stack : Nat) (s : State) (h0 : MemCanon s) : CanonE (execStackRebuilt stack s) :=
  canon_done (canon_doStackRebuilt _ _ h0)

theorem canon_retireRow (s : State) (ph row : Nat) (h0 : MemCanon s) : MemCanon (retireRow s ph row) := by
  unfold retireRow
  repeat' first
    | with_reducible assumption
    | (intro x
       first
         | (refine canon_cut (s := x) ?_ ?_; rotate_left; clear_value x; intro _; rotate_left; dsimp -zeta only [x]; try clear x)
         | clear_value x)
    | lift_lets
    | (with_reducible first | apply canon_failStack | apply canon_modStack | apply canon_raiseAll | apply canon_noteSparesBy | apply canon_ite)

theorem canon_lineCorrected (s : State) (ph row : Nat) (h0 : MemCanon s) : MemCanon (lineCorrected s ph row) := by
  unfold lineCorrected
  repeat' first
    | with_reducible assumption
    | (intro x; clear_value x)
    | lift_lets
    | (with_reducible first | apply canon_retireRow | apply canon_modStack | apply canon_ite)

theorem canon_lineBad (s : State) (ph row a : Nat) (h0 : MemCanon s) : MemCanon (lineBad s ph row a) := by
  unfold lineBad
  repeat' first
    | with_reducible assumption
    | (intro x
       first
         | (refine canon_cut (s := x) ?_ ?_; rotate_left; clear_value x; intro _; rotate_left; dsimp -zeta only [x]; try clear x)
         | (refine canon_cut_mem (x := x) ?_ ?_; rotate_left; clear_value x; intro _; rotate_left; dsimp -zeta only [x]; try clear x)
         | clear_value x)
    | lift_lets
    | (with_reducible first
        | apply canon_raiseAll | apply canon_raiseMem | apply canon_modStack | apply canon_failStack | apply canon_retireRow | apply canon_ite
        | apply MemCanon.bytes | apply MemCanon.hostMem | apply MemCanon.stage | apply MemCanon.slots | apply canon_mk)

theorem canon_lineEcc (s : State) (a row ecc : Nat) (h0 : MemCanon s) : MemCanon (lineEcc s a row ecc) := by
  unfold lineEcc
  repeat' first
    | with_reducible assumption
    | lift_lets
    | (with_reducible first | apply canon_lineCorrected | apply canon_lineBad | apply canon_ite)

theorem canon_doMemRead (a row ecc : Nat) (s : State) (h0 : MemCanon s) : MemCanon (doMemRead a row ecc s) := by
  unfold doMemRead
  repeat' first
    | with_reducible assumption
    | (intro x
       first
         | (refine canon_cut (s := x) ?_ ?_; rotate_left; clear_value x; intro _; rotate_left; dsimp -zeta only [x]; try clear x)
         | (refine canon_cut_mem (x := x) ?_ ?_; rotate_left; clear_value x; intro _; rotate_left; dsimp -zeta only [x]; try clear x)
         | clear_value x)
    | lift_lets
    | (with_reducible first
        | apply canon_noteSizes | apply canon_lineEcc | apply canon_ite | apply MemCanon.bytes | apply MemCanon.hostMem | apply MemCanon.stage
        | apply MemCanon.slots | apply canon_mk)

theorem canon_execMemRead (addr row ecc : Nat) (s : State) (h0 : MemCanon s) : CanonE (execMemRead addr row ecc s) :=
  canon_done (canon_doMemRead _ _ _ _ h0)

theorem canon_doMemWrite (a : Nat) (d : List Byte) (poison : Bool) (cls : Option Nat) (s : State) (h0 : MemCanon s) :
    MemCanon (doMemWrite a d poison cls s) := by
  unfold doMemWrite
  repeat' first
    | with_reducible assumption
    | lift_lets
    | (with_reducible first | apply canon_wrBytes | apply canon_applyComp | apply canon_ite)
    | split

theorem canon_execMemWrite (addr : Nat) (data : List Byte) (poison : Bool) (cls : Option Nat) (s : State) (h0 : MemCanon s) :
    CanonE (execMemWrite addr data poison cls s) := canon_done (canon_doMemWrite _ _ _ _ _ h0)

theorem canon_execMemAccWrite (job addr tensor : Nat) (elems : List (Nat × Bool × Nat × Nat)) (s : State) (h0 : MemCanon s) :
    CanonE (execMemAccWrite job addr tensor elems s) := by
  unfold execMemAccWrite
  repeat' first
    | with_reducible assumption
    | (intro x; clear_value x)
    | lift_lets
    | (with_reducible first | apply canon_accWrite | apply canon_iteE | apply canon_done)

theorem canon_doMemPatrol (ph row ecc : Nat) (s : State) (h0 : MemCanon s) : MemCanon (doMemPatrol ph row ecc s) := by
  unfold doMemPatrol
  repeat' first
    | with_reducible assumption
    | (intro x
       first
         | (refine canon_cut (s := x) ?_ ?_; rotate_left; clear_value x; intro _; rotate_left; dsimp -zeta only [x]; try clear x)
         | clear_value x)
    | lift_lets
    | (with_reducible first | apply canon_modStack | apply canon_lineEcc | apply canon_lineCorrected | apply canon_lineBad | apply canon_ite)
    | split

theorem canon_execMemPatrol (stack row ecc : Nat) (s : State) (h0 : MemCanon s) : CanonE (execMemPatrol stack row ecc s) :=
  canon_done (canon_doMemPatrol _ _ _ _ h0)

/-! ## Links -/

theorem canon_countNoJob (s : State) (port : Nat) (h0 : MemCanon s) : MemCanon (countNoJob s port) := h0

theorem canon_noJobFrame (s : State) (port src tag : Nat) (h0 : MemCanon s) : MemCanon (noJobFrame s port src tag) := by
  unfold noJobFrame
  repeat' first
    | with_reducible assumption
    | (intro x; refine canon_cut (s := x) ?_ ?_; rotate_left; clear_value x; intro _; rotate_left; dsimp -zeta only [x]; try clear x)
    | lift_lets
    | (with_reducible first | apply canon_countNoJob | apply canon_sendFrame | apply canon_ite)

theorem canon_refuseFrame (s : State) (src tag type : Nat) (h0 : MemCanon s) : MemCanon (refuseFrame s src tag type) := by
  unfold refuseFrame
  repeat' first
    | (with_reducible first | assumption | apply canon_sendFrame)

theorem canon_freezeBoard (s : State) (port tag jk k : Nat) (slot : Nat × Nat) (a n : Nat) (h0 : MemCanon s) :
    MemCanon (freezeBoard s port tag jk k slot a n) := by
  unfold freezeBoard
  repeat' first
    | with_reducible assumption
    | (intro x; refine canon_cut (s := x) ?_ ?_; rotate_left; clear_value x; intro _; rotate_left; dsimp -zeta only [x]; try clear x)
    | lift_lets
    | (with_reducible first | apply canon_modConv | apply canon_freeSlot | apply canon_recordFreeze | apply canon_countNoJob)

theorem canon_discardTile (s : State) (jk k : Nat) (slot : Option (Nat × Nat)) (h0 : MemCanon s) : MemCanon (discardTile s jk k slot) := by
  unfold discardTile
  repeat' first
    | with_reducible assumption
    | (intro x; refine canon_cut (s := x) ?_ ?_; rotate_left; clear_value x; intro _; rotate_left; dsimp -zeta only [x]; try clear x)
    | lift_lets
    | (with_reducible first | apply canon_freeSlot | apply canon_modConv)
    | split

theorem canon_finishTile (s : State) (jk k : Nat) (d : ConvDesc) (slot : Nat × Nat) (ws : List CWord) (h0 : MemCanon s) :
    MemCanon (finishTile s jk k d slot ws) := by
  unfold finishTile
  repeat' first
    | with_reducible assumption
    | (intro x; refine canon_cut (s := x) ?_ ?_; rotate_left; clear_value x; intro _; rotate_left; dsimp -zeta only [x]; try clear x)
    | lift_lets
    | (with_reducible first
        | apply canon_raiseConv | apply canon_discardTile | apply canon_closeJob | apply canon_wakePart | apply canon_tileArrived
        | apply canon_landIn | apply canon_ite)
    | split

theorem canon_rxSlot (s : State) (jk k : Nat) (d : ConvDesc) (o : Option (Nat × Nat)) (h0 : MemCanon s) (p : Nat × Nat) (t : State)
    (e : (match o with
      | some p => some (s, p)
      | none => (pickSlot s jk k d).map (fun p => (modConv (takeSlot s jk k p) jk k (fun c => { c with rxSlot := some p }), p))) = some (t, p)) :
    MemCanon t := by
  split at e
  · cases e; exact h0
  · obtain ⟨q, -, hq⟩ := Option.map_eq_some_iff.1 e
    cases hq
    exact canon_modConv _ _ _ _ (canon_takeSlot _ _ _ _ h0)

theorem canon_doBoardTile (port tag index : Nat) (ws : List CWord) (s : State) (h0 : MemCanon s) : MemCanon (doBoardTile port tag index ws s) := by
  unfold doBoardTile
  refine canon_ite (canon_countNoJob _ _ h0) (canon_ite (canon_refuseFrame _ _ _ _ h0) ?_)
  split
  · exact canon_noJobFrame _ _ _ _ h0
  · split
    · exact canon_countNoJob _ _ h0
    · dsimp only
      refine canon_ite (canon_countNoJob _ _ h0) ?_
      split
      · exact h0
      · rename_i e
        have ht := canon_rxSlot _ _ _ _ _ h0 _ _ e
        refine canon_ite (canon_freezeBoard _ _ _ _ _ _ _ _ ht) ?_
        exact canon_ite (canon_finishTile _ _ _ _ _ _ (canon_modConv _ _ _ _ ht)) (canon_modConv _ _ _ _ ht)

theorem canon_execBoardTileReceive (port tag conv : Nat) (words : List (Nat × List Byte)) (s : State) (h0 : MemCanon s) :
    CanonE (execBoardTileReceive port tag conv words s) := canon_done (canon_doBoardTile _ _ _ _ _ h0)

theorem canon_bindEnd (s : State) (jk k slots : Nat) (h0 : MemCanon s) : MemCanon (bindEnd s jk k slots) := by
  unfold bindEnd
  repeat' first
    | with_reducible assumption
    | (intro x; refine canon_cut (s := x) ?_ ?_; rotate_left; clear_value x; intro _; rotate_left; dsimp -zeta only [x]; try clear x)
    | lift_lets
    | (with_reducible first | apply canon_modConv | apply canon_sendFrame | apply canon_ite)
    | split

theorem canon_doBoardBind (tag slot idx mine slots : Nat) (s : State) (h0 : MemCanon s) : MemCanon (doBoardBind tag slot idx mine slots s) := by
  unfold doBoardBind
  repeat' first
    | with_reducible assumption
    | (intro x
       first
         | (refine canon_cut (s := x) ?_ ?_; rotate_left; clear_value x; intro _; rotate_left; dsimp -zeta only [x]; try clear x)
         | clear_value x)
    | lift_lets
    | (with_reducible first | apply canon_bindEnd | apply canon_ite)
    | split
    | (with_reducible first | apply MemCanon.bytes | apply MemCanon.hostMem | apply MemCanon.stage | apply MemCanon.slots | apply canon_mk)

theorem canon_execBoardConvBind (tag slot peerIndex index slots : Nat) (s : State) (h0 : MemCanon s) :
    CanonE (execBoardConvBind tag slot peerIndex index slots s) := canon_done (canon_doBoardBind _ _ _ _ _ _ h0)

theorem canon_creditEnd (s : State) (tag index : Nat) (f : Conv → Conv) (h0 : MemCanon s) : MemCanon (creditEnd s tag index f) := by
  unfold creditEnd
  repeat' first
    | with_reducible assumption
    | lift_lets
    | (with_reducible first | apply canon_wakePart | apply canon_modConv | apply canon_ite)
    | split

theorem canon_execConvCreditReceive (tag index : Nat) (s : State) (h0 : MemCanon s) : CanonE (execConvCreditReceive tag index s) := by
  unfold execConvCreditReceive
  repeat' first
    | with_reducible assumption
    | lift_lets
    | (with_reducible first | apply canon_creditEnd | apply canon_done)

theorem canon_execConvHoldReceive (tag index : Nat) (s : State) (h0 : MemCanon s) : CanonE (execConvHoldReceive tag index s) := by
  unfold execConvHoldReceive
  repeat' first
    | with_reducible assumption
    | lift_lets
    | (with_reducible first | apply canon_creditEnd | apply canon_done)

theorem canon_execConvReleaseReceive (tag index : Nat) (s : State) (h0 : MemCanon s) : CanonE (execConvReleaseReceive tag index s) := by
  unfold execConvReleaseReceive
  repeat' first
    | with_reducible assumption
    | lift_lets
    | (with_reducible first | apply canon_creditEnd | apply canon_done)

theorem canon_doFeedWord (n m : Nat) (p : List Byte) (s : State) (h0 : MemCanon s) : MemCanon (doFeedWord n m p s) := by
  unfold doFeedWord
  repeat' first
    | with_reducible assumption
    | (intro x
       first
         | (refine canon_cut (s := x) ?_ ?_; rotate_left; clear_value x; intro _; rotate_left; dsimp -zeta only [x]; try clear x)
         | (have _g : _ → State := x; clear _g; dsimp -zeta only [x]; clear x)
         | clear_value x)
    | lift_lets
    | (with_reducible first | apply canon_modConv | apply canon_modFeed | apply canon_raiseConv | apply canon_ite)
    | split

theorem canon_execFeedWordReceive (chan : Nat) (word payload : List Byte) (s : State) (h0 : MemCanon s) : CanonE (execFeedWordReceive chan word payload s) := by
  unfold execFeedWordReceive
  repeat' first
    | with_reducible assumption
    | lift_lets
    | (with_reducible first | apply canon_doFeedWord | apply canon_done)

theorem canon_freezeFeed (s : State) (n p cause addr : Nat) (h0 : MemCanon s) : MemCanon (freezeFeed s n p cause addr) := by
  unfold freezeFeed
  repeat' first
    | with_reducible assumption
    | lift_lets
    | (with_reducible first | apply canon_recordFreeze | apply canon_modFeed)

theorem canon_drainSlot (s : State) (n jk k : Nat) (d : ConvDesc) (o : Option (Nat × Nat)) (h0 : MemCanon s) (p : Nat × Nat) (t : State)
    (e : (match o with
      | some p => some (p, s)
      | none => (pickSlot s jk k d).map (fun p => (p, modFeed (takeSlot s jk k p) n (fun f => { f with slot := some p })))) = some (p, t)) : MemCanon t := by
  split at e
  · cases e; exact h0
  · obtain ⟨q, -, hq⟩ := Option.map_eq_some_iff.1 e
    cases hq
    exact canon_modFeed _ _ _ (canon_takeSlot _ _ _ _ h0)

theorem canon_doFeedDrain (n : Nat) (s : State) (h0 : MemCanon s) : MemCanon (doFeedDrain n s) := by
  unfold doFeedDrain
  split
  · exact h0
  · split
    · exact h0
    · dsimp only
      refine canon_ite h0 ?_
      split
      · exact h0
      · rename_i e
        have ht := canon_drainSlot _ _ _ _ _ (getFeed s n).slot h0 _ _ e
        refine canon_ite (canon_freezeFeed _ _ _ _ _ (canon_modFeed _ _ _ (canon_freeSlot _ _ _ _ _ ht))) ?_
        exact canon_ite (canon_finishTile _ _ _ _ _ _ (canon_modFeed _ _ _ ht)) (canon_modFeed _ _ _ ht)

theorem canon_execFeedBufferDrain (chan : Nat) (s : State) (h0 : MemCanon s) : CanonE (execFeedBufferDrain chan s) :=
  canon_done (canon_doFeedDrain _ _ h0)

theorem canon_doSpdRowSpared (lb row : Nat) (lost : List Nat) (s : State) (h0 : MemCanon s) : MemCanon (doSpdRowSpared lb row lost s) := by
  unfold doSpdRowSpared
  repeat' first
    | with_reducible assumption
    | (intro x
       first
         | (refine canon_cut (s := x) ?_ ?_; rotate_left; clear_value x; intro _; rotate_left; dsimp -zeta only [x]; try clear x)
         | clear_value x)
    | lift_lets
    | (with_reducible first
        | apply canon_failBench | apply canon_modBench | apply canon_noteSparesBy | apply canon_repairOut | apply canon_raisePart | apply canon_ite)
    | split

theorem canon_execSpdRowSpared (lb : Nat) (row : Losing Nat) (s : State) (h0 : MemCanon s) : CanonE (execSpdRowSpared lb row s) :=
  canon_done (canon_doSpdRowSpared _ _ _ _ h0)

/-! ## Regs -/

theorem canon_doDoorbell (f r v : Nat) (s : State) (h0 : MemCanon s) : MemCanon (doDoorbell f r v s) := by
  unfold doDoorbell
  repeat' first
    | with_reducible assumption
    | lift_lets
    | (with_reducible first | apply canon_modRing | apply canon_ite)

theorem canon_execCmdqDoorbellWrite (func ring pi : Nat) (s : State) (h0 : MemCanon s) : CanonE (execCmdqDoorbellWrite func ring pi s) :=
  canon_done (canon_doDoorbell _ _ _ _ h0)

theorem canon_doRingEnable (f w v : Nat) (s : State) (h0 : MemCanon s) : MemCanon (doRingEnable f w v s) := by
  unfold doRingEnable
  repeat' first
    | with_reducible assumption
    | (intro x
       first
         | (refine canon_cut (s := x) ?_ ?_; rotate_left; clear_value x; intro _; rotate_left; dsimp -zeta only [x]; try clear x)
         | clear_value x)
    | lift_lets
    | (with_reducible first | apply canon_modFunc | apply canon_flushLost | apply canon_modRing | apply canon_ite)

theorem canon_execRingEnableWrite (func which val : Nat) (s : State) (h0 : MemCanon s) : CanonE (execRingEnableWrite func which val s) :=
  canon_done (canon_doRingEnable _ _ _ _ h0)

theorem canon_doCqHead (f r v : Nat) (s : State) (h0 : MemCanon s) : MemCanon (doCqHead f r v s) := by
  unfold doCqHead
  repeat' first
    | with_reducible assumption
    | (intro x; refine canon_cut (s := x) ?_ ?_; rotate_left; clear_value x; intro _; rotate_left; dsimp -zeta only [x]; try clear x)
    | lift_lets
    | (with_reducible first | apply canon_modRing | apply canon_writeHeld | apply canon_refuseUnknown | apply canon_ite)

theorem canon_execCqHeadWrite (func ring head : Nat) (s : State) (h0 : MemCanon s) : CanonE (execCqHeadWrite func ring head s) :=
  canon_done (canon_doCqHead _ _ _ _ h0)

theorem canon_doEvqHead (f v : Nat) (fails : Bool) (s : State) (h0 : MemCanon s) : MemCanon (doEvqHead f v fails s) := by
  unfold doEvqHead
  repeat' first
    | with_reducible assumption
    | (intro x; refine canon_cut (s := x) ?_ ?_; rotate_left; clear_value x; intro _; rotate_left; dsimp -zeta only [x]; try clear x)
    | lift_lets
    | (with_reducible first | apply canon_modFunc | apply canon_dmaError | apply canon_flushLost | apply canon_ite)

theorem canon_execEvqHeadWrite (func head : Nat) (fails : Bool) (s : State) (h0 : MemCanon s) : CanonE (execEvqHeadWrite func head fails s) :=
  canon_done (canon_doEvqHead _ _ _ _ h0)

theorem canon_doEvqLost (f v : Nat) (s : State) (h0 : MemCanon s) : MemCanon (doEvqLost f v s) := by
  unfold doEvqLost
  repeat' first
    | with_reducible assumption
    | lift_lets
    | (with_reducible first | apply canon_modFunc | apply canon_ite)

theorem canon_execEvqLostW1c (func val : Nat) (s : State) (h0 : MemCanon s) : CanonE (execEvqLostW1c func val s) :=
  canon_done (canon_doEvqLost _ _ _ h0)

theorem canon_doAperture (f v : Nat) (s : State) (h0 : MemCanon s) : MemCanon (doAperture f v s) := by
  unfold doAperture
  repeat' first
    | with_reducible assumption
    | lift_lets
    | (with_reducible first | apply canon_modFunc | apply canon_ite)

theorem canon_execApertureWrite (func val : Nat) (s : State) (h0 : MemCanon s) : CanonE (execApertureWrite func val s) :=
  canon_done (canon_doAperture _ _ _ h0)

theorem canon_doErrW1c (v : Nat) (s : State) (h0 : MemCanon s) : MemCanon (doErrW1c v s) := by
  unfold doErrW1c
  repeat' first
    | with_reducible assumption
    | (intro x; refine canon_cut_host (x := x) ?_ ?_; rotate_left; clear_value x; intro _; rotate_left; dsimp -zeta only [x]; try clear x)
    | lift_lets
    | (with_reducible first
        | apply canon_noteSpares | apply canon_ite | apply MemCanon.bytes | apply MemCanon.hostMem | apply MemCanon.stage | apply MemCanon.slots
        | apply canon_mk)

theorem canon_execErrSummaryW1c (val : Nat) (s : State) (h0 : MemCanon s) : CanonE (execErrSummaryW1c val s) := canon_done (canon_doErrW1c _ _ h0)

theorem canon_doBootCtrl (v : Nat) (s : State) (h0 : MemCanon s) : MemCanon (doBootCtrl v s) := by
  unfold doBootCtrl
  repeat' first
    | with_reducible assumption
    | (intro x; refine canon_cut (s := x) ?_ ?_; rotate_left; clear_value x; intro _; rotate_left; dsimp -zeta only [x]; try clear x)
    | lift_lets
    | (with_reducible first | apply canon_modBoot | apply canon_startAttempt | apply canon_ite)

theorem canon_doMsix (f off v : Nat) (s : State) (h0 : MemCanon s) : MemCanon (doMsix f off v s) := by
  unfold doMsix
  repeat' first
    | with_reducible assumption
    | lift_lets
    | (with_reducible first | apply canon_modFunc | apply canon_ite)

theorem canon_firePending (s : State) (f n : Nat) (h0 : MemCanon s) : MemCanon (firePending s f n) := by
  unfold firePending
  repeat' first
    | with_reducible assumption
    | (intro x; clear_value x)
    | lift_lets
    | (with_reducible first | apply canon_fireVector | apply canon_modFunc | apply canon_ite)

theorem canon_bar0Write (f off v : Nat) (s : State) (h0 : MemCanon s) : MemCanon (bar0Write f off v s) := by
  unfold bar0Write
  repeat' first
    | with_reducible assumption
    | (intro x; refine canon_cut_host (x := x) ?_ ?_; rotate_left; clear_value x; intro _; rotate_left; dsimp -zeta only [x]; try clear x)
    | lift_lets
    | (with_reducible first
        | apply canon_doBootCtrl | apply canon_modBoot | apply canon_doErrW1c | apply canon_firePending | apply canon_doMsix | apply canon_ite
        | apply MemCanon.bytes | apply MemCanon.hostMem | apply MemCanon.stage | apply MemCanon.slots | apply canon_mk)

theorem canon_bar2Write (f off v : Nat) (s : State) (h0 : MemCanon s) : MemCanon (bar2Write f off v s) := by
  unfold bar2Write
  repeat' first
    | with_reducible assumption
    | lift_lets
    | (with_reducible first
        | apply canon_modRing | apply canon_doRingEnable | apply canon_doDoorbell | apply canon_doCqHead | apply canon_modFunc
        | apply canon_doEvqHead | apply canon_doEvqLost | apply canon_doAperture | apply canon_ite)
    | split

theorem canon_doRegWrite (f bar off size v : Nat) (s : State) (h0 : MemCanon s) : MemCanon (doRegWrite f bar off size v s) := by
  unfold doRegWrite
  repeat' first
    | with_reducible assumption
    | lift_lets
    | (with_reducible first | apply canon_bar0Write | apply canon_bar2Write | apply canon_ite)

theorem canon_execRegisterWrite (func bar off size val : Nat) (s : State) (h0 : MemCanon s) : CanonE (execRegisterWrite func bar off size val s) :=
  canon_done (canon_doRegWrite _ _ _ _ _ _ h0)

/-! ## Shards -/

theorem canon_writeSubs (s : State) (p f b a sc u n : Nat) (d : List Byte) (h0 : MemCanon s) : MemCanon (writeSubs s p f b a sc u n d) := by
  unfold writeSubs
  repeat' first
    | with_reducible assumption
    | (intro x
       first
         | (refine canon_cut (s := x) ?_ ?_; rotate_left; clear_value x; intro _; rotate_left; dsimp -zeta only [x]; try clear x)
         | clear_value x)
    | lift_lets
    | (with_reducible first | apply canon_applyComp | apply canon_applyCells)

theorem canon_writeChunk (s : State) (p : Nat) (im : Image) (t : TensorEnt) (c : Nat) (d : List Byte) (h0 : MemCanon s) :
    MemCanon (writeChunk s p im t c d) := canon_writeSubs _ _ _ _ _ _ _ _ _ h0

theorem canon_writeParts (s : State) (p : Nat) (im : Image) (ts : List TensorEnt) (c : Nat) (d : List Byte) (h0 : MemCanon s) :
    MemCanon (writeParts s p im ts c d) := by
  unfold writeParts
  repeat' first
    | with_reducible assumption
    | lift_lets
    | with_reducible apply canon_writeChunk
    | (with_reducible apply canon_foldl_fst; intro _ _ _)

theorem canon_sendRec (s : State) (jk rep : Nat) (r : Rec) (h0 : MemCanon s) : MemCanon (sendRec s jk rep r) := canon_sendFrame _ _ _ _ _ _ h0

theorem canon_noteParts (s : State) (im : Image) (ts : List TensorEnt) (c : Nat) (h0 : MemCanon s) : MemCanon (noteParts s im ts c) := by
  unfold noteParts
  repeat' first
    | with_reducible assumption
    | (intro x; clear_value x)
    | lift_lets
    | with_reducible apply canon_noteSizes
    | (with_reducible apply canon_foldl; intro _ _ _)

theorem canon_sendParts (s : State) (jk rep : Nat) (im : Image) (ts : List TensorEnt) (c : Nat) (r : Rec) (h0 : MemCanon s) :
    MemCanon (sendParts s jk rep im ts c r) := by
  unfold sendParts
  repeat' first
    | with_reducible assumption
    | lift_lets
    | (with_reducible first | apply canon_sendRec | apply canon_noteParts)

theorem canon_bumpStep (s : State) (jk l off n : Nat) (h0 : MemCanon s) : MemCanon (bumpStep s jk l off n) := by
  unfold bumpStep
  repeat' first
    | with_reducible assumption
    | (intro x; clear_value x)
    | lift_lets
    | (with_reducible first | apply canon_wrLe | apply canon_ite)

theorem canon_setCommitStep (s : State) (j : Job) (r q v : Nat) (h0 : MemCanon s) : MemCanon (setCommitStep s j r q v) := canon_wrLe _ _ _ _ h0

theorem canon_modShard (s : State) (jk r : Nat) (f : ShardSt → ShardSt) (h0 : MemCanon s) : MemCanon (modShard s jk r f) := h0

theorem canon_chunkTask (s : State) (jk k : Nat) (tensor step chunk arg flags : Nat) (h0 : MemCanon s) :
    MemCanon (chunkTask s jk k tensor step chunk arg flags) := canon_dealTask _ _ _ h0

theorem canon_releaseUpdates (s : State) (jk r : Nat) (h0 : MemCanon s) : MemCanon (releaseUpdates s jk r) := by
  unfold releaseUpdates
  repeat' first
    | with_reducible assumption
    | (intro x; clear_value x)
    | lift_lets
    | (with_reducible first | apply canon_chunkTask | apply canon_modShard | apply canon_ite)
    | (with_reducible apply canon_foldl; intro _ _ _)
    | split

theorem canon_storeScales (s : State) (a : Nat) (d : List Byte) (h0 : MemCanon s) : MemCanon (storeScales s a d) := by
  unfold storeScales
  repeat' first
    | with_reducible assumption
    | lift_lets
    | with_reducible apply canon_wrBytes
    | (with_reducible apply canon_foldl; intro _ _ _)

theorem canon_sendScale (s : State) (jk r step : Nat) (h0 : MemCanon s) : MemCanon (sendScale s jk r step) := by
  unfold sendScale
  repeat' first
    | with_reducible assumption
    | (intro x; clear_value x)
    | lift_lets
    | (with_reducible first | apply canon_sendRec | apply canon_ite)
    | split

theorem canon_noteMismatch (s : State) (jk r rep : Nat) (t : TensorEnt) (h0 : MemCanon s) : MemCanon (noteMismatch s jk r rep t) := by
  unfold noteMismatch
  repeat' first
    | with_reducible assumption
    | (intro x
       first
         | (refine canon_cut (s := x) ?_ ?_; rotate_left; clear_value x; intro _; rotate_left; dsimp -zeta only [x]; try clear x)
         | clear_value x)
    | lift_lets
    | (with_reducible first
        | apply canon_raiseShard | apply canon_modLog | apply canon_addRecord | apply canon_setErr | apply canon_eventRecord | apply canon_ite
        | apply MemCanon.bytes | apply MemCanon.hostMem | apply MemCanon.stage | apply MemCanon.slots | apply canon_mk)

theorem canon_sendRefresh (s : State) (jk r rep flags : Nat) (t : TensorEnt) (h0 : MemCanon s) : MemCanon (sendRefresh s jk r rep flags t) := by
  unfold sendRefresh
  repeat' first
    | with_reducible assumption
    | (intro x; clear_value x)
    | lift_lets
    | with_reducible apply canon_sendParts
    | (with_reducible apply canon_foldl; intro _ _ _)
    | split

theorem canon_compareTally (s : State) (jk r rep v tally : Nat) (t : TensorEnt) (h0 : MemCanon s) : MemCanon (compareTally s jk r rep v tally t) := by
  unfold compareTally
  repeat' first
    | with_reducible assumption
    | (intro x; clear_value x)
    | lift_lets
    | (with_reducible first | apply canon_sendRefresh | apply canon_noteMismatch | apply canon_ite)

theorem canon_takeTally (s : State) (jk r v : Nat) (h0 : MemCanon s) : MemCanon (takeTally s jk r v) := by
  unfold takeTally
  repeat' first
    | with_reducible assumption
    | (intro x
       first
         | (refine canon_cut (s := x) ?_ ?_; rotate_left; clear_value x; intro _; rotate_left; dsimp -zeta only [x]; try clear x)
         | clear_value x)
    | lift_lets
    | (with_reducible first | apply canon_wrBytes | apply canon_modShard | apply canon_compareTally | apply canon_sendRec | apply canon_ite)
    | (with_reducible apply canon_foldl; intro _ _ _)
    | split

theorem canon_checkAcks (s : State) (jk r : Nat) (h0 : MemCanon s) : MemCanon (checkAcks s jk r) := by
  unfold checkAcks
  repeat' first
    | with_reducible assumption
    | (intro x
       first
         | (refine canon_cut (s := x) ?_ ?_; rotate_left; clear_value x; intro _; rotate_left; dsimp -zeta only [x]; try clear x)
         | clear_value x)
    | lift_lets
    | (with_reducible first | apply canon_wrLe | apply canon_setCommitStep | apply canon_ite)
    | (with_reducible apply canon_foldl; intro _ _ _)

/-! ## Psm -/

theorem canon_identify (s : State) (c : Call) (h0 : MemCanon s) : MemCanon (identify s c).1 := by
  unfold identify
  with_reducible assumption

theorem canon_execPsmIdentify (func ring : Nat) (io : HostIo) (s : State) (h0 : MemCanon s) : CanonE (execPsmIdentify func ring io s) := by
  unfold execPsmIdentify
  repeat' first
    | with_reducible assumption
    | intro _
    | lift_lets
    | (with_reducible first | apply canon_withCmd | apply canon_identify | apply canon_done)

theorem canon_zeroBenches (s : State) (lbs : List Nat) (h0 : MemCanon s) : MemCanon (zeroBenches s lbs) := by
  unfold zeroBenches
  repeat' first
    | with_reducible assumption
    | (intro x
       first
         | (refine canon_cut_mem (x := x) ?_ ?_; rotate_left; clear_value x; intro _; rotate_left; dsimp -zeta only [x]; try clear x)
         | clear_value x)
    | lift_lets
    | dsimp only
    | (with_reducible first
        | apply Mem.wf_clear | apply MemCanon.bytes | apply MemCanon.hostMem | apply MemCanon.stage | apply MemCanon.slots | apply canon_mk)

theorem canon_partConfig (s : State) (c : Call) (h0 : MemCanon s) : MemCanon (partConfig s c).1 := by
  unfold partConfig
  repeat' first
    | with_reducible assumption
    | (intro x
       first
         | (refine canon_cut (s := x) ?_ ?_; rotate_left; clear_value x; intro _; rotate_left; dsimp -zeta only [x]; try clear x)
         | clear_value x)
    | lift_lets
    | (with_reducible first | apply canon_zeroBenches | apply canon_modPart | apply canon_modFunc | apply canon_ite | apply canon_ite_fst)

theorem canon_execPsmPartConfig (func ring : Nat) (io : HostIo) (s : State) (h0 : MemCanon s) : CanonE (execPsmPartConfig func ring io s) := by
  unfold execPsmPartConfig
  repeat' first
    | with_reducible assumption
    | intro _
    | lift_lets
    | (with_reducible first | apply canon_withCmd | apply canon_partConfig | apply canon_done)

theorem canon_zeroPages (s : State) (mine : Nat → Bool) (h0 : MemCanon s) : MemCanon (zeroPages s mine) := by
  unfold zeroPages
  repeat' first
    | with_reducible assumption
    | (intro x; refine canon_cut_mem (x := x) ?_ ?_; rotate_left; clear_value x; intro _; rotate_left; dsimp -zeta only [x]; try clear x)
    | lift_lets
    | dsimp only
    | (with_reducible first
        | apply Mem.wf_clear | apply MemCanon.bytes | apply MemCanon.hostMem | apply MemCanon.stage | apply MemCanon.slots | apply canon_mk)

theorem canon_pageAssign (s : State) (c : Call) (h0 : MemCanon s) : MemCanon (pageAssign s c).1 := by
  unfold pageAssign
  repeat' first
    | with_reducible assumption
    | (intro x
       first
         | (refine canon_cut (s := x) ?_ ?_; rotate_left; clear_value x; intro _; rotate_left; dsimp -zeta only [x]; try clear x)
         | (refine canon_cut_mem (x := x) ?_ ?_; rotate_left; clear_value x; intro _; rotate_left; dsimp -zeta only [x]; try clear x)
         | clear_value x)
    | lift_lets
    | (with_reducible first | apply canon_zeroPages | apply canon_ite_fst)
    | dsimp only
    | (with_reducible first | apply MemCanon.bytes | apply MemCanon.hostMem | apply MemCanon.stage | apply MemCanon.slots | apply canon_mk)

theorem canon_execPsmPageAssign (func ring : Nat) (io : HostIo) (s : State) (h0 : MemCanon s) : CanonE (execPsmPageAssign func ring io s) := by
  unfold execPsmPageAssign
  repeat' first
    | with_reducible assumption
    | intro _
    | lift_lets
    | (with_reducible first | apply canon_withCmd | apply canon_pageAssign | apply canon_done)

theorem canon_pageRelease (s : State) (c : Call) (h0 : MemCanon s) : MemCanon (pageRelease s c).1 := by
  unfold pageRelease
  repeat' first
    | with_reducible assumption
    | (intro x
       first
         | (refine canon_cut (s := x) ?_ ?_; rotate_left; clear_value x; intro _; rotate_left; dsimp -zeta only [x]; try clear x)
         | (refine canon_cut_mem (x := x) ?_ ?_; rotate_left; clear_value x; intro _; rotate_left; dsimp -zeta only [x]; try clear x)
         | clear_value x)
    | lift_lets
    | (with_reducible first | apply canon_zeroPages | apply canon_ite_fst)
    | dsimp only
    | (with_reducible first | apply MemCanon.bytes | apply MemCanon.hostMem | apply MemCanon.stage | apply MemCanon.slots | apply canon_mk)

theorem canon_execPsmPageRelease (func ring : Nat) (io : HostIo) (s : State) (h0 : MemCanon s) : CanonE (execPsmPageRelease func ring io s) := by
  unfold execPsmPageRelease
  repeat' first
    | with_reducible assumption
    | intro _
    | lift_lets
    | (with_reducible first | apply canon_withCmd | apply canon_pageRelease | apply canon_done)

theorem canon_refillFreezes (s : State) (h0 : MemCanon s) : MemCanon (refillFreezes s) := by
  unfold refillFreezes
  repeat' first
    | with_reducible assumption
    | (intro x; refine canon_cut_host (x := x) ?_ ?_; rotate_left; clear_value x; intro _; rotate_left; dsimp -zeta only [x]; try clear x)
    | lift_lets
    | with_reducible apply canon_addFreeze
    | split
    | (with_reducible first | apply MemCanon.bytes | apply MemCanon.hostMem | apply MemCanon.stage | apply MemCanon.slots | apply canon_mk)

theorem canon_dropFreeze (s : State) (z : Freeze) (h0 : MemCanon s) : MemCanon (dropFreeze s z) := by
  unfold dropFreeze
  repeat' first
    | with_reducible assumption
    | (intro x; refine canon_cut_host (x := x) ?_ ?_; rotate_left; clear_value x; intro _; rotate_left; dsimp -zeta only [x]; try clear x)
    | lift_lets
    | with_reducible apply canon_refillFreezes
    | split
    | (with_reducible first | apply MemCanon.bytes | apply MemCanon.hostMem | apply MemCanon.stage | apply MemCanon.slots | apply canon_mk)

theorem canon_thawCtx (s : State) (lb c : Nat) (h0 : MemCanon s) : MemCanon (thawCtx s lb c) := by
  unfold thawCtx
  repeat' first
    | with_reducible assumption
    | (intro x
       first
         | (refine canon_cut (s := x) ?_ ?_; rotate_left; clear_value x; intro _; rotate_left; dsimp -zeta only [x]; try clear x)
         | (have _g : _ → State := x; clear _g; dsimp -zeta only [x]; clear x)
         | clear_value x)
    | lift_lets
    | (with_reducible first
        | apply canon_modCtx | apply canon_modBench | apply canon_partCopies | apply canon_dropVotes | apply canon_runAgain | apply canon_redeal
        | apply canon_selectNext | apply canon_ite)
    | split

theorem canon_thawMaster (s : State) (z : Freeze) (h0 : MemCanon s) : MemCanon (thawMaster s z) := by
  unfold thawMaster
  repeat' first
    | with_reducible assumption
    | (intro x
       first
         | (refine canon_cut (s := x) ?_ ?_; rotate_left; clear_value x; intro _; rotate_left; dsimp -zeta only [x]; try clear x)
         | (refine canon_cut_host (x := x) ?_ ?_; rotate_left; clear_value x; intro _; rotate_left; dsimp -zeta only [x]; try clear x)
         | clear_value x)
    | lift_lets
    | (with_reducible first
        | apply canon_modFunc | apply canon_writeHeld | apply canon_refuseUnknown | apply canon_flushLost | apply canon_thawCtx
        | apply canon_modFeed)
    | (with_reducible apply canon_foldl; intro _ _ _)
    | split
    | (with_reducible first | apply MemCanon.bytes | apply MemCanon.hostMem | apply MemCanon.stage | apply MemCanon.slots | apply canon_mk)

theorem canon_masterThaw (s : State) (c : Call) (h0 : MemCanon s) : MemCanon (masterThaw s c).1 := by
  unfold masterThaw
  repeat' first
    | with_reducible assumption
    | (intro x; refine canon_cut (s := x) ?_ ?_; rotate_left; clear_value x; intro _; rotate_left; dsimp -zeta only [x]; try clear x)
    | lift_lets
    | (with_reducible first | apply canon_thawMaster | apply canon_dropFreeze | apply canon_raisePart)
    | split

theorem canon_execPsmMasterThaw (func ring : Nat) (io : HostIo) (s : State) (h0 : MemCanon s) : CanonE (execPsmMasterThaw func ring io s) := by
  unfold execPsmMasterThaw
  repeat' first
    | with_reducible assumption
    | intro _
    | lift_lets
    | (with_reducible first | apply canon_withCmd | apply canon_masterThaw | apply canon_done)

theorem canon_haltPart (s : State) (p : Nat) (h0 : MemCanon s) : MemCanon (haltPart s p) := by
  unfold haltPart
  repeat' first
    | with_reducible assumption
    | lift_lets
    | (with_reducible first | apply canon_haltCtx | apply canon_ite)
    | (with_reducible apply canon_foldl; intro _ _ _)

theorem canon_thawPart (s : State) (p : Nat) (h0 : MemCanon s) : MemCanon (thawPart s p) := by
  unfold thawPart
  repeat' first
    | with_reducible assumption
    | (intro x; clear_value x)
    | lift_lets
    | (with_reducible first | apply canon_thawMaster | apply canon_dropFreeze)
    | (with_reducible apply canon_foldl; intro _ _ _)

theorem canon_unstopPart (s : State) (p : Nat) (h0 : MemCanon s) : MemCanon (unstopPart s p) := h0

theorem canon_noteResetTag (s : State) (p : Nat) (h0 : MemCanon s) : MemCanon (noteResetTag s p) := by
  unfold noteResetTag
  repeat' first
    | with_reducible assumption
    | (intro x; clear_value x)
    | lift_lets
    | (with_reducible first
        | apply canon_ite | apply MemCanon.bytes | apply MemCanon.hostMem | apply MemCanon.stage | apply MemCanon.slots | apply canon_mk)

theorem canon_refuseWaiting (s : State) (p : Nat) (h0 : MemCanon s) : MemCanon (refuseWaiting s p) := by
  unfold refuseWaiting
  repeat' first
    | with_reducible assumption
    | lift_lets
    | with_reducible apply canon_refuseNaming
    | (with_reducible apply canon_foldl; intro _ _ _)

theorem canon_partReset (s : State) (c : Call) (h0 : MemCanon s) : MemCanon (partReset s c).1 := by
  unfold partReset
  repeat' first
    | with_reducible assumption
    | (intro x
       first
         | (refine canon_cut (s := x) ?_ ?_; rotate_left; clear_value x; intro _; rotate_left; dsimp -zeta only [x]; try clear x)
         | clear_value x)
    | lift_lets
    | (with_reducible first
        | apply canon_modPart | apply canon_fireErr | apply canon_haltPart | apply canon_refuseWaiting | apply canon_noteResetTag
        | apply canon_freeJob | apply canon_erasePartKeys | apply canon_zeroBenches | apply canon_zeroPages | apply canon_unstopPart
        | apply canon_thawPart | apply canon_raisePart | apply canon_ite)
    | (with_reducible apply canon_foldl; intro _ _ _)

theorem canon_execPsmPartitionReset (func ring : Nat) (io : HostIo) (s : State) (h0 : MemCanon s) : CanonE (execPsmPartitionReset func ring io s) := by
  unfold execPsmPartitionReset
  repeat' first
    | with_reducible assumption
    | intro _
    | lift_lets
    | (with_reducible first | apply canon_withCmd | apply canon_partReset | apply canon_done)

theorem canon_doResetRefusal (dst tag type : Nat) (body : List Byte) (s : State) (h0 : MemCanon s) : MemCanon (doResetRefusal dst tag type body s) :=
  h0

theorem canon_execPartResetRefusalReceive (dst tag type : Nat) (body : List Byte) (s : State) (h0 : MemCanon s) :
    CanonE (execPartResetRefusalReceive dst tag type body s) := canon_done (canon_doResetRefusal _ _ _ _ _ h0)

theorem canon_resendFrame (s : State) (dst tag : Nat) (h : HeldFrame) (h0 : MemCanon s) : MemCanon (resendFrame s dst tag h) := by
  unfold resendFrame
  repeat' first
    | with_reducible assumption
    | lift_lets
    | (with_reducible first | apply canon_boardFrame | apply canon_siteFrame | apply canon_ite)

theorem canon_doFrameRetry (s : State) (h0 : MemCanon s) : MemCanon (doFrameRetry s) := by
  unfold doFrameRetry
  repeat' first
    | with_reducible assumption
    | (intro x
       first
         | (refine canon_cut (s := x) ?_ ?_; rotate_left; clear_value x; intro _; rotate_left; dsimp -zeta only [x]; try clear x)
         | clear_value x)
    | lift_lets
    | with_reducible apply canon_resendFrame
    | (with_reducible apply canon_foldl; intro _ _ _)
    | (with_reducible first | apply MemCanon.bytes | apply MemCanon.hostMem | apply MemCanon.stage | apply MemCanon.slots | apply canon_mk)

theorem canon_execPartResetFrameRetry (s : State) (h0 : MemCanon s) : CanonE (execPartResetFrameRetry s) := canon_done (canon_doFrameRetry _ h0)

theorem canon_doJobClosed (src tag : Nat) (s : State) (h0 : MemCanon s) : MemCanon (doJobClosed src tag s) := by
  unfold doJobClosed
  repeat' first
    | with_reducible assumption
    | (intro x
       first
         | (refine canon_cut (s := x) ?_ ?_; rotate_left; clear_value x; intro _; rotate_left; dsimp -zeta only [x]; try clear x)
         | clear_value x)
    | lift_lets
    | with_reducible apply canon_breakTo
    | split
    | (with_reducible first | apply MemCanon.bytes | apply MemCanon.hostMem | apply MemCanon.stage | apply MemCanon.slots | apply canon_mk)

theorem canon_execJobClosedReceive (src tag : Nat) (s : State) (h0 : MemCanon s) : CanonE (execJobClosedReceive src tag s) :=
  canon_done (canon_doJobClosed _ _ _ h0)

theorem canon_pathSetCmd (s : State) (c : Call) (h0 : MemCanon s) : MemCanon (pathSetCmd s c).1 := by
  unfold pathSetCmd
  repeat' first
    | with_reducible assumption
    | (intro x
       first
         | (refine canon_cut (s := x) ?_ ?_; rotate_left; clear_value x; intro _; rotate_left; dsimp -zeta only [x]; try clear x)
         | clear_value x)
    | lift_lets
    | (with_reducible first | apply canon_modSite | apply canon_ite | apply canon_ite_fst)
    | (with_reducible apply canon_foldl; intro _ _ _)
    | dsimp only
    | (with_reducible first | apply MemCanon.bytes | apply MemCanon.hostMem | apply MemCanon.stage | apply MemCanon.slots | apply canon_mk)

theorem canon_execPsmPathSet (func ring : Nat) (io : HostIo) (s : State) (h0 : MemCanon s) : CanonE (execPsmPathSet func ring io s) := by
  unfold execPsmPathSet
  repeat' first
    | with_reducible assumption
    | intro _
    | lift_lets
    | (with_reducible first | apply canon_withCmd | apply canon_pathSetCmd | apply canon_done)

theorem canon_doPathRemoved (s : State) (h0 : MemCanon s) : MemCanon (doPathRemoved s) := by
  unfold doPathRemoved
  repeat' first
    | with_reducible assumption
    | (intro x; clear_value x)
    | lift_lets
    | (with_reducible first | apply canon_longDone | apply canon_ite)
    | split
    | (with_reducible first | apply MemCanon.bytes | apply MemCanon.hostMem | apply MemCanon.stage | apply MemCanon.slots | apply canon_mk)

theorem canon_execPathRemoveDone (s : State) (h0 : MemCanon s) : CanonE (execPathRemoveDone s) := canon_done (canon_doPathRemoved _ h0)

/-! ## Stock -/

theorem canon_putBlock (s : State) (b : Nat) (x : CkptBlock) (h0 : MemCanon s) : MemCanon (putBlock s b x) := by
  unfold putBlock
  repeat' first
    | with_reducible assumption
    | (intro x
       first
         | (refine canon_cut_mem (x := x) ?_ ?_; rotate_left; clear_value x; intro _; rotate_left; dsimp -zeta only [x]; try clear x)
         | clear_value x)
    | lift_lets
    | with_reducible apply canon_ite
    | dsimp only
    | (with_reducible first
        | apply Mem.wf_write | apply MemCanon.bytes | apply MemCanon.hostMem | apply MemCanon.stage | apply MemCanon.slots | apply canon_mk)

theorem canon_reserveStock (s : State) (src tag build size : Nat) (h0 : MemCanon s) : CanonO (reserveStock s src tag build size) := by
  unfold reserveStock
  repeat' first
    | with_reducible assumption
    | (intro x
       first
         | (have _g : _ → _ → State := x; clear _g; dsimp -zeta only [x]; clear x)
         | clear_value x)
    | intro _
    | lift_lets
    | (with_reducible first | apply canon_some | apply canon_map)
    | split
    | (with_reducible first | apply MemCanon.bytes | apply MemCanon.hostMem | apply MemCanon.stage | apply MemCanon.slots | apply canon_mk)

theorem canon_doStockFrame (src tag build stp : Nat) (x : CkptBlock) (last : Bool) (s : State) (h0 : MemCanon s) :
    MemCanon (doStockFrame src tag build stp x last s) := by
  unfold doStockFrame
  repeat' first
    | with_reducible assumption
    | (intro x
       first
         | (refine canon_cut (s := x) ?_ ?_; rotate_left; clear_value x; intro _; rotate_left; dsimp -zeta only [x]; try clear x)
         | clear_value x)
    | lift_lets
    | (with_reducible first | apply canon_putBlock | apply canon_sendFrame | apply canon_ite)
    | split
    | (with_reducible first | apply MemCanon.bytes | apply MemCanon.hostMem | apply MemCanon.stage | apply MemCanon.slots | apply canon_mk)

theorem canon_execStockpileFrameReceive (src tag build stp : Nat) (blk : CkptBlock) (last : Bool) (s : State) (h0 : MemCanon s) :
    CanonE (execStockpileFrameReceive src tag build stp blk last s) := canon_done (canon_doStockFrame _ _ _ _ _ _ _ h0)

theorem canon_streamBack (s : State) (src : Nat) (h : Held) (h0 : MemCanon s) : MemCanon (streamBack s src h) := by
  unfold streamBack
  repeat' first
    | with_reducible assumption
    | (intro x; clear_value x)
    | lift_lets
    | with_reducible apply canon_sendFrame
    | (with_reducible apply canon_foldl; intro _ _ _)

theorem canon_doStockRequest (src kind tag build size : Nat) (s : State) (h0 : MemCanon s) : MemCanon (doStockRequest src kind tag build size s) := by
  unfold doStockRequest
  repeat' first
    | with_reducible assumption
    | (intro x
       first
         | (refine canon_cut (s := x) ?_ ?_; rotate_left; clear_value x; intro _; rotate_left; dsimp -zeta only [x]; try clear x)
         | (have _g : _ → _ → State := x; clear _g; dsimp -zeta only [x]; clear x)
         | clear_value x)
    | lift_lets
    | (with_reducible first
        | apply canon_sendFrame | apply canon_reserveStock | apply canon_streamBack | apply canon_discardHeld | apply canon_ite
        | refine canon_of_some (by assumption) ?_)
    | split
    | (with_reducible first | apply MemCanon.bytes | apply MemCanon.hostMem | apply MemCanon.stage | apply MemCanon.slots | apply canon_mk)

theorem canon_execStockpileRequestReceive (src kind tag build size : Nat) (s : State) (h0 : MemCanon s) :
    CanonE (execStockpileRequestReceive src kind tag build size s) := canon_done (canon_doStockRequest _ _ _ _ _ _ h0)

end Sys2Proof.Machine
end

