-- ==== Sys2Proof/Laws/CanonUpdate.lean ====
section
/-! SUPPORT. Canonical memories through reductions, the layer commit, owners and the engines: each operation keeps them, one lemma per operation. -/

namespace Sys2Proof.Machine

/-! ## Write -/

theorem canon_storeOut (s : State) (jk fmt tensor way : Nat) (o : SubOut) (h0 : MemCanon s) : MemCanon (storeOut s jk fmt tensor way o) := by
  unfold storeOut
  repeat' first
    | with_reducible assumption
    | (intro x; refine canon_cut (s := x) ?_ ?_; rotate_left; clear_value x; intro _; rotate_left; dsimp -zeta only [x]; try clear x)
    | lift_lets
    | (with_reducible first | apply canon_applyComp | apply canon_applyCells | apply canon_accWrite | apply canon_headroomOr)
    | (with_reducible apply canon_foldl; intro _ _ _)

/-! ## Mxe -/

theorem canon_auditEnd (s : State) (lb c jk : Nat) (st : Station) (p : Prod) (t : Task) (alpha : Word) (acc : Tab Word) (bad : Nat → Bool) (faulty : Bool) (h0 : MemCanon s) :
    MemCanon (auditEnd s lb c jk st p t alpha acc bad faulty) := by
  unfold auditEnd
  repeat' first
    | with_reducible assumption
    | (intro x
       first
         | (refine canon_cut (s := x) ?_ ?_; rotate_left; clear_value x; intro _; rotate_left; dsimp -zeta only [x]; try clear x)
         | clear_value x)
    | lift_lets
    | (with_reducible first | apply canon_wrLe | apply canon_requestTest | apply canon_raisePart | apply canon_modJob | apply canon_ite)

theorem canon_mxeRun (s : State) (lb c fn : Nat) (f : Nat → BCtx → Task → Station → MxeCmd → State → State) (h0 : MemCanon s) (hb : ∀ a b c d e s, MemCanon s → MemCanon (f a b c d e s)) :
    MemCanon (mxeRun s lb c fn f) := by
  unfold mxeRun
  repeat' first
    | with_reducible assumption
    | (intro x; clear_value x)
    | lift_lets
    | (with_reducible first | apply hb | apply canon_ite)
    | split

theorem canon_runProduct (s : State) (lb c jk : Nat) (x : BCtx) (t : Task) (st : Station) (alpha : Word) (p : Prod) (pathFault : List Nat) (h0 : MemCanon s) :
    MemCanon (runProduct s lb c jk x t st alpha p pathFault) := by
  unfold runProduct
  repeat' first
    | with_reducible assumption
    | (intro x
       first
         | (refine canon_cut (s := x) ?_ ?_; rotate_left; clear_value x; intro _; rotate_left; dsimp -zeta only [x]; try clear x)
         | clear_value x)
    | lift_lets
    | (with_reducible first
        | apply canon_storeOut | apply canon_auditEnd | apply canon_raiseBench | apply canon_modCtx | apply canon_ite | apply MemCanon.bytes
        | apply MemCanon.hostMem | apply MemCanon.stage | apply MemCanon.slots | apply canon_mk)

theorem canon_doProduct (lb c : Nat) (errs : List (Nat × Bool)) (pathFault : List Nat) (s : State) (h0 : MemCanon s) :
    MemCanon (doProduct lb c errs pathFault s) := by
  unfold doProduct
  refine canon_mxeRun _ _ _ _ _ h0 ?_
  intro jk x t st m s hs
  refine canon_ite (canon_taskFault _ _ _ _ _ hs) (canon_ite (canon_freezeBench _ _ _ _ _ _ hs) ?_)
  refine canon_ite (canon_taskFault _ _ _ _ _ hs) ?_
  split
  · exact canon_freezeBench _ _ _ _ _ _ hs
  · exact canon_runProduct _ _ _ _ _ _ _ _ _ _ (canon_foldl (fun _ _ h => canon_noteSizes _ _ _ h) (canon_checkReads _ _ _ (canon_noteSpdErrs _ _ _ _ hs)))

theorem canon_execProduct (lb ctx : Nat) (errs : List (Nat × Bool)) (pathFault : List Nat) (s : State) (h0 : MemCanon s) :
    CanonE (execProduct lb ctx errs pathFault s) := canon_done (canon_doProduct _ _ _ _ _ h0)

theorem canon_accArea (s : State) (lb c : Nat) (t : Task) (m : MxeCmd) (access : Nat) (h0 : MemCanon s) : CanonO (accArea s lb c t m access) := by
  unfold accArea
  repeat' first
    | (with_reducible first | assumption | exact canon_none)
    | lift_lets
    | (with_reducible first | apply canon_taskFault | apply canon_freezeBench | apply canon_iteO | apply canon_some)

theorem canon_doAccStore (lb c : Nat) (s : State) (h0 : MemCanon s) : MemCanon (doAccStore lb c s) := by
  unfold doAccStore
  repeat' first
    | with_reducible assumption
    | intro _
    | lift_lets
    | (with_reducible first
        | apply canon_mxeRun | apply canon_accArea | apply canon_modCtx | apply canon_applyCells | refine canon_of_some (by assumption) ?_)
    | split

theorem canon_execAccStore (lb ctx : Nat) (s : State) (h0 : MemCanon s) : CanonE (execAccStore lb ctx s) := canon_done (canon_doAccStore _ _ _ h0)

theorem canon_doAccLoad (lb c : Nat) (errs : List (Nat × Bool)) (s : State) (h0 : MemCanon s) : MemCanon (doAccLoad lb c errs s) := by
  unfold doAccLoad
  refine canon_mxeRun _ _ _ _ _ h0 ?_
  intro a b t d m s hs
  generalize List.range 4096 = l
  dsimp only
  cases e : accArea s lb c t m 0 with
  | some s' => exact canon_of_some e (canon_accArea _ _ _ _ _ _ hs)
  | none => exact canon_modCtx _ _ _ _ (canon_checkReads _ _ _ (canon_noteSpdErrs _ _ _ _ hs))

theorem canon_execAccLoad (lb ctx : Nat) (errs : List (Nat × Bool)) (s : State) (h0 : MemCanon s) : CanonE (execAccLoad lb ctx errs s) :=
  canon_done (canon_doAccLoad _ _ _ _ h0)

theorem canon_doAccRelease (lb c : Nat) (s : State) (h0 : MemCanon s) : MemCanon (doAccRelease lb c s) := by
  unfold doAccRelease
  repeat' first
    | with_reducible assumption
    | intro _
    | lift_lets
    | (with_reducible first | apply canon_mxeRun | apply canon_modCtx)

theorem canon_execAccRelease (lb ctx : Nat) (s : State) (h0 : MemCanon s) : CanonE (execAccRelease lb ctx s) :=
  canon_done (canon_doAccRelease _ _ _ h0)

/-! ## Vse -/

theorem canon_streamEffect (s : State) (lb c jk : Nat) (x : BCtx) (t : Task) (st : Station) (v : VseCmd) (d : Stream) (p : List VInstr) (h0 : MemCanon s) :
    MemCanon (streamEffect s lb c jk x t st v d p) := by
  unfold streamEffect
  repeat' first
    | with_reducible assumption
    | (intro x
       first
         | (refine canon_cut (s := x) ?_ ?_; rotate_left; clear_value x; intro _; rotate_left; dsimp -zeta only [x]; try clear x)
         | clear_value x)
    | lift_lets
    | (with_reducible first | apply canon_storeOut | apply canon_wrBytes | apply canon_raiseBench | apply canon_modCtx | apply canon_ite)
    | (with_reducible apply canon_foldl; intro _ _ _)
    | split

theorem canon_startStream (s : State) (lb c jk : Nat) (x : BCtx) (t : Task) (st : Station) (im : Image) (v : VseCmd) (errs : List (Nat × Bool))
    (h0 : MemCanon s) : MemCanon (startStream s lb c jk x t st im v errs) := by
  have h1 := fun l m r => canon_checkReads _ jk r (canon_noteSpdErrs s c l m h0)
  unfold startStream
  refine canon_ite (canon_taskFault _ _ _ _ _ (h1 _ _ _)) ?_
  split
  · exact canon_freezeBench _ _ _ _ _ _ (h1 _ _ _)
  · exact canon_streamEffect _ _ _ _ _ _ _ _ _ _
      (canon_foldl (fun _ _ h => canon_noteSizes _ _ _ h) (canon_checkReads _ _ _ (canon_noteSpdErrs _ _ _ _ (h1 _ _ _))))

theorem canon_doVseStream (lb c : Nat) (errs : List (Nat × Bool)) (s : State) (h0 : MemCanon s) : MemCanon (doVseStream lb c errs s) := by
  unfold doVseStream
  repeat' first
    | with_reducible assumption
    | (intro x; clear_value x)
    | lift_lets
    | (with_reducible first | apply canon_taskFault | apply canon_freezeBench | apply canon_startStream | apply canon_ite)
    | split

theorem canon_execVseStream (lb ctx : Nat) (errs : List (Nat × Bool)) (s : State) (h0 : MemCanon s) : CanonE (execVseStream lb ctx errs s) :=
  canon_done (canon_doVseStream _ _ _ _ h0)

/-! ## Hauls -/

theorem canon_putPlaces (s : State) (p : Nat) (im : Image) (t : TensorEnt) (ns : List Nat) (v : Nat → Word) (h0 : MemCanon s) :
    MemCanon (putPlaces s p im t ns v) := canon_applyComp _ _ _ h0

/-! ## Install -/

theorem canon_setRoundState (s : State) (jk r v : Nat) (h0 : MemCanon s) : MemCanon (setRoundState s jk r v) := canon_wrLe _ _ _ _ h0

theorem canon_raiseRound (s : State) (jk code round : Nat) (site : Option Nat) (t : Option TensorEnt) (h0 : MemCanon s) :
    MemCanon (raiseRound s jk code round site t) := canon_raisePart _ _ _ _ _ h0

theorem canon_raiseNonfinite (s : State) (jk r round : Nat) (t : Option TensorEnt) (h0 : MemCanon s) : MemCanon (raiseNonfinite s jk r round t) := by
  unfold raiseNonfinite
  repeat' first
    | with_reducible assumption
    | lift_lets
    | (with_reducible first | apply canon_raiseRound | apply canon_modRShard | apply canon_ite)

theorem canon_storeHaul (s : State) (jk r : Nat) (im : Image) (st : Station) (d : List Byte) (h0 : MemCanon s) :
    MemCanon (storeHaul s jk r im st d).1 := by
  unfold storeHaul
  repeat' first
    | with_reducible assumption
    | (intro x; clear_value x)
    | lift_lets
    | with_reducible apply canon_wrOwn

theorem canon_queueSend (s : State) (jk r p : Nat) (h : SendHaul) (h0 : MemCanon s) : MemCanon (queueSend s jk r p h) := h0

theorem canon_formCatchup (s : State) (jk r p round : Nat) (im : Image) (t : TensorEnt) (st : Station) (h0 : MemCanon s) :
    MemCanon (formCatchup s jk r p round im t st) := by
  unfold formCatchup
  repeat' first
    | with_reducible assumption
    | (intro x
       first
         | (refine canon_cut (s := x) ?_ ?_; rotate_left; clear_value x; intro _; rotate_left; dsimp -zeta only [x]; try clear x)
         | clear_value x)
    | lift_lets
    | (with_reducible first | apply canon_releaseHauls | apply canon_storeHaul | apply canon_queueSend | apply canon_modHaul)
    | split

theorem canon_formCatchups (s : State) (jk r round : Nat) (im : Image) (t : TensorEnt) (st : Station) (h0 : MemCanon s) :
    MemCanon (formCatchups s jk r round im t st) := by
  unfold formCatchups
  repeat' first
    | with_reducible assumption
    | (intro x; clear_value x)
    | lift_lets
    | (with_reducible first | apply canon_formCatchup | apply canon_ite)
    | (with_reducible apply canon_foldl; intro _ _ _)

theorem canon_copyTensor (s : State) (p : Nat) (im : Image) (t src dst : TensorEnt) (h0 : MemCanon s) : MemCanon (copyTensor s p im t src dst) :=
  canon_putPlaces _ _ _ _ _ _ h0

theorem canon_sendResult (s : State) (jk r : Nat) (im : Image) (t : TensorEnt) (h0 : MemCanon s) : MemCanon (sendResult s jk r im t) := by
  unfold sendResult
  repeat' first
    | with_reducible assumption
    | (intro x; clear_value x)
    | lift_lets
    | (with_reducible first | apply canon_sendParts | apply canon_ite)
    | (with_reducible apply canon_foldl; intro _ _ _)

theorem canon_resumeShards (s : State) (jk : Nat) (im : Image) (h0 : MemCanon s) : MemCanon (resumeShards s jk im) := by
  unfold resumeShards
  repeat' first
    | with_reducible assumption
    | (intro x; refine canon_cut (s := x) ?_ ?_; rotate_left; clear_value x; intro _; rotate_left; dsimp -zeta only [x]; try clear x)
    | lift_lets
    | (with_reducible first | apply canon_wrLe | apply canon_setRoundState | apply canon_modRShard | apply canon_ite)
    | (with_reducible apply canon_foldl; intro _ _ _)

theorem canon_resumeRound (s : State) (jk : Nat) (h0 : MemCanon s) : MemCanon (resumeRound s jk) := by
  unfold resumeRound
  repeat' first
    | with_reducible assumption
    | (intro x
       first
         | (refine canon_cut (s := x) ?_ ?_; rotate_left; clear_value x; intro _; rotate_left; dsimp -zeta only [x]; try clear x)
         | clear_value x)
    | lift_lets
    | (with_reducible first
        | apply canon_resumeShards | apply canon_wrLe | apply canon_modRound | apply canon_raiseRound | apply canon_wakePart | apply canon_endHold
        | apply canon_ite)
    | split

theorem canon_tryResume (s : State) (jk : Nat) (h0 : MemCanon s) : MemCanon (tryResume s jk) := by
  unfold tryResume
  repeat' first
    | with_reducible assumption
    | (intro x; clear_value x)
    | lift_lets
    | (with_reducible first | apply canon_resumeRound | apply canon_notifyAll | apply canon_ite)

theorem canon_reportReady (s : State) (jk : Nat) (h0 : MemCanon s) : MemCanon (reportReady s jk) := by
  unfold reportReady
  repeat' first
    | with_reducible assumption
    | (intro x
       first
         | (refine canon_cut (s := x) ?_ ?_; rotate_left; clear_value x; intro _; rotate_left; dsimp -zeta only [x]; try clear x)
         | clear_value x)
    | lift_lets
    | (with_reducible first | apply canon_modRShard | apply canon_tryResume | apply canon_modRound | apply canon_sendFrame | apply canon_ite)
    | (with_reducible apply canon_foldl; intro _ _ _)
    | split

theorem canon_startBootstrap (s : State) (jk r p round : Nat) (im : Image) (t : TensorEnt) (st : Station) (h0 : MemCanon s) :
    MemCanon (startBootstrap s jk r p round im t st) := by
  unfold startBootstrap
  repeat' first
    | with_reducible assumption
    | (intro x
       first
         | (refine canon_cut (s := x) ?_ ?_; rotate_left; clear_value x; intro _; rotate_left; dsimp -zeta only [x]; try clear x)
         | (have _g : _ → _ → _ → State := x; clear _g; dsimp -zeta only [x]; clear x)
         | clear_value x)
    | lift_lets
    | (with_reducible first | apply canon_openCtx | apply canon_storeHaul | apply canon_queueSend)
    | split

theorem canon_endInstall (s : State) (jk r : Nat) (im : Image) (t : TensorEnt) (st : Station) (h0 : MemCanon s) :
    MemCanon (endInstall s jk r im t st) := by
  unfold endInstall
  repeat' first
    | with_reducible assumption
    | (intro x
       first
         | (refine canon_cut (s := x) ?_ ?_; rotate_left; clear_value x; intro _; rotate_left; dsimp -zeta only [x]; try clear x)
         | clear_value x)
    | lift_lets
    | (with_reducible first
        | apply canon_startBootstrap | apply canon_wrLe | apply canon_setRoundState | apply canon_raiseRound | apply canon_notifyAll
        | apply canon_modRound | apply canon_announceHold | apply canon_reportReady | apply canon_formCatchups | apply canon_wakePart
        | apply canon_ite)
    | (with_reducible apply canon_foldl; intro _ _ _)

theorem canon_sendRoundState (s : State) (jk r : Nat) (im : Image) (t : TensorEnt) (h0 : MemCanon s) : MemCanon (sendRoundState s jk r im t) := by
  unfold sendRoundState
  repeat' first
    | with_reducible assumption
    | (intro x
       first
         | (refine canon_cut (s := x) ?_ ?_; rotate_left; clear_value x; intro _; rotate_left; dsimp -zeta only [x]; try clear x)
         | clear_value x)
    | lift_lets
    | (with_reducible first | apply canon_sendParts | apply canon_sendRec)
    | (with_reducible apply canon_foldl; intro _ _ _)

/-! ## Holders -/

theorem canon_settlePolicies (s : State) (jk : Nat) (h0 : MemCanon s) : MemCanon (settlePolicies s jk) := by
  unfold settlePolicies
  repeat' first
    | with_reducible assumption
    | (intro x
       first
         | (refine canon_cut (s := x) ?_ ?_; rotate_left; clear_value x; intro _; rotate_left; dsimp -zeta only [x]; try clear x)
         | clear_value x)
    | lift_lets
    | (with_reducible first | apply canon_moveRounds | apply canon_modRound)
    | split

theorem canon_takePolicy (s : State) (jk r : Nat) (h0 : MemCanon s) : MemCanon (takePolicy s jk r) := by
  unfold takePolicy
  repeat' first
    | with_reducible assumption
    | (intro x; clear_value x)
    | lift_lets
    | (with_reducible first | apply canon_freeCtx | apply canon_modRound | apply canon_openCtx | apply canon_settlePolicies | apply canon_ite)
    | (with_reducible apply canon_foldl; intro _ _ _)
    | split
    | dsimp only

theorem canon_startHandoff (s : State) (jk r : Nat) (t : TensorEnt) (im : Image) (h0 : MemCanon s) : MemCanon (startHandoff s jk r t im) := by
  unfold startHandoff
  repeat' first
    | with_reducible assumption
    | (intro x
       first
         | (refine canon_cut (s := x) ?_ ?_; rotate_left; clear_value x; intro _; rotate_left; dsimp -zeta only [x]; try clear x)
         | clear_value x)
    | lift_lets
    | (with_reducible first | apply canon_takePolicy | apply canon_wrLe | apply canon_modRShard | apply canon_chunkTask)
    | (with_reducible apply canon_foldl; intro _ _ _)
    | split

theorem canon_putVersion (s : State) (jk r : Nat) (t : TensorEnt) (im : Image) (h0 : MemCanon s) : MemCanon (putVersion s jk r t im) := by
  unfold putVersion
  repeat' first
    | with_reducible assumption
    | (intro x
       first
         | (refine canon_cut (s := x) ?_ ?_; rotate_left; clear_value x; intro _; rotate_left; dsimp -zeta only [x]; try clear x)
         | clear_value x)
    | lift_lets
    | (with_reducible first | apply canon_wrLe | apply canon_ite)

theorem canon_versionReached (s : State) (jk r v : Nat) (t : TensorEnt) (im : Image) (h0 : MemCanon s) : MemCanon (versionReached s jk r v t im) := by
  unfold versionReached
  repeat' first
    | with_reducible assumption
    | (intro x
       first
         | (refine canon_cut (s := x) ?_ ?_; rotate_left; clear_value x; intro _; rotate_left; dsimp -zeta only [x]; try clear x)
         | clear_value x)
    | lift_lets
    | (with_reducible first | apply canon_sendRec | apply canon_checkAcks | apply canon_takeTally | apply canon_startHandoff | apply canon_ite)

theorem canon_setChunkVersion (s : State) (jk r c v : Nat) (t : TensorEnt) (im : Image) (h0 : MemCanon s) :
    MemCanon (setChunkVersion s jk r c v t im) := by
  unfold setChunkVersion
  repeat' first
    | with_reducible assumption
    | (intro x
       first
         | (refine canon_cut (s := x) ?_ ?_; rotate_left; clear_value x; intro _; rotate_left; dsimp -zeta only [x]; try clear x)
         | clear_value x)
    | lift_lets
    | (with_reducible first | apply canon_wrOwnLe | apply canon_putVersion | apply canon_versionReached | apply canon_ite)

theorem canon_sendVersion (s : State) (jk q r : Nat) (im : Image) (t : TensorEnt) (c step v flags : Nat) (h0 : MemCanon s) :
    MemCanon (sendVersion s jk q r im t c step v flags) := by
  unfold sendVersion
  repeat' first
    | with_reducible assumption
    | (intro x; refine canon_cut (s := x) ?_ ?_; rotate_left; clear_value x; intro _; rotate_left; dsimp -zeta only [x]; try clear x)
    | lift_lets
    | (with_reducible first | apply canon_sendParts | apply canon_ite)

theorem canon_updateEnded (s : State) (jk : Nat) (t : Task) (h0 : MemCanon s) : MemCanon (updateEnded s jk t) := by
  unfold updateEnded
  repeat' first
    | with_reducible assumption
    | (intro x
       first
         | (refine canon_cut (s := x) ?_ ?_; rotate_left; clear_value x; intro _; rotate_left; dsimp -zeta only [x]; try clear x)
         | clear_value x)
    | lift_lets
    | (with_reducible first | apply canon_sendVersion | apply canon_modShard | apply canon_setChunkVersion | apply canon_ite)
    | (with_reducible apply canon_foldl; intro _ _ _)
    | split

theorem canon_newStandby (s : State) (jk r : Nat) (t : TensorEnt) (no : Nat) (h0 : MemCanon s) : MemCanon (newStandby s jk r t no) := by
  unfold newStandby
  repeat' first
    | with_reducible assumption
    | (intro x
       first
         | (refine canon_cut (s := x) ?_ ?_; rotate_left; clear_value x; intro _; rotate_left; dsimp -zeta only [x]; try clear x)
         | clear_value x)
    | lift_lets
    | (with_reducible first
        | apply canon_wrLe | apply canon_sendRefresh | apply canon_sendRec | apply canon_sendScale | apply canon_modShard | apply canon_checkAcks
        | apply canon_raiseShard | apply canon_releaseUpdates | apply canon_endInstall | apply canon_sendResult | apply canon_ite)
    | (with_reducible apply canon_foldl; intro _ _ _)
    | split

theorem canon_setRoles (s : State) (jk r : Nat) (own stand : Bool) (h0 : MemCanon s) : MemCanon (setRoles s jk r own stand) := canon_wrLe _ _ _ _ h0

theorem canon_roundTakeOver (s : State) (jk r : Nat) (t : TensorEnt) (im : Image) (h0 : MemCanon s) : MemCanon (roundTakeOver s jk r t im) := by
  unfold roundTakeOver
  repeat' first
    | with_reducible assumption
    | (intro x
       first
         | (refine canon_cut (s := x) ?_ ?_; rotate_left; clear_value x; intro _; rotate_left; dsimp -zeta only [x]; try clear x)
         | clear_value x)
    | lift_lets
    | (with_reducible first
        | apply canon_wrLe | apply canon_openShardCtxs | apply canon_wrBytes | apply canon_modHaul | apply canon_startHandoff | apply canon_sendParts
        | apply canon_ite)
    | (with_reducible apply canon_foldl; intro _ _ _)
    | split

theorem canon_takeOver (s : State) (jk r : Nat) (t : TensorEnt) (h0 : MemCanon s) : MemCanon (takeOver s jk r t) := by
  unfold takeOver
  repeat' first
    | with_reducible assumption
    | (intro x
       first
         | (refine canon_cut (s := x) ?_ ?_; rotate_left; clear_value x; intro _; rotate_left; dsimp -zeta only [x]; try clear x)
         | clear_value x)
    | lift_lets
    | (with_reducible first
        | apply canon_wrLe | apply canon_setRoles | apply canon_notifyAll | apply canon_raiseShard | apply canon_bumpStep | apply canon_modShard
        | apply canon_sendVersion | apply canon_releaseUpdates | apply canon_newStandby | apply canon_roundTakeOver | apply canon_ite)
    | (with_reducible apply canon_foldl; intro _ _ _)
    | split

theorem canon_shardsAfterLoss (s : State) (jk q : Nat) (h0 : MemCanon s) : MemCanon (shardsAfterLoss s jk q) := by
  unfold shardsAfterLoss
  repeat' first
    | with_reducible assumption
    | (intro x
       first
         | (refine canon_cut (s := x) ?_ ?_; rotate_left; clear_value x; intro _; rotate_left; dsimp -zeta only [x]; try clear x)
         | clear_value x)
    | lift_lets
    | (with_reducible first
        | apply canon_shardLost | apply canon_checkAcks | apply canon_takeOver | apply canon_newStandby | apply canon_wrLe | apply canon_ite)
    | (with_reducible apply canon_foldl; intro _ _ _)
    | split

theorem canon_askOld (s : State) (jk ro c : Nat) (h0 : MemCanon s) : MemCanon (askOld s jk ro c) := by
  unfold askOld
  repeat' first
    | with_reducible assumption
    | (intro x; clear_value x)
    | lift_lets
    | (with_reducible first | apply canon_shardLost | apply canon_sendRec)
    | split
    | dsimp only

theorem canon_askAllOld (s : State) (jk : Nat) (h0 : MemCanon s) : MemCanon (askAllOld s jk) := by
  unfold askAllOld
  repeat' first
    | with_reducible assumption
    | lift_lets
    | with_reducible apply canon_askOld
    | (with_reducible apply canon_foldl; intro _ _ _)

theorem canon_applyLoss (s : State) (jk q e : Nat) (h0 : MemCanon s) : MemCanon (applyLoss s jk q e) := by
  unfold applyLoss
  repeat' first
    | with_reducible assumption
    | (intro x
       first
         | (refine canon_cut (s := x) ?_ ?_; rotate_left; clear_value x; intro _; rotate_left; dsimp -zeta only [x]; try clear x)
         | clear_value x)
    | lift_lets
    | (with_reducible first | apply canon_modJob | apply canon_raisePart | apply canon_askAllOld | apply canon_shardsAfterLoss | apply canon_ite)

theorem canon_declareLost (s : State) (jk q : Nat) (h0 : MemCanon s) : MemCanon (declareLost s jk q) := by
  unfold declareLost
  repeat' first
    | with_reducible assumption
    | (intro x; clear_value x)
    | lift_lets
    | (with_reducible first | apply canon_applyLoss | apply canon_notifyAll | apply canon_ite)

/-! ## Reduce -/

theorem canon_modNode (s : State) (jk : Nat) (d : NodeId) (step : Nat) (probe : Bool) (f : RNode → RNode) (h0 : MemCanon s) :
    MemCanon (modNode s jk d step probe f) := h0

theorem canon_tryForward (s : State) (jk : Nat) (d : NodeId) (step : Nat) (probe : Bool) (h0 : MemCanon s) :
    MemCanon (tryForward s jk d step probe) := h0

theorem canon_countCase (s : State) (jk k off : Nat) (h0 : MemCanon s) : MemCanon (countCase s jk k off) := by
  unfold countCase
  repeat' first
    | (with_reducible first | assumption | apply canon_bumpStep)
    | split

theorem canon_grantBuffer (s : State) (jk : Nat) (d : NodeId) (step : Nat) (probe : Bool) (h0 : MemCanon s) :
    MemCanon (grantBuffer s jk d step probe) := h0

theorem canon_waitInput (s : State) (jk : Nat) (d : NodeId) (step : Nat) (probe : Bool) (i : RInput) (h0 : MemCanon s) :
    MemCanon (waitInput s jk d step probe i) := h0

theorem canon_lateInput (s : State) (jk : Nat) (d : NodeId) (i : RInput) (h0 : MemCanon s) : MemCanon (lateInput s jk d i) := by
  unfold lateInput
  repeat' first
    | with_reducible assumption
    | (intro x
       first
         | (refine canon_cut (s := x) ?_ ?_; rotate_left; clear_value x; intro _; rotate_left; dsimp -zeta only [x]; try clear x)
         | clear_value x)
    | lift_lets
    | (with_reducible first
        | apply canon_countCase | apply canon_grantBuffer | apply canon_waitInput | apply canon_tryForward | apply canon_modNode | apply canon_ite)

theorem canon_addInput (s : State) (jk : Nat) (d : NodeId) (i : RInput) (h0 : MemCanon s) : MemCanon (addInput s jk d i) := by
  unfold addInput
  repeat' first
    | with_reducible assumption
    | (intro x
       first
         | (refine canon_cut (s := x) ?_ ?_; rotate_left; clear_value x; intro _; rotate_left; dsimp -zeta only [x]; try clear x)
         | clear_value x)
    | lift_lets
    | (with_reducible first
        | apply canon_waitInput | apply canon_countCase | apply canon_tryForward | apply canon_modNode | apply canon_lateInput | apply canon_ite)
    | split

theorem canon_feedEarly (s : State) (jk : Nat) (d : NodeId) (step : Nat) (probe : Bool) (h0 : MemCanon s) : MemCanon (feedEarly s jk d step probe) := by
  unfold feedEarly
  repeat' first
    | with_reducible assumption
    | lift_lets
    | (with_reducible first | apply canon_addInput | apply canon_modNode | apply canon_ite)
    | (with_reducible apply canon_foldl; intro _ _ _)
    | split

theorem canon_passBuffer (s : State) (jk k : Nat) (h0 : MemCanon s) : MemCanon (passBuffer s jk k) := by
  unfold passBuffer
  repeat' first
    | with_reducible assumption
    | (intro x; refine canon_cut (s := x) ?_ ?_; rotate_left; clear_value x; intro _; rotate_left; dsimp -zeta only [x]; try clear x)
    | lift_lets
    | (with_reducible first | apply canon_grantBuffer | apply canon_feedEarly | apply canon_ite)
    | split

theorem canon_openNode (s : State) (jk : Nat) (d : NodeId) (step : Nat) (h0 : MemCanon s) : MemCanon (openNode s jk d step) := by
  unfold openNode
  repeat' first
    | with_reducible assumption
    | (intro x
       first
         | (refine canon_cut (s := x) ?_ ?_; rotate_left; clear_value x; intro _; rotate_left; dsimp -zeta only [x]; try clear x)
         | clear_value x)
    | lift_lets
    | (with_reducible first | apply canon_modJob | apply canon_modNode | apply canon_feedEarly | apply canon_grantBuffer)

theorem canon_openNodes (s : State) (jk k chunk step : Nat) (h0 : MemCanon s) : MemCanon (openNodes s jk k chunk step) := by
  unfold openNodes
  repeat' first
    | with_reducible assumption
    | (intro x; clear_value x)
    | lift_lets
    | (with_reducible first | apply canon_openNode | apply canon_ite)
    | (with_reducible apply canon_foldl; intro _ _ _)

theorem canon_toNode (s : State) (jk : Nat) (d : NodeId) (t : TensorEnt) (i : RInput) (r : Rec) (h0 : MemCanon s) : MemCanon (toNode s jk d t i r) := by
  unfold toNode
  repeat' first
    | with_reducible assumption
    | (intro x; clear_value x)
    | lift_lets
    | (with_reducible first | apply canon_addInput | apply canon_sendRec | apply canon_ite)
    | split

theorem canon_contribute (s : State) (jk : Nat) (t : Task) (h0 : MemCanon s) : MemCanon (contribute s jk t) := by
  unfold contribute
  repeat' first
    | with_reducible assumption
    | (intro x
       first
         | (refine canon_cut (s := x) ?_ ?_; rotate_left; clear_value x; intro _; rotate_left; dsimp -zeta only [x]; try clear x)
         | clear_value x)
    | lift_lets
    | (with_reducible first | apply canon_noteParts | apply canon_addInput | apply canon_toNode | apply canon_ite)
    | split

theorem canon_wrongSize (s : State) (jk : Nat) (t : TensorEnt) (h0 : MemCanon s) : MemCanon (wrongSize s jk t) := canon_bumpStep _ _ _ _ _ h0

theorem canon_reduceInput (s : State) (jk : Nat) (r : Rec) (local' : Bool) (h0 : MemCanon s) : MemCanon (reduceInput s jk r local') := by
  unfold reduceInput
  repeat' first
    | with_reducible assumption
    | (intro x; clear_value x)
    | lift_lets
    | (with_reducible first | apply canon_modJob | apply canon_bumpStep | apply canon_addInput | apply canon_ite)
    | split

theorem canon_withJob (s : State) (tag : Nat) (f : Nat → State) (h0 : MemCanon s) (hb : ∀ a, MemCanon (f a)) : MemCanon (withJob s tag f) := by
  unfold withJob
  repeat' first
    | (with_reducible first | assumption | apply hb)
    | split

theorem canon_execContribReceive (tag : Nat) (r : Rec) (sameBoard : Bool) (s : State) (h0 : MemCanon s) :
    CanonE (execContribReceive tag r sameBoard s) := by
  unfold execContribReceive
  repeat' first
    | with_reducible assumption
    | intro _
    | lift_lets
    | (with_reducible first | apply canon_withJob | apply canon_reduceInput | apply canon_done)

theorem canon_execPartialReceive (tag : Nat) (r : Rec) (sameBoard : Bool) (s : State) (h0 : MemCanon s) :
    CanonE (execPartialReceive tag r sameBoard s) := by
  unfold execPartialReceive
  repeat' first
    | with_reducible assumption
    | intro _
    | lift_lets
    | (with_reducible first | apply canon_withJob | apply canon_reduceInput | apply canon_done)

theorem canon_noteMiss (s : State) (jk q step : Nat) (h0 : MemCanon s) : MemCanon (noteMiss s jk q step) := by
  unfold noteMiss
  repeat' first
    | with_reducible assumption
    | (intro x
       first
         | (refine canon_cut (s := x) ?_ ?_; rotate_left; clear_value x; intro _; rotate_left; dsimp -zeta only [x]; try clear x)
         | clear_value x)
    | lift_lets
    | (with_reducible first | apply canon_modJob | apply canon_declareLost | apply canon_ite)

theorem canon_doWindowClose (jk : Nat) (d : NodeId) (s : State) (h0 : MemCanon s) : MemCanon (doWindowClose jk d s) := by
  unfold doWindowClose
  repeat' first
    | with_reducible assumption
    | (intro x
       first
         | (refine canon_cut (s := x) ?_ ?_; rotate_left; clear_value x; intro _; rotate_left; dsimp -zeta only [x]; try clear x)
         | clear_value x)
    | lift_lets
    | (with_reducible first | apply canon_modNode | apply canon_countCase | apply canon_noteMiss | apply canon_feedEarly | apply canon_ite)
    | (with_reducible apply canon_foldl; intro _ _ _)
    | split

theorem canon_execReduceWindowClose (job station chunk level node : Nat) (s : State) (h0 : MemCanon s) :
    CanonE (execReduceWindowClose job station chunk level node s) := canon_done (canon_doWindowClose _ _ _ h0)

theorem canon_noteResult (s : State) (jk rank chunk step count zeroed gblocks : Nat) (t : TensorEnt) (h0 : MemCanon s) :
    MemCanon (noteResult s jk rank chunk step count zeroed gblocks t) := by
  unfold noteResult
  repeat' first
    | with_reducible assumption
    | (intro x
       first
         | (refine canon_cut (s := x) ?_ ?_; rotate_left; clear_value x; intro _; rotate_left; dsimp -zeta only [x]; try clear x)
         | clear_value x)
    | lift_lets
    | (with_reducible first | apply canon_modJob | apply canon_wrBytes | apply canon_ite)
    | split

theorem canon_landResult (s : State) (jk r chunk step : Nat) (m : TensorEnt) (im : Image) (d : List Byte) (h0 : MemCanon s) :
    MemCanon (landResult s jk r chunk step m im d) := by
  unfold landResult
  repeat' first
    | with_reducible assumption
    | (intro x; refine canon_cut (s := x) ?_ ?_; rotate_left; clear_value x; intro _; rotate_left; dsimp -zeta only [x]; try clear x)
    | lift_lets
    | (with_reducible first
        | apply canon_writeSubs | apply canon_setCommitStep | apply canon_modShard | apply canon_wakePart | apply canon_releaseUpdates)
    | split

theorem canon_takeResult (s : State) (jk : Nat) (r : Rec) (h0 : MemCanon s) : MemCanon (takeResult s jk r).1 := by
  unfold takeResult
  repeat' first
    | with_reducible assumption
    | (intro x
       first
         | (refine canon_cut (s := x) ?_ ?_; rotate_left; clear_value x; intro _; rotate_left; dsimp -zeta only [x]; try clear x)
         | clear_value x)
    | lift_lets
    | (with_reducible first
        | apply canon_modJob | apply canon_wrongSize | apply canon_noteResult | apply canon_landResult | apply canon_ite | apply canon_ite_fst)
    | split

theorem canon_noteStall (s : State) (jk step : Nat) (t : TensorEnt) (h0 : MemCanon s) : MemCanon (noteStall s jk step t) := by
  unfold noteStall
  repeat' first
    | with_reducible assumption
    | (intro x; refine canon_cut (s := x) ?_ ?_; rotate_left; clear_value x; intro _; rotate_left; dsimp -zeta only [x]; try clear x)
    | lift_lets
    | (with_reducible first | apply canon_bumpStep | apply canon_raiseShard | apply canon_modJob | apply canon_ite)

theorem canon_doNodeDone (jk : Nat) (d : NodeId) (refusing : List Nat) (s : State) (h0 : MemCanon s) : MemCanon (doNodeDone jk d refusing s) := by
  unfold doNodeDone
  repeat' first
    | with_reducible assumption
    | (intro x; clear_value x)
    | lift_lets
    | (with_reducible first
        | apply canon_modNode | apply canon_passBuffer | apply canon_toNode | apply canon_bumpStep | apply canon_raiseShard | apply canon_modJob
        | apply canon_noteStall | apply canon_takeResult | apply canon_sendRec | apply canon_ite)
    | (with_reducible apply canon_foldl; intro _ _ _)
    | with_reducible refine canon_fst (by assumption) ?_
    | split
    | dsimp only

theorem canon_execReduceNodeDone (job station chunk level node : Nat) (refusing : List Nat) (s : State) (h0 : MemCanon s) :
    CanonE (execReduceNodeDone job station chunk level node refusing s) := canon_done (canon_doNodeDone _ _ _ _ h0)

theorem canon_execResultReceive (tag : Nat) (r : Rec) (s : State) (h0 : MemCanon s) : CanonE (execResultReceive tag r s) := by
  unfold execResultReceive
  repeat' first
    | with_reducible assumption
    | intro _
    | lift_lets
    | (with_reducible first
        | apply canon_withJob | apply canon_takeResult | apply canon_sendFrame | apply canon_done | refine canon_fst (by assumption) ?_)
    | split

theorem canon_doResultResend (jk : Nat) (refusing : List Nat) (s : State) (h0 : MemCanon s) : MemCanon (doResultResend jk refusing s) := by
  unfold doResultResend
  repeat' first
    | with_reducible assumption
    | (intro x
       first
         | (refine canon_cut (s := x) ?_ ?_; rotate_left; clear_value x; intro _; rotate_left; dsimp -zeta only [x]; try clear x)
         | (have _g : _ → State := x; clear _g; dsimp -zeta only [x]; clear x)
         | clear_value x)
    | lift_lets
    | (with_reducible first | apply canon_modJob | apply canon_takeResult | apply canon_sendRec | apply canon_ite)
    | (with_reducible apply canon_foldl; intro _ _ _)
    | with_reducible refine canon_fst (by assumption) ?_
    | split

theorem canon_execResultResend (job : Nat) (refusing : List Nat) (s : State) (h0 : MemCanon s) : CanonE (execResultResend job refusing s) :=
  canon_done (canon_doResultResend _ _ _ h0)

/-! ## Commit -/

theorem canon_wr1 (s : State) (a v : Nat) (h0 : MemCanon s) : MemCanon (wr1 s a v) := canon_wrLe _ _ _ _ h0

theorem canon_raiseNum (s : State) (jk code l step : Nat) (more : List (Nat × Nat)) (h0 : MemCanon s) : MemCanon (raiseNum s jk code l step more) :=
  canon_raisePart _ _ _ _ _ h0

theorem canon_bumpRec (s : State) (a n : Nat) (h0 : MemCanon s) : MemCanon (bumpRec s a n) := canon_wrLe _ _ _ _ h0

theorem canon_putScales (s : State) (a : Nat) (lam k : Int) (h0 : MemCanon s) : MemCanon (putScales s a lam k) := canon_wrBytes _ _ _ _ h0

theorem canon_ownTables (s : State) (jk : Nat) (h0 : MemCanon s) : MemCanon (ownTables s jk) := by
  unfold ownTables
  repeat' first
    | with_reducible assumption
    | lift_lets
    | with_reducible apply canon_modJob
    | split

theorem canon_headroomTensor (s : State) (jk l step : Nat) (im : Image) (t : TensorEnt) (probe : Bool) (h0 : MemCanon s) :
    MemCanon (headroomTensor s jk l step im t probe).1 := by
  unfold headroomTensor
  repeat' first
    | with_reducible assumption
    | (intro x; clear_value x)
    | lift_lets
    | (with_reducible first | apply canon_wrOwnLe | apply canon_raiseNum | apply canon_ite)
    | (with_reducible apply canon_foldl_fst; intro _ _ _)
    | split
    | dsimp only

theorem canon_headroomLayer (s : State) (jk l step : Nat) (im : Image) (probe : Bool) (p : Nat → Bool) (h0 : MemCanon s) :
    MemCanon (headroomLayer s jk l step im probe p).1 := by
  unfold headroomLayer
  repeat' first
    | with_reducible assumption
    | lift_lets
    | (with_reducible first | apply canon_headroomTensor | apply canon_ite_fst)
    | (with_reducible apply canon_foldl_fst; intro _ _ _)
    | split

theorem canon_zeroHist (s : State) (jk a : Nat) (h0 : MemCanon s) : MemCanon (zeroHist s jk a) := by
  unfold zeroHist
  repeat' first
    | with_reducible assumption
    | (intro x; clear_value x)
    | lift_lets
    | (with_reducible first | apply canon_wrOwn | apply canon_ite)

theorem canon_lossRule (s : State) (jk l step z t : Nat) (h0 : MemCanon s) : MemCanon (lossRule s jk l step z t) := by
  unfold lossRule
  repeat' first
    | with_reducible assumption
    | (intro x
       first
         | (refine canon_cut (s := x) ?_ ?_; rotate_left; clear_value x; intro _; rotate_left; dsimp -zeta only [x]; try clear x)
         | clear_value x)
    | lift_lets
    | (with_reducible first | apply canon_wr1 | apply canon_raiseNum | apply canon_bumpRec | apply canon_wrLe | apply canon_ite)

theorem canon_setK (s : State) (a : Nat) (k : Int) (h0 : MemCanon s) : MemCanon (setK s a k) := by
  unfold setK
  repeat' first
    | with_reducible assumption
    | (intro x; clear_value x)
    | lift_lets
    | (with_reducible first | apply canon_bumpRec | apply canon_wr1 | apply canon_ite)

theorem canon_updateNonfinite (s : State) (jk l step : Nat) (h0 : MemCanon s) : MemCanon (updateNonfinite s jk l step) := by
  unfold updateNonfinite
  repeat' first
    | with_reducible assumption
    | (intro x; refine canon_cut (s := x) ?_ ?_; rotate_left; clear_value x; intro _; rotate_left; dsimp -zeta only [x]; try clear x)
    | lift_lets
    | (with_reducible first | apply canon_modJob | apply canon_raiseNum | apply canon_announceHold)

theorem canon_updRule (s : State) (jk l step : Nat) (h : List Nat) (h0 : MemCanon s) : MemCanon (updRule s jk l step h) := by
  unfold updRule
  repeat' first
    | with_reducible assumption
    | (intro x
       first
         | (refine canon_cut (s := x) ?_ ?_; rotate_left; clear_value x; intro _; rotate_left; dsimp -zeta only [x]; try clear x)
         | clear_value x)
    | lift_lets
    | (with_reducible first | apply canon_wr1 | apply canon_setK | apply canon_raiseNum | apply canon_updateNonfinite | apply canon_ite)

theorem canon_probeK (s : State) (jk l : Nat) (h : List Nat) (h0 : MemCanon s) : MemCanon (probeK s jk l h) := by
  unfold probeK
  repeat' first
    | with_reducible assumption
    | (intro x; clear_value x)
    | lift_lets
    | (with_reducible first | apply canon_setK | apply canon_ite)

theorem canon_ratioRule (s : State) (jk l step : Nat) (k : Int) (hu hw : List Nat) (h0 : MemCanon s) : MemCanon (ratioRule s jk l step k hu hw) := by
  unfold ratioRule
  repeat' first
    | with_reducible assumption
    | (intro x
       first
         | (refine canon_cut (s := x) ?_ ?_; rotate_left; clear_value x; intro _; rotate_left; dsimp -zeta only [x]; try clear x)
         | clear_value x)
    | lift_lets
    | (with_reducible first | apply canon_wr1 | apply canon_raiseNum | apply canon_ite)

theorem canon_coldScale (s : State) (jk : Nat) (h0 : MemCanon s) : MemCanon (coldScale s jk) := by
  unfold coldScale
  repeat' first
    | with_reducible assumption
    | (intro x
       first
         | (refine canon_cut (s := x) ?_ ?_; rotate_left; clear_value x; intro _; rotate_left; dsimp -zeta only [x]; try clear x)
         | clear_value x)
    | lift_lets
    | (with_reducible first
        | apply canon_wr1 | apply canon_wrLe | apply canon_putScales | apply canon_wrOwn | apply canon_raiseNum | apply canon_modJob)
    | (with_reducible apply canon_foldl; intro _ _ _)
    | split

theorem canon_restartStep (s : State) (jk : Nat) (h0 : MemCanon s) : MemCanon (restartStep s jk) := by
  unfold restartStep
  repeat' first
    | with_reducible assumption
    | (intro x
       first
         | (refine canon_cut (s := x) ?_ ?_; rotate_left; clear_value x; intro _; rotate_left; dsimp -zeta only [x]; try clear x)
         | clear_value x)
    | lift_lets
    | (with_reducible first | apply canon_modJob | apply canon_setCommitStep | apply canon_ite)
    | (with_reducible apply canon_foldl; intro _ _ _)
    | split

theorem canon_reissueFeeds (s : State) (jk : Nat) (h0 : MemCanon s) : MemCanon (reissueFeeds s jk) := by
  unfold reissueFeeds
  repeat' first
    | with_reducible assumption
    | (intro x; clear_value x)
    | lift_lets
    | (with_reducible first | apply canon_dealTask | apply canon_modJob)
    | (with_reducible apply canon_foldl; intro _ _ _)

theorem canon_probeEnd (s : State) (jk : Nat) (im : Image) (h0 : MemCanon s) : MemCanon (probeEnd s jk im) := by
  unfold probeEnd
  repeat' first
    | with_reducible assumption
    | (intro x
       first
         | (refine canon_cut (s := x) ?_ ?_; rotate_left; clear_value x; intro _; rotate_left; dsimp -zeta only [x]; try clear x)
         | clear_value x)
    | lift_lets
    | (with_reducible first
        | apply canon_wr1 | apply canon_raiseNum | apply canon_modJob | apply canon_wakePart | apply canon_reissueFeeds | apply canon_restartStep
        | apply canon_ite)
    | (with_reducible apply canon_foldl; intro _ _ _)

theorem canon_copyScales (s : State) (jk l next : Nat) (im : Image) (h0 : MemCanon s) : MemCanon (copyScales s jk l next im) := by
  unfold copyScales
  repeat' first
    | with_reducible assumption
    | (intro x; clear_value x)
    | lift_lets
    | (with_reducible first | apply canon_sendScale | apply canon_wrBytes | apply canon_ite)
    | (with_reducible apply canon_foldl; intro _ _ _)

theorem canon_doLayerCommit (jk l : Nat) (s : State) (h0 : MemCanon s) : MemCanon (doLayerCommit jk l s) := by
  unfold doLayerCommit
  repeat' first
    | with_reducible assumption
    | (intro x; clear_value x)
    | lift_lets
    | (with_reducible first
        | apply canon_headroomLayer | apply canon_bumpRec | apply canon_probeK | apply canon_zeroHist | apply canon_putScales
        | apply canon_copyScales | apply canon_modJob | apply canon_probeEnd | apply canon_lossRule | apply canon_updRule | apply canon_ratioRule
        | apply canon_wrLe | apply canon_wakePart | apply canon_ite)
    | split
    | dsimp only

/-! ## Regen -/

theorem canon_regenCopy (s : State) (jk : Nat) (im : Image) (t w : TensorEnt) (h0 : MemCanon s) : MemCanon (regenCopy s jk im t w) := by
  unfold regenCopy
  repeat' first
    | with_reducible assumption
    | (intro x
       first
         | (refine canon_cut (s := x) ?_ ?_; rotate_left; clear_value x; intro _; rotate_left; dsimp -zeta only [x]; try clear x)
         | clear_value x)
    | lift_lets
    | (with_reducible first | apply canon_storeOut | apply canon_ite)
    | (with_reducible apply canon_foldl; intro _ _ _)
    | (with_reducible first | apply MemCanon.bytes | apply MemCanon.hostMem | apply MemCanon.stage | apply MemCanon.slots | apply canon_mk)

theorem canon_regenCopies (s : State) (jk : Nat) (im : Image) (t : TensorEnt) (h0 : MemCanon s) : MemCanon (regenCopies s jk im t) := by
  unfold regenCopies
  repeat' first
    | with_reducible assumption
    | lift_lets
    | with_reducible apply canon_regenCopy
    | (with_reducible apply canon_foldl; intro _ _ _)

/-! ## Reshard -/

theorem canon_initShard (s : State) (jk r : Nat) (im : Image) (t : TensorEnt) (version owner standby : Nat) (h0 : MemCanon s) :
    MemCanon (initShard s jk r im t version owner standby) := by
  unfold initShard
  repeat' first
    | with_reducible assumption
    | (intro x
       first
         | (refine canon_cut (s := x) ?_ ?_; rotate_left; clear_value x; intro _; rotate_left; dsimp -zeta only [x]; try clear x)
         | clear_value x)
    | lift_lets
    | (with_reducible first | apply canon_wrBytes | apply canon_wrOwn)

theorem canon_initRoundShard (s : State) (jk r round full : Nat) (t : TensorEnt) (h0 : MemCanon s) : MemCanon (initRoundShard s jk r round full t) := by
  unfold initRoundShard
  repeat' first
    | with_reducible assumption
    | (intro x
       first
         | (refine canon_cut (s := x) ?_ ?_; rotate_left; clear_value x; intro _; rotate_left; dsimp -zeta only [x]; try clear x)
         | clear_value x)
    | lift_lets
    | (with_reducible first | apply canon_wrBytes | apply canon_modRShard)

theorem canon_mergeChunk (s : State) (p : Nat) (im : Image) (t : TensorEnt) (c : Nat) (src : Nat → Nat → Option (List Nat × List Byte × Nat)) (h0 : MemCanon s) :
    MemCanon (mergeChunk s p im t c src) := canon_writeChunk _ _ _ _ _ _ h0

theorem canon_buildShard (s : State) (jk : Nat) (oi ni : Image) (t : TensorEnt) (get : Nat → TensorEnt → Nat → Nat → Option (List Byte)) (h0 : MemCanon s) :
    MemCanon (buildShard s jk oi ni t get) := by
  unfold buildShard
  repeat' first
    | with_reducible assumption
    | (intro x
       first
         | (refine canon_cut (s := x) ?_ ?_; rotate_left; clear_value x; intro _; rotate_left; dsimp -zeta only [x]; try clear x)
         | clear_value x)
    | lift_lets
    | (with_reducible first | apply canon_mergeChunk | apply canon_regenCopies | apply canon_ite)
    | (with_reducible apply canon_foldl; intro _ _ _)

theorem canon_feedAhead (s : State) (jk : Nat) (h0 : MemCanon s) : MemCanon (feedAhead s jk) := by
  unfold feedAhead
  repeat' first
    | with_reducible assumption
    | (intro x; clear_value x)
    | lift_lets
    | (with_reducible first | apply canon_takeResult | apply canon_reduceInput | apply canon_modJob | apply canon_ite)
    | (with_reducible apply canon_foldl; intro _ _ _)

theorem canon_finishReshard (s : State) (jk : Nat) (x : Reshard) (h0 : MemCanon s) : MemCanon (finishReshard s jk x) := by
  unfold finishReshard
  repeat' first
    | with_reducible assumption
    | (intro x
       first
         | (refine canon_cut (s := x) ?_ ?_; rotate_left; clear_value x; intro _; rotate_left; dsimp -zeta only [x]; try clear x)
         | clear_value x)
    | lift_lets
    | (with_reducible first
        | apply canon_modJob | apply canon_takeTally | apply canon_initRoundShard | apply canon_openShardCtxs | apply canon_settlePolicies
        | apply canon_modRound | apply canon_raisePart | apply canon_wakePart | apply canon_longDone | apply canon_feedAhead | apply canon_ite)
    | (with_reducible apply canon_foldl; intro _ _ _)
    | split

theorem canon_doSwitch (s : State) (jk : Nat) (h0 : MemCanon s) : MemCanon (doSwitch s jk) := by
  unfold doSwitch
  repeat' first
    | with_reducible assumption
    | (intro x
       first
         | (refine canon_cut (s := x) ?_ ?_; rotate_left; clear_value x; intro _; rotate_left; dsimp -zeta only [x]; try clear x)
         | clear_value x)
    | lift_lets
    | (with_reducible first
        | apply canon_countCase | apply canon_modJob | apply canon_freeJobCtxs | apply canon_ownTables | apply canon_setComp | apply canon_initShard
        | apply canon_buildShard | apply canon_shardLost | apply canon_finishReshard | apply canon_askAllOld | apply canon_ite)
    | (with_reducible apply canon_foldl; intro _ _ _)
    | split

theorem canon_reshardChunk (s : State) (jk : Nat) (x : Rec) (h0 : MemCanon s) : MemCanon (reshardChunk s jk x) := by
  unfold reshardChunk
  repeat' first
    | with_reducible assumption
    | (intro x; clear_value x)
    | lift_lets
    | (with_reducible first | apply canon_wrongSize | apply canon_buildShard | apply canon_modJob | apply canon_finishReshard | apply canon_ite)
    | (with_reducible apply canon_foldl; intro _ _ _)
    | split
    | dsimp only

theorem canon_serveOld (s : State) (jk : Nat) (x : Rec) (h0 : MemCanon s) : MemCanon (serveOld s jk x) := by
  unfold serveOld
  repeat' first
    | with_reducible assumption
    | (intro x; clear_value x)
    | lift_lets
    | (with_reducible first | apply canon_sendParts | apply canon_ite)
    | split

theorem canon_trySwitch (s : State) (jk : Nat) (h0 : MemCanon s) : MemCanon (trySwitch s jk) := by
  unfold trySwitch
  repeat' first
    | with_reducible assumption
    | (intro x; clear_value x)
    | lift_lets
    | (with_reducible first | apply canon_doSwitch | apply canon_notifyAll | apply canon_ite)
    | split

theorem canon_doReshardDrained (jk : Nat) (s : State) (h0 : MemCanon s) : MemCanon (doReshardDrained jk s) := by
  unfold doReshardDrained
  repeat' first
    | with_reducible assumption
    | (intro x
       first
         | (refine canon_cut (s := x) ?_ ?_; rotate_left; clear_value x; intro _; rotate_left; dsimp -zeta only [x]; try clear x)
         | clear_value x)
    | lift_lets
    | (with_reducible first | apply canon_raisePart | apply canon_modJob | apply canon_trySwitch | apply canon_sendFrame | apply canon_ite)
    | split

theorem canon_execReshardDrained (job : Nat) (s : State) (h0 : MemCanon s) : CanonE (execReshardDrained job s) :=
  canon_done (canon_doReshardDrained _ _ h0)

theorem canon_execDrainedReceive (tag epoch replica index : Nat) (s : State) (h0 : MemCanon s) :
    CanonE (execDrainedReceive tag epoch replica index s) := by
  unfold execDrainedReceive
  repeat' first
    | with_reducible assumption
    | intro _
    | lift_lets
    | (with_reducible first | apply canon_withJob | apply canon_trySwitch | apply canon_modJob | apply canon_ite | apply canon_done)
    | split

theorem canon_execReshardSwitch (tag epoch : Nat) (s : State) (h0 : MemCanon s) : CanonE (execReshardSwitch tag epoch s) := by
  unfold execReshardSwitch
  repeat' first
    | with_reducible assumption
    | intro _
    | lift_lets
    | (with_reducible first | apply canon_withJob | apply canon_doSwitch | apply canon_ite | apply canon_done)
    | split

/-! ## Owners -/

theorem canon_withShard (s : State) (tag : Nat) (x : Rec) (f : Nat → Image → TensorEnt → Nat → State) (h0 : MemCanon s) (hb : ∀ a b c d, MemCanon (f a b c d)) :
    MemCanon (withShard s tag x f) := by
  unfold withShard
  repeat' first
    | with_reducible assumption
    | intro _
    | lift_lets
    | (with_reducible first | apply hb | apply canon_withJob | apply canon_ite)
    | split

theorem canon_doScale (tag : Nat) (x : Rec) (s : State) (h0 : MemCanon s) : MemCanon (doScale tag x s) := by
  unfold doScale
  repeat' first
    | with_reducible assumption
    | intro _
    | lift_lets
    | (with_reducible first | apply canon_withShard | apply canon_wrongSize | apply canon_sendFrame | apply canon_storeScales | apply canon_ite)

theorem canon_execScaleReceive (tag : Nat) (r : Rec) (s : State) (h0 : MemCanon s) : CanonE (execScaleReceive tag r s) :=
  canon_done (canon_doScale _ _ _ h0)

theorem canon_doScaleAccept (tag tensor : Nat) (shard : List Nat) (step replica : Nat) (s : State) (h0 : MemCanon s) :
    MemCanon (doScaleAccept tag tensor shard step replica s) := by
  unfold doScaleAccept
  repeat' first
    | with_reducible assumption
    | (intro x
       first
         | (refine canon_cut (s := x) ?_ ?_; rotate_left; clear_value x; intro _; rotate_left; dsimp -zeta only [x]; try clear x)
         | clear_value x)
    | intro _
    | lift_lets
    | (with_reducible first | apply canon_withJob | apply canon_modShard | apply canon_wakePart | apply canon_releaseUpdates | apply canon_ite)
    | split

theorem canon_execScaleAcceptReceive (tag : Nat) (tensor : ShardName) (step replica : Nat) (s : State) (h0 : MemCanon s) :
    CanonE (execScaleAcceptReceive tag tensor step replica s) := canon_done (canon_doScaleAccept _ _ _ _ _ _ h0)

theorem canon_roundInstalled (s : State) (jk r q v : Nat) (h0 : MemCanon s) : MemCanon (roundInstalled s jk r q v) := by
  unfold roundInstalled
  repeat' first
    | with_reducible assumption
    | (intro x; refine canon_cut (s := x) ?_ ?_; rotate_left; clear_value x; intro _; rotate_left; dsimp -zeta only [x]; try clear x)
    | lift_lets
    | (with_reducible first | apply canon_modRShard | apply canon_wakePart | apply canon_takeTally)

theorem canon_mirrorRound (s : State) (jk r v : Nat) (awaited : Bool) (t : TensorEnt) (d : List Byte) (h0 : MemCanon s) :
    MemCanon (mirrorRound s jk r v awaited t d) := by
  unfold mirrorRound
  repeat' first
    | with_reducible assumption
    | (intro x
       first
         | (refine canon_cut (s := x) ?_ ?_; rotate_left; clear_value x; intro _; rotate_left; dsimp -zeta only [x]; try clear x)
         | clear_value x)
    | lift_lets
    | (with_reducible first | apply canon_wrBytes | apply canon_modRShard | apply canon_roundInstalled | apply canon_sendFrame | apply canon_ite)

theorem canon_mendTorn (s : State) (jk r c : Nat) (t : TensorEnt) (h0 : MemCanon s) : MemCanon (mendTorn s jk r c t) := by
  unfold mendTorn
  repeat' first
    | with_reducible assumption
    | (intro x
       first
         | (refine canon_cut (s := x) ?_ ?_; rotate_left; clear_value x; intro _; rotate_left; dsimp -zeta only [x]; try clear x)
         | clear_value x)
    | lift_lets
    | (with_reducible first
        | apply canon_modJob | apply canon_wrLe | apply canon_raiseShard | apply canon_wakePart | apply canon_dealTask | apply canon_ite)
    | (with_reducible apply canon_foldl; intro _ _ _)

theorem canon_installVersion (s : State) (jk r c v : Nat) (t : TensorEnt) (im : Image) (d : List Byte) (st : Option (List Byte)) (h0 : MemCanon s) :
    MemCanon (installVersion s jk r c v t im d st) := by
  unfold installVersion
  repeat' first
    | with_reducible assumption
    | (intro x
       first
         | (refine canon_cut (s := x) ?_ ?_; rotate_left; clear_value x; intro _; rotate_left; dsimp -zeta only [x]; try clear x)
         | clear_value x)
    | lift_lets
    | (with_reducible first
        | apply canon_writeParts | apply canon_bumpStep | apply canon_modShard | apply canon_setChunkVersion | apply canon_wakePart
        | apply canon_ite)
    | split

theorem canon_installRefresh (s : State) (jk r : Nat) (x : Rec) (t : TensorEnt) (im : Image) (h0 : MemCanon s) :
    MemCanon (installRefresh s jk r x t im) := by
  unfold installRefresh
  repeat' first
    | with_reducible assumption
    | (intro x
       first
         | (refine canon_cut (s := x) ?_ ?_; rotate_left; clear_value x; intro _; rotate_left; dsimp -zeta only [x]; try clear x)
         | clear_value x)
    | lift_lets
    | (with_reducible first
        | apply canon_mirrorRound | apply canon_wrongSize | apply canon_writeParts | apply canon_wrLe | apply canon_setRoles
        | apply canon_setChunkVersion | apply canon_mendTorn | apply canon_modRShard | apply canon_roundInstalled | apply canon_noteMismatch
        | apply canon_bumpStep | apply canon_ite)
    | split

theorem canon_ingressOne (s : State) (jk : Nat) (x : Rec) (rest : List Rec) (h0 : MemCanon s) : CanonP (ingressOne s jk x rest) := by
  unfold ingressOne
  repeat' first
    | (with_reducible first | assumption | exact canon_noneP)
    | (intro x; clear_value x)
    | lift_lets
    | (with_reducible first | apply canon_installRefresh | apply canon_wrongSize | apply canon_installVersion | apply canon_iteP | apply canon_someP)
    | split

theorem canon_ingressPass (s : State) (jk : Nat) (kept todo : List Rec) (fuel : Nat) (h0 : MemCanon s) :
    MemCanon (ingressPass s jk kept todo fuel).1 := by
  induction fuel generalizing s kept todo with
  | zero => exact h0
  | succ k ih =>
    unfold ingressPass
    repeat' first
      | with_reducible assumption
      | lift_lets
      | (with_reducible first | apply ih | apply canon_ingressOne | refine canon_ofP (by assumption) ?_)
      | split

theorem canon_drainIngress (s : State) (jk fuel : Nat) (h0 : MemCanon s) : MemCanon (drainIngress s jk fuel) := by
  induction fuel generalizing s with
  | zero => exact h0
  | succ k ih =>
    unfold drainIngress
    repeat' first
      | with_reducible assumption
      | (intro x; clear_value x)
      | lift_lets
      | (with_reducible first | apply ih | apply canon_ingressPass | apply canon_modJob | apply canon_ite)

theorem canon_arriveRec (s : State) (tag : Nat) (x : Rec) (h0 : MemCanon s) : MemCanon (arriveRec s tag x) := by
  unfold arriveRec
  repeat' first
    | with_reducible assumption
    | (intro x; refine canon_cut (s := x) ?_ ?_; rotate_left; clear_value x; intro _; rotate_left; dsimp -zeta only [x]; try clear x)
    | intro _
    | lift_lets
    | (with_reducible first
        | apply canon_withJob | apply canon_reshardChunk | apply canon_modShard | apply canon_modJob | apply canon_drainIngress | apply canon_ite)
    | split

theorem canon_execVersionReceive (tag : Nat) (r : Rec) (s : State) (h0 : MemCanon s) : CanonE (execVersionReceive tag r s) :=
  canon_done (canon_arriveRec _ _ _ h0)

theorem canon_execStateReceive (tag : Nat) (r : Rec) (s : State) (h0 : MemCanon s) : CanonE (execStateReceive tag r s) :=
  canon_done (canon_arriveRec _ _ _ h0)

theorem canon_execRefreshReceive (tag : Nat) (r : Rec) (s : State) (h0 : MemCanon s) : CanonE (execRefreshReceive tag r s) :=
  canon_done (canon_arriveRec _ _ _ h0)

theorem canon_doVersionAck (tag : Nat) (x : Rec) (s : State) (h0 : MemCanon s) : MemCanon (doVersionAck tag x s) := by
  unfold doVersionAck
  repeat' first
    | with_reducible assumption
    | intro _
    | lift_lets
    | (with_reducible first | apply canon_withShard | apply canon_wrongSize | apply canon_checkAcks | apply canon_modShard | apply canon_ite)

theorem canon_execVersionAckReceive (tag : Nat) (r : Rec) (s : State) (h0 : MemCanon s) : CanonE (execVersionAckReceive tag r s) :=
  canon_done (canon_doVersionAck _ _ _ h0)

theorem canon_doTally (tag : Nat) (x : Rec) (s : State) (h0 : MemCanon s) : MemCanon (doTally tag x s) := by
  unfold doTally
  repeat' first
    | with_reducible assumption
    | intro _
    | lift_lets
    | (with_reducible first | apply canon_withShard | apply canon_wrongSize | apply canon_modShard | apply canon_compareTally | apply canon_ite)

theorem canon_execTallyReceive (tag : Nat) (r : Rec) (s : State) (h0 : MemCanon s) : CanonE (execTallyReceive tag r s) :=
  canon_done (canon_doTally _ _ _ h0)

theorem canon_askReinstall (s : State) (jk r : Nat) (t : TensorEnt) (h0 : MemCanon s) : MemCanon (askReinstall s jk r t) := by
  unfold askReinstall
  repeat' first
    | with_reducible assumption
    | (intro x
       first
         | (refine canon_cut (s := x) ?_ ?_; rotate_left; clear_value x; intro _; rotate_left; dsimp -zeta only [x]; try clear x)
         | clear_value x)
    | lift_lets
    | (with_reducible first | apply canon_modShard | apply canon_sendRec)

theorem canon_doReinstallTimeout (jk rank : Nat) (s : State) (h0 : MemCanon s) : MemCanon (doReinstallTimeout jk rank s) := by
  unfold doReinstallTimeout
  repeat' first
    | with_reducible assumption
    | (intro x; clear_value x)
    | lift_lets
    | (with_reducible first | apply canon_askReinstall | apply canon_ite)
    | split

theorem canon_execReinstallTimeout (job rank : Nat) (s : State) (h0 : MemCanon s) : CanonE (execReinstallTimeout job rank s) :=
  canon_done (canon_doReinstallTimeout _ _ _ h0)

theorem canon_doReinstall (tag : Nat) (x : Rec) (s : State) (h0 : MemCanon s) : MemCanon (doReinstall tag x s) := by
  unfold doReinstall
  repeat' first
    | with_reducible assumption
    | (intro x
       first
         | (refine canon_cut (s := x) ?_ ?_; rotate_left; clear_value x; intro _; rotate_left; dsimp -zeta only [x]; try clear x)
         | clear_value x)
    | intro _
    | lift_lets
    | (with_reducible first
        | apply canon_withJob | apply canon_serveOld | apply canon_withShard | apply canon_wrongSize | apply canon_sendVersion | apply canon_sendRec
        | apply canon_sendParts | apply canon_ite)
    | (with_reducible apply canon_foldl; intro _ _ _)

theorem canon_execReinstallReceive (tag : Nat) (r : Rec) (s : State) (h0 : MemCanon s) : CanonE (execReinstallReceive tag r s) :=
  canon_done (canon_doReinstall _ _ _ h0)

theorem canon_doAckTimeout (jk rank : Nat) (s : State) (h0 : MemCanon s) : MemCanon (doAckTimeout jk rank s) := by
  unfold doAckTimeout
  repeat' first
    | with_reducible assumption
    | (intro x
       first
         | (refine canon_cut (s := x) ?_ ?_; rotate_left; clear_value x; intro _; rotate_left; dsimp -zeta only [x]; try clear x)
         | clear_value x)
    | lift_lets
    | (with_reducible first | apply canon_declareLost | apply canon_modShard | apply canon_sendVersion | apply canon_ite)
    | (with_reducible apply canon_foldl; intro _ _ _)
    | split

theorem canon_execAckTimeout (job rank : Nat) (s : State) (h0 : MemCanon s) : CanonE (execAckTimeout job rank s) :=
  canon_done (canon_doAckTimeout _ _ _ h0)

theorem canon_doPeerDown (jk replica : Nat) (port : Option Nat) (s : State) (h0 : MemCanon s) : MemCanon (doPeerDown jk replica port s) := by
  unfold doPeerDown
  repeat' first
    | with_reducible assumption
    | (intro x; clear_value x)
    | lift_lets
    | (with_reducible first | apply canon_declareLost | apply canon_ite)

theorem canon_execPeerDownTimeout (job replica : Nat) (port : Option Nat) (s : State) (h0 : MemCanon s) :
    CanonE (execPeerDownTimeout job replica port s) := canon_done (canon_doPeerDown _ _ _ _ h0)

theorem canon_doTakeoverTimeout (jk rank : Nat) (s : State) (h0 : MemCanon s) : MemCanon (doTakeoverTimeout jk rank s) := by
  unfold doTakeoverTimeout
  repeat' first
    | with_reducible assumption
    | (intro x; clear_value x)
    | lift_lets
    | (with_reducible first | apply canon_wakePart | apply canon_takeOver | apply canon_ite)
    | split

theorem canon_execTakeoverTimeout (job rank : Nat) (s : State) (h0 : MemCanon s) : CanonE (execTakeoverTimeout job rank s) :=
  canon_done (canon_doTakeoverTimeout _ _ _ h0)

theorem canon_execReplicaLostNotice (tag replica step : Nat) (s : State) (h0 : MemCanon s) : CanonE (execReplicaLostNotice tag replica step s) := by
  unfold execReplicaLostNotice
  repeat' first
    | with_reducible assumption
    | intro _
    | lift_lets
    | (with_reducible first | apply canon_withJob | apply canon_wakePart | apply canon_applyLoss | apply canon_done)

theorem canon_readmit (s : State) (jk replica step : Nat) (h0 : MemCanon s) : MemCanon (readmit s jk replica step) := by
  unfold readmit
  repeat' first
    | with_reducible assumption
    | (intro x
       first
         | (refine canon_cut (s := x) ?_ ?_; rotate_left; clear_value x; intro _; rotate_left; dsimp -zeta only [x]; try clear x)
         | clear_value x)
    | lift_lets
    | (with_reducible first | apply canon_modJob | apply canon_askReinstall | apply canon_ite)
    | (with_reducible apply canon_foldl; intro _ _ _)
    | split

theorem canon_execReplicaReadmitNotice (tag replica step : Nat) (s : State) (h0 : MemCanon s) :
    CanonE (execReplicaReadmitNotice tag replica step s) := by
  unfold execReplicaReadmitNotice
  repeat' first
    | with_reducible assumption
    | intro _
    | lift_lets
    | (with_reducible first | apply canon_withJob | apply canon_readmit | apply canon_done)

theorem canon_doTakeoverNotice (tag tensor : Nat) (shard : List Nat) (former owner : Nat) (s : State) (h0 : MemCanon s) :
    MemCanon (doTakeoverNotice tag tensor shard former owner s) := by
  unfold doTakeoverNotice
  repeat' first
    | with_reducible assumption
    | (intro x
       first
         | (refine canon_cut (s := x) ?_ ?_; rotate_left; clear_value x; intro _; rotate_left; dsimp -zeta only [x]; try clear x)
         | clear_value x)
    | intro _
    | lift_lets
    | (with_reducible first
        | apply canon_withJob | apply canon_wrLe | apply canon_setRoles | apply canon_settlePolicies | apply canon_freeShardCtxs | apply canon_ite)
    | split

theorem canon_execOwnerTakeoverNotice (tag : Nat) (tensor : ShardName) (former owner : Nat) (s : State) (h0 : MemCanon s) :
    CanonE (execOwnerTakeoverNotice tag tensor former owner s) := canon_done (canon_doTakeoverNotice _ _ _ _ _ _ h0)

theorem canon_doPauseNotice (tag cause : Nat) (round : Bool) (module' : Nat) (s : State) (h0 : MemCanon s) :
    MemCanon (doPauseNotice tag cause round module' s) := by
  unfold doPauseNotice
  repeat' first
    | with_reducible assumption
    | (intro x; refine canon_cut (s := x) ?_ ?_; rotate_left; clear_value x; intro _; rotate_left; dsimp -zeta only [x]; try clear x)
    | intro _
    | lift_lets
    | (with_reducible first
        | apply canon_withJob | apply canon_modRound | apply canon_wrLe | apply canon_longDone | apply canon_raisePart | apply canon_modJob
        | apply canon_announceHold | apply canon_ite)
    | split

theorem canon_execPauseNoticeReceive (tag cause : Nat) (round : Bool) (module' : Nat) (s : State) (h0 : MemCanon s) :
    CanonE (execPauseNoticeReceive tag cause round module' s) := canon_done (canon_doPauseNotice _ _ _ _ _ h0)

end Sys2Proof.Machine
end

