-- ==== Sys2Proof/Laws/CanonRounds.lean ====
section
/-! SUPPORT. Canonical memories through outer rounds, hauls, steps and checkpoints: each operation keeps them, one lemma per operation. -/

namespace Sys2Proof.Machine

/-! ## Rounds -/

theorem canon_putSpoil (s : State) (jk : Nat) (im : Image) (sp : TensorEnt) (step : Nat) (lam : Int) (n : Nat) (rho : Word) (h0 : MemCanon s) :
    MemCanon (putSpoil s jk im sp step lam n rho) := by
  unfold putSpoil
  repeat' first
    | with_reducible assumption
    | (intro x; clear_value x)
    | lift_lets
    | (with_reducible first | apply canon_headroomOr | apply canon_wrOwn)

theorem canon_formHaulBlock (s : State) (jk r step : Nat) (im : Image) (t an sp : TensorEnt) (pol : RoundPolicy) (b : Nat) (h0 : MemCanon s) :
    MemCanon (formHaulBlock s jk r step im t an sp pol b) := by
  unfold formHaulBlock
  repeat' first
    | with_reducible assumption
    | (intro x
       first
         | (refine canon_cut (s := x) ?_ ?_; rotate_left; clear_value x; intro _; rotate_left; dsimp -zeta only [x]; try clear x)
         | clear_value x)
    | lift_lets
    | (with_reducible first | apply canon_modRShard | apply canon_raiseNonfinite | apply canon_bumpRound | apply canon_putSpoil | apply canon_ite)
    | (with_reducible apply canon_foldl; intro _ _ _)

theorem canon_handoffChunk (s : State) (jk : Nat) (t : Task) (st : Station) (h0 : MemCanon s) : MemCanon (handoffChunk s jk t st) := by
  unfold handoffChunk
  repeat' first
    | with_reducible assumption
    | lift_lets
    | (with_reducible first | apply canon_formHaulBlock | apply canon_modRShard | apply canon_ite)
    | (with_reducible apply canon_foldl; intro _ _ _)
    | split
    | dsimp only

theorem canon_doHandoffDone (jk r : Nat) (s : State) (h0 : MemCanon s) : MemCanon (doHandoffDone jk r s) := by
  unfold doHandoffDone
  repeat' first
    | with_reducible assumption
    | (intro x
       first
         | (refine canon_cut (s := x) ?_ ?_; rotate_left; clear_value x; intro _; rotate_left; dsimp -zeta only [x]; try clear x)
         | clear_value x)
    | lift_lets
    | (with_reducible first
        | apply canon_wrLe | apply canon_headroomTensor | apply canon_bumpRec | apply canon_formCatchups | apply canon_storeHaul
        | apply canon_queueSend | apply canon_setRoundState | apply canon_ite)
    | (with_reducible apply canon_foldl; intro _ _ _)
    | split
    | dsimp only

theorem canon_execRoundHandoffDone (job rank : Nat) (s : State) (h0 : MemCanon s) : CanonE (execRoundHandoffDone job rank s) :=
  canon_done (canon_doHandoffDone _ _ _ h0)

theorem canon_backToActive (s : State) (jk r p last : Nat) (h0 : MemCanon s) : MemCanon (backToActive s jk r p last) := by
  unfold backToActive
  repeat' first
    | with_reducible assumption
    | (intro x
       first
         | (refine canon_cut (s := x) ?_ ?_; rotate_left; clear_value x; intro _; rotate_left; dsimp -zeta only [x]; try clear x)
         | clear_value x)
    | lift_lets
    | (with_reducible first | apply canon_wrLe | apply canon_modHaul | apply canon_setCtxState)

theorem canon_mergeCatchups (s : State) (jk r round : Nat) (im : Image) (t : TensorEnt) (st : Station) (pol : RoundPolicy) (h0 : MemCanon s) :
    MemCanon (mergeCatchups s jk r round im t st pol) := by
  unfold mergeCatchups
  repeat' first
    | with_reducible assumption
    | (intro x
       first
         | (refine canon_cut (s := x) ?_ ?_; rotate_left; clear_value x; intro _; rotate_left; dsimp -zeta only [x]; try clear x)
         | clear_value x)
    | lift_lets
    | (with_reducible first | apply canon_putPlaces | apply canon_bumpRound | apply canon_backToActive | apply canon_raiseRound | apply canon_ite)
    | (with_reducible apply canon_foldl; intro _ _ _)
    | split

theorem canon_putClosed (s : State) (jk : Nat) (im : Image) (h0 : MemCanon s) : MemCanon (putClosed s jk im) := by
  unfold putClosed
  repeat' first
    | with_reducible assumption
    | (intro x; clear_value x)
    | lift_lets
    | (with_reducible first | apply canon_wrLe | apply canon_ite)
    | split

theorem canon_turnSplit (s : State) (jk r round : Nat) (t : TensorEnt) (q : Partner × Nat) (h0 : MemCanon s) :
    MemCanon (turnSplit s jk r round t q) := by
  unfold turnSplit
  repeat' first
    | with_reducible assumption
    | (intro x; refine canon_cut (s := x) ?_ ?_; rotate_left; clear_value x; intro _; rotate_left; dsimp -zeta only [x]; try clear x)
    | lift_lets
    | (with_reducible first | apply canon_setCtxState | apply canon_raiseRound | apply canon_modRound | apply canon_ite)

theorem canon_startOuter (s : State) (jk r : Nat) (im : Image) (t : TensorEnt) (step : Nat) (h0 : MemCanon s) :
    MemCanon (startOuter s jk r im t step) := by
  unfold startOuter
  repeat' first
    | with_reducible assumption
    | lift_lets
    | (with_reducible first | apply canon_chunkTask | apply canon_setRoundState)
    | (with_reducible apply canon_foldl; intro _ _ _)
    | split

theorem canon_doRoundClose (jk r : Nat) (s : State) (h0 : MemCanon s) : MemCanon (doRoundClose jk r s) := by
  unfold doRoundClose
  repeat' first
    | with_reducible assumption
    | (intro x
       first
         | (refine canon_cut (s := x) ?_ ?_; rotate_left; clear_value x; intro _; rotate_left; dsimp -zeta only [x]; try clear x)
         | clear_value x)
    | lift_lets
    | (with_reducible first
        | apply canon_setRoundState | apply canon_mergeCatchups | apply canon_putPlaces | apply canon_bumpRound | apply canon_wrLe
        | apply canon_modHaul | apply canon_raiseRound | apply canon_modRound | apply canon_turnSplit | apply canon_modRShard | apply canon_wakePart
        | apply canon_putClosed | apply canon_startOuter | apply canon_ite)
    | (with_reducible apply canon_foldl; intro _ _ _)
    | split

theorem canon_execRoundClose (job rank : Nat) (s : State) (h0 : MemCanon s) : CanonE (execRoundClose job rank s) :=
  canon_done (canon_doRoundClose _ _ _ h0)

theorem canon_startInstall (s : State) (jk r : Nat) (im : Image) (t : TensorEnt) (st : Station) (h0 : MemCanon s) :
    MemCanon (startInstall s jk r im t st) := by
  unfold startInstall
  repeat' first
    | with_reducible assumption
    | (intro x
       first
         | (refine canon_cut (s := x) ?_ ?_; rotate_left; clear_value x; intro _; rotate_left; dsimp -zeta only [x]; try clear x)
         | clear_value x)
    | lift_lets
    | (with_reducible first
        | apply canon_setRoundState | apply canon_copyTensor | apply canon_takeTally | apply canon_modRShard | apply canon_endInstall
        | apply canon_sendResult | apply canon_sendRoundState | apply canon_ite)
    | split

theorem canon_roundUpdateEnded (s : State) (jk : Nat) (tk : Task) (u : Station) (h0 : MemCanon s) : MemCanon (roundUpdateEnded s jk tk u) := by
  unfold roundUpdateEnded
  repeat' first
    | with_reducible assumption
    | (intro x; refine canon_cut (s := x) ?_ ?_; rotate_left; clear_value x; intro _; rotate_left; dsimp -zeta only [x]; try clear x)
    | lift_lets
    | (with_reducible first | apply canon_modRShard | apply canon_startInstall | apply canon_ite)
    | split

theorem canon_doRoundAccept (tag tensor : Nat) (shard : List Nat) (round replica : Nat) (s : State) (h0 : MemCanon s) :
    MemCanon (doRoundAccept tag tensor shard round replica s) := by
  unfold doRoundAccept
  repeat' first
    | with_reducible assumption
    | (intro x; clear_value x)
    | intro _
    | lift_lets
    | (with_reducible first | apply canon_withJob | apply canon_endInstall | apply canon_sendResult | apply canon_ite)
    | split

theorem canon_execRoundStateAcceptReceive (tag : Nat) (tensor : ShardName) (round replica : Nat) (s : State) (h0 : MemCanon s) :
    CanonE (execRoundStateAcceptReceive tag tensor round replica s) := canon_done (canon_doRoundAccept _ _ _ _ _ _ h0)

theorem canon_execRoundReadyReport (tag site : Nat) (s : State) (h0 : MemCanon s) : CanonE (execRoundReadyReport tag site s) := by
  unfold execRoundReadyReport
  repeat' first
    | with_reducible assumption
    | intro _
    | lift_lets
    | (with_reducible first | apply canon_withJob | apply canon_tryResume | apply canon_modRound | apply canon_done)

theorem canon_execRoundResume (tag cause : Nat) (s : State) (h0 : MemCanon s) : CanonE (execRoundResume tag cause s) := by
  unfold execRoundResume
  repeat' first
    | with_reducible assumption
    | intro _
    | lift_lets
    | (with_reducible first
        | apply canon_withJob | apply canon_resumeRound | apply canon_wakePart | apply canon_endHold | apply canon_ite | apply canon_done)

/-! ## Workings -/

theorem canon_fillCaches (s : State) (jk : Nat) (im : Image) (h0 : MemCanon s) : MemCanon (fillCaches s jk im) := by
  unfold fillCaches
  repeat' first
    | with_reducible assumption
    | (intro x; clear_value x)
    | lift_lets
    | with_reducible apply canon_modBench
    | (with_reducible apply canon_foldl; intro _ _ _)

theorem canon_initLayer (s : State) (jk : Nat) (im : Image) (l : Nat) (h0 : MemCanon s) : MemCanon (initLayer s jk im l) := by
  unfold initLayer
  repeat' first
    | with_reducible assumption
    | (intro x
       first
         | (refine canon_cut (s := x) ?_ ?_; rotate_left; clear_value x; intro _; rotate_left; dsimp -zeta only [x]; try clear x)
         | clear_value x)
    | lift_lets
    | (with_reducible first | apply canon_wrBytes | apply canon_zeroHist | apply canon_putScales | apply canon_wrOwn)
    | (with_reducible apply canon_foldl; intro _ _ _)

theorem canon_initStepRec (s : State) (jk l : Nat) (h0 : MemCanon s) : MemCanon (initStepRec s jk l) := canon_wrBytes _ _ _ _ h0

theorem canon_fillTensor (s : State) (p : Nat) (im : Image) (t : TensorEnt) (v : Nat → Word) (h0 : MemCanon s) : MemCanon (fillTensor s p im t v) := by
  unfold fillTensor
  repeat' first
    | with_reducible assumption
    | lift_lets
    | (with_reducible first | apply canon_putPlaces | apply canon_wrOwn)

theorem canon_initRoundTensors (s : State) (p : Nat) (im : Image) (t : TensorEnt) (k : Station) (h0 : MemCanon s) :
    MemCanon (initRoundTensors s p im t k) := by
  unfold initRoundTensors
  repeat' first
    | with_reducible assumption
    | (intro x
       first
         | (refine canon_cut (s := x) ?_ ?_; rotate_left; clear_value x; intro _; rotate_left; dsimp -zeta only [x]; try clear x)
         | (have _g : _ → _ → _ → State := x; clear _g; dsimp -zeta only [x]; clear x)
         | clear_value x)
    | lift_lets
    | with_reducible apply canon_fillTensor
    | (with_reducible apply canon_foldl; intro _ _ _)
    | split

theorem canon_initRecords (s : State) (jk : Nat) (im : Image) (h0 : MemCanon s) : MemCanon (initRecords s jk im) := by
  unfold initRecords
  repeat' first
    | with_reducible assumption
    | (intro x
       first
         | (refine canon_cut (s := x) ?_ ?_; rotate_left; clear_value x; intro _; rotate_left; dsimp -zeta only [x]; try clear x)
         | clear_value x)
    | lift_lets
    | (with_reducible first
        | apply canon_initStepRec | apply canon_initLayer | apply canon_coldScale | apply canon_initShard | apply canon_initRoundTensors
        | apply canon_ite)
    | (with_reducible apply canon_foldl; intro _ _ _)
    | split

theorem canon_refreshScales (s : State) (jk : Nat) (im : Image) (h0 : MemCanon s) : MemCanon (refreshScales s jk im) := by
  unfold refreshScales
  repeat' first
    | with_reducible assumption
    | (intro x; clear_value x)
    | lift_lets
    | (with_reducible first | apply canon_wrBytes | apply canon_ite)
    | (with_reducible apply canon_foldl; intro _ _ _)

theorem canon_resumeRounds (s : State) (jk : Nat) (im : Image) (pol : RoundPolicy) (d : List Byte) (h0 : MemCanon s) :
    MemCanon (resumeRounds s jk im pol d) := by
  unfold resumeRounds
  repeat' first
    | with_reducible assumption
    | (intro x
       first
         | (refine canon_cut (s := x) ?_ ?_; rotate_left; clear_value x; intro _; rotate_left; dsimp -zeta only [x]; try clear x)
         | clear_value x)
    | lift_lets
    | (with_reducible first | apply canon_modRound | apply canon_wrBytes | apply canon_setMasks | apply canon_modRShard)
    | (with_reducible apply canon_foldl; intro _ _ _)

theorem canon_freshRounds (s : State) (jk : Nat) (im : Image) (pol : RoundPolicy) (h0 : MemCanon s) : MemCanon (freshRounds s jk im pol) := by
  unfold freshRounds
  repeat' first
    | with_reducible assumption
    | (intro x
       first
         | (refine canon_cut (s := x) ?_ ?_; rotate_left; clear_value x; intro _; rotate_left; dsimp -zeta only [x]; try clear x)
         | clear_value x)
    | lift_lets
    | (with_reducible first
        | apply canon_modRound | apply canon_freeJobCtxs | apply canon_wrBytes | apply canon_refreshScales | apply canon_coldScale
        | apply canon_initRoundShard | apply canon_modRShard | apply canon_setRoundState | apply canon_openCtx | apply canon_ite)
    | (with_reducible apply canon_foldl; intro _ _ _)

theorem canon_initRounds (s : State) (jk : Nat) (im : Image) (pol : RoundPolicy) (h0 : MemCanon s) : MemCanon (initRounds s jk im pol) := by
  unfold initRounds
  repeat' first
    | (with_reducible first | assumption | apply canon_resumeRounds | apply canon_freshRounds)
    | split

/-! ## Gxe -/

theorem canon_modRtt (s : State) (jk p : Nat) (f : Rtt → Rtt) (h0 : MemCanon s) : MemCanon (modRtt s jk p f) := h0

theorem canon_bumpCtx (s : State) (jk r p off : Nat) (h0 : MemCanon s) : MemCanon (bumpCtx s jk r p off) := canon_wrLe _ _ _ _ h0

theorem canon_noteClear (s : State) (jk r p site : Nat) (h0 : MemCanon s) : MemCanon (noteClear s jk r p site) := by
  unfold noteClear
  repeat' first
    | with_reducible assumption
    | (intro x
       first
         | (refine canon_cut (s := x) ?_ ?_; rotate_left; clear_value x; intro _; rotate_left; dsimp -zeta only [x]; try clear x)
         | clear_value x)
    | lift_lets
    | (with_reducible first | apply canon_modRtt | apply canon_raisePart | apply canon_ite)

theorem canon_sendPkt (s : State) (jk r p : Nat) (k : Pkt) (h0 : MemCanon s) : CanonO (sendPkt s jk r p k) := by
  unfold sendPkt
  repeat' first
    | (with_reducible first | assumption | exact canon_none)
    | (intro x
       first
         | (refine canon_cut (s := x) ?_ ?_; rotate_left; clear_value x; intro _; rotate_left; dsimp -zeta only [x]; try clear x)
         | (have _g : _ → _ → _ → _ → State := x; clear _g; dsimp -zeta only [x]; clear x)
         | clear_value x)
    | lift_lets
    | (with_reducible first
        | apply canon_modRtt | apply canon_emit | apply canon_expireSlot | apply canon_noteClear | apply canon_sealSlot | apply canon_iteO
        | apply canon_some | refine canon_fst (by assumption) ?_)
    | split

theorem canon_sendAck (s : State) (jk r p : Nat) (h0 : MemCanon s) : MemCanon (sendAck s jk r p) := by
  unfold sendAck
  repeat' first
    | with_reducible assumption
    | (intro x
       first
         | (refine canon_cut (s := x) ?_ ?_; rotate_left; clear_value x; intro _; rotate_left; dsimp -zeta only [x]; try clear x)
         | clear_value x)
    | lift_lets
    | (with_reducible first | apply canon_modHaul | apply canon_sendPkt | apply canon_getD)

theorem canon_abandonHaul (s : State) (jk r p : Nat) (h : SendHaul) (h0 : MemCanon s) : MemCanon (abandonHaul s jk r p h) := by
  unfold abandonHaul
  repeat' first
    | with_reducible assumption
    | (intro x; clear_value x)
    | lift_lets
    | (with_reducible first | apply canon_raiseNonfinite | apply canon_releaseHauls)

theorem canon_modSend (s : State) (jk r p n : Nat) (f : SendHaul → SendHaul) (h0 : MemCanon s) : MemCanon (modSend s jk r p n f) := h0

theorem canon_doHaulSend (jk r p : Nat) (s : State) (h0 : MemCanon s) : MemCanon (doHaulSend jk r p s) := by
  unfold doHaulSend
  repeat' first
    | with_reducible assumption
    | (intro x
       first
         | (refine canon_cut (s := x) ?_ ?_; rotate_left; clear_value x; intro _; rotate_left; dsimp -zeta only [x]; try clear x)
         | clear_value x)
    | lift_lets
    | (with_reducible first
        | apply canon_abandonHaul | apply canon_sendPkt | apply canon_modSend | apply canon_modHaul | apply canon_wrLe | apply canon_ite
        | refine canon_of_some (by assumption) ?_)
    | split

theorem canon_execHaulPacketSend (job rank partner : Nat) (s : State) (h0 : MemCanon s) : CanonE (execHaulPacketSend job rank partner s) :=
  canon_done (canon_doHaulSend _ _ _ _ h0)

theorem canon_resend (s : State) (jk r p seq : Nat) (fast : Bool) (h0 : MemCanon s) : MemCanon (resend s jk r p seq fast) := by
  unfold resend
  repeat' first
    | with_reducible assumption
    | (intro x
       first
         | (refine canon_cut (s := x) ?_ ?_; rotate_left; clear_value x; intro _; rotate_left; dsimp -zeta only [x]; try clear x)
         | clear_value x)
    | lift_lets
    | (with_reducible first
        | apply canon_abandonHaul | apply canon_sendPkt | apply canon_modHaul | apply canon_bumpRound | apply canon_wrLe
        | refine canon_of_some (by assumption) ?_)
    | split

theorem canon_doRto (jk r p seq : Nat) (s : State) (h0 : MemCanon s) : MemCanon (doRto jk r p seq s) := by
  unfold doRto
  repeat' first
    | with_reducible assumption
    | (intro x; clear_value x)
    | lift_lets
    | (with_reducible first | apply canon_resend | apply canon_ite)
    | split

theorem canon_execHaulRtoExpire (job rank partner seq : Nat) (s : State) (h0 : MemCanon s) : CanonE (execHaulRtoExpire job rank partner seq s) :=
  canon_done (canon_doRto _ _ _ _ _ h0)

theorem canon_rttSample (s : State) (jk p m stepNs : Nat) (site : Nat) (h0 : MemCanon s) : MemCanon (rttSample s jk p m stepNs site) := by
  unfold rttSample
  repeat' first
    | with_reducible assumption
    | (intro x
       first
         | (refine canon_cut (s := x) ?_ ?_; rotate_left; clear_value x; intro _; rotate_left; dsimp -zeta only [x]; try clear x)
         | (have _g : _ → _ → _ → State := x; clear _g; dsimp -zeta only [x]; clear x)
         | clear_value x)
    | lift_lets
    | (with_reducible first | apply canon_wrBytes | apply canon_modRtt | apply canon_raiseRound | apply canon_bumpRound | apply canon_ite)

theorem canon_checkPkt (s : State) (d : List Byte) (h0 : MemCanon s) : MemCanon (checkPkt s d).1 := by
  unfold checkPkt
  repeat' first
    | with_reducible assumption
    | (intro x; clear_value x)
    | lift_lets
    | (with_reducible first
        | apply canon_bumpRound | apply canon_bumpCtx | apply canon_noteClear | apply canon_raiseRound | apply canon_modHaul | apply canon_ite_fst)
    | split
    | dsimp only

theorem canon_heardFrom (s : State) (jk r p site : Nat) (h0 : MemCanon s) : MemCanon (heardFrom s jk r p site) := by
  unfold heardFrom
  repeat' first
    | with_reducible assumption
    | (intro x
       first
         | (refine canon_cut (s := x) ?_ ?_; rotate_left; clear_value x; intro _; rotate_left; dsimp -zeta only [x]; try clear x)
         | clear_value x)
    | lift_lets
    | (with_reducible first
        | apply canon_modHaul | apply canon_wrLe | apply canon_setCtxState | apply canon_raiseRound | apply canon_formCatchups | apply canon_ite)
    | split
    | dsimp only

theorem canon_adopt (s : State) (jk r p site inc : Nat) (src : Nat × Nat) (h0 : MemCanon s) : MemCanon (adopt s jk r p site inc src) := by
  unfold adopt
  repeat' first
    | with_reducible assumption
    | (intro x
       first
         | (refine canon_cut (s := x) ?_ ?_; rotate_left; clear_value x; intro _; rotate_left; dsimp -zeta only [x]; try clear x)
         | clear_value x)
    | lift_lets
    | (with_reducible first | apply canon_wrBytes | apply canon_wrLe | apply canon_modHaul | apply canon_raiseRound)
    | split

theorem canon_withPkt (s : State) (want : Nat) (src : Nat × Nat) (d : List Byte) (f : State → Nat → Nat → Nat → Partner → RoundPolicy → PktHdr → List Byte → State) (h0 : MemCanon s) (hb : ∀ s a b c d e h l, MemCanon s → MemCanon (f s a b c d e h l)) :
    MemCanon (withPkt s want src d f) := by
  unfold withPkt
  repeat' first
    | with_reducible assumption
    | (intro x; clear_value x)
    | lift_lets
    | (with_reducible first
        | apply hb | apply canon_checkPkt | apply canon_heardFrom | apply canon_adopt | apply canon_ite | refine canon_fst (by assumption) ?_)
    | split
    | dsimp only

theorem canon_setRx (s : State) (a base map : Nat) (h0 : MemCanon s) : MemCanon (setRx s a base map) := canon_wrBytes _ _ _ _ h0

theorem canon_dueAck (s : State) (jk r p : Nat) (h0 : MemCanon s) : MemCanon (dueAck s jk r p) := by
  unfold dueAck
  repeat' first
    | with_reducible assumption
    | (intro x; clear_value x)
    | lift_lets
    | (with_reducible first | apply canon_sendAck | apply canon_modHaul | apply canon_ite)

theorem canon_takeSeq (s : State) (jk r p seq : Nat) (h0 : MemCanon s) : MemCanon (takeSeq s jk r p seq).1 := by
  unfold takeSeq
  repeat' first
    | with_reducible assumption
    | (intro x
       first
         | (refine canon_cut (s := x) ?_ ?_; rotate_left; clear_value x; intro _; rotate_left; dsimp -zeta only [x]; try clear x)
         | clear_value x)
    | lift_lets
    | (with_reducible first | apply canon_modHaul | apply canon_setRx | apply canon_sendAck | apply canon_bumpRound | apply canon_ite)
    | split

theorem canon_modRecv (s : State) (jk r p type round full len : Nat) (f : RecvHaul → RecvHaul) (h0 : MemCanon s) :
    MemCanon (modRecv s jk r p type round full len f) := h0

theorem canon_dropRecv (s : State) (jk r p type round : Nat) (h0 : MemCanon s) : MemCanon (dropRecv s jk r p type round) := h0

theorem canon_diffComplete (s : State) (jk r p round : Nat) (pol : RoundPolicy) (h0 : MemCanon s) : MemCanon (diffComplete s jk r p round pol) := by
  unfold diffComplete
  repeat' first
    | with_reducible assumption
    | (intro x; clear_value x)
    | lift_lets
    | (with_reducible first | apply canon_dropRecv | apply canon_bumpRound | apply canon_ite)

theorem canon_catchupComplete (s : State) (jk r p round : Nat) (h0 : MemCanon s) : MemCanon (catchupComplete s jk r p round) := by
  unfold catchupComplete
  repeat' first
    | with_reducible assumption
    | (intro x
       first
         | (refine canon_cut (s := x) ?_ ?_; rotate_left; clear_value x; intro _; rotate_left; dsimp -zeta only [x]; try clear x)
         | clear_value x)
    | lift_lets
    | (with_reducible first | apply canon_wrLe | apply canon_modHaul | apply canon_bumpRound | apply canon_reportReady)

theorem canon_installBootstrap (s : State) (jk r p : Nat) (pol : RoundPolicy) (h0 : MemCanon s) : MemCanon (installBootstrap s jk r p pol) := by
  unfold installBootstrap
  repeat' first
    | with_reducible assumption
    | (intro x; clear_value x)
    | lift_lets
    | (with_reducible first
        | apply canon_putPlaces | apply canon_wrOwn | apply canon_regenCopies | apply canon_modHaul | apply canon_setCtxState | apply canon_wrLe
        | apply canon_startInstall | apply canon_raiseRound | apply canon_ite)
    | (with_reducible apply canon_foldl; intro _ _ _)
    | split
    | dsimp only

theorem canon_tryComplete (s : State) (jk r p type round : Nat) (pol : RoundPolicy) (site : Nat) (h0 : MemCanon s) :
    MemCanon (tryComplete s jk r p type round pol site) := by
  unfold tryComplete
  repeat' first
    | with_reducible assumption
    | (intro x; clear_value x)
    | lift_lets
    | (with_reducible first
        | apply canon_modRecv | apply canon_raiseRound | apply canon_bumpCtx | apply canon_diffComplete | apply canon_catchupComplete
        | apply canon_installBootstrap | apply canon_ite)
    | split
    | dsimp only

theorem canon_tryRepair (s : State) (jk r p : Nat) (pol : RoundPolicy) (site : Nat) (h0 : MemCanon s) : MemCanon (tryRepair s jk r p pol site) := by
  unfold tryRepair
  repeat' first
    | with_reducible assumption
    | (intro x
       first
         | (refine canon_cut (s := x) ?_ ?_; rotate_left; clear_value x; intro _; rotate_left; dsimp -zeta only [x]; try clear x)
         | clear_value x)
    | lift_lets
    | (with_reducible first
        | apply canon_setRx | apply canon_modRecv | apply canon_tryComplete | apply canon_sendAck | apply canon_bumpRound | apply canon_modHaul)
    | (with_reducible apply canon_foldl; intro _ _ _)
    | split
    | dsimp only

theorem canon_doData (type : Nat) (src : Nat × Nat) (d : List Byte) (s : State) (h0 : MemCanon s) : MemCanon (doData type src d s) := by
  unfold doData
  repeat' first
    | with_reducible assumption
    | (intro x; refine canon_cut (s := x) ?_ ?_; rotate_left; clear_value x; intro _; rotate_left; dsimp -zeta only [x]; try clear x)
    | intro _
    | lift_lets
    | (with_reducible first
        | apply canon_withPkt | apply canon_takeSeq | apply canon_dueAck | apply canon_sendPkt | apply canon_modRecv | apply canon_tryRepair
        | apply canon_tryComplete | apply canon_ite | apply canon_getD | refine canon_fst (by assumption) ?_)
    | split

theorem canon_execHaulDiffReceive (addr sport : Nat) (payload : List Byte) (s : State) (h0 : MemCanon s) :
    CanonE (execHaulDiffReceive addr sport payload s) := by
  unfold execHaulDiffReceive
  repeat' first
    | with_reducible assumption
    | lift_lets
    | (with_reducible first | apply canon_doData | apply canon_done)

theorem canon_execHaulCatchupReceive (addr sport : Nat) (payload : List Byte) (s : State) (h0 : MemCanon s) :
    CanonE (execHaulCatchupReceive addr sport payload s) := by
  unfold execHaulCatchupReceive
  repeat' first
    | with_reducible assumption
    | lift_lets
    | (with_reducible first | apply canon_doData | apply canon_done)

theorem canon_execHaulBootAnchorReceive (addr sport : Nat) (payload : List Byte) (s : State) (h0 : MemCanon s) :
    CanonE (execHaulBootAnchorReceive addr sport payload s) := by
  unfold execHaulBootAnchorReceive
  repeat' first
    | with_reducible assumption
    | lift_lets
    | (with_reducible first | apply canon_doData | apply canon_done)

theorem canon_execHaulBootMomentumReceive (addr sport : Nat) (payload : List Byte) (s : State) (h0 : MemCanon s) :
    CanonE (execHaulBootMomentumReceive addr sport payload s) := by
  unfold execHaulBootMomentumReceive
  repeat' first
    | with_reducible assumption
    | lift_lets
    | (with_reducible first | apply canon_doData | apply canon_done)

theorem canon_doParity (src : Nat × Nat) (d : List Byte) (s : State) (h0 : MemCanon s) : MemCanon (doParity src d s) := by
  unfold doParity
  repeat' first
    | with_reducible assumption
    | (intro x; clear_value x)
    | intro _
    | lift_lets
    | (with_reducible first | apply canon_withPkt | apply canon_tryRepair | apply canon_modHaul)

theorem canon_execHaulParityReceive (addr sport : Nat) (payload : List Byte) (s : State) (h0 : MemCanon s) :
    CanonE (execHaulParityReceive addr sport payload s) := by
  unfold execHaulParityReceive
  repeat' first
    | with_reducible assumption
    | lift_lets
    | (with_reducible first | apply canon_doParity | apply canon_done)

theorem canon_noteClosed (s : State) (jk r p round : Nat) (pol : RoundPolicy) (h0 : MemCanon s) : MemCanon (noteClosed s jk r p round pol) := by
  unfold noteClosed
  repeat' first
    | with_reducible assumption
    | (intro x
       first
         | (refine canon_cut (s := x) ?_ ?_; rotate_left; clear_value x; intro _; rotate_left; dsimp -zeta only [x]; try clear x)
         | clear_value x)
    | lift_lets
    | (with_reducible first | apply canon_wrLe | apply canon_modHaul | apply canon_releaseHauls | apply canon_ite)

theorem canon_haulDone (s : State) (jk r p site : Nat) (x : SendHaul) (h0 : MemCanon s) : MemCanon (haulDone s jk r p site x) := by
  unfold haulDone
  repeat' first
    | with_reducible assumption
    | (intro x
       first
         | (refine canon_cut (s := x) ?_ ?_; rotate_left; clear_value x; intro _; rotate_left; dsimp -zeta only [x]; try clear x)
         | clear_value x)
    | lift_lets
    | (with_reducible first
        | apply canon_bumpRound | apply canon_reportReady | apply canon_wrLe | apply canon_setCtxState | apply canon_modHaul | apply canon_raiseRound
        | apply canon_ite)

theorem canon_doAck (src : Nat × Nat) (d : List Byte) (s : State) (h0 : MemCanon s) : MemCanon (doAck src d s) := by
  unfold doAck
  repeat' first
    | with_reducible assumption
    | (intro x
       first
         | (refine canon_cut (s := x) ?_ ?_; rotate_left; clear_value x; intro _; rotate_left; dsimp -zeta only [x]; try clear x)
         | clear_value x)
    | intro _
    | lift_lets
    | (with_reducible first
        | apply canon_withPkt | apply canon_modHaul | apply canon_rttSample | apply canon_wrLe | apply canon_haulDone | apply canon_noteClosed
        | apply canon_resend | apply canon_ite)
    | (with_reducible apply canon_foldl; intro _ _ _)

theorem canon_execHaulAckReceive (addr sport : Nat) (payload : List Byte) (s : State) (h0 : MemCanon s) :
    CanonE (execHaulAckReceive addr sport payload s) := by
  unfold execHaulAckReceive
  repeat' first
    | with_reducible assumption
    | lift_lets
    | (with_reducible first | apply canon_doAck | apply canon_done)

theorem canon_execHaulKeepaliveReceive (addr sport : Nat) (payload : List Byte) (s : State) (h0 : MemCanon s) :
    CanonE (execHaulKeepaliveReceive addr sport payload s) := by
  unfold execHaulKeepaliveReceive
  repeat' first
    | with_reducible assumption
    | intro _
    | lift_lets
    | (with_reducible first | apply canon_withPkt | apply canon_noteClosed | apply canon_done)

theorem canon_execHaulRefuseReceive (addr sport : Nat) (payload : List Byte) (s : State) (h0 : MemCanon s) :
    CanonE (execHaulRefuseReceive addr sport payload s) := by
  unfold execHaulRefuseReceive
  repeat' first
    | with_reducible assumption
    | intro _
    | lift_lets
    | (with_reducible first | apply canon_withPkt | apply canon_backToActive | apply canon_ite | apply canon_done)

theorem canon_execHaulAckDelayTimer (job rank partner : Nat) (s : State) (h0 : MemCanon s) : CanonE (execHaulAckDelayTimer job rank partner s) := by
  unfold execHaulAckDelayTimer
  repeat' first
    | with_reducible assumption
    | (intro x; clear_value x)
    | lift_lets
    | (with_reducible first | apply canon_sendAck | apply canon_ite | apply canon_done)

theorem canon_execKeepaliveTimer (job rank partner : Nat) (s : State) (h0 : MemCanon s) : CanonE (execKeepaliveTimer job rank partner s) := by
  unfold execKeepaliveTimer
  repeat' first
    | with_reducible assumption
    | (intro x; clear_value x)
    | lift_lets
    | (with_reducible first | apply canon_sendPkt | apply canon_modHaul | apply canon_ite | apply canon_done | apply canon_getD)

theorem canon_execCatchupTimeout (job rank partner : Nat) (s : State) (h0 : MemCanon s) : CanonE (execCatchupTimeout job rank partner s) := by
  unfold execCatchupTimeout
  repeat' first
    | with_reducible assumption
    | (intro x
       first
         | (refine canon_cut (s := x) ?_ ?_; rotate_left; clear_value x; intro _; rotate_left; dsimp -zeta only [x]; try clear x)
         | clear_value x)
    | lift_lets
    | (with_reducible first | apply canon_modHaul | apply canon_turnSplit | apply canon_wrLe | apply canon_ite | apply canon_done)
    | split

/-! ## Steps -/

theorem canon_rejoinScales (s : State) (jk : Nat) (im : Image) (h0 : MemCanon s) : MemCanon (rejoinScales s jk im) := by
  unfold rejoinScales
  repeat' first
    | with_reducible assumption
    | (intro x
       first
         | (refine canon_cut (s := x) ?_ ?_; rotate_left; clear_value x; intro _; rotate_left; dsimp -zeta only [x]; try clear x)
         | clear_value x)
    | lift_lets
    | (with_reducible first | apply canon_wrLe | apply canon_wr1 | apply canon_putScales | apply canon_ite)
    | (with_reducible apply canon_foldl; intro _ _ _)

theorem canon_releaseStation (s : State) (jk k : Nat) (im : Image) (st : Station) (step : Nat) (h0 : MemCanon s) :
    MemCanon (releaseStation s jk k im st step) := by
  unfold releaseStation
  repeat' first
    | with_reducible assumption
    | (intro x; refine canon_cut (s := x) ?_ ?_; rotate_left; clear_value x; intro _; rotate_left; dsimp -zeta only [x]; try clear x)
    | lift_lets
    | (with_reducible first
        | apply canon_rejoinScales | apply canon_modJob | apply canon_chunkTask | apply canon_openNodes | apply canon_serveStation | apply canon_ite)
    | (with_reducible apply canon_foldl; intro _ _ _)
    | split

theorem canon_releaseSteps (s : State) (jk : Nat) (h0 : MemCanon s) : MemCanon (releaseSteps s jk) := by
  unfold releaseSteps
  repeat' first
    | with_reducible assumption
    | (intro x; clear_value x)
    | lift_lets
    | (with_reducible first | apply canon_releaseStation | apply canon_ite)
    | (with_reducible apply canon_foldl; intro _ _ _)
    | split

theorem canon_goOn (s : State) (jk : Nat) (h0 : MemCanon s) : MemCanon (goOn s jk) := by
  unfold goOn
  repeat' first
    | with_reducible assumption
    | lift_lets
    | (with_reducible first | apply canon_wakePart | apply canon_releaseSteps | apply canon_dealWaiting)

theorem canon_execHeldTaskRelease (job : Nat) (s : State) (h0 : MemCanon s) : CanonE (execHeldTaskRelease job s) := by
  unfold execHeldTaskRelease
  repeat' first
    | with_reducible assumption
    | lift_lets
    | (with_reducible first | apply canon_goOn | apply canon_ite | apply canon_done)

theorem canon_serveJob (s : State) (jk : Nat) (h0 : MemCanon s) : MemCanon (serveJob s jk) := by
  unfold serveJob
  repeat' first
    | with_reducible assumption
    | lift_lets
    | with_reducible apply canon_serveStation
    | (with_reducible apply canon_foldl; intro _ _ _)

theorem canon_layerCommit (job layer : Nat) (s : State) (h0 : MemCanon s) : MemCanon (layerCommit job layer s) := by
  unfold layerCommit
  repeat' first
    | with_reducible assumption
    | (intro x; refine canon_cut (s := x) ?_ ?_; rotate_left; clear_value x; intro _; rotate_left; dsimp -zeta only [x]; try clear x)
    | lift_lets
    | (with_reducible first | apply canon_doLayerCommit | apply canon_goOn | apply canon_serveJob | apply canon_ite)

theorem canon_execLayerCommit (job layer : Nat) (s : State) (h0 : MemCanon s) : CanonE (execLayerCommit job layer s) :=
  canon_done (canon_layerCommit _ _ _ h0)

theorem canon_endInputs (s : State) (jk : Nat) (t : Task) (st : Station) (h0 : MemCanon s) : MemCanon (endInputs s jk t st) := by
  unfold endInputs
  repeat' first
    | with_reducible assumption
    | lift_lets
    | (with_reducible first | apply canon_modJob | apply canon_freeInputs | apply canon_ite)

theorem canon_endChain (s : State) (jk : Nat) (t : Task) (h0 : MemCanon s) : MemCanon (endChain s jk t) := by
  unfold endChain
  repeat' first
    | with_reducible assumption
    | (intro x; clear_value x)
    | lift_lets
    | (with_reducible first | apply canon_modJob | apply canon_ite)

theorem canon_endEffect (s : State) (jk lb : Nat) (t : Task) (st : Station) (h0 : MemCanon s) : MemCanon (endEffect s jk lb t st) := by
  unfold endEffect
  repeat' first
    | with_reducible assumption
    | lift_lets
    | (with_reducible first
        | apply canon_treeEnded | apply canon_queryEnded | apply canon_contribute | apply canon_handoffChunk | apply canon_roundUpdateEnded
        | apply canon_updateEnded | apply canon_ite)

theorem canon_endCounts (s : State) (jk : Nat) (t : Task) (h0 : MemCanon s) : MemCanon (endCounts s jk t) := h0

theorem canon_freeShared (s : State) (jk : Nat) (t u : Task) (h0 : MemCanon s) : MemCanon (freeShared s jk t u) := by
  unfold freeShared
  repeat' first
    | with_reducible assumption
    | lift_lets
    | (with_reducible first | apply canon_freeSlot | apply canon_ite)
    | (with_reducible apply canon_foldl; intro _ _ _)

theorem canon_doTend (lb c : Nat) (s : State) (h0 : MemCanon s) : MemCanon (doTend lb c s) := by
  unfold doTend
  repeat' first
    | with_reducible assumption
    | (intro x
       first
         | (refine canon_cut (s := x) ?_ ?_; rotate_left; clear_value x; intro _; rotate_left; dsimp -zeta only [x]; try clear x)
         | clear_value x)
    | intro _
    | lift_lets
    | (with_reducible first
        | apply canon_ccRun | apply canon_modCtx | apply canon_addBusy | apply canon_endVote | apply canon_wakePart | apply canon_freeShared
        | apply canon_goOn | apply canon_endCounts | apply canon_endEffect | apply canon_endChain | apply canon_endInputs | apply canon_ite)
    | split

theorem canon_execTend (lb ctx : Nat) (s : State) (h0 : MemCanon s) : CanonE (execTend lb ctx s) := canon_done (canon_doTend _ _ _ h0)

theorem canon_doTileLand (jk k home word : Nat) (s : State) (h0 : MemCanon s) : MemCanon (doTileLand jk k home word s) := by
  unfold doTileLand
  repeat' first
    | with_reducible assumption
    | (intro x
       first
         | (refine canon_cut (s := x) ?_ ?_; rotate_left; clear_value x; intro _; rotate_left; dsimp -zeta only [x]; try clear x)
         | clear_value x)
    | lift_lets
    | (with_reducible first | apply canon_modCtx | apply canon_goOn | apply canon_tileArrived | apply canon_setLanded)
    | split

theorem canon_execTileLand (job conv home word : Nat) (s : State) (h0 : MemCanon s) : CanonE (execTileLand job conv home word s) :=
  canon_done (canon_doTileLand _ _ _ _ _ h0)

theorem canon_formPairs (s : State) (jk : Nat) (h0 : MemCanon s) : MemCanon (formPairs s jk) := by
  unfold formPairs
  repeat' first
    | with_reducible assumption
    | (intro x
       first
         | (refine canon_cut (s := x) ?_ ?_; rotate_left; clear_value x; intro _; rotate_left; dsimp -zeta only [x]; try clear x)
         | clear_value x)
    | lift_lets
    | (with_reducible first | apply canon_modJob | apply canon_dealTask | apply canon_ite)
    | (with_reducible apply canon_foldl; intro _ _ _)
    | split
    | (with_reducible first | apply MemCanon.bytes | apply MemCanon.hostMem | apply MemCanon.stage | apply MemCanon.slots | apply canon_mk)

theorem canon_applyChanges (s : State) (jk : Nat) (h0 : MemCanon s) : MemCanon (applyChanges s jk) := by
  unfold applyChanges
  repeat' first
    | with_reducible assumption
    | (intro x
       first
         | (refine canon_cut (s := x) ?_ ?_; rotate_left; clear_value x; intro _; rotate_left; dsimp -zeta only [x]; try clear x)
         | clear_value x)
    | lift_lets
    | (with_reducible first | apply canon_modJob | apply canon_checkAcks | apply canon_ite)
    | (with_reducible apply canon_foldl; intro _ _ _)

theorem canon_layerlessScales (s : State) (jk : Nat) (h0 : MemCanon s) : MemCanon (layerlessScales s jk) := by
  unfold layerlessScales
  repeat' first
    | with_reducible assumption
    | lift_lets
    | (with_reducible first | apply canon_sendScale | apply canon_ite)
    | (with_reducible apply canon_foldl; intro _ _ _)
    | split

theorem canon_rollBusy (s : State) (jk : Nat) (h0 : MemCanon s) : MemCanon (rollBusy s jk) := by
  unfold rollBusy
  repeat' first
    | with_reducible assumption
    | (intro x
       first
         | (refine canon_cut (s := x) ?_ ?_; rotate_left; clear_value x; intro _; rotate_left; dsimp -zeta only [x]; try clear x)
         | clear_value x)
    | lift_lets
    | (with_reducible first | apply canon_addBusy | apply canon_modJob | apply canon_ite)
    | (with_reducible apply canon_foldl; intro _ _ _)

theorem canon_markRows (s : State) (p : Nat) (h0 : MemCanon s) : MemCanon (markRows s p) := h0

theorem canon_doStepBoundary (jk : Nat) (s : State) (h0 : MemCanon s) : MemCanon (doStepBoundary jk s) := by
  unfold doStepBoundary
  repeat' first
    | with_reducible assumption
    | (intro x; refine canon_cut (s := x) ?_ ?_; rotate_left; clear_value x; intro _; rotate_left; dsimp -zeta only [x]; try clear x)
    | lift_lets
    | (with_reducible first
        | apply canon_modJob | apply canon_rollBusy | apply canon_markRows | apply canon_goOn | apply canon_layerlessScales | apply canon_formPairs
        | apply canon_applyChanges | apply canon_ite)

theorem canon_execStepBoundary (job : Nat) (s : State) (h0 : MemCanon s) : CanonE (execStepBoundary job s) := canon_done (canon_doStepBoundary _ _ h0)

theorem canon_doJobHeld (jk : Nat) (s : State) (h0 : MemCanon s) : MemCanon (doJobHeld jk s) := by
  unfold doJobHeld
  repeat' first
    | with_reducible assumption
    | (intro x
       first
         | (refine canon_cut (s := x) ?_ ?_; rotate_left; clear_value x; intro _; rotate_left; dsimp -zeta only [x]; try clear x)
         | clear_value x)
    | lift_lets
    | (with_reducible first | apply canon_modJob | apply canon_raiseHeld | apply canon_longDone | apply canon_ite)
    | (with_reducible apply canon_foldl; intro _ _ _)
    | split

theorem canon_execJobHeld (job : Nat) (s : State) (h0 : MemCanon s) : CanonE (execJobHeld job s) := canon_done (canon_doJobHeld _ _ h0)

theorem canon_doStopDone (jk : Nat) (s : State) (h0 : MemCanon s) : MemCanon (doStopDone jk s) := by
  unfold doStopDone
  repeat' first
    | with_reducible assumption
    | (intro x; clear_value x)
    | lift_lets
    | (with_reducible first | apply canon_closeJob | apply canon_ite)
    | split

theorem canon_execJobStopBoundaryDone (job : Nat) (s : State) (h0 : MemCanon s) : CanonE (execJobStopBoundaryDone job s) :=
  canon_done (canon_doStopDone _ _ h0)

theorem canon_doStepLimit (jk : Nat) (s : State) (h0 : MemCanon s) : MemCanon (doStepLimit jk s) := by
  unfold doStepLimit
  repeat' first
    | with_reducible assumption
    | (intro x; clear_value x)
    | lift_lets
    | (with_reducible first | apply canon_closeJob | apply canon_ite)

theorem canon_execJobStepLimitStop (job : Nat) (s : State) (h0 : MemCanon s) : CanonE (execJobStepLimitStop job s) :=
  canon_done (canon_doStepLimit _ _ h0)

/-! ## Ckpt -/

theorem canon_sendCheckpoint (s : State) (jk e : Nat) (im : Image) (h0 : MemCanon s) : MemCanon (sendCheckpoint s jk e im) := by
  unfold sendCheckpoint
  repeat' first
    | with_reducible assumption
    | lift_lets
    | with_reducible apply canon_sendFrame
    | (with_reducible apply canon_foldl; intro _ _ _)

theorem canon_setPhase (s : State) (o : CkptOp) (ph : SavePhase) (e : Nat) (h0 : MemCanon s) : MemCanon (setPhase s o ph e) := h0

theorem canon_doSnapshot (s : State) (h0 : MemCanon s) : MemCanon (doSnapshot s) := by
  unfold doSnapshot
  repeat' first
    | with_reducible assumption
    | (intro x
       first
         | (refine canon_cut (s := x) ?_ ?_; rotate_left; clear_value x; intro _; rotate_left; dsimp -zeta only [x]; try clear x)
         | clear_value x)
    | lift_lets
    | (with_reducible first
        | apply canon_setPhase | apply canon_sendCheckpoint | apply canon_doJobHeld | apply canon_modJob | apply canon_raiseHeld | apply canon_ite)
    | split

theorem canon_execCkptSnapshot (s : State) (h0 : MemCanon s) : CanonE (execCkptSnapshot s) := canon_done (canon_doSnapshot _ h0)

theorem canon_endSnapshot (s : State) (jk : Nat) (h0 : MemCanon s) : MemCanon (endSnapshot s jk) := by
  unfold endSnapshot
  repeat' first
    | with_reducible assumption
    | (intro x; refine canon_cut (s := x) ?_ ?_; rotate_left; clear_value x; intro _; rotate_left; dsimp -zeta only [x]; try clear x)
    | lift_lets
    | (with_reducible first | apply canon_endHold | apply canon_drainIngress | apply canon_wakePart | apply canon_ite)

theorem canon_doReadDone (s : State) (h0 : MemCanon s) : MemCanon (doReadDone s) := by
  unfold doReadDone
  repeat' first
    | with_reducible assumption
    | lift_lets
    | (with_reducible first | apply canon_endSnapshot | apply canon_setPhase | apply canon_ite)
    | split

theorem canon_execCkptReadDone (s : State) (h0 : MemCanon s) : CanonE (execCkptReadDone s) := canon_done (canon_doReadDone _ h0)

theorem canon_noteHeld (s : State) (o : CkptOp) (h0 : MemCanon s) : MemCanon (noteHeld s o) := h0

theorem canon_abandonCkpt (s : State) (status : Nat) (h0 : MemCanon s) : MemCanon (abandonCkpt s status) := by
  unfold abandonCkpt
  repeat' first
    | with_reducible assumption
    | (intro x
       first
         | (refine canon_cut (s := x) ?_ ?_; rotate_left; clear_value x; intro _; rotate_left; dsimp -zeta only [x]; try clear x)
         | clear_value x)
    | lift_lets
    | (with_reducible first | apply canon_endSnapshot | apply canon_longDone | apply canon_ite)
    | split
    | (with_reducible first | apply MemCanon.bytes | apply MemCanon.hostMem | apply MemCanon.stage | apply MemCanon.slots | apply canon_mk)

theorem canon_doCkptSaved (ok : Bool) (s : State) (h0 : MemCanon s) : MemCanon (doCkptSaved ok s) := by
  unfold doCkptSaved
  repeat' first
    | with_reducible assumption
    | (intro x; refine canon_cut (s := x) ?_ ?_; rotate_left; clear_value x; intro _; rotate_left; dsimp -zeta only [x]; try clear x)
    | lift_lets
    | (with_reducible first | apply canon_abandonCkpt | apply canon_noteHeld | apply canon_raiseCkpt | apply canon_ite)
    | split

theorem canon_execCkptSaved (ok : Bool) (s : State) (h0 : MemCanon s) : CanonE (execCkptSaved ok s) := canon_done (canon_doCkptSaved _ _ h0)

theorem canon_restoreArea (s : State) (may : Nat → Bool) (bs : List CkptBlock) (e : DirEnt) (a : Nat) (h0 : MemCanon s) :
    MemCanon (restoreArea s may bs e a) := by
  unfold restoreArea
  repeat' first
    | with_reducible assumption
    | lift_lets
    | (with_reducible first | apply canon_putBlock | apply canon_wrBytes | apply canon_ite)
    | (with_reducible apply canon_foldl; intro _ _ _)
    | split

theorem canon_restoreAreas (s : State) (p : Nat) (bs : List CkptBlock) (e : DirEnt) (areas : List (Nat × Nat)) (h0 : MemCanon s) :
    MemCanon (restoreAreas s p bs e areas) := by
  unfold restoreAreas
  repeat' first
    | with_reducible assumption
    | lift_lets
    | with_reducible apply canon_wrOwn
    | (with_reducible apply canon_foldl_fst; intro _ _ _)

theorem canon_restoreTensors (s : State) (p : Nat) (im : Image) (bs : List CkptBlock) (kind : Nat) (h0 : MemCanon s) :
    MemCanon (restoreTensors s p im bs kind) := by
  unfold restoreTensors
  repeat' first
    | with_reducible assumption
    | lift_lets
    | with_reducible apply canon_restoreArea
    | (with_reducible apply canon_foldl; intro _ _ _)
    | split

theorem canon_restoreTables (s : State) (jk : Nat) (im : Image) (bs : List CkptBlock) (h0 : MemCanon s) : MemCanon (restoreTables s jk im bs) := by
  unfold restoreTables
  repeat' first
    | with_reducible assumption
    | (intro x
       first
         | (refine canon_cut (s := x) ?_ ?_; rotate_left; clear_value x; intro _; rotate_left; dsimp -zeta only [x]; try clear x)
         | clear_value x)
    | lift_lets
    | (with_reducible first | apply canon_restoreAreas | apply canon_wrBytes)
    | (with_reducible apply canon_foldl; intro _ _ _)

theorem canon_restoreScales (s : State) (jk e : Nat) (im : Image) (bs : List CkptBlock) (noScale : Bool) (h0 : MemCanon s) :
    MemCanon (restoreScales s jk e im bs noScale) := by
  unfold restoreScales
  repeat' first
    | with_reducible assumption
    | (intro x
       first
         | (refine canon_cut (s := x) ?_ ?_; rotate_left; clear_value x; intro _; rotate_left; dsimp -zeta only [x]; try clear x)
         | clear_value x)
    | lift_lets
    | (with_reducible first
        | apply canon_wrLe | apply canon_refreshScales | apply canon_coldScale | apply canon_raiseCkpt | apply canon_restoreAreas
        | apply canon_modJob | apply canon_ite)
    | (with_reducible apply canon_foldl; intro _ _ _)

theorem canon_restoreCopies (s : State) (jk : Nat) (im : Image) (h0 : MemCanon s) : MemCanon (restoreCopies s jk im) := by
  unfold restoreCopies
  repeat' first
    | with_reducible assumption
    | lift_lets
    | (with_reducible first | apply canon_regenCopy | apply canon_ite)
    | (with_reducible apply canon_foldl; intro _ _ _)

theorem canon_restoreContexts (s : State) (jk : Nat) (bs : List CkptBlock) (h0 : MemCanon s) : MemCanon (restoreContexts s jk bs) := by
  unfold restoreContexts
  repeat' first
    | with_reducible assumption
    | (intro x
       first
         | (refine canon_cut (s := x) ?_ ?_; rotate_left; clear_value x; intro _; rotate_left; dsimp -zeta only [x]; try clear x)
         | clear_value x)
    | lift_lets
    | (with_reducible first | apply canon_restoreArea | apply canon_wrLe | apply canon_ite)
    | (with_reducible apply canon_foldl; intro _ _ _)

theorem canon_restoreFold (s : State) (jk : Nat) (im : Image) (r : Rec) (h0 : MemCanon s) : MemCanon (restoreFold s jk im r) := by
  unfold restoreFold
  repeat' first
    | with_reducible assumption
    | (intro x; clear_value x)
    | lift_lets
    | (with_reducible first | apply canon_modNode | apply canon_grantBuffer)
    | split
    | dsimp only

theorem canon_rebuildJob (s : State) (o : CkptOp) (im : Image) (bs : List CkptBlock) (h0 : MemCanon s) : MemCanon (rebuildJob s o im bs) := by
  unfold rebuildJob
  repeat' first
    | with_reducible assumption
    | (intro x
       first
         | (refine canon_cut (s := x) ?_ ?_; rotate_left; clear_value x; intro _; rotate_left; dsimp -zeta only [x]; try clear x)
         | clear_value x)
    | lift_lets
    | (with_reducible first
        | apply canon_restoreTensors | apply canon_restoreTables | apply canon_restoreArea | apply canon_restoreScales | apply canon_restoreCopies
        | apply canon_restoreContexts | apply canon_modJob | apply canon_restoreFold)
    | (with_reducible apply canon_foldl; intro _ _ _)

theorem canon_doCkptRestored (outcome : Nat) (bs : List CkptBlock) (s : State) (h0 : MemCanon s) : MemCanon (doCkptRestored outcome bs s) := by
  unfold doCkptRestored
  repeat' first
    | with_reducible assumption
    | (intro x
       first
         | (refine canon_cut (s := x) ?_ ?_; rotate_left; clear_value x; intro _; rotate_left; dsimp -zeta only [x]; try clear x)
         | clear_value x)
    | lift_lets
    | (with_reducible first | apply canon_raiseCkpt | apply canon_rebuildJob | apply canon_abandonCkpt | apply canon_ite)
    | split
    | (with_reducible first | apply MemCanon.bytes | apply MemCanon.hostMem | apply MemCanon.stage | apply MemCanon.slots | apply canon_mk)

theorem canon_execCkptRestored (outcome : Nat) (blocks : List CkptBlock) (s : State) (h0 : MemCanon s) : CanonE (execCkptRestored outcome blocks s) :=
  canon_done (canon_doCkptRestored _ _ _ h0)

theorem canon_updateHeld (s : State) (kept : List (Nat × Nat × Nat × Nat)) (h0 : MemCanon s) : MemCanon (updateHeld s kept) := by
  unfold updateHeld
  repeat' first
    | with_reducible assumption
    | (intro x
       first
         | (refine canon_cut (s := x) ?_ ?_; rotate_left; clear_value x; intro _; rotate_left; dsimp -zeta only [x]; try clear x)
         | clear_value x)
    | lift_lets
    | with_reducible apply canon_raiseCkpt
    | (with_reducible apply canon_foldl; intro _ _ _)
    | split
    | (with_reducible first | apply MemCanon.bytes | apply MemCanon.hostMem | apply MemCanon.stage | apply MemCanon.slots | apply canon_mk)

theorem canon_execStockpileReducedNotice (gib lost : Nat) (kept : List (Nat × Nat × Nat × Nat)) (s : State) (h0 : MemCanon s) :
    CanonE (execStockpileReducedNotice gib lost kept s) := by
  unfold execStockpileReducedNotice
  repeat' first
    | with_reducible assumption
    | (intro x
       first
         | (refine canon_cut (s := x) ?_ ?_; rotate_left; clear_value x; intro _; rotate_left; dsimp -zeta only [x]; try clear x)
         | clear_value x)
    | lift_lets
    | (with_reducible first
        | apply canon_updateHeld | apply canon_raiseAll | apply canon_done | apply MemCanon.bytes | apply MemCanon.hostMem | apply MemCanon.stage
        | apply MemCanon.slots | apply canon_mk)

theorem canon_doBuddyReturn (ans : BuddyAns) (s : State) (h0 : MemCanon s) : MemCanon (doBuddyReturn ans s) := by
  unfold doBuddyReturn
  repeat' first
    | with_reducible assumption
    | (intro x
       first
         | (refine canon_cut (s := x) ?_ ?_; rotate_left; clear_value x; intro _; rotate_left; dsimp -zeta only [x]; try clear x)
         | clear_value x)
    | lift_lets
    | (with_reducible first
        | apply canon_sendFrame | apply canon_updateHeld | apply canon_ite | apply MemCanon.bytes | apply MemCanon.hostMem | apply MemCanon.stage
        | apply MemCanon.slots | apply canon_mk)

theorem canon_execBuddyPortReturn (ans : BuddyAns) (s : State) (h0 : MemCanon s) : CanonE (execBuddyPortReturn ans s) :=
  canon_done (canon_doBuddyReturn _ _ h0)

theorem canon_ckptPortLost (s : State) (k : Nat) (h0 : MemCanon s) : MemCanon (ckptPortLost s k) := by
  unfold ckptPortLost
  repeat' first
    | with_reducible assumption
    | (intro x; refine canon_cut (s := x) ?_ ?_; rotate_left; clear_value x; intro _; rotate_left; dsimp -zeta only [x]; try clear x)
    | lift_lets
    | (with_reducible first | apply canon_discardHeld | apply canon_abandonCkpt | apply canon_ite)

end Sys2Proof.Machine
end

