-- ==== Sys2Proof/Laws/CanonHost.lean ====
section
/-! SUPPORT. Canonical memories through links of the board, Psiam commands, firmware, self-test and takeover: each operation keeps them, one lemma per operation. -/

namespace Sys2Proof.Machine

/-! ## Flits -/

theorem canon_linkRises (before after : State) (_h0 : MemCanon before) (h1 : MemCanon after) : MemCanon (linkRises before after) := by
  unfold linkRises
  repeat' first
    | with_reducible assumption
    | lift_lets
    | (with_reducible first | apply canon_fireErr | apply canon_ite)

theorem canon_breakPeer (s : State) (slot : Nat) (h0 : MemCanon s) : MemCanon (breakPeer s slot) := by
  unfold breakPeer
  repeat' first
    | with_reducible assumption
    | lift_lets
    | with_reducible apply canon_breakTo
    | (with_reducible apply canon_foldl; intro _ _ _)

theorem canon_portDown (s : State) (k : Nat) (h0 : MemCanon s) : MemCanon (portDown s k) := by
  unfold portDown
  repeat' first
    | with_reducible assumption
    | (intro x; refine canon_cut (s := x) ?_ ?_; rotate_left; clear_value x; intro _; rotate_left; dsimp -zeta only [x]; try clear x)
    | lift_lets
    | (with_reducible first | apply canon_modPort | apply canon_raisePf | apply canon_linkRises | apply canon_ckptPortLost | apply canon_breakPeer)

theorem canon_countMalformed (s : State) (k : Nat) (h0 : MemCanon s) : MemCanon (countMalformed s k) := h0

theorem canon_takeFrame (s : State) (k : Nat) (d : List Byte) (h0 : MemCanon s) : MemCanon (takeFrame s k d) := by
  unfold takeFrame
  repeat' first
    | with_reducible assumption
    | (intro x; clear_value x)
    | lift_lets
    | (with_reducible first
        | apply canon_countMalformed | apply canon_sendOnPort | apply canon_noJobFrame | apply canon_refuseFrame | apply canon_ite
        | apply MemCanon.bytes | apply MemCanon.hostMem | apply MemCanon.stage | apply MemCanon.slots | apply canon_mk)

theorem canon_takeFrames (s : State) (k fuel : Nat) (h0 : MemCanon s) : MemCanon (takeFrames s k fuel) := by
  induction fuel generalizing s with
  | zero => exact h0
  | succ k ih =>
    unfold takeFrames
    repeat' first
      | with_reducible assumption
      | (intro x; clear_value x)
      | lift_lets
      | (with_reducible first | apply ih | apply canon_modPort | apply canon_takeFrame | apply canon_ite)

theorem canon_ackFlits (s : State) (k fack : Nat) (h0 : MemCanon s) : MemCanon (ackFlits s k fack) := by
  unfold ackFlits
  repeat' first
    | with_reducible assumption
    | (intro x
       first
         | (refine canon_cut (s := x) ?_ ?_; rotate_left; clear_value x; intro _; rotate_left; dsimp -zeta only [x]; try clear x)
         | clear_value x)
    | lift_lets
    | (with_reducible first | apply canon_modPort | apply canon_emit)
    | (with_reducible apply canon_foldl; intro _ _ _)

theorem canon_flitFails (s : State) (k : Nat) (h0 : MemCanon s) : MemCanon (flitFails s k) := by
  unfold flitFails
  repeat' first
    | with_reducible assumption
    | (intro x
       first
         | (refine canon_cut (s := x) ?_ ?_; rotate_left; clear_value x; intro _; rotate_left; dsimp -zeta only [x]; try clear x)
         | clear_value x)
    | lift_lets
    | (with_reducible first | apply canon_modPort | apply canon_emit | apply canon_ite)

theorem canon_doFlit (k : Nat) (d : List Byte) (s : State) (h0 : MemCanon s) : MemCanon (doFlit k d s) := by
  unfold doFlit
  repeat' first
    | with_reducible assumption
    | (intro x
       first
         | (refine canon_cut (s := x) ?_ ?_; rotate_left; clear_value x; intro _; rotate_left; dsimp -zeta only [x]; try clear x)
         | clear_value x)
    | lift_lets
    | (with_reducible first | apply canon_flitFails | apply canon_ackFlits | apply canon_modPort | apply canon_takeFrames | apply canon_ite)

theorem canon_execFlitReceive (port : Nat) (flit : List Byte) (s : State) (h0 : MemCanon s) : CanonE (execFlitReceive port flit s) :=
  canon_done (canon_doFlit _ _ _ h0)

theorem canon_doNak (k fseq fack : Nat) (s : State) (h0 : MemCanon s) : MemCanon (doNak k fseq fack s) := by
  unfold doNak
  repeat' first
    | with_reducible assumption
    | (intro x
       first
         | (refine canon_cut (s := x) ?_ ?_; rotate_left; clear_value x; intro _; rotate_left; dsimp -zeta only [x]; try clear x)
         | clear_value x)
    | lift_lets
    | (with_reducible first | apply canon_ackFlits | apply canon_modPort | apply canon_emit | apply canon_ite)
    | (with_reducible apply canon_foldl; intro _ _ _)

theorem canon_execFlitNakReceive (port fseq fack : Nat) (s : State) (h0 : MemCanon s) : CanonE (execFlitNakReceive port fseq fack s) :=
  canon_done (canon_doNak _ _ _ _ h0)

theorem canon_swapLane (s : State) (k l : Nat) (h0 : MemCanon s) : CanonO (swapLane s k l) := by
  unfold swapLane
  repeat' first
    | (with_reducible first | assumption | exact canon_none)
    | (intro x; clear_value x)
    | lift_lets
    | (with_reducible first
        | apply canon_modPort | apply canon_repairUnit | apply canon_abandonLink | apply canon_raisePf | apply canon_noteSparesBy | apply canon_some)
    | split
    | dsimp only

theorem canon_swapLanes (s : State) (k : Nat) (ls : List Nat) (h0 : MemCanon s) : MemCanon (swapLanes s k ls) := by
  induction ls generalizing s with
  | nil => exact h0
  | cons y r ih =>
    unfold swapLanes
    repeat' first
      | with_reducible assumption
      | lift_lets
      | (with_reducible first | apply ih | apply canon_swapLane | refine canon_of_some (by assumption) ?_)
      | split

theorem canon_dropLanes (s : State) (k : Nat) (h0 : MemCanon s) : MemCanon (dropLanes s k) := by
  unfold dropLanes
  repeat' first
    | with_reducible assumption
    | (intro x
       first
         | (refine canon_cut (s := x) ?_ ?_; rotate_left; clear_value x; intro _; rotate_left; dsimp -zeta only [x]; try clear x)
         | clear_value x)
    | lift_lets
    | (with_reducible first
        | apply canon_repairOut | apply canon_portDown | apply canon_modPort | apply canon_linkRises | apply canon_raisePf | apply canon_ite)
    | (with_reducible apply canon_foldl; intro _ _ _)

theorem canon_doRetrain (k : Nat) (ok : Bool) (s : State) (h0 : MemCanon s) : MemCanon (doRetrain k ok s) := by
  unfold doRetrain
  repeat' first
    | with_reducible assumption
    | (intro x
       first
         | (refine canon_cut (s := x) ?_ ?_; rotate_left; clear_value x; intro _; rotate_left; dsimp -zeta only [x]; try clear x)
         | clear_value x)
    | lift_lets
    | (with_reducible first
        | apply canon_portDown | apply canon_modPort | apply canon_dropLanes | apply canon_swapLanes | apply canon_emit | apply canon_ite)
    | (with_reducible apply canon_foldl; intro _ _ _)

theorem canon_execBoardPortRetrain (port : Nat) (ok : Bool) (s : State) (h0 : MemCanon s) : CanonE (execBoardPortRetrain port ok s) :=
  canon_done (canon_doRetrain _ _ _ h0)

theorem canon_markLane (s : State) (k l : Nat) (h0 : MemCanon s) : MemCanon (markLane s k l) := h0

theorem canon_doBerWindow (k : Nat) (errs : List Nat) (s : State) (h0 : MemCanon s) : MemCanon (doBerWindow k errs s) := by
  unfold doBerWindow
  repeat' first
    | with_reducible assumption
    | (intro x
       first
         | (refine canon_cut (s := x) ?_ ?_; rotate_left; clear_value x; intro _; rotate_left; dsimp -zeta only [x]; try clear x)
         | clear_value x)
    | lift_lets
    | (with_reducible first | apply canon_modPort | apply canon_markLane | apply canon_ite)
    | (with_reducible apply canon_foldl; intro _ _ _)

theorem canon_execLaneBerWindow (port : Nat) (errs : List Nat) (s : State) (h0 : MemCanon s) : CanonE (execLaneBerWindow port errs s) :=
  canon_done (canon_doBerWindow _ _ _ h0)

theorem canon_execLaneSignalLoss (port lane : Nat) (s : State) (h0 : MemCanon s) : CanonE (execLaneSignalLoss port lane s) := by
  unfold execLaneSignalLoss
  repeat' first
    | with_reducible assumption
    | lift_lets
    | (with_reducible first | apply canon_markLane | apply canon_ite | apply canon_done)

theorem canon_doPortReturn (k : Nat) (s : State) (h0 : MemCanon s) : MemCanon (doPortReturn k s) := by
  unfold doPortReturn
  repeat' first
    | with_reducible assumption
    | (intro x
       first
         | (refine canon_cut (s := x) ?_ ?_; rotate_left; clear_value x; intro _; rotate_left; dsimp -zeta only [x]; try clear x)
         | clear_value x)
    | lift_lets
    | (with_reducible first | apply canon_modPort | apply canon_linkRises | apply canon_raisePf | apply canon_ite)

theorem canon_execBoardPortReturnsToUp (port : Nat) (s : State) (h0 : MemCanon s) : CanonE (execBoardPortReturnsToUp port s) :=
  canon_done (canon_doPortReturn _ _ h0)

/-! ## Paths -/

theorem canon_doSiteAck (peer chan tag base map : Nat) (s : State) (h0 : MemCanon s) : MemCanon (doSiteAck peer chan tag base map s) := by
  unfold doSiteAck
  repeat' first
    | with_reducible assumption
    | (intro x
       first
         | (refine canon_cut (s := x) ?_ ?_; rotate_left; clear_value x; intro _; rotate_left; dsimp -zeta only [x]; try clear x)
         | clear_value x)
    | lift_lets
    | (with_reducible first | apply canon_setFlow | apply canon_pumpFlow | apply canon_ite)

theorem canon_execSiteFrameAckReceive (peer chan tag base map : Nat) (s : State) (h0 : MemCanon s) :
    CanonE (execSiteFrameAckReceive peer chan tag base map s) := canon_done (canon_doSiteAck _ _ _ _ _ _ h0)

theorem canon_countRetry (s : State) (pos : Nat) (h0 : MemCanon s) : MemCanon (countRetry s pos) := by
  unfold countRetry
  repeat' first
    | with_reducible assumption
    | lift_lets
    | with_reducible apply canon_modSite
    | split

theorem canon_resendHeld (s : State) (f : Flow) (seq : Nat) (h0 : MemCanon s) : MemCanon (resendHeld s f seq) := by
  unfold resendHeld
  repeat' first
    | with_reducible assumption
    | (intro x; clear_value x)
    | lift_lets
    | (with_reducible first | apply canon_putFrame | apply canon_countRetry | apply canon_setFlow | refine canon_fst (by assumption) ?_)
    | split

theorem canon_doSiteRetx (peer chan tag seq : Nat) (s : State) (h0 : MemCanon s) : MemCanon (doSiteRetx peer chan tag seq s) := by
  unfold doSiteRetx
  repeat' first
    | with_reducible assumption
    | (intro x; clear_value x)
    | lift_lets
    | (with_reducible first | apply canon_resendHeld | apply canon_raisePf | apply canon_setFlow | apply canon_ite)
    | split

theorem canon_execSiteFrameRetxTimer (peer chan tag seq : Nat) (s : State) (h0 : MemCanon s) : CanonE (execSiteFrameRetxTimer peer chan tag seq s) :=
  canon_done (canon_doSiteRetx _ _ _ _ _ h0)

theorem canon_doSiteAckTimer (peer chan tag : Nat) (seqs : List Nat) (s : State) (h0 : MemCanon s) : MemCanon (doSiteAckTimer peer chan tag seqs s) := by
  unfold doSiteAckTimer
  repeat' first
    | with_reducible assumption
    | (intro x
       first
         | (refine canon_cut (s := x) ?_ ?_; rotate_left; clear_value x; intro _; rotate_left; dsimp -zeta only [x]; try clear x)
         | clear_value x)
    | lift_lets
    | (with_reducible first | apply canon_setFlow | apply canon_putFrame | apply canon_emit)
    | split

theorem canon_execSiteAckTimer (peer chan tag : Nat) (seqs : List Nat) (s : State) (h0 : MemCanon s) :
    CanonE (execSiteAckTimer peer chan tag seqs s) := canon_done (canon_doSiteAckTimer _ _ _ _ _ h0)

theorem canon_doFlowMove (peer chan tag : Nat) (s : State) (h0 : MemCanon s) : MemCanon (doFlowMove peer chan tag s) := by
  unfold doFlowMove
  repeat' first
    | with_reducible assumption
    | (intro x
       first
         | (refine canon_cut (s := x) ?_ ?_; rotate_left; clear_value x; intro _; rotate_left; dsimp -zeta only [x]; try clear x)
         | clear_value x)
    | lift_lets
    | (with_reducible first | apply canon_setFlow | apply canon_resendHeld | apply canon_ite)
    | (with_reducible apply canon_foldl; intro _ _ _)
    | split

theorem canon_execFlowMoveRetxTimer (peer chan tag : Nat) (s : State) (h0 : MemCanon s) : CanonE (execFlowMoveRetxTimer peer chan tag s) :=
  canon_done (canon_doFlowMove _ _ _ _ h0)

theorem canon_raisePath (s : State) (code n pos : Nat) (h0 : MemCanon s) : MemCanon (raisePath s code n pos) := by
  unfold raisePath
  repeat' first
    | with_reducible assumption
    | lift_lets
    | with_reducible apply canon_raisePart
    | (with_reducible apply canon_foldl; intro _ _ _)

theorem canon_pumpAll (s : State) (h0 : MemCanon s) : MemCanon (pumpAll s) := by
  unfold pumpAll
  repeat' first
    | with_reducible assumption
    | lift_lets
    | with_reducible apply canon_pumpFlow
    | (with_reducible apply canon_foldl; intro _ _ _)

theorem canon_doLinkChange (n : Nat) (up : Bool) (s : State) (h0 : MemCanon s) : MemCanon (doLinkChange n up s) := by
  unfold doLinkChange
  repeat' first
    | with_reducible assumption
    | (intro x
       first
         | (refine canon_cut (s := x) ?_ ?_; rotate_left; clear_value x; intro _; rotate_left; dsimp -zeta only [x]; try clear x)
         | clear_value x)
    | lift_lets
    | (with_reducible first | apply canon_modSite | apply canon_raisePath | apply canon_pumpAll | apply canon_linkRises | apply canon_ite)

theorem canon_execSitePortLinkChange (port : Nat) (up : Bool) (s : State) (h0 : MemCanon s) : CanonE (execSitePortLinkChange port up s) :=
  canon_done (canon_doLinkChange _ _ _ h0)

theorem canon_doSiteSpared (n : Nat) (s : State) (h0 : MemCanon s) : MemCanon (doSiteSpared n s) := by
  unfold doSiteSpared
  repeat' first
    | with_reducible assumption
    | (intro x; clear_value x)
    | lift_lets
    | (with_reducible first
        | apply canon_modSite | apply canon_repairUnit | apply canon_abandonLink | apply canon_pumpAll | apply canon_raisePf
        | apply canon_noteSparesBy | apply canon_ite)
    | split
    | dsimp only

theorem canon_execSitePortSpared (port : Nat) (s : State) (h0 : MemCanon s) : CanonE (execSitePortSpared port s) :=
  canon_done (canon_doSiteSpared _ _ h0)

theorem canon_doPathNeed (p : Nat) (utils : List Nat) (site : Nat) (s : State) (h0 : MemCanon s) : MemCanon (doPathNeed p utils site s) := by
  unfold doPathNeed
  repeat' first
    | with_reducible assumption
    | lift_lets
    | (with_reducible first | apply canon_raisePart | apply canon_ite)

theorem canon_execPathNeed (part : Nat) (utils : List Nat) (site : Nat) (s : State) (h0 : MemCanon s) : CanonE (execPathNeed part utils site s) :=
  canon_done (canon_doPathNeed _ _ _ _ h0)

theorem canon_doPathSurplus (p : Nat) (utils : List Nat) (s : State) (h0 : MemCanon s) : MemCanon (doPathSurplus p utils s) := by
  unfold doPathSurplus
  repeat' first
    | with_reducible assumption
    | lift_lets
    | (with_reducible first | apply canon_raisePart | apply canon_ite)

theorem canon_execPathSurplus (part : Nat) (utils : List Nat) (s : State) (h0 : MemCanon s) : CanonE (execPathSurplus part utils s) :=
  canon_done (canon_doPathSurplus _ _ _ h0)

theorem canon_doArp (n addr : Nat) (v6 : Bool) (s : State) (h0 : MemCanon s) : MemCanon (doArp n addr v6 s) := by
  unfold doArp
  repeat' first
    | with_reducible assumption
    | (intro x; clear_value x)
    | lift_lets
    | (with_reducible first | apply canon_emit | apply canon_ite)

theorem canon_execArpNsRequestReceive (port addr : Nat) (v6 : Bool) (s : State) (h0 : MemCanon s) : CanonE (execArpNsRequestReceive port addr v6 s) :=
  canon_done (canon_doArp _ _ _ _ h0)

theorem canon_execPauseFrameReceive (port : Nat) (s : State) (h0 : MemCanon s) : CanonE (execPauseFrameReceive port s) := canon_done h0

/-! ## Pmbus -/

theorem canon_answer (s : State) (r : Option (List Byte)) (h0 : MemCanon s) : MemCanon (answer s r) := h0

theorem canon_doClearFaults (s : State) (h0 : MemCanon s) : MemCanon (doClearFaults s) := by
  unfold doClearFaults
  repeat' first
    | with_reducible assumption
    | (intro x; clear_value x)
    | lift_lets
    | (with_reducible first | apply canon_answer | apply canon_modPower | apply canon_ite)

theorem canon_execClearFaults (s : State) (h0 : MemCanon s) : CanonE (execClearFaults s) := canon_done (canon_doClearFaults _ h0)

theorem canon_execStatusWord (s : State) (h0 : MemCanon s) : CanonE (execStatusWord s) := canon_done h0

theorem canon_execStatusInput (s : State) (h0 : MemCanon s) : CanonE (execStatusInput s) := canon_done h0

theorem canon_execStatusTemperature (s : State) (h0 : MemCanon s) : CanonE (execStatusTemperature s) := canon_done h0

theorem canon_execReadVin (s : State) (h0 : MemCanon s) : CanonE (execReadVin s) := canon_done h0

theorem canon_execReadIin (s : State) (h0 : MemCanon s) : CanonE (execReadIin s) := canon_done h0

theorem canon_execReadTemperature1 (s : State) (h0 : MemCanon s) : CanonE (execReadTemperature1 s) := canon_done h0

theorem canon_execReadTemperature2 (s : State) (h0 : MemCanon s) : CanonE (execReadTemperature2 s) := canon_done h0

theorem canon_execReadTemperature3 (s : State) (h0 : MemCanon s) : CanonE (execReadTemperature3 s) := canon_done h0

theorem canon_execReadPin (s : State) (h0 : MemCanon s) : CanonE (execReadPin s) := canon_done h0

theorem canon_execPmbusRevision (s : State) (h0 : MemCanon s) : CanonE (execPmbusRevision s) := canon_done h0

theorem canon_execMfrId (s : State) (h0 : MemCanon s) : CanonE (execMfrId s) := canon_done h0

theorem canon_execMfrModel (s : State) (h0 : MemCanon s) : CanonE (execMfrModel s) := canon_done h0

theorem canon_doPowerCap (w : Option Nat) (s : State) (h0 : MemCanon s) : MemCanon (doPowerCap w s) := by
  unfold doPowerCap
  repeat' first
    | with_reducible assumption
    | lift_lets
    | (with_reducible first | apply canon_answer | apply canon_modPower | apply canon_ite)
    | split

theorem canon_execMfrPowerCap (write : Option Nat) (s : State) (h0 : MemCanon s) : CanonE (execMfrPowerCap write s) :=
  canon_done (canon_doPowerCap _ _ h0)

theorem canon_execMfrGovState (s : State) (h0 : MemCanon s) : CanonE (execMfrGovState s) := canon_done h0

theorem canon_execMfrWear (s : State) (h0 : MemCanon s) : CanonE (execMfrWear s) := canon_done h0

theorem canon_execMfrStackTemps (s : State) (h0 : MemCanon s) : CanonE (execMfrStackTemps s) := canon_done h0

theorem canon_execMfrPhases (s : State) (h0 : MemCanon s) : CanonE (execMfrPhases s) := canon_done h0

theorem canon_doBoostEn (w : Option Nat) (s : State) (h0 : MemCanon s) : MemCanon (doBoostEn w s) := by
  unfold doBoostEn
  repeat' first
    | with_reducible assumption
    | lift_lets
    | (with_reducible first | apply canon_answer | apply canon_modPower | apply canon_ite)
    | split

theorem canon_execMfrBoostEn (write : Option Nat) (s : State) (h0 : MemCanon s) : CanonE (execMfrBoostEn write s) :=
  canon_done (canon_doBoostEn _ _ h0)

theorem canon_doUnsupported (code : Nat) (s : State) (h0 : MemCanon s) : MemCanon (doUnsupported code s) := by
  unfold doUnsupported
  repeat' first
    | with_reducible assumption
    | lift_lets
    | (with_reducible first | apply canon_answer | apply canon_modPower | apply canon_ite)

theorem canon_execPmbusUnsupported (code : Nat) (s : State) (h0 : MemCanon s) : CanonE (execPmbusUnsupported code s) :=
  canon_done (canon_doUnsupported _ _ h0)

/-! ## PsmCkpt -/

theorem canon_unreachable (s : State) (b : Nat) (h0 : MemCanon s) : MemCanon (unreachable s b) := canon_raisePf _ _ _ _ h0

theorem canon_buddyTaken (s : State) (b : Nat) (h0 : MemCanon s) : MemCanon (buddyTaken s b) := canon_raisePf _ _ _ _ h0

theorem canon_noteAnswer (s : State) (ans : BuddyAns) (h0 : MemCanon s) : MemCanon (noteAnswer s ans) := h0

theorem canon_askBuddy (s : State) (kind tag build size : Nat) (ans : BuddyAns) (h0 : MemCanon s) : MemCanon (askBuddy s kind tag build size ans) := by
  unfold askBuddy
  repeat' first
    | with_reducible assumption
    | lift_lets
    | (with_reducible first | apply canon_noteAnswer | apply canon_sendFrame)

theorem canon_setCarve (s : State) (g : Nat) (h0 : MemCanon s) : MemCanon (setCarve s g) := by
  unfold setCarve
  repeat' first
    | with_reducible assumption
    | (intro x
       first
         | (refine canon_cut (s := x) ?_ ?_; rotate_left; clear_value x; intro _; rotate_left; dsimp -zeta only [x]; try clear x)
         | (refine canon_cut_mem (x := x) ?_ ?_; rotate_left; clear_value x; intro _; rotate_left; dsimp -zeta only [x]; try clear x)
         | clear_value x)
    | lift_lets
    | (with_reducible first
        | apply canon_stockReduced | apply canon_ite | apply MemCanon.bytes | apply MemCanon.hostMem | apply MemCanon.stage | apply MemCanon.slots
        | apply canon_mk)

theorem canon_nameBuddy (s : State) (b : Nat) (h0 : MemCanon s) : MemCanon (nameBuddy s b) := by
  unfold nameBuddy
  repeat' first
    | with_reducible assumption
    | (intro x
       first
         | (refine canon_cut (s := x) ?_ ?_; rotate_left; clear_value x; intro _; rotate_left; dsimp -zeta only [x]; try clear x)
         | clear_value x)
    | lift_lets
    | (with_reducible first
        | apply canon_sendFrame | apply canon_ite | apply MemCanon.bytes | apply MemCanon.hostMem | apply MemCanon.stage | apply MemCanon.slots
        | apply canon_mk)

theorem canon_ckptConfig (ans : BuddyAns) (s : State) (c : Call) (h0 : MemCanon s) : MemCanon (ckptConfig ans s c).1 := by
  unfold ckptConfig
  repeat' first
    | with_reducible assumption
    | (intro x; clear_value x)
    | lift_lets
    | (with_reducible first
        | apply canon_unreachable | apply canon_buddyTaken | apply canon_setCarve | apply canon_askBuddy | apply canon_nameBuddy
        | apply canon_ite_fst)

theorem canon_execPsmCheckpointConfig (func ring : Nat) (io : HostIo) (ans : BuddyAns) (s : State) (h0 : MemCanon s) :
    CanonE (execPsmCheckpointConfig func ring io ans s) := by
  unfold execPsmCheckpointConfig
  repeat' first
    | with_reducible assumption
    | intro _
    | lift_lets
    | (with_reducible first | apply canon_withCmd | apply canon_ckptConfig | apply canon_done)

theorem canon_buddyRefuses (s : State) (ans : BuddyAns) (h0 : MemCanon s) : CanonP (buddyRefuses s ans) := by
  unfold buddyRefuses
  repeat' first
    | (with_reducible first | assumption | exact canon_noneP)
    | lift_lets
    | (with_reducible first | apply canon_unreachable | apply canon_buddyTaken | apply canon_noteAnswer | apply canon_iteP | apply canon_someP)

theorem canon_ckptSave (ans : BuddyAns) (s : State) (c : Call) (h0 : MemCanon s) : MemCanon (ckptSave ans s c).1 := by
  unfold ckptSave
  repeat' first
    | with_reducible assumption
    | (intro x
       first
         | (refine canon_cut (s := x) ?_ ?_; rotate_left; clear_value x; intro _; rotate_left; dsimp -zeta only [x]; try clear x)
         | clear_value x)
    | lift_lets
    | (with_reducible first | apply canon_buddyRefuses | apply canon_askBuddy | apply canon_ite_fst | refine canon_ofP (by assumption) ?_)
    | split
    | dsimp only
    | (with_reducible first | apply MemCanon.bytes | apply MemCanon.hostMem | apply MemCanon.stage | apply MemCanon.slots | apply canon_mk)

theorem canon_execPsmCheckpointSave (func ring : Nat) (io : HostIo) (ans : BuddyAns) (s : State) (h0 : MemCanon s) :
    CanonE (execPsmCheckpointSave func ring io ans s) := by
  unfold execPsmCheckpointSave
  repeat' first
    | with_reducible assumption
    | intro _
    | lift_lets
    | (with_reducible first | apply canon_withCmd | apply canon_ckptSave | apply canon_done)

theorem canon_ckptRestore (ans : BuddyAns) (s : State) (c : Call) (h0 : MemCanon s) : MemCanon (ckptRestore ans s c).1 := by
  unfold ckptRestore
  repeat' first
    | with_reducible assumption
    | (intro x
       first
         | (refine canon_cut (s := x) ?_ ?_; rotate_left; clear_value x; intro _; rotate_left; dsimp -zeta only [x]; try clear x)
         | clear_value x)
    | lift_lets
    | (with_reducible first
        | apply canon_buddyRefuses | apply canon_noteAnswer | apply canon_askBuddy | apply canon_ite_fst | refine canon_ofP (by assumption) ?_)
    | split
    | dsimp only
    | (with_reducible first | apply MemCanon.bytes | apply MemCanon.hostMem | apply MemCanon.stage | apply MemCanon.slots | apply canon_mk)

theorem canon_execPsmCheckpointRestore (func ring : Nat) (io : HostIo) (ans : BuddyAns) (s : State) (h0 : MemCanon s) :
    CanonE (execPsmCheckpointRestore func ring io ans s) := by
  unfold execPsmCheckpointRestore
  repeat' first
    | with_reducible assumption
    | intro _
    | lift_lets
    | (with_reducible first | apply canon_withCmd | apply canon_ckptRestore | apply canon_done)

theorem canon_ckptDiscard (ans : BuddyAns) (s : State) (c : Call) (h0 : MemCanon s) : MemCanon (ckptDiscard ans s c).1 := by
  unfold ckptDiscard
  repeat' first
    | with_reducible assumption
    | (intro x
       first
         | (refine canon_cut (s := x) ?_ ?_; rotate_left; clear_value x; intro _; rotate_left; dsimp -zeta only [x]; try clear x)
         | clear_value x)
    | lift_lets
    | (with_reducible first
        | apply canon_buddyRefuses | apply canon_noteAnswer | apply canon_askBuddy | apply canon_ite_fst | refine canon_ofP (by assumption) ?_)
    | split
    | dsimp only
    | (with_reducible first | apply MemCanon.bytes | apply MemCanon.hostMem | apply MemCanon.stage | apply MemCanon.slots | apply canon_mk)

theorem canon_execPsmCheckpointDiscard (func ring : Nat) (io : HostIo) (ans : BuddyAns) (s : State) (h0 : MemCanon s) :
    CanonE (execPsmCheckpointDiscard func ring io ans s) := by
  unfold execPsmCheckpointDiscard
  repeat' first
    | with_reducible assumption
    | intro _
    | lift_lets
    | (with_reducible first | apply canon_withCmd | apply canon_ckptDiscard | apply canon_done)

theorem canon_ckptQuery (ans : BuddyAns) (s : State) (c : Call) (h0 : MemCanon s) : MemCanon (ckptQuery ans s c).1 := by
  unfold ckptQuery
  repeat' first
    | with_reducible assumption
    | (intro x
       first
         | (refine canon_cut (s := x) ?_ ?_; rotate_left; clear_value x; intro _; rotate_left; dsimp -zeta only [x]; try clear x)
         | clear_value x)
    | lift_lets
    | (with_reducible first | apply canon_askBuddy | apply canon_ite)

theorem canon_execPsmCheckpointQuery (func ring : Nat) (io : HostIo) (ans : BuddyAns) (s : State) (h0 : MemCanon s) :
    CanonE (execPsmCheckpointQuery func ring io ans s) := by
  unfold execPsmCheckpointQuery
  repeat' first
    | with_reducible assumption
    | intro _
    | lift_lets
    | (with_reducible first | apply canon_withCmd | apply canon_ckptQuery | apply canon_done)

/-! ## PsmKeys -/

theorem canon_keyAction (s : State) (c : Call) (x : List Byte × Nat) (h0 : MemCanon s) : MemCanon (keyAction s c x) := by
  unfold keyAction
  repeat' first
    | with_reducible assumption
    | (intro x
       first
         | (refine canon_cut (s := x) ?_ ?_; rotate_left; clear_value x; intro _; rotate_left; dsimp -zeta only [x]; try clear x)
         | clear_value x)
    | intro _
    | lift_lets
    | (with_reducible first | apply canon_newGeneration | apply canon_modSlot | apply canon_activateSlot | apply canon_eraseSlot | apply canon_ite)
    | split

theorem canon_keyInstall (s : State) (c : Call) (h0 : MemCanon s) : MemCanon (keyInstall s c).1 := by
  unfold keyInstall
  repeat' first
    | with_reducible assumption
    | (intro x
       first
         | (refine canon_cut (s := x) ?_ ?_; rotate_left; clear_value x; intro _; rotate_left; dsimp -zeta only [x]; try clear x)
         | clear_value x)
    | intro _
    | lift_lets
    | (with_reducible first | apply canon_keyAction | apply canon_ite_fst)
    | split

theorem canon_moduleKey (s : State) (c : Call) (h0 : MemCanon s) : MemCanon (moduleKey s c).1 := by
  unfold moduleKey
  repeat' first
    | with_reducible assumption
    | (intro x; refine canon_cut (s := x) ?_ ?_; rotate_left; clear_value x; intro _; rotate_left; dsimp -zeta only [x]; try clear x)
    | lift_lets
    | with_reducible apply canon_modCipher
    | split

theorem canon_execPsmKeyInstall (func ring : Nat) (io : HostIo) (s : State) (h0 : MemCanon s) : CanonE (execPsmKeyInstall func ring io s) := by
  unfold execPsmKeyInstall
  repeat' first
    | with_reducible assumption
    | intro _
    | lift_lets
    | (with_reducible first | apply canon_withCmd | apply canon_keyInstall | apply canon_done)

theorem canon_execPsmKeyInstallNext (func ring : Nat) (io : HostIo) (s : State) (h0 : MemCanon s) : CanonE (execPsmKeyInstallNext func ring io s) := by
  unfold execPsmKeyInstallNext
  repeat' first
    | with_reducible assumption
    | intro _
    | lift_lets
    | (with_reducible first | apply canon_withCmd | apply canon_keyInstall | apply canon_done)

theorem canon_execPsmKeyActivate (func ring : Nat) (io : HostIo) (s : State) (h0 : MemCanon s) : CanonE (execPsmKeyActivate func ring io s) := by
  unfold execPsmKeyActivate
  repeat' first
    | with_reducible assumption
    | intro _
    | lift_lets
    | (with_reducible first | apply canon_withCmd | apply canon_keyInstall | apply canon_done)

theorem canon_execPsmKeyErase (func ring : Nat) (io : HostIo) (s : State) (h0 : MemCanon s) : CanonE (execPsmKeyErase func ring io s) := by
  unfold execPsmKeyErase
  repeat' first
    | with_reducible assumption
    | intro _
    | lift_lets
    | (with_reducible first | apply canon_withCmd | apply canon_keyInstall | apply canon_done)

theorem canon_execPsmKeyModuleKey (func ring : Nat) (io : HostIo) (s : State) (h0 : MemCanon s) : CanonE (execPsmKeyModuleKey func ring io s) := by
  unfold execPsmKeyModuleKey
  repeat' first
    | with_reducible assumption
    | intro _
    | lift_lets
    | (with_reducible first | apply canon_withCmd | apply canon_moduleKey | apply canon_done)

/-! ## PsmJobs -/

theorem canon_jobOpen (s : State) (c : Call) (h0 : MemCanon s) : MemCanon (jobOpen s c).1 := by
  unfold jobOpen
  repeat' first
    | with_reducible assumption
    | (intro x
       first
         | (refine canon_cut (s := x) ?_ ?_; rotate_left; clear_value x; intro _; rotate_left; dsimp -zeta only [x]; try clear x)
         | clear_value x)
    | lift_lets
    | (with_reducible first
        | apply canon_modJob | apply canon_ite | apply canon_ite_fst | apply MemCanon.bytes | apply MemCanon.hostMem | apply MemCanon.stage
        | apply MemCanon.slots | apply canon_mk)

theorem canon_execPsmJobOpen (func ring : Nat) (io : HostIo) (s : State) (h0 : MemCanon s) : CanonE (execPsmJobOpen func ring io s) := by
  unfold execPsmJobOpen
  repeat' first
    | with_reducible assumption
    | intro _
    | lift_lets
    | (with_reducible first | apply canon_withCmd | apply canon_jobOpen | apply canon_done)

theorem canon_offerBind (s : State) (jk : Nat) (b : Nat × Nat × Nat) (h0 : MemCanon s) : MemCanon (offerBind s jk b) := by
  unfold offerBind
  repeat' first
    | with_reducible assumption
    | (intro x
       first
         | (refine canon_cut (s := x) ?_ ?_; rotate_left; clear_value x; intro _; rotate_left; dsimp -zeta only [x]; try clear x)
         | clear_value x)
    | lift_lets
    | (with_reducible first | apply canon_modConv | apply canon_sendFrame)
    | split

theorem canon_takeOffers (s : State) (jk : Nat) (h0 : MemCanon s) : MemCanon (takeOffers s jk) := by
  unfold takeOffers
  repeat' first
    | with_reducible assumption
    | (intro x
       first
         | (refine canon_cut (s := x) ?_ ?_; rotate_left; clear_value x; intro _; rotate_left; dsimp -zeta only [x]; try clear x)
         | clear_value x)
    | lift_lets
    | with_reducible apply canon_doBoardBind
    | (with_reducible apply canon_foldl; intro _ _ _)
    | (with_reducible first | apply MemCanon.bytes | apply MemCanon.hostMem | apply MemCanon.stage | apply MemCanon.slots | apply canon_mk)

theorem canon_loadImage (s : State) (jk : Nat) (im : Image) (num step shard : Nat) (bs : List (Nat × Nat × Nat)) (h0 : MemCanon s) :
    MemCanon (loadImage s jk im num step shard bs) := by
  unfold loadImage
  repeat' first
    | with_reducible assumption
    | (intro x; refine canon_cut (s := x) ?_ ?_; rotate_left; clear_value x; intro _; rotate_left; dsimp -zeta only [x]; try clear x)
    | lift_lets
    | (with_reducible first
        | apply canon_modJob | apply canon_setComp | apply canon_fillCaches | apply canon_ownTables | apply canon_takeOffers | apply canon_offerBind
        | apply canon_initRecords | apply canon_ite)
    | (with_reducible apply canon_foldl; intro _ _ _)

theorem canon_workingsLoad (s : State) (c : Call) (h0 : MemCanon s) : MemCanon (workingsLoad s c).1 := by
  unfold workingsLoad
  repeat' first
    | with_reducible assumption
    | (intro x; clear_value x)
    | lift_lets
    | (with_reducible first | apply canon_loadImage | apply canon_ite_fst)
    | split

theorem canon_execPsmWorkingsLoad (func ring : Nat) (io : HostIo) (s : State) (h0 : MemCanon s) : CanonE (execPsmWorkingsLoad func ring io s) := by
  unfold execPsmWorkingsLoad
  repeat' first
    | with_reducible assumption
    | intro _
    | lift_lets
    | (with_reducible first | apply canon_withCmd | apply canon_workingsLoad | apply canon_done)

theorem canon_startJob (s : State) (jk : Nat) (h0 : MemCanon s) : MemCanon (startJob s jk) := by
  unfold startJob
  repeat' first
    | with_reducible assumption
    | (intro x
       first
         | (refine canon_cut (s := x) ?_ ?_; rotate_left; clear_value x; intro _; rotate_left; dsimp -zeta only [x]; try clear x)
         | clear_value x)
    | lift_lets
    | (with_reducible first
        | apply canon_modJob | apply canon_formPairs | apply canon_sendScale | apply canon_takeTally | apply canon_goOn | apply canon_ite)
    | (with_reducible apply canon_foldl; intro _ _ _)

theorem canon_jobRun (s : State) (c : Call) (h0 : MemCanon s) : MemCanon (jobRun s c).1 := by
  unfold jobRun
  repeat' first
    | with_reducible assumption
    | (intro x; clear_value x)
    | lift_lets
    | (with_reducible first | apply canon_startJob | apply canon_ite_fst)
    | split

theorem canon_execPsmJobRun (func ring : Nat) (io : HostIo) (s : State) (h0 : MemCanon s) : CanonE (execPsmJobRun func ring io s) := by
  unfold execPsmJobRun
  repeat' first
    | with_reducible assumption
    | intro _
    | lift_lets
    | (with_reducible first | apply canon_withCmd | apply canon_jobRun | apply canon_done)

theorem canon_jobStop (s : State) (c : Call) (h0 : MemCanon s) : MemCanon (jobStop s c).1 := by
  unfold jobStop
  repeat' first
    | with_reducible assumption
    | (intro x; clear_value x)
    | intro _
    | lift_lets
    | (with_reducible first | apply canon_modJob | apply canon_closeJob | apply canon_ite_fst)

theorem canon_execPsmJobStopBoundary (func ring : Nat) (io : HostIo) (s : State) (h0 : MemCanon s) : CanonE (execPsmJobStopBoundary func ring io s) := by
  unfold execPsmJobStopBoundary
  repeat' first
    | with_reducible assumption
    | intro _
    | lift_lets
    | (with_reducible first | apply canon_withCmd | apply canon_jobStop | apply canon_done)

theorem canon_execPsmJobStopNow (func ring : Nat) (io : HostIo) (s : State) (h0 : MemCanon s) : CanonE (execPsmJobStopNow func ring io s) := by
  unfold execPsmJobStopNow
  repeat' first
    | with_reducible assumption
    | intro _
    | lift_lets
    | (with_reducible first | apply canon_withCmd | apply canon_jobStop | apply canon_done)

theorem canon_jobPause (s : State) (c : Call) (h0 : MemCanon s) : MemCanon (jobPause s c).1 := by
  unfold jobPause
  repeat' first
    | with_reducible assumption
    | (intro x
       first
         | (refine canon_cut (s := x) ?_ ?_; rotate_left; clear_value x; intro _; rotate_left; dsimp -zeta only [x]; try clear x)
         | clear_value x)
    | intro _
    | lift_lets
    | (with_reducible first | apply canon_announceHold | apply canon_notifyAll | apply canon_modJob | apply canon_ite_fst)

theorem canon_execPsmJobPause (func ring : Nat) (io : HostIo) (s : State) (h0 : MemCanon s) : CanonE (execPsmJobPause func ring io s) := by
  unfold execPsmJobPause
  repeat' first
    | with_reducible assumption
    | intro _
    | lift_lets
    | (with_reducible first | apply canon_withCmd | apply canon_jobPause | apply canon_done)

theorem canon_jobResume (s : State) (c : Call) (h0 : MemCanon s) : MemCanon (jobResume s c).1 := by
  unfold jobResume
  repeat' first
    | with_reducible assumption
    | (intro x; clear_value x)
    | lift_lets
    | (with_reducible first | apply canon_wakePart | apply canon_endHold | apply canon_notifyAll | apply canon_ite_fst)

theorem canon_execPsmJobResume (func ring : Nat) (io : HostIo) (s : State) (h0 : MemCanon s) : CanonE (execPsmJobResume func ring io s) := by
  unfold execPsmJobResume
  repeat' first
    | with_reducible assumption
    | intro _
    | lift_lets
    | (with_reducible first | apply canon_withCmd | apply canon_jobResume | apply canon_done)

theorem canon_replicaSet (s : State) (c : Call) (h0 : MemCanon s) : MemCanon (replicaSet s c).1 := by
  unfold replicaSet
  repeat' first
    | with_reducible assumption
    | (intro x; clear_value x)
    | intro _
    | lift_lets
    | (with_reducible first | apply canon_applyLoss | apply canon_notifyAll | apply canon_readmit | apply canon_ite_fst)

theorem canon_execPsmReplicaRemove (func ring : Nat) (io : HostIo) (s : State) (h0 : MemCanon s) : CanonE (execPsmReplicaRemove func ring io s) := by
  unfold execPsmReplicaRemove
  repeat' first
    | with_reducible assumption
    | intro _
    | lift_lets
    | (with_reducible first | apply canon_withCmd | apply canon_replicaSet | apply canon_done)

theorem canon_execPsmReplicaReadmit (func ring : Nat) (io : HostIo) (s : State) (h0 : MemCanon s) : CanonE (execPsmReplicaReadmit func ring io s) := by
  unfold execPsmReplicaReadmit
  repeat' first
    | with_reducible assumption
    | intro _
    | lift_lets
    | (with_reducible first | apply canon_withCmd | apply canon_replicaSet | apply canon_done)

theorem canon_reshard (s : State) (c : Call) (h0 : MemCanon s) : MemCanon (reshard s c).1 := by
  unfold reshard
  repeat' first
    | with_reducible assumption
    | (intro x; clear_value x)
    | lift_lets
    | (with_reducible first | apply canon_modJob | apply canon_ite_fst)
    | split

theorem canon_execPsmReshard (func ring : Nat) (io : HostIo) (s : State) (h0 : MemCanon s) : CanonE (execPsmReshard func ring io s) := by
  unfold execPsmReshard
  repeat' first
    | with_reducible assumption
    | intro _
    | lift_lets
    | (with_reducible first | apply canon_withCmd | apply canon_reshard | apply canon_done)

theorem canon_acceptPolicy (s : State) (jk : Nat) (q : RoundPolicy) (im : Image) (h0 : MemCanon s) : MemCanon (acceptPolicy s jk q im) := by
  unfold acceptPolicy
  repeat' first
    | with_reducible assumption
    | (intro x
       first
         | (refine canon_cut (s := x) ?_ ?_; rotate_left; clear_value x; intro _; rotate_left; dsimp -zeta only [x]; try clear x)
         | clear_value x)
    | lift_lets
    | (with_reducible first | apply canon_settlePolicies | apply canon_modRound | apply canon_freeCtx | apply canon_reportReady | apply canon_ite)
    | (with_reducible apply canon_foldl; intro _ _ _)

theorem canon_roundPolicy (s : State) (c : Call) (h0 : MemCanon s) : MemCanon (roundPolicy s c).1 := by
  unfold roundPolicy
  repeat' first
    | with_reducible assumption
    | (intro x; clear_value x)
    | lift_lets
    | (with_reducible first | apply canon_acceptPolicy | apply canon_initRounds | apply canon_ite_fst)
    | split

theorem canon_execPsmRoundPolicy (func ring : Nat) (io : HostIo) (s : State) (h0 : MemCanon s) : CanonE (execPsmRoundPolicy func ring io s) := by
  unfold execPsmRoundPolicy
  repeat' first
    | with_reducible assumption
    | intro _
    | lift_lets
    | (with_reducible first | apply canon_withCmd | apply canon_roundPolicy | apply canon_done)

theorem canon_admitSite (s : State) (jk : Nat) (im : Image) (q : RoundPolicy) (x : Partner) (as : List (Nat × Nat × Nat × Nat)) (h0 : MemCanon s) :
    MemCanon (admitSite s jk im q x as) := by
  unfold admitSite
  repeat' first
    | with_reducible assumption
    | (intro x
       first
         | (refine canon_cut (s := x) ?_ ?_; rotate_left; clear_value x; intro _; rotate_left; dsimp -zeta only [x]; try clear x)
         | clear_value x)
    | lift_lets
    | (with_reducible first | apply canon_modRound | apply canon_wrBytes | apply canon_openCtx | apply canon_ite)
    | (with_reducible apply canon_foldl; intro _ _ _)

theorem canon_siteAdmit (s : State) (c : Call) (h0 : MemCanon s) : MemCanon (siteAdmit s c).1 := by
  unfold siteAdmit
  repeat' first
    | with_reducible assumption
    | (intro x; clear_value x)
    | lift_lets
    | (with_reducible first | apply canon_admitSite | apply canon_ite_fst)
    | split
    | dsimp only

theorem canon_execPsmSiteAdmit (func ring : Nat) (io : HostIo) (s : State) (h0 : MemCanon s) : CanonE (execPsmSiteAdmit func ring io s) := by
  unfold execPsmSiteAdmit
  repeat' first
    | with_reducible assumption
    | intro _
    | lift_lets
    | (with_reducible first | apply canon_withCmd | apply canon_siteAdmit | apply canon_done)

/-! ## PsmData -/

theorem canon_exportShard (faulty : Bool) (s : State) (c : Call) (h0 : MemCanon s) : MemCanon (exportShard faulty s c).1 := by
  unfold exportShard
  repeat' first
    | with_reducible assumption
    | (intro x
       first
         | (refine canon_cut (s := x) ?_ ?_; rotate_left; clear_value x; intro _; rotate_left; dsimp -zeta only [x]; try clear x)
         | clear_value x)
    | lift_lets
    | (with_reducible first | apply canon_expireSlot | apply canon_doEncrypt | apply canon_ite_fst)
    | split
    | dsimp only

theorem canon_withCores (s : State) (t : State) (h0 : MemCanon s) (h1 : MemCanon t) : MemCanon (withCores s t) := by
  unfold withCores
  repeat' first
    | (with_reducible first | assumption | apply canon_ite)

theorem canon_execPsmExportShardExport (func ring : Nat) (io : HostIo) (faulty : Bool) (s : State) (h0 : MemCanon s) :
    CanonE (execPsmExportShardExport func ring io faulty s) := by
  unfold execPsmExportShardExport
  repeat' first
    | with_reducible assumption
    | intro _
    | lift_lets
    | (with_reducible first | apply canon_withCores | apply canon_withCmd | apply canon_exportShard | apply canon_done)

theorem canon_putObject (s : State) (jk r version : Nat) (im : Image) (t : TensorEnt) (state : Bool) (d : List Byte) (h0 : MemCanon s) :
    MemCanon (putObject s jk r version im t state d) := by
  unfold putObject
  repeat' first
    | with_reducible assumption
    | (intro x
       first
         | (refine canon_cut (s := x) ?_ ?_; rotate_left; clear_value x; intro _; rotate_left; dsimp -zeta only [x]; try clear x)
         | (have _g : _ → _ → _ → State := x; clear _g; dsimp -zeta only [x]; clear x)
         | clear_value x)
    | lift_lets
    | (with_reducible first | apply canon_wrOwn | apply canon_regenCopies | apply canon_wrLe | apply canon_fillTensor)
    | (with_reducible apply canon_foldl_fst; intro _ _ _)
    | split

theorem canon_importShard (s : State) (c : Call) (h0 : MemCanon s) : MemCanon (importShard s c).1 := by
  unfold importShard
  repeat' first
    | with_reducible assumption
    | (intro x
       first
         | (refine canon_cut (s := x) ?_ ?_; rotate_left; clear_value x; intro _; rotate_left; dsimp -zeta only [x]; try clear x)
         | clear_value x)
    | lift_lets
    | (with_reducible first | apply canon_expireSlot | apply canon_doDecrypt | apply canon_putObject | apply canon_ite_fst)
    | split

theorem canon_execPsmExportShardImport (func ring : Nat) (io : HostIo) (s : State) (h0 : MemCanon s) :
    CanonE (execPsmExportShardImport func ring io s) := by
  unfold execPsmExportShardImport
  repeat' first
    | with_reducible assumption
    | intro _
    | lift_lets
    | (with_reducible first | apply canon_withCores | apply canon_withCmd | apply canon_importShard | apply canon_done)

theorem canon_freezeEngine (s : State) (f cause access a : Nat) (h0 : MemCanon s) : MemCanon (freezeEngine s f cause access a) := by
  unfold freezeEngine
  repeat' first
    | with_reducible assumption
    | (intro x
       first
         | (refine canon_cut (s := x) ?_ ?_; rotate_left; clear_value x; intro _; rotate_left; dsimp -zeta only [x]; try clear x)
         | (refine canon_cut_host (x := x) ?_ ?_; rotate_left; clear_value x; intro _; rotate_left; dsimp -zeta only [x]; try clear x))
    | lift_lets
    | with_reducible apply canon_recordFreeze
    | split
    | (with_reducible first | apply MemCanon.bytes | apply MemCanon.hostMem | apply MemCanon.stage | apply MemCanon.slots | apply canon_mk)

theorem canon_copyRefusal (s : State) (c : Call) (access : Nat) (h0 : MemCanon s) : CanonP (copyRefusal s c access) := by
  unfold copyRefusal
  repeat' first
    | (with_reducible first | assumption | exact canon_noneP)
    | (intro x; clear_value x)
    | lift_lets
    | (with_reducible first | apply canon_freezeEngine | apply canon_ite | apply canon_iteP | apply canon_someP)
    | split

theorem canon_copyToDevice (errs : List (Nat × Bool)) (s : State) (c : Call) (h0 : MemCanon s) : MemCanon (copyToDevice errs s c).1 := by
  unfold copyToDevice
  repeat' first
    | with_reducible assumption
    | lift_lets
    | (with_reducible first | apply canon_copyRefusal | apply canon_applyComp | apply canon_noteHostErrs | refine canon_ofP (by assumption) ?_)
    | split

theorem canon_copyToHost (errs : List (Nat × Bool)) (s : State) (c : Call) (h0 : MemCanon s) : MemCanon (copyToHost errs s c).1 := by
  unfold copyToHost
  repeat' first
    | with_reducible assumption
    | (intro x
       first
         | (refine canon_cut (s := x) ?_ ?_; rotate_left; clear_value x; intro _; rotate_left; dsimp -zeta only [x]; try clear x)
         | clear_value x)
    | lift_lets
    | (with_reducible first | apply canon_copyRefusal | apply canon_noteHostErrs | apply canon_noteSizes | refine canon_ofP (by assumption) ?_)
    | split

theorem canon_withEngine (s t : State) (h0 : MemCanon s) (h1 : MemCanon t) : MemCanon (withEngine s t) := by
  unfold withEngine
  repeat' first
    | (with_reducible first | assumption | apply canon_ite)

theorem canon_execPsmCopyToDevice (func ring : Nat) (io : Met HostIo) (s : State) (h0 : MemCanon s) :
    CanonE (execPsmCopyToDevice func ring io s) := by
  unfold execPsmCopyToDevice
  repeat' first
    | with_reducible assumption
    | intro _
    | lift_lets
    | (with_reducible first | apply canon_withEngine | apply canon_withCmd | apply canon_copyToDevice | apply canon_done)

theorem canon_execPsmCopyToHost (func ring : Nat) (io : Met HostIo) (s : State) (h0 : MemCanon s) :
    CanonE (execPsmCopyToHost func ring io s) := by
  unfold execPsmCopyToHost
  repeat' first
    | with_reducible assumption
    | intro _
    | lift_lets
    | (with_reducible first | apply canon_withEngine | apply canon_withCmd | apply canon_copyToHost | apply canon_done)

theorem canon_telemetry (s : State) (c : Call) (h0 : MemCanon s) : MemCanon (telemetry s c).1 := by
  unfold telemetry
  repeat' first
    | with_reducible assumption
    | (intro x; clear_value x)
    | lift_lets
    | with_reducible apply canon_ite_fst

theorem canon_execPsmTelemetry (func ring : Nat) (io : HostIo) (s : State) (h0 : MemCanon s) : CanonE (execPsmTelemetry func ring io s) := by
  unfold execPsmTelemetry
  repeat' first
    | with_reducible assumption
    | intro _
    | lift_lets
    | (with_reducible first | apply canon_withCmd | apply canon_telemetry | apply canon_done)

theorem canon_spareStatus (s : State) (c_ : Call) (h0 : MemCanon s) : MemCanon (spareStatus s c_).1 := by
  unfold spareStatus
  with_reducible assumption

theorem canon_execPsmSpareStatus (func ring : Nat) (io : HostIo) (s : State) (h0 : MemCanon s) : CanonE (execPsmSpareStatus func ring io s) := by
  unfold execPsmSpareStatus
  repeat' first
    | with_reducible assumption
    | intro _
    | lift_lets
    | (with_reducible first | apply canon_withCmd | apply canon_spareStatus | apply canon_done)

theorem canon_selftestPolicy (s : State) (c : Call) (h0 : MemCanon s) : MemCanon (selftestPolicy s c).1 := by
  unfold selftestPolicy
  repeat' first
    | with_reducible assumption
    | (intro x
       first
         | (refine canon_cut (s := x) ?_ ?_; rotate_left; clear_value x; intro _; rotate_left; dsimp -zeta only [x]; try clear x)
         | clear_value x)
    | lift_lets
    | (with_reducible first
        | apply canon_requestTest | apply canon_ite | apply canon_ite_fst | apply MemCanon.bytes | apply MemCanon.hostMem | apply MemCanon.stage
        | apply MemCanon.slots | apply canon_mk)

theorem canon_execPsmSelftestPolicy (func ring : Nat) (io : HostIo) (s : State) (h0 : MemCanon s) : CanonE (execPsmSelftestPolicy func ring io s) := by
  unfold execPsmSelftestPolicy
  repeat' first
    | with_reducible assumption
    | intro _
    | lift_lets
    | (with_reducible first | apply canon_withCmd | apply canon_selftestPolicy | apply canon_done)

/-! ## PsmFw -/

theorem canon_stageChunk (s : State) (f i : Nat) (d : List Byte) (h0 : MemCanon s) : MemCanon (stageChunk s f i d) := by
  unfold stageChunk modFw
  repeat' first
    | with_reducible assumption
    | (intro x
       first
         | (refine canon_cut (s := x) ?_ ?_; rotate_left; clear_value x; intro _; rotate_left; dsimp -zeta only [x]; try clear x)
         | clear_value x)
    | lift_lets
    | (with_reducible first | apply canon_raiseFunc | apply canon_ite)
    | dsimp only
    | (with_reducible first
        | apply Mem.wf_write | apply MemCanon.bytes | apply MemCanon.hostMem | apply MemCanon.stage | apply MemCanon.slots | apply canon_mk)
    | rfl

theorem canon_fwChunkCmd (s : State) (c : Call) (h0 : MemCanon s) : MemCanon (fwChunkCmd s c).1 := by
  unfold fwChunkCmd
  repeat' first
    | with_reducible assumption
    | (intro x
       first
         | (refine canon_cut (s := x) ?_ ?_; rotate_left; clear_value x; intro _; rotate_left; dsimp -zeta only [x]; try clear x)
         | clear_value x)
    | lift_lets
    | with_reducible apply canon_stageChunk
    | split

theorem canon_execPsmFwChunk (func ring : Nat) (io : HostIo) (s : State) (h0 : MemCanon s) : CanonE (execPsmFwChunk func ring io s) := by
  unfold execPsmFwChunk
  repeat' first
    | with_reducible assumption
    | intro _
    | lift_lets
    | (with_reducible first | apply canon_withCmd | apply canon_fwChunkCmd | apply canon_done)

theorem canon_addPiece (s : State) (i p : Nat) (d : List Byte) (h0 : MemCanon s) : MemCanon (addPiece s i p d) := by
  unfold addPiece modFw
  repeat' first
    | with_reducible assumption
    | lift_lets
    | split
    | dsimp only
    | (with_reducible first | apply MemCanon.bytes | apply MemCanon.hostMem | apply MemCanon.stage | apply MemCanon.slots | apply canon_mk)

theorem canon_stageAssembly (s : State) (i : Nat) (h0 : MemCanon s) : MemCanon (stageAssembly s i) := by
  unfold stageAssembly modFw
  repeat' first
    | with_reducible assumption
    | (intro x
       first
         | (have _g : _ → State := x; clear _g; dsimp -zeta only [x]; clear x)
         | clear_value x)
    | lift_lets
    | (with_reducible first | apply canon_stageChunk | apply canon_ite)
    | split
    | dsimp only
    | (with_reducible first | apply MemCanon.bytes | apply MemCanon.hostMem | apply MemCanon.stage | apply MemCanon.slots | apply canon_mk)

theorem canon_doDatagram (port mac : Nat) (d : List Byte) (s : State) (h0 : MemCanon s) : MemCanon (doDatagram port mac d s) := by
  unfold doDatagram
  repeat' first
    | with_reducible assumption
    | (intro x; clear_value x)
    | lift_lets
    | (with_reducible first | apply canon_stageAssembly | apply canon_addPiece | apply canon_ite)

theorem canon_execFwDatagramReceive (port mac : Nat) (data : List Byte) (s : State) (h0 : MemCanon s) :
    CanonE (execFwDatagramReceive port mac data s) := canon_done (canon_doDatagram _ _ _ _ h0)

theorem canon_fwActivate (s : State) (c : Call) (h0 : MemCanon s) : MemCanon (fwActivate s c).1 := by
  unfold fwActivate modFw
  repeat' first
    | with_reducible assumption
    | lift_lets
    | with_reducible apply canon_ite_fst
    | dsimp only
    | (with_reducible first | apply MemCanon.bytes | apply MemCanon.hostMem | apply MemCanon.stage | apply MemCanon.slots | apply canon_mk)

theorem canon_execPsmFwActivate (func ring : Nat) (io : HostIo) (s : State) (h0 : MemCanon s) : CanonE (execPsmFwActivate func ring io s) := by
  unfold execPsmFwActivate
  repeat' first
    | with_reducible assumption
    | intro _
    | lift_lets
    | (with_reducible first | apply canon_withCmd | apply canon_fwActivate | apply canon_done)

theorem canon_endActivation (s : State) (r : LongRef) (status : Nat) (h0 : MemCanon s) : MemCanon (endActivation s r status) :=
  canon_longDone _ _ _ h0

theorem slotImage_wf {s : State} {h : List Byte} {m : Mem} (e : slotImage s h = some m) (h0 : MemCanon s) : Mem.wf m = true := by
  unfold slotImage at e
  split at e
  · cases e; exact h0.stage
  · dsimp only at e
    split at e
    · cases e
    · obtain ⟨k, -, rfl⟩ := Option.map_eq_some_iff.1 e
      exact Mem.wf_write _ _ _ (Mem.wf_write _ _ _ h0.stage)

theorem canon_doActivateEnd (mismatch : Bool) (s : State) (h0 : MemCanon s) : MemCanon (doActivateEnd mismatch s) := by
  unfold doActivateEnd
  split
  · split
    · exact canon_endActivation _ _ _ h0
    · split
      · exact canon_endActivation _ _ _ h0
      · rename_i r h _ _ _ _ m hm
        have hw := slotImage_wf hm h0
        generalize hn : fwTarget s = n
        have h1 : ∀ s : State, MemCanon s → MemCanon (modFw s (fun x => { x with slots := Tab.set x.slots n m, hdrs := x.hdrs.filter (· != n) })) :=
          fun s hs => ⟨hs.1, hs.2.1, hs.2.2.1, slots_set _ _ _ hs.slots hw⟩
        have h2 : ∀ s : State, MemCanon s → MemCanon (modFw s (fun x => { x with hdrs := insertNat x.hdrs n, mark := some n })) :=
          fun s hs => ⟨hs.1, hs.2.1, hs.2.2.1, hs.slots⟩
        have h3 := h1 _ (canon_ite (c := fwEncrypted h = true) (canon_free (s.freeCtr + fwSize h) h0) h0)
        dsimp only
        exact canon_ite (canon_endActivation _ _ _ h3)
          (canon_endActivation _ _ _ (canon_ite (canon_modLog _ _ (h2 _ h3)) (h2 _ h3)))
  · exact h0

theorem canon_execFwActivateEnd (mismatch : Bool) (s : State) (h0 : MemCanon s) : CanonE (execFwActivateEnd mismatch s) :=
  canon_done (canon_doActivateEnd _ _ h0)

/-! ## SelfTest -/

theorem canon_goOnPart (s : State) (p : Option Nat) (h0 : MemCanon s) : MemCanon (goOnPart s p) := by
  unfold goOnPart
  repeat' first
    | with_reducible assumption
    | lift_lets
    | (with_reducible first | apply canon_goOn | apply canon_ite)
    | (with_reducible apply canon_foldl; intro _ _ _)
    | split

theorem canon_doBenchSpared (lb : Nat) (s : State) (h0 : MemCanon s) : MemCanon (doBenchSpared lb s) := by
  unfold doBenchSpared
  repeat' first
    | with_reducible assumption
    | lift_lets
    | (with_reducible first | apply canon_goOnPart | apply canon_spareBench | apply canon_ite)

theorem canon_execBenchSpared (lb : Nat) (s : State) (h0 : MemCanon s) : CanonE (execBenchSpared lb s) := canon_done (canon_doBenchSpared _ _ h0)

theorem canon_doWireSpared (u errs0 errs1 : Nat) (s : State) (h0 : MemCanon s) : MemCanon (doWireSpared u errs0 errs1 s) := by
  unfold doWireSpared
  repeat' first
    | with_reducible assumption
    | (intro x
       first
         | (refine canon_cut (s := x) ?_ ?_; rotate_left; clear_value x; intro _; rotate_left; dsimp -zeta only [x]; try clear x)
         | clear_value x)
    | lift_lets
    | (with_reducible first
        | apply canon_modBoot | apply canon_abandonLink | apply canon_raiseRepair | apply canon_noteSpares | apply canon_repairUnit
        | apply canon_ite)
    | split

theorem canon_execWireSpared (wire errs0 errs1 : Nat) (s : State) (h0 : MemCanon s) : CanonE (execWireSpared wire errs0 errs1 s) :=
  canon_done (canon_doWireSpared _ _ _ _ h0)

theorem canon_doEngineSpared (pos : Nat) (s : State) (h0 : MemCanon s) : MemCanon (doEngineSpared pos s) := by
  unfold doEngineSpared
  repeat' first
    | with_reducible assumption
    | (intro x; refine canon_cut (s := x) ?_ ?_; rotate_left; clear_value x; intro _; rotate_left; dsimp -zeta only [x]; try clear x)
    | lift_lets
    | (with_reducible first | apply canon_modBoot | apply canon_raiseRepair | apply canon_noteSpares | apply canon_repairUnit)
    | split

theorem canon_execEngineSpared (position : Nat) (s : State) (h0 : MemCanon s) : CanonE (execEngineSpared position s) :=
  canon_done (canon_doEngineSpared _ _ h0)

theorem canon_raiseTest (s : State) (p : Option Nat) (code cls unit : Nat) (logical : Option Nat) (item : Nat) (h0 : MemCanon s) :
    MemCanon (raiseTest s p code cls unit logical item) := canon_raiseRepair _ _ _ _ _ _ _ h0

theorem canon_chooseBench (s : State) (h0 : MemCanon s) : MemCanon (chooseBench s).1 := by
  unfold chooseBench
  repeat' first
    | with_reducible assumption
    | (intro x; refine canon_cut (s := x) ?_ ?_; rotate_left; clear_value x; intro _; rotate_left; dsimp -zeta only [x]; try clear x)
    | lift_lets
    | (with_reducible first | apply canon_modSelf | apply canon_closeSweep | apply canon_modSweep)
    | split

theorem canon_beginBench (s : State) (pb : Nat) (swept : Bool) (h0 : MemCanon s) : MemCanon (beginBench s pb swept) := by
  unfold beginBench
  repeat' first
    | with_reducible assumption
    | lift_lets
    | (with_reducible first | apply canon_modSelf | apply canon_ite)

theorem canon_tickBench (s : State) (h0 : MemCanon s) : MemCanon (tickBench s) := by
  unfold tickBench
  repeat' first
    | with_reducible assumption
    | (intro x
       first
         | (have _g : _ → State := x; clear _g; dsimp -zeta only [x]; clear x)
         | clear_value x)
    | lift_lets
    | (with_reducible first
        | apply canon_chooseBench | apply canon_beginBench | apply canon_countSkipped | apply canon_closeSweep | apply canon_modSelf
        | apply canon_ite | refine canon_fst (by assumption) ?_)
    | split

theorem canon_withdrawCore (s : State) (c : Nat) (h0 : MemCanon s) : MemCanon (withdrawCore s c) := by
  unfold withdrawCore
  repeat' first
    | with_reducible assumption
    | (intro x
       first
         | (refine canon_cut (s := x) ?_ ?_; rotate_left; clear_value x; intro _; rotate_left; dsimp -zeta only [x]; try clear x)
         | (have _g : _ → _ → State := x; clear _g; dsimp -zeta only [x]; clear x))
    | intro _
    | lift_lets
    | (with_reducible first | apply canon_modCipher | apply canon_raisePf | apply canon_fireErr | apply canon_ite)
    | split

theorem canon_tickCipher (s : State) (h0 : MemCanon s) : MemCanon (tickCipher s) := by
  unfold tickCipher
  repeat' first
    | with_reducible assumption
    | (intro x
       first
         | (refine canon_cut (s := x) ?_ ?_; rotate_left; clear_value x; intro _; rotate_left; dsimp -zeta only [x]; try clear x)
         | clear_value x)
    | lift_lets
    | (with_reducible first | apply canon_withdrawCore | apply canon_modCipher | apply canon_closeSweep | apply canon_modSweep | apply canon_ite)
    | split

theorem canon_tickLink (peer : Bool) (s : State) (h0 : MemCanon s) : MemCanon (tickLink peer s) := by
  unfold tickLink
  repeat' first
    | with_reducible assumption
    | (intro x
       first
         | (refine canon_cut (s := x) ?_ ?_; rotate_left; clear_value x; intro _; rotate_left; dsimp -zeta only [x]; try clear x)
         | clear_value x)
    | lift_lets
    | (with_reducible first | apply canon_closeSweep | apply canon_modSweep | apply canon_countSkipped | apply canon_modSelf | apply canon_ite)
    | split

theorem canon_doTick (peer : Bool) (s : State) (h0 : MemCanon s) : MemCanon (doTick peer s) := by
  unfold doTick
  repeat' first
    | with_reducible assumption
    | lift_lets
    | (with_reducible first | apply canon_tickLink | apply canon_tickCipher | apply canon_tickBench | apply canon_modSelf | apply canon_ite)
    | split

theorem canon_execSelftestTick (peer : Bool) (s : State) (h0 : MemCanon s) : CanonE (execSelftestTick peer s) := canon_done (canon_doTick _ _ h0)

theorem canon_doCountRestart (s : State) (h0 : MemCanon s) : MemCanon (doCountRestart s) := by
  unfold doCountRestart
  repeat' first
    | with_reducible assumption
    | (intro x; clear_value x)
    | lift_lets
    | (with_reducible first | apply canon_restartCounts | apply canon_modSelf | apply canon_ite)

theorem canon_execCorrectedCountRestart (s : State) (h0 : MemCanon s) : CanonE (execCorrectedCountRestart s) := canon_done (canon_doCountRestart _ h0)

theorem canon_dealMoved (s : State) (jk : Nat) (t : Task) (h0 : MemCanon s) : MemCanon (dealMoved s jk t) := by
  unfold dealMoved
  repeat' first
    | with_reducible assumption
    | (intro x; clear_value x)
    | lift_lets
    | (with_reducible first | apply canon_dealTask | apply canon_bumpGroup | apply canon_enqueue | apply canon_waitTask | apply canon_ite)
    | split

theorem canon_moveQueue (s : State) (lb c : Nat) (h0 : MemCanon s) : MemCanon (moveQueue s lb c) := by
  unfold moveQueue
  repeat' first
    | with_reducible assumption
    | lift_lets
    | (with_reducible first | apply canon_breakPairs | apply canon_dealMoved | apply canon_modCtx)
    | (with_reducible apply canon_foldl; intro _ _ _)
    | split

theorem canon_doWithdraw (boundary : Bool) (s : State) (h0 : MemCanon s) : MemCanon (doWithdraw boundary s) := by
  unfold doWithdraw
  repeat' first
    | with_reducible assumption
    | (intro x; refine canon_cut (s := x) ?_ ?_; rotate_left; clear_value x; intro _; rotate_left; dsimp -zeta only [x]; try clear x)
    | lift_lets
    | (with_reducible first
        | apply canon_modSelf | apply canon_redealGranted | apply canon_modBench | apply canon_goOnPart | apply canon_moveQueue | apply canon_ite)
    | split

theorem canon_execBenchWithdraw (boundary : Bool) (s : State) (h0 : MemCanon s) : CanonE (execBenchWithdraw boundary s) :=
  canon_done (canon_doWithdraw _ _ h0)

theorem canon_failSliced (s : State) (pb : Nat) (lb : Option Nat) (cause item : Nat) (h0 : MemCanon s) : MemCanon (failSliced s pb lb cause item) := by
  unfold failSliced
  repeat' first
    | with_reducible assumption
    | (intro x
       first
         | (refine canon_cut (s := x) ?_ ?_; rotate_left; clear_value x; intro _; rotate_left; dsimp -zeta only [x]; try clear x)
         | clear_value x)
    | lift_lets
    | (with_reducible first | apply canon_failBench | apply canon_noteSpares | apply canon_softEntry | apply canon_raiseTest)
    | split

theorem canon_marchRow (s : State) (pb : Nat) (lb : Option Nat) (bank row : Nat) (h0 : MemCanon s) : MemCanon (marchRow s pb lb bank row).1 := by
  unfold marchRow
  repeat' first
    | with_reducible assumption
    | (intro x
       first
         | (refine canon_cut (s := x) ?_ ?_; rotate_left; clear_value x; intro _; rotate_left; dsimp -zeta only [x]; try clear x)
         | clear_value x)
    | lift_lets
    | (with_reducible first
        | apply canon_noteSpares | apply canon_repairOut | apply canon_raiseTest | apply canon_failSliced | apply canon_raisePf
        | apply canon_modBench | apply canon_raisePart | apply canon_ite_fst)
    | split

theorem canon_marchRows (s : State) (pb : Nat) (lb : Option Nat) (rows : List (Nat × Nat)) (h0 : MemCanon s) : MemCanon (marchRows s pb lb rows).1 := by
  induction rows generalizing s with
  | nil => exact h0
  | cons y r ih =>
    unfold marchRows
    repeat' first
      | with_reducible assumption
      | lift_lets
      | (with_reducible first | apply ih | apply canon_marchRow | refine canon_fst (by assumption) ?_)
      | split

theorem canon_rejoinBench (s : State) (lb : Nat) (h0 : MemCanon s) : MemCanon (rejoinBench s lb) := by
  unfold rejoinBench
  repeat' first
    | with_reducible assumption
    | (intro x; refine canon_cut (s := x) ?_ ?_; rotate_left; clear_value x; intro _; rotate_left; dsimp -zeta only [x]; try clear x)
    | lift_lets
    | (with_reducible first | apply canon_modSelf | apply canon_goOnPart | apply canon_modBench)

theorem canon_doSliceDone (outcome seg : Nat) (rows : List (Nat × Nat)) (s : State) (h0 : MemCanon s) : MemCanon (doSliceDone outcome seg rows s) := by
  unfold doSliceDone
  repeat' first
    | with_reducible assumption
    | (intro x
       first
         | (refine canon_cut (s := x) ?_ ?_; rotate_left; clear_value x; intro _; rotate_left; dsimp -zeta only [x]; try clear x)
         | clear_value x)
    | lift_lets
    | (with_reducible first
        | apply canon_modSelf | apply canon_raiseTest | apply canon_failSliced | apply canon_marchRows | apply canon_rejoinBench
        | apply canon_closeSweep | apply canon_countTested | apply canon_ite | apply canon_ite_fst)
    | split

theorem canon_execBenchSliceDone (outcome seg : Nat) (rows : List (Nat × Nat)) (s : State) (h0 : MemCanon s) :
    CanonE (execBenchSliceDone outcome seg rows s) := canon_done (canon_doSliceDone _ _ _ _ h0)

theorem canon_returnCore (s : State) (c p : Nat) (h0 : MemCanon s) : MemCanon (returnCore s c p) := by
  unfold returnCore
  repeat' first
    | with_reducible assumption
    | lift_lets
    | (with_reducible first | apply canon_modCipher | apply canon_ite)

theorem canon_doCipherDone (outcome seg : Nat) (s : State) (h0 : MemCanon s) : MemCanon (doCipherDone outcome seg s) := by
  unfold doCipherDone
  repeat' first
    | with_reducible assumption
    | (intro x
       first
         | (refine canon_cut (s := x) ?_ ?_; rotate_left; clear_value x; intro _; rotate_left; dsimp -zeta only [x]; try clear x)
         | clear_value x)
    | lift_lets
    | (with_reducible first
        | apply canon_returnCore | apply canon_modCipher | apply canon_raiseTest | apply canon_dropCore | apply canon_closeSweep
        | apply canon_countTested | apply canon_ite)
    | split

theorem canon_execCipherSliceDone (outcome seg : Nat) (s : State) (h0 : MemCanon s) : CanonE (execCipherSliceDone outcome seg s) :=
  canon_done (canon_doCipherDone _ _ _ h0)

theorem canon_failSpare (s : State) (u f : Nat) (h0 : MemCanon s) : MemCanon (failSpare s u f) := by
  unfold failSpare
  repeat' first
    | with_reducible assumption
    | (intro x; have _g : _ → _ → _ → State := x; clear _g; dsimp -zeta only [x]; clear x)
    | lift_lets
    | (with_reducible first
        | apply canon_noteSpares | apply canon_softEntry | apply canon_raiseTest | apply canon_modPort | apply canon_modSite | apply canon_ite)

theorem canon_doLinkDone (fails : List Nat) (s : State) (h0 : MemCanon s) : MemCanon (doLinkDone fails s) := by
  unfold doLinkDone
  repeat' first
    | with_reducible assumption
    | (intro x; refine canon_cut (s := x) ?_ ?_; rotate_left; clear_value x; intro _; rotate_left; dsimp -zeta only [x]; try clear x)
    | lift_lets
    | (with_reducible first | apply canon_failSpare | apply canon_modSelf | apply canon_closeSweep | apply canon_countTested)
    | (with_reducible apply canon_foldl; intro _ _ _)
    | split

theorem canon_execLinkSliceDone (fails : List Nat) (s : State) (h0 : MemCanon s) : CanonE (execLinkSliceDone fails s) :=
  canon_done (canon_doLinkDone _ _ h0)

/-! ## Takeover -/

theorem canon_abortCommands (s : State) (h0 : MemCanon s) : MemCanon (abortCommands s) := h0

theorem canon_abortJob (s : State) (jk : Nat) (h0 : MemCanon s) : MemCanon (abortJob s jk) := by
  unfold abortJob
  repeat' first
    | with_reducible assumption
    | (intro x; refine canon_cut (s := x) ?_ ?_; rotate_left; clear_value x; intro _; rotate_left; dsimp -zeta only [x]; try clear x)
    | lift_lets
    | (with_reducible first | apply canon_longDone | apply canon_modJob | apply canon_raisePart | apply canon_ite)
    | split

theorem canon_abortPath (s : State) (h0 : MemCanon s) : MemCanon (abortPath s) := by
  unfold abortPath
  repeat' first
    | with_reducible assumption
    | (intro x; clear_value x)
    | lift_lets
    | with_reducible apply canon_longDone
    | split
    | (with_reducible first | apply MemCanon.bytes | apply MemCanon.hostMem | apply MemCanon.stage | apply MemCanon.slots | apply canon_mk)

theorem canon_abortActivation (s : State) (writing : Bool) (h0 : MemCanon s) : MemCanon (abortActivation s writing) := by
  unfold abortActivation modFw
  repeat' first
    | with_reducible assumption
    | (intro x; refine canon_cut (s := x) ?_ ?_; rotate_left; clear_value x; intro _; rotate_left; dsimp -zeta only [x]; try clear x)
    | lift_lets
    | (with_reducible first | apply canon_cutActivation | apply canon_longDone)
    | split
    | dsimp only
    | (with_reducible first | apply MemCanon.bytes | apply MemCanon.hostMem | apply MemCanon.stage | apply MemCanon.slots | apply canon_mk)

theorem canon_abandonSlices (s : State) (h0 : MemCanon s) : MemCanon (abandonSlices s) := by
  unfold abandonSlices
  repeat' first
    | with_reducible assumption
    | (intro x; refine canon_cut (s := x) ?_ ?_; rotate_left; clear_value x; intro _; rotate_left; dsimp -zeta only [x]; try clear x)
    | lift_lets
    | (with_reducible first
        | apply canon_modSelf | apply canon_rejoinBench | apply canon_closeSweep | apply canon_countAbandoned | apply canon_returnCore
        | apply canon_modCipher | apply canon_abandonLink | apply canon_ite)
    | split

theorem canon_doMpSwitched (writing : Bool) (s : State) (h0 : MemCanon s) : MemCanon (doMpSwitched writing s) := by
  unfold doMpSwitched
  repeat' first
    | with_reducible assumption
    | (intro x
       first
         | (refine canon_cut (s := x) ?_ ?_; rotate_left; clear_value x; intro _; rotate_left; dsimp -zeta only [x]; try clear x)
         | (refine canon_cut_host (x := x) ?_ ?_; rotate_left; clear_value x; intro _; rotate_left; dsimp -zeta only [x]; try clear x))
    | lift_lets
    | (with_reducible first
        | apply canon_noteSpares | apply canon_repairUnit | apply canon_fireErr | apply canon_raisePf | apply canon_eventRecord
        | apply canon_abortJob | apply canon_abortCommands | apply canon_abandonSlices | apply canon_abortActivation | apply canon_abortPath
        | apply canon_abandonCkpt | apply canon_ite)
    | (with_reducible apply canon_foldl; intro _ _ _)
    | (with_reducible first | apply MemCanon.bytes | apply MemCanon.hostMem | apply MemCanon.stage | apply MemCanon.slots | apply canon_mk)

theorem canon_execMpSwitched (writing : Bool) (s : State) (h0 : MemCanon s) : CanonE (execMpSwitched writing s) :=
  canon_done (canon_doMpSwitched _ _ h0)

theorem canon_modJtag (s : State) (f : JtagSt → JtagSt) (h0 : MemCanon s) : MemCanon (modJtag s f) := h0

theorem canon_execJtagBypass (s : State) (h0 : MemCanon s) : CanonE (execJtagBypass s) := canon_done h0

theorem canon_execJtagIdcode (s : State) (h0 : MemCanon s) : CanonE (execJtagIdcode s) := canon_done h0

theorem canon_execJtagSamplePreload (lands cells : Nat) (s : State) (h0 : MemCanon s) : CanonE (execJtagSamplePreload lands cells s) := canon_done h0

theorem canon_execJtagExtest (cells : Nat) (s : State) (h0 : MemCanon s) : CanonE (execJtagExtest cells s) := by
  unfold execJtagExtest
  repeat' first
    | with_reducible assumption
    | lift_lets
    | (with_reducible first | apply canon_modJtag | apply canon_ite | apply canon_done)

theorem canon_haltModule (s : State) (h0 : MemCanon s) : MemCanon (haltModule s) := h0

theorem canon_doPrivateScan (s : State) (h0 : MemCanon s) : MemCanon (doPrivateScan s) := by
  unfold doPrivateScan
  repeat' first
    | with_reducible assumption
    | lift_lets
    | (with_reducible first | apply canon_modJtag | apply canon_haltModule | apply canon_clearKeys)

theorem canon_execJtagPrivateScan (s : State) (h0 : MemCanon s) : CanonE (execJtagPrivateScan s) := canon_done (canon_doPrivateScan _ h0)

theorem canon_execTestLogicReset (s : State) (h0 : MemCanon s) : CanonE (execTestLogicReset s) := canon_done h0

end Sys2Proof.Machine
end

