-- ==== Sys2Proof/Laws/State.lean ====
section
/-! SUPPORT. What each named update of the state writes and leaves: one lemma per field per update, true by unfolding. -/

namespace Sys2Proof.Machine

@[simp] theorem bumpFree_pending (s : State) : (bumpFree s).pending = s.pending := rfl
@[simp] theorem bumpFree_freeCtr (s : State) : (bumpFree s).freeCtr = s.freeCtr + 1 := rfl
@[simp] theorem bumpFree_parts (s : State) : (bumpFree s).parts = s.parts := rfl
@[simp] theorem bumpFree_jobs (s : State) : (bumpFree s).jobs = s.jobs := rfl
@[simp] theorem bumpFree_benches (s : State) : (bumpFree s).benches = s.benches := rfl
@[simp] theorem bumpFree_convs (s : State) : (bumpFree s).convs = s.convs := rfl
@[simp] theorem bumpFree_feeds (s : State) : (bumpFree s).feeds = s.feeds := rfl
@[simp] theorem bumpFree_mem (s : State) : (bumpFree s).mem = s.mem := rfl
@[simp] theorem bumpFree_stock (s : State) : (bumpFree s).stock = s.stock := rfl
@[simp] theorem bumpFree_host (s : State) : (bumpFree s).host = s.host := rfl
@[simp] theorem bumpFree_time (s : State) : (bumpFree s).time = s.time := rfl
@[simp] theorem bumpFree_board (s : State) : (bumpFree s).board = s.board := rfl
@[simp] theorem bumpFree_cipher (s : State) : (bumpFree s).cipher = s.cipher := rfl
@[simp] theorem bumpFree_boot (s : State) : (bumpFree s).boot = s.boot := rfl
@[simp] theorem bumpFree_fw (s : State) : (bumpFree s).fw = s.fw := rfl
@[simp] theorem bumpFree_self (s : State) : (bumpFree s).self = s.self := rfl
@[simp] theorem bumpFree_power (s : State) : (bumpFree s).power = s.power := rfl
@[simp] theorem bumpFree_jtag (s : State) : (bumpFree s).jtag = s.jtag := rfl
@[simp] theorem bumpFree_out (s : State) : (bumpFree s).out = s.out := rfl

@[simp] theorem modPart_pending (s : State) (p : Nat) (f : Part → Part) : (modPart s p f).pending = s.pending := rfl
@[simp] theorem modPart_freeCtr (s : State) (p : Nat) (f : Part → Part) : (modPart s p f).freeCtr = s.freeCtr := rfl
@[simp] theorem modPart_jobs (s : State) (p : Nat) (f : Part → Part) : (modPart s p f).jobs = s.jobs := rfl
@[simp] theorem modPart_benches (s : State) (p : Nat) (f : Part → Part) : (modPart s p f).benches = s.benches := rfl
@[simp] theorem modPart_convs (s : State) (p : Nat) (f : Part → Part) : (modPart s p f).convs = s.convs := rfl
@[simp] theorem modPart_feeds (s : State) (p : Nat) (f : Part → Part) : (modPart s p f).feeds = s.feeds := rfl
@[simp] theorem modPart_mem (s : State) (p : Nat) (f : Part → Part) : (modPart s p f).mem = s.mem := rfl
@[simp] theorem modPart_stock (s : State) (p : Nat) (f : Part → Part) : (modPart s p f).stock = s.stock := rfl
@[simp] theorem modPart_host (s : State) (p : Nat) (f : Part → Part) : (modPart s p f).host = s.host := rfl
@[simp] theorem modPart_time (s : State) (p : Nat) (f : Part → Part) : (modPart s p f).time = s.time := rfl
@[simp] theorem modPart_board (s : State) (p : Nat) (f : Part → Part) : (modPart s p f).board = s.board := rfl
@[simp] theorem modPart_cipher (s : State) (p : Nat) (f : Part → Part) : (modPart s p f).cipher = s.cipher := rfl
@[simp] theorem modPart_boot (s : State) (p : Nat) (f : Part → Part) : (modPart s p f).boot = s.boot := rfl
@[simp] theorem modPart_fw (s : State) (p : Nat) (f : Part → Part) : (modPart s p f).fw = s.fw := rfl
@[simp] theorem modPart_self (s : State) (p : Nat) (f : Part → Part) : (modPart s p f).self = s.self := rfl
@[simp] theorem modPart_power (s : State) (p : Nat) (f : Part → Part) : (modPart s p f).power = s.power := rfl
@[simp] theorem modPart_jtag (s : State) (p : Nat) (f : Part → Part) : (modPart s p f).jtag = s.jtag := rfl
@[simp] theorem modPart_out (s : State) (p : Nat) (f : Part → Part) : (modPart s p f).out = s.out := rfl

@[simp] theorem modJob_pending (s : State) (j : Nat) (f : Job → Job) : (modJob s j f).pending = s.pending := rfl
@[simp] theorem modJob_freeCtr (s : State) (j : Nat) (f : Job → Job) : (modJob s j f).freeCtr = s.freeCtr := rfl
@[simp] theorem modJob_parts (s : State) (j : Nat) (f : Job → Job) : (modJob s j f).parts = s.parts := rfl
@[simp] theorem modJob_benches (s : State) (j : Nat) (f : Job → Job) : (modJob s j f).benches = s.benches := rfl
@[simp] theorem modJob_convs (s : State) (j : Nat) (f : Job → Job) : (modJob s j f).convs = s.convs := rfl
@[simp] theorem modJob_feeds (s : State) (j : Nat) (f : Job → Job) : (modJob s j f).feeds = s.feeds := rfl
@[simp] theorem modJob_mem (s : State) (j : Nat) (f : Job → Job) : (modJob s j f).mem = s.mem := rfl
@[simp] theorem modJob_stock (s : State) (j : Nat) (f : Job → Job) : (modJob s j f).stock = s.stock := rfl
@[simp] theorem modJob_host (s : State) (j : Nat) (f : Job → Job) : (modJob s j f).host = s.host := rfl
@[simp] theorem modJob_time (s : State) (j : Nat) (f : Job → Job) : (modJob s j f).time = s.time := rfl
@[simp] theorem modJob_board (s : State) (j : Nat) (f : Job → Job) : (modJob s j f).board = s.board := rfl
@[simp] theorem modJob_cipher (s : State) (j : Nat) (f : Job → Job) : (modJob s j f).cipher = s.cipher := rfl
@[simp] theorem modJob_boot (s : State) (j : Nat) (f : Job → Job) : (modJob s j f).boot = s.boot := rfl
@[simp] theorem modJob_fw (s : State) (j : Nat) (f : Job → Job) : (modJob s j f).fw = s.fw := rfl
@[simp] theorem modJob_self (s : State) (j : Nat) (f : Job → Job) : (modJob s j f).self = s.self := rfl
@[simp] theorem modJob_power (s : State) (j : Nat) (f : Job → Job) : (modJob s j f).power = s.power := rfl
@[simp] theorem modJob_jtag (s : State) (j : Nat) (f : Job → Job) : (modJob s j f).jtag = s.jtag := rfl
@[simp] theorem modJob_out (s : State) (j : Nat) (f : Job → Job) : (modJob s j f).out = s.out := rfl

@[simp] theorem modBench_pending (s : State) (lb : Nat) (f : Bench → Bench) : (modBench s lb f).pending = s.pending := rfl
@[simp] theorem modBench_freeCtr (s : State) (lb : Nat) (f : Bench → Bench) : (modBench s lb f).freeCtr = s.freeCtr := rfl
@[simp] theorem modBench_parts (s : State) (lb : Nat) (f : Bench → Bench) : (modBench s lb f).parts = s.parts := rfl
@[simp] theorem modBench_jobs (s : State) (lb : Nat) (f : Bench → Bench) : (modBench s lb f).jobs = s.jobs := rfl
@[simp] theorem modBench_convs (s : State) (lb : Nat) (f : Bench → Bench) : (modBench s lb f).convs = s.convs := rfl
@[simp] theorem modBench_feeds (s : State) (lb : Nat) (f : Bench → Bench) : (modBench s lb f).feeds = s.feeds := rfl
@[simp] theorem modBench_mem (s : State) (lb : Nat) (f : Bench → Bench) : (modBench s lb f).mem = s.mem := rfl
@[simp] theorem modBench_stock (s : State) (lb : Nat) (f : Bench → Bench) : (modBench s lb f).stock = s.stock := rfl
@[simp] theorem modBench_host (s : State) (lb : Nat) (f : Bench → Bench) : (modBench s lb f).host = s.host := rfl
@[simp] theorem modBench_time (s : State) (lb : Nat) (f : Bench → Bench) : (modBench s lb f).time = s.time := rfl
@[simp] theorem modBench_board (s : State) (lb : Nat) (f : Bench → Bench) : (modBench s lb f).board = s.board := rfl
@[simp] theorem modBench_cipher (s : State) (lb : Nat) (f : Bench → Bench) : (modBench s lb f).cipher = s.cipher := rfl
@[simp] theorem modBench_boot (s : State) (lb : Nat) (f : Bench → Bench) : (modBench s lb f).boot = s.boot := rfl
@[simp] theorem modBench_fw (s : State) (lb : Nat) (f : Bench → Bench) : (modBench s lb f).fw = s.fw := rfl
@[simp] theorem modBench_self (s : State) (lb : Nat) (f : Bench → Bench) : (modBench s lb f).self = s.self := rfl
@[simp] theorem modBench_power (s : State) (lb : Nat) (f : Bench → Bench) : (modBench s lb f).power = s.power := rfl
@[simp] theorem modBench_jtag (s : State) (lb : Nat) (f : Bench → Bench) : (modBench s lb f).jtag = s.jtag := rfl
@[simp] theorem modBench_out (s : State) (lb : Nat) (f : Bench → Bench) : (modBench s lb f).out = s.out := rfl

@[simp] theorem modCtx_pending (s : State) (lb c : Nat) (f : BCtx → BCtx) : (modCtx s lb c f).pending = s.pending := rfl
@[simp] theorem modCtx_freeCtr (s : State) (lb c : Nat) (f : BCtx → BCtx) : (modCtx s lb c f).freeCtr = s.freeCtr := rfl
@[simp] theorem modCtx_parts (s : State) (lb c : Nat) (f : BCtx → BCtx) : (modCtx s lb c f).parts = s.parts := rfl
@[simp] theorem modCtx_jobs (s : State) (lb c : Nat) (f : BCtx → BCtx) : (modCtx s lb c f).jobs = s.jobs := rfl
@[simp] theorem modCtx_convs (s : State) (lb c : Nat) (f : BCtx → BCtx) : (modCtx s lb c f).convs = s.convs := rfl
@[simp] theorem modCtx_feeds (s : State) (lb c : Nat) (f : BCtx → BCtx) : (modCtx s lb c f).feeds = s.feeds := rfl
@[simp] theorem modCtx_mem (s : State) (lb c : Nat) (f : BCtx → BCtx) : (modCtx s lb c f).mem = s.mem := rfl
@[simp] theorem modCtx_stock (s : State) (lb c : Nat) (f : BCtx → BCtx) : (modCtx s lb c f).stock = s.stock := rfl
@[simp] theorem modCtx_host (s : State) (lb c : Nat) (f : BCtx → BCtx) : (modCtx s lb c f).host = s.host := rfl
@[simp] theorem modCtx_time (s : State) (lb c : Nat) (f : BCtx → BCtx) : (modCtx s lb c f).time = s.time := rfl
@[simp] theorem modCtx_board (s : State) (lb c : Nat) (f : BCtx → BCtx) : (modCtx s lb c f).board = s.board := rfl
@[simp] theorem modCtx_cipher (s : State) (lb c : Nat) (f : BCtx → BCtx) : (modCtx s lb c f).cipher = s.cipher := rfl
@[simp] theorem modCtx_boot (s : State) (lb c : Nat) (f : BCtx → BCtx) : (modCtx s lb c f).boot = s.boot := rfl
@[simp] theorem modCtx_fw (s : State) (lb c : Nat) (f : BCtx → BCtx) : (modCtx s lb c f).fw = s.fw := rfl
@[simp] theorem modCtx_self (s : State) (lb c : Nat) (f : BCtx → BCtx) : (modCtx s lb c f).self = s.self := rfl
@[simp] theorem modCtx_power (s : State) (lb c : Nat) (f : BCtx → BCtx) : (modCtx s lb c f).power = s.power := rfl
@[simp] theorem modCtx_jtag (s : State) (lb c : Nat) (f : BCtx → BCtx) : (modCtx s lb c f).jtag = s.jtag := rfl
@[simp] theorem modCtx_out (s : State) (lb c : Nat) (f : BCtx → BCtx) : (modCtx s lb c f).out = s.out := rfl

@[simp] theorem modConv_pending (s : State) (j k : Nat) (f : Conv → Conv) : (modConv s j k f).pending = s.pending := rfl
@[simp] theorem modConv_freeCtr (s : State) (j k : Nat) (f : Conv → Conv) : (modConv s j k f).freeCtr = s.freeCtr := rfl
@[simp] theorem modConv_parts (s : State) (j k : Nat) (f : Conv → Conv) : (modConv s j k f).parts = s.parts := rfl
@[simp] theorem modConv_jobs (s : State) (j k : Nat) (f : Conv → Conv) : (modConv s j k f).jobs = s.jobs := rfl
@[simp] theorem modConv_benches (s : State) (j k : Nat) (f : Conv → Conv) : (modConv s j k f).benches = s.benches := rfl
@[simp] theorem modConv_feeds (s : State) (j k : Nat) (f : Conv → Conv) : (modConv s j k f).feeds = s.feeds := rfl
@[simp] theorem modConv_mem (s : State) (j k : Nat) (f : Conv → Conv) : (modConv s j k f).mem = s.mem := rfl
@[simp] theorem modConv_stock (s : State) (j k : Nat) (f : Conv → Conv) : (modConv s j k f).stock = s.stock := rfl
@[simp] theorem modConv_host (s : State) (j k : Nat) (f : Conv → Conv) : (modConv s j k f).host = s.host := rfl
@[simp] theorem modConv_time (s : State) (j k : Nat) (f : Conv → Conv) : (modConv s j k f).time = s.time := rfl
@[simp] theorem modConv_board (s : State) (j k : Nat) (f : Conv → Conv) : (modConv s j k f).board = s.board := rfl
@[simp] theorem modConv_cipher (s : State) (j k : Nat) (f : Conv → Conv) : (modConv s j k f).cipher = s.cipher := rfl
@[simp] theorem modConv_boot (s : State) (j k : Nat) (f : Conv → Conv) : (modConv s j k f).boot = s.boot := rfl
@[simp] theorem modConv_fw (s : State) (j k : Nat) (f : Conv → Conv) : (modConv s j k f).fw = s.fw := rfl
@[simp] theorem modConv_self (s : State) (j k : Nat) (f : Conv → Conv) : (modConv s j k f).self = s.self := rfl
@[simp] theorem modConv_power (s : State) (j k : Nat) (f : Conv → Conv) : (modConv s j k f).power = s.power := rfl
@[simp] theorem modConv_jtag (s : State) (j k : Nat) (f : Conv → Conv) : (modConv s j k f).jtag = s.jtag := rfl
@[simp] theorem modConv_out (s : State) (j k : Nat) (f : Conv → Conv) : (modConv s j k f).out = s.out := rfl

@[simp] theorem modFeed_pending (s : State) (n : Nat) (f : Feed → Feed) : (modFeed s n f).pending = s.pending := rfl
@[simp] theorem modFeed_freeCtr (s : State) (n : Nat) (f : Feed → Feed) : (modFeed s n f).freeCtr = s.freeCtr := rfl
@[simp] theorem modFeed_parts (s : State) (n : Nat) (f : Feed → Feed) : (modFeed s n f).parts = s.parts := rfl
@[simp] theorem modFeed_jobs (s : State) (n : Nat) (f : Feed → Feed) : (modFeed s n f).jobs = s.jobs := rfl
@[simp] theorem modFeed_benches (s : State) (n : Nat) (f : Feed → Feed) : (modFeed s n f).benches = s.benches := rfl
@[simp] theorem modFeed_convs (s : State) (n : Nat) (f : Feed → Feed) : (modFeed s n f).convs = s.convs := rfl
@[simp] theorem modFeed_mem (s : State) (n : Nat) (f : Feed → Feed) : (modFeed s n f).mem = s.mem := rfl
@[simp] theorem modFeed_stock (s : State) (n : Nat) (f : Feed → Feed) : (modFeed s n f).stock = s.stock := rfl
@[simp] theorem modFeed_host (s : State) (n : Nat) (f : Feed → Feed) : (modFeed s n f).host = s.host := rfl
@[simp] theorem modFeed_time (s : State) (n : Nat) (f : Feed → Feed) : (modFeed s n f).time = s.time := rfl
@[simp] theorem modFeed_board (s : State) (n : Nat) (f : Feed → Feed) : (modFeed s n f).board = s.board := rfl
@[simp] theorem modFeed_cipher (s : State) (n : Nat) (f : Feed → Feed) : (modFeed s n f).cipher = s.cipher := rfl
@[simp] theorem modFeed_boot (s : State) (n : Nat) (f : Feed → Feed) : (modFeed s n f).boot = s.boot := rfl
@[simp] theorem modFeed_fw (s : State) (n : Nat) (f : Feed → Feed) : (modFeed s n f).fw = s.fw := rfl
@[simp] theorem modFeed_self (s : State) (n : Nat) (f : Feed → Feed) : (modFeed s n f).self = s.self := rfl
@[simp] theorem modFeed_power (s : State) (n : Nat) (f : Feed → Feed) : (modFeed s n f).power = s.power := rfl
@[simp] theorem modFeed_jtag (s : State) (n : Nat) (f : Feed → Feed) : (modFeed s n f).jtag = s.jtag := rfl
@[simp] theorem modFeed_out (s : State) (n : Nat) (f : Feed → Feed) : (modFeed s n f).out = s.out := rfl

@[simp] theorem modFunc_pending (s : State) (n : Nat) (f : Func → Func) : (modFunc s n f).pending = s.pending := rfl
@[simp] theorem modFunc_freeCtr (s : State) (n : Nat) (f : Func → Func) : (modFunc s n f).freeCtr = s.freeCtr := rfl
@[simp] theorem modFunc_parts (s : State) (n : Nat) (f : Func → Func) : (modFunc s n f).parts = s.parts := rfl
@[simp] theorem modFunc_jobs (s : State) (n : Nat) (f : Func → Func) : (modFunc s n f).jobs = s.jobs := rfl
@[simp] theorem modFunc_benches (s : State) (n : Nat) (f : Func → Func) : (modFunc s n f).benches = s.benches := rfl
@[simp] theorem modFunc_convs (s : State) (n : Nat) (f : Func → Func) : (modFunc s n f).convs = s.convs := rfl
@[simp] theorem modFunc_feeds (s : State) (n : Nat) (f : Func → Func) : (modFunc s n f).feeds = s.feeds := rfl
@[simp] theorem modFunc_mem (s : State) (n : Nat) (f : Func → Func) : (modFunc s n f).mem = s.mem := rfl
@[simp] theorem modFunc_stock (s : State) (n : Nat) (f : Func → Func) : (modFunc s n f).stock = s.stock := rfl
@[simp] theorem modFunc_time (s : State) (n : Nat) (f : Func → Func) : (modFunc s n f).time = s.time := rfl
@[simp] theorem modFunc_board (s : State) (n : Nat) (f : Func → Func) : (modFunc s n f).board = s.board := rfl
@[simp] theorem modFunc_cipher (s : State) (n : Nat) (f : Func → Func) : (modFunc s n f).cipher = s.cipher := rfl
@[simp] theorem modFunc_boot (s : State) (n : Nat) (f : Func → Func) : (modFunc s n f).boot = s.boot := rfl
@[simp] theorem modFunc_fw (s : State) (n : Nat) (f : Func → Func) : (modFunc s n f).fw = s.fw := rfl
@[simp] theorem modFunc_self (s : State) (n : Nat) (f : Func → Func) : (modFunc s n f).self = s.self := rfl
@[simp] theorem modFunc_power (s : State) (n : Nat) (f : Func → Func) : (modFunc s n f).power = s.power := rfl
@[simp] theorem modFunc_jtag (s : State) (n : Nat) (f : Func → Func) : (modFunc s n f).jtag = s.jtag := rfl
@[simp] theorem modFunc_out (s : State) (n : Nat) (f : Func → Func) : (modFunc s n f).out = s.out := rfl

@[simp] theorem hostWrite_pending (s : State) (a : Nat) (d : List Byte) : (hostWrite s a d).pending = s.pending := rfl
@[simp] theorem hostWrite_freeCtr (s : State) (a : Nat) (d : List Byte) : (hostWrite s a d).freeCtr = s.freeCtr := rfl
@[simp] theorem hostWrite_parts (s : State) (a : Nat) (d : List Byte) : (hostWrite s a d).parts = s.parts := rfl
@[simp] theorem hostWrite_jobs (s : State) (a : Nat) (d : List Byte) : (hostWrite s a d).jobs = s.jobs := rfl
@[simp] theorem hostWrite_benches (s : State) (a : Nat) (d : List Byte) : (hostWrite s a d).benches = s.benches := rfl
@[simp] theorem hostWrite_convs (s : State) (a : Nat) (d : List Byte) : (hostWrite s a d).convs = s.convs := rfl
@[simp] theorem hostWrite_feeds (s : State) (a : Nat) (d : List Byte) : (hostWrite s a d).feeds = s.feeds := rfl
@[simp] theorem hostWrite_mem (s : State) (a : Nat) (d : List Byte) : (hostWrite s a d).mem = s.mem := rfl
@[simp] theorem hostWrite_stock (s : State) (a : Nat) (d : List Byte) : (hostWrite s a d).stock = s.stock := rfl
@[simp] theorem hostWrite_time (s : State) (a : Nat) (d : List Byte) : (hostWrite s a d).time = s.time := rfl
@[simp] theorem hostWrite_board (s : State) (a : Nat) (d : List Byte) : (hostWrite s a d).board = s.board := rfl
@[simp] theorem hostWrite_cipher (s : State) (a : Nat) (d : List Byte) : (hostWrite s a d).cipher = s.cipher := rfl
@[simp] theorem hostWrite_boot (s : State) (a : Nat) (d : List Byte) : (hostWrite s a d).boot = s.boot := rfl
@[simp] theorem hostWrite_fw (s : State) (a : Nat) (d : List Byte) : (hostWrite s a d).fw = s.fw := rfl
@[simp] theorem hostWrite_self (s : State) (a : Nat) (d : List Byte) : (hostWrite s a d).self = s.self := rfl
@[simp] theorem hostWrite_power (s : State) (a : Nat) (d : List Byte) : (hostWrite s a d).power = s.power := rfl
@[simp] theorem hostWrite_jtag (s : State) (a : Nat) (d : List Byte) : (hostWrite s a d).jtag = s.jtag := rfl
@[simp] theorem hostWrite_out (s : State) (a : Nat) (d : List Byte) : (hostWrite s a d).out = s.out := rfl

@[simp] theorem emit_pending (s : State) (k : MsgKind) (dst : Nat) (args : List Nat) (d : List Byte) : (emit s k dst args d).pending = s.pending := rfl
@[simp] theorem emit_freeCtr (s : State) (k : MsgKind) (dst : Nat) (args : List Nat) (d : List Byte) : (emit s k dst args d).freeCtr = s.freeCtr := rfl
@[simp] theorem emit_parts (s : State) (k : MsgKind) (dst : Nat) (args : List Nat) (d : List Byte) : (emit s k dst args d).parts = s.parts := rfl
@[simp] theorem emit_jobs (s : State) (k : MsgKind) (dst : Nat) (args : List Nat) (d : List Byte) : (emit s k dst args d).jobs = s.jobs := rfl
@[simp] theorem emit_benches (s : State) (k : MsgKind) (dst : Nat) (args : List Nat) (d : List Byte) : (emit s k dst args d).benches = s.benches := rfl
@[simp] theorem emit_convs (s : State) (k : MsgKind) (dst : Nat) (args : List Nat) (d : List Byte) : (emit s k dst args d).convs = s.convs := rfl
@[simp] theorem emit_feeds (s : State) (k : MsgKind) (dst : Nat) (args : List Nat) (d : List Byte) : (emit s k dst args d).feeds = s.feeds := rfl
@[simp] theorem emit_mem (s : State) (k : MsgKind) (dst : Nat) (args : List Nat) (d : List Byte) : (emit s k dst args d).mem = s.mem := rfl
@[simp] theorem emit_stock (s : State) (k : MsgKind) (dst : Nat) (args : List Nat) (d : List Byte) : (emit s k dst args d).stock = s.stock := rfl
@[simp] theorem emit_host (s : State) (k : MsgKind) (dst : Nat) (args : List Nat) (d : List Byte) : (emit s k dst args d).host = s.host := rfl
@[simp] theorem emit_time (s : State) (k : MsgKind) (dst : Nat) (args : List Nat) (d : List Byte) : (emit s k dst args d).time = s.time := rfl
@[simp] theorem emit_board (s : State) (k : MsgKind) (dst : Nat) (args : List Nat) (d : List Byte) : (emit s k dst args d).board = s.board := rfl
@[simp] theorem emit_cipher (s : State) (k : MsgKind) (dst : Nat) (args : List Nat) (d : List Byte) : (emit s k dst args d).cipher = s.cipher := rfl
@[simp] theorem emit_boot (s : State) (k : MsgKind) (dst : Nat) (args : List Nat) (d : List Byte) : (emit s k dst args d).boot = s.boot := rfl
@[simp] theorem emit_fw (s : State) (k : MsgKind) (dst : Nat) (args : List Nat) (d : List Byte) : (emit s k dst args d).fw = s.fw := rfl
@[simp] theorem emit_self (s : State) (k : MsgKind) (dst : Nat) (args : List Nat) (d : List Byte) : (emit s k dst args d).self = s.self := rfl
@[simp] theorem emit_power (s : State) (k : MsgKind) (dst : Nat) (args : List Nat) (d : List Byte) : (emit s k dst args d).power = s.power := rfl
@[simp] theorem emit_jtag (s : State) (k : MsgKind) (dst : Nat) (args : List Nat) (d : List Byte) : (emit s k dst args d).jtag = s.jtag := rfl
@[simp] theorem emit_out (s : State) (k : MsgKind) (dst : Nat) (args : List Nat) (d : List Byte) : (emit s k dst args d).out = s.out ++ [⟨k, dst, args, d⟩] := rfl

@[simp] theorem modBoot_pending (s : State) (f : BootSt → BootSt) : (modBoot s f).pending = s.pending := rfl
@[simp] theorem modBoot_freeCtr (s : State) (f : BootSt → BootSt) : (modBoot s f).freeCtr = s.freeCtr := rfl
@[simp] theorem modBoot_parts (s : State) (f : BootSt → BootSt) : (modBoot s f).parts = s.parts := rfl
@[simp] theorem modBoot_jobs (s : State) (f : BootSt → BootSt) : (modBoot s f).jobs = s.jobs := rfl
@[simp] theorem modBoot_benches (s : State) (f : BootSt → BootSt) : (modBoot s f).benches = s.benches := rfl
@[simp] theorem modBoot_convs (s : State) (f : BootSt → BootSt) : (modBoot s f).convs = s.convs := rfl
@[simp] theorem modBoot_feeds (s : State) (f : BootSt → BootSt) : (modBoot s f).feeds = s.feeds := rfl
@[simp] theorem modBoot_mem (s : State) (f : BootSt → BootSt) : (modBoot s f).mem = s.mem := rfl
@[simp] theorem modBoot_stock (s : State) (f : BootSt → BootSt) : (modBoot s f).stock = s.stock := rfl
@[simp] theorem modBoot_host (s : State) (f : BootSt → BootSt) : (modBoot s f).host = s.host := rfl
@[simp] theorem modBoot_time (s : State) (f : BootSt → BootSt) : (modBoot s f).time = s.time := rfl
@[simp] theorem modBoot_board (s : State) (f : BootSt → BootSt) : (modBoot s f).board = s.board := rfl
@[simp] theorem modBoot_cipher (s : State) (f : BootSt → BootSt) : (modBoot s f).cipher = s.cipher := rfl
@[simp] theorem modBoot_boot (s : State) (f : BootSt → BootSt) : (modBoot s f).boot = f s.boot := rfl
@[simp] theorem modBoot_fw (s : State) (f : BootSt → BootSt) : (modBoot s f).fw = s.fw := rfl
@[simp] theorem modBoot_self (s : State) (f : BootSt → BootSt) : (modBoot s f).self = s.self := rfl
@[simp] theorem modBoot_power (s : State) (f : BootSt → BootSt) : (modBoot s f).power = s.power := rfl
@[simp] theorem modBoot_jtag (s : State) (f : BootSt → BootSt) : (modBoot s f).jtag = s.jtag := rfl
@[simp] theorem modBoot_out (s : State) (f : BootSt → BootSt) : (modBoot s f).out = s.out := rfl

@[simp] theorem modPower_pending (s : State) (f : PowerSt → PowerSt) : (modPower s f).pending = s.pending := rfl
@[simp] theorem modPower_freeCtr (s : State) (f : PowerSt → PowerSt) : (modPower s f).freeCtr = s.freeCtr := rfl
@[simp] theorem modPower_parts (s : State) (f : PowerSt → PowerSt) : (modPower s f).parts = s.parts := rfl
@[simp] theorem modPower_jobs (s : State) (f : PowerSt → PowerSt) : (modPower s f).jobs = s.jobs := rfl
@[simp] theorem modPower_benches (s : State) (f : PowerSt → PowerSt) : (modPower s f).benches = s.benches := rfl
@[simp] theorem modPower_convs (s : State) (f : PowerSt → PowerSt) : (modPower s f).convs = s.convs := rfl
@[simp] theorem modPower_feeds (s : State) (f : PowerSt → PowerSt) : (modPower s f).feeds = s.feeds := rfl
@[simp] theorem modPower_mem (s : State) (f : PowerSt → PowerSt) : (modPower s f).mem = s.mem := rfl
@[simp] theorem modPower_stock (s : State) (f : PowerSt → PowerSt) : (modPower s f).stock = s.stock := rfl
@[simp] theorem modPower_host (s : State) (f : PowerSt → PowerSt) : (modPower s f).host = s.host := rfl
@[simp] theorem modPower_time (s : State) (f : PowerSt → PowerSt) : (modPower s f).time = s.time := rfl
@[simp] theorem modPower_board (s : State) (f : PowerSt → PowerSt) : (modPower s f).board = s.board := rfl
@[simp] theorem modPower_cipher (s : State) (f : PowerSt → PowerSt) : (modPower s f).cipher = s.cipher := rfl
@[simp] theorem modPower_boot (s : State) (f : PowerSt → PowerSt) : (modPower s f).boot = s.boot := rfl
@[simp] theorem modPower_fw (s : State) (f : PowerSt → PowerSt) : (modPower s f).fw = s.fw := rfl
@[simp] theorem modPower_self (s : State) (f : PowerSt → PowerSt) : (modPower s f).self = s.self := rfl
@[simp] theorem modPower_power (s : State) (f : PowerSt → PowerSt) : (modPower s f).power = f s.power := rfl
@[simp] theorem modPower_jtag (s : State) (f : PowerSt → PowerSt) : (modPower s f).jtag = s.jtag := rfl
@[simp] theorem modPower_out (s : State) (f : PowerSt → PowerSt) : (modPower s f).out = s.out := rfl

@[simp] theorem modLog_pending (s : State) (f : LogState → LogState) : (modLog s f).pending = s.pending := rfl
@[simp] theorem modLog_freeCtr (s : State) (f : LogState → LogState) : (modLog s f).freeCtr = s.freeCtr := rfl
@[simp] theorem modLog_parts (s : State) (f : LogState → LogState) : (modLog s f).parts = s.parts := rfl
@[simp] theorem modLog_jobs (s : State) (f : LogState → LogState) : (modLog s f).jobs = s.jobs := rfl
@[simp] theorem modLog_benches (s : State) (f : LogState → LogState) : (modLog s f).benches = s.benches := rfl
@[simp] theorem modLog_convs (s : State) (f : LogState → LogState) : (modLog s f).convs = s.convs := rfl
@[simp] theorem modLog_feeds (s : State) (f : LogState → LogState) : (modLog s f).feeds = s.feeds := rfl
@[simp] theorem modLog_mem (s : State) (f : LogState → LogState) : (modLog s f).mem = s.mem := rfl
@[simp] theorem modLog_stock (s : State) (f : LogState → LogState) : (modLog s f).stock = s.stock := rfl
@[simp] theorem modLog_host (s : State) (f : LogState → LogState) : (modLog s f).host = s.host := rfl
@[simp] theorem modLog_time (s : State) (f : LogState → LogState) : (modLog s f).time = s.time := rfl
@[simp] theorem modLog_board (s : State) (f : LogState → LogState) : (modLog s f).board = s.board := rfl
@[simp] theorem modLog_cipher (s : State) (f : LogState → LogState) : (modLog s f).cipher = s.cipher := rfl
@[simp] theorem modLog_fw (s : State) (f : LogState → LogState) : (modLog s f).fw = s.fw := rfl
@[simp] theorem modLog_self (s : State) (f : LogState → LogState) : (modLog s f).self = s.self := rfl
@[simp] theorem modLog_power (s : State) (f : LogState → LogState) : (modLog s f).power = s.power := rfl
@[simp] theorem modLog_jtag (s : State) (f : LogState → LogState) : (modLog s f).jtag = s.jtag := rfl
@[simp] theorem modLog_out (s : State) (f : LogState → LogState) : (modLog s f).out = s.out := rfl

@[simp] theorem modSelf_pending (s : State) (f : SelfSt → SelfSt) : (modSelf s f).pending = s.pending := rfl
@[simp] theorem modSelf_freeCtr (s : State) (f : SelfSt → SelfSt) : (modSelf s f).freeCtr = s.freeCtr := rfl
@[simp] theorem modSelf_parts (s : State) (f : SelfSt → SelfSt) : (modSelf s f).parts = s.parts := rfl
@[simp] theorem modSelf_jobs (s : State) (f : SelfSt → SelfSt) : (modSelf s f).jobs = s.jobs := rfl
@[simp] theorem modSelf_benches (s : State) (f : SelfSt → SelfSt) : (modSelf s f).benches = s.benches := rfl
@[simp] theorem modSelf_convs (s : State) (f : SelfSt → SelfSt) : (modSelf s f).convs = s.convs := rfl
@[simp] theorem modSelf_feeds (s : State) (f : SelfSt → SelfSt) : (modSelf s f).feeds = s.feeds := rfl
@[simp] theorem modSelf_mem (s : State) (f : SelfSt → SelfSt) : (modSelf s f).mem = s.mem := rfl
@[simp] theorem modSelf_stock (s : State) (f : SelfSt → SelfSt) : (modSelf s f).stock = s.stock := rfl
@[simp] theorem modSelf_host (s : State) (f : SelfSt → SelfSt) : (modSelf s f).host = s.host := rfl
@[simp] theorem modSelf_time (s : State) (f : SelfSt → SelfSt) : (modSelf s f).time = s.time := rfl
@[simp] theorem modSelf_board (s : State) (f : SelfSt → SelfSt) : (modSelf s f).board = s.board := rfl
@[simp] theorem modSelf_cipher (s : State) (f : SelfSt → SelfSt) : (modSelf s f).cipher = s.cipher := rfl
@[simp] theorem modSelf_boot (s : State) (f : SelfSt → SelfSt) : (modSelf s f).boot = s.boot := rfl
@[simp] theorem modSelf_fw (s : State) (f : SelfSt → SelfSt) : (modSelf s f).fw = s.fw := rfl
@[simp] theorem modSelf_self (s : State) (f : SelfSt → SelfSt) : (modSelf s f).self = f s.self := rfl
@[simp] theorem modSelf_power (s : State) (f : SelfSt → SelfSt) : (modSelf s f).power = s.power := rfl
@[simp] theorem modSelf_jtag (s : State) (f : SelfSt → SelfSt) : (modSelf s f).jtag = s.jtag := rfl
@[simp] theorem modSelf_out (s : State) (f : SelfSt → SelfSt) : (modSelf s f).out = s.out := rfl

@[simp] theorem modCipher_pending (s : State) (f : CipherSt → CipherSt) : (modCipher s f).pending = s.pending := rfl
@[simp] theorem modCipher_freeCtr (s : State) (f : CipherSt → CipherSt) : (modCipher s f).freeCtr = s.freeCtr := rfl
@[simp] theorem modCipher_parts (s : State) (f : CipherSt → CipherSt) : (modCipher s f).parts = s.parts := rfl
@[simp] theorem modCipher_jobs (s : State) (f : CipherSt → CipherSt) : (modCipher s f).jobs = s.jobs := rfl
@[simp] theorem modCipher_benches (s : State) (f : CipherSt → CipherSt) : (modCipher s f).benches = s.benches := rfl
@[simp] theorem modCipher_convs (s : State) (f : CipherSt → CipherSt) : (modCipher s f).convs = s.convs := rfl
@[simp] theorem modCipher_feeds (s : State) (f : CipherSt → CipherSt) : (modCipher s f).feeds = s.feeds := rfl
@[simp] theorem modCipher_mem (s : State) (f : CipherSt → CipherSt) : (modCipher s f).mem = s.mem := rfl
@[simp] theorem modCipher_stock (s : State) (f : CipherSt → CipherSt) : (modCipher s f).stock = s.stock := rfl
@[simp] theorem modCipher_host (s : State) (f : CipherSt → CipherSt) : (modCipher s f).host = s.host := rfl
@[simp] theorem modCipher_time (s : State) (f : CipherSt → CipherSt) : (modCipher s f).time = s.time := rfl
@[simp] theorem modCipher_board (s : State) (f : CipherSt → CipherSt) : (modCipher s f).board = s.board := rfl
@[simp] theorem modCipher_cipher (s : State) (f : CipherSt → CipherSt) : (modCipher s f).cipher = f s.cipher := rfl
@[simp] theorem modCipher_boot (s : State) (f : CipherSt → CipherSt) : (modCipher s f).boot = s.boot := rfl
@[simp] theorem modCipher_fw (s : State) (f : CipherSt → CipherSt) : (modCipher s f).fw = s.fw := rfl
@[simp] theorem modCipher_self (s : State) (f : CipherSt → CipherSt) : (modCipher s f).self = s.self := rfl
@[simp] theorem modCipher_power (s : State) (f : CipherSt → CipherSt) : (modCipher s f).power = s.power := rfl
@[simp] theorem modCipher_jtag (s : State) (f : CipherSt → CipherSt) : (modCipher s f).jtag = s.jtag := rfl
@[simp] theorem modCipher_out (s : State) (f : CipherSt → CipherSt) : (modCipher s f).out = s.out := rfl

@[simp] theorem modTime_pending (s : State) (f : TimeSt → TimeSt) : (modTime s f).pending = s.pending := rfl
@[simp] theorem modTime_freeCtr (s : State) (f : TimeSt → TimeSt) : (modTime s f).freeCtr = s.freeCtr := rfl
@[simp] theorem modTime_parts (s : State) (f : TimeSt → TimeSt) : (modTime s f).parts = s.parts := rfl
@[simp] theorem modTime_jobs (s : State) (f : TimeSt → TimeSt) : (modTime s f).jobs = s.jobs := rfl
@[simp] theorem modTime_benches (s : State) (f : TimeSt → TimeSt) : (modTime s f).benches = s.benches := rfl
@[simp] theorem modTime_convs (s : State) (f : TimeSt → TimeSt) : (modTime s f).convs = s.convs := rfl
@[simp] theorem modTime_feeds (s : State) (f : TimeSt → TimeSt) : (modTime s f).feeds = s.feeds := rfl
@[simp] theorem modTime_mem (s : State) (f : TimeSt → TimeSt) : (modTime s f).mem = s.mem := rfl
@[simp] theorem modTime_stock (s : State) (f : TimeSt → TimeSt) : (modTime s f).stock = s.stock := rfl
@[simp] theorem modTime_host (s : State) (f : TimeSt → TimeSt) : (modTime s f).host = s.host := rfl
@[simp] theorem modTime_time (s : State) (f : TimeSt → TimeSt) : (modTime s f).time = f s.time := rfl
@[simp] theorem modTime_board (s : State) (f : TimeSt → TimeSt) : (modTime s f).board = s.board := rfl
@[simp] theorem modTime_cipher (s : State) (f : TimeSt → TimeSt) : (modTime s f).cipher = s.cipher := rfl
@[simp] theorem modTime_boot (s : State) (f : TimeSt → TimeSt) : (modTime s f).boot = s.boot := rfl
@[simp] theorem modTime_fw (s : State) (f : TimeSt → TimeSt) : (modTime s f).fw = s.fw := rfl
@[simp] theorem modTime_self (s : State) (f : TimeSt → TimeSt) : (modTime s f).self = s.self := rfl
@[simp] theorem modTime_power (s : State) (f : TimeSt → TimeSt) : (modTime s f).power = s.power := rfl
@[simp] theorem modTime_jtag (s : State) (f : TimeSt → TimeSt) : (modTime s f).jtag = s.jtag := rfl
@[simp] theorem modTime_out (s : State) (f : TimeSt → TimeSt) : (modTime s f).out = s.out := rfl

@[simp] theorem modFw_pending (s : State) (f : FwSt → FwSt) : (modFw s f).pending = s.pending := rfl
@[simp] theorem modFw_freeCtr (s : State) (f : FwSt → FwSt) : (modFw s f).freeCtr = s.freeCtr := rfl
@[simp] theorem modFw_parts (s : State) (f : FwSt → FwSt) : (modFw s f).parts = s.parts := rfl
@[simp] theorem modFw_jobs (s : State) (f : FwSt → FwSt) : (modFw s f).jobs = s.jobs := rfl
@[simp] theorem modFw_benches (s : State) (f : FwSt → FwSt) : (modFw s f).benches = s.benches := rfl
@[simp] theorem modFw_convs (s : State) (f : FwSt → FwSt) : (modFw s f).convs = s.convs := rfl
@[simp] theorem modFw_feeds (s : State) (f : FwSt → FwSt) : (modFw s f).feeds = s.feeds := rfl
@[simp] theorem modFw_mem (s : State) (f : FwSt → FwSt) : (modFw s f).mem = s.mem := rfl
@[simp] theorem modFw_stock (s : State) (f : FwSt → FwSt) : (modFw s f).stock = s.stock := rfl
@[simp] theorem modFw_host (s : State) (f : FwSt → FwSt) : (modFw s f).host = s.host := rfl
@[simp] theorem modFw_time (s : State) (f : FwSt → FwSt) : (modFw s f).time = s.time := rfl
@[simp] theorem modFw_board (s : State) (f : FwSt → FwSt) : (modFw s f).board = s.board := rfl
@[simp] theorem modFw_cipher (s : State) (f : FwSt → FwSt) : (modFw s f).cipher = s.cipher := rfl
@[simp] theorem modFw_boot (s : State) (f : FwSt → FwSt) : (modFw s f).boot = s.boot := rfl
@[simp] theorem modFw_fw (s : State) (f : FwSt → FwSt) : (modFw s f).fw = f s.fw := rfl
@[simp] theorem modFw_self (s : State) (f : FwSt → FwSt) : (modFw s f).self = s.self := rfl
@[simp] theorem modFw_power (s : State) (f : FwSt → FwSt) : (modFw s f).power = s.power := rfl
@[simp] theorem modFw_jtag (s : State) (f : FwSt → FwSt) : (modFw s f).jtag = s.jtag := rfl
@[simp] theorem modFw_out (s : State) (f : FwSt → FwSt) : (modFw s f).out = s.out := rfl

@[simp] theorem modPort_pending (s : State) (k : Nat) (f : BPort → BPort) : (modPort s k f).pending = s.pending := rfl
@[simp] theorem modPort_freeCtr (s : State) (k : Nat) (f : BPort → BPort) : (modPort s k f).freeCtr = s.freeCtr := rfl
@[simp] theorem modPort_parts (s : State) (k : Nat) (f : BPort → BPort) : (modPort s k f).parts = s.parts := rfl
@[simp] theorem modPort_jobs (s : State) (k : Nat) (f : BPort → BPort) : (modPort s k f).jobs = s.jobs := rfl
@[simp] theorem modPort_benches (s : State) (k : Nat) (f : BPort → BPort) : (modPort s k f).benches = s.benches := rfl
@[simp] theorem modPort_convs (s : State) (k : Nat) (f : BPort → BPort) : (modPort s k f).convs = s.convs := rfl
@[simp] theorem modPort_feeds (s : State) (k : Nat) (f : BPort → BPort) : (modPort s k f).feeds = s.feeds := rfl
@[simp] theorem modPort_mem (s : State) (k : Nat) (f : BPort → BPort) : (modPort s k f).mem = s.mem := rfl
@[simp] theorem modPort_stock (s : State) (k : Nat) (f : BPort → BPort) : (modPort s k f).stock = s.stock := rfl
@[simp] theorem modPort_host (s : State) (k : Nat) (f : BPort → BPort) : (modPort s k f).host = s.host := rfl
@[simp] theorem modPort_time (s : State) (k : Nat) (f : BPort → BPort) : (modPort s k f).time = s.time := rfl
@[simp] theorem modPort_cipher (s : State) (k : Nat) (f : BPort → BPort) : (modPort s k f).cipher = s.cipher := rfl
@[simp] theorem modPort_boot (s : State) (k : Nat) (f : BPort → BPort) : (modPort s k f).boot = s.boot := rfl
@[simp] theorem modPort_fw (s : State) (k : Nat) (f : BPort → BPort) : (modPort s k f).fw = s.fw := rfl
@[simp] theorem modPort_self (s : State) (k : Nat) (f : BPort → BPort) : (modPort s k f).self = s.self := rfl
@[simp] theorem modPort_power (s : State) (k : Nat) (f : BPort → BPort) : (modPort s k f).power = s.power := rfl
@[simp] theorem modPort_jtag (s : State) (k : Nat) (f : BPort → BPort) : (modPort s k f).jtag = s.jtag := rfl
@[simp] theorem modPort_out (s : State) (k : Nat) (f : BPort → BPort) : (modPort s k f).out = s.out := rfl

@[simp] theorem modSite_pending (s : State) (k : Nat) (f : SPort → SPort) : (modSite s k f).pending = s.pending := rfl
@[simp] theorem modSite_freeCtr (s : State) (k : Nat) (f : SPort → SPort) : (modSite s k f).freeCtr = s.freeCtr := rfl
@[simp] theorem modSite_parts (s : State) (k : Nat) (f : SPort → SPort) : (modSite s k f).parts = s.parts := rfl
@[simp] theorem modSite_jobs (s : State) (k : Nat) (f : SPort → SPort) : (modSite s k f).jobs = s.jobs := rfl
@[simp] theorem modSite_benches (s : State) (k : Nat) (f : SPort → SPort) : (modSite s k f).benches = s.benches := rfl
@[simp] theorem modSite_convs (s : State) (k : Nat) (f : SPort → SPort) : (modSite s k f).convs = s.convs := rfl
@[simp] theorem modSite_feeds (s : State) (k : Nat) (f : SPort → SPort) : (modSite s k f).feeds = s.feeds := rfl
@[simp] theorem modSite_mem (s : State) (k : Nat) (f : SPort → SPort) : (modSite s k f).mem = s.mem := rfl
@[simp] theorem modSite_stock (s : State) (k : Nat) (f : SPort → SPort) : (modSite s k f).stock = s.stock := rfl
@[simp] theorem modSite_host (s : State) (k : Nat) (f : SPort → SPort) : (modSite s k f).host = s.host := rfl
@[simp] theorem modSite_time (s : State) (k : Nat) (f : SPort → SPort) : (modSite s k f).time = s.time := rfl
@[simp] theorem modSite_cipher (s : State) (k : Nat) (f : SPort → SPort) : (modSite s k f).cipher = s.cipher := rfl
@[simp] theorem modSite_boot (s : State) (k : Nat) (f : SPort → SPort) : (modSite s k f).boot = s.boot := rfl
@[simp] theorem modSite_fw (s : State) (k : Nat) (f : SPort → SPort) : (modSite s k f).fw = s.fw := rfl
@[simp] theorem modSite_self (s : State) (k : Nat) (f : SPort → SPort) : (modSite s k f).self = s.self := rfl
@[simp] theorem modSite_power (s : State) (k : Nat) (f : SPort → SPort) : (modSite s k f).power = s.power := rfl
@[simp] theorem modSite_jtag (s : State) (k : Nat) (f : SPort → SPort) : (modSite s k f).jtag = s.jtag := rfl
@[simp] theorem modSite_out (s : State) (k : Nat) (f : SPort → SPort) : (modSite s k f).out = s.out := rfl

@[simp] theorem modJtag_pending (s : State) (f : JtagSt → JtagSt) : (modJtag s f).pending = s.pending := rfl
@[simp] theorem modJtag_freeCtr (s : State) (f : JtagSt → JtagSt) : (modJtag s f).freeCtr = s.freeCtr := rfl
@[simp] theorem modJtag_parts (s : State) (f : JtagSt → JtagSt) : (modJtag s f).parts = s.parts := rfl
@[simp] theorem modJtag_jobs (s : State) (f : JtagSt → JtagSt) : (modJtag s f).jobs = s.jobs := rfl
@[simp] theorem modJtag_benches (s : State) (f : JtagSt → JtagSt) : (modJtag s f).benches = s.benches := rfl
@[simp] theorem modJtag_convs (s : State) (f : JtagSt → JtagSt) : (modJtag s f).convs = s.convs := rfl
@[simp] theorem modJtag_feeds (s : State) (f : JtagSt → JtagSt) : (modJtag s f).feeds = s.feeds := rfl
@[simp] theorem modJtag_mem (s : State) (f : JtagSt → JtagSt) : (modJtag s f).mem = s.mem := rfl
@[simp] theorem modJtag_stock (s : State) (f : JtagSt → JtagSt) : (modJtag s f).stock = s.stock := rfl
@[simp] theorem modJtag_host (s : State) (f : JtagSt → JtagSt) : (modJtag s f).host = s.host := rfl
@[simp] theorem modJtag_time (s : State) (f : JtagSt → JtagSt) : (modJtag s f).time = s.time := rfl
@[simp] theorem modJtag_board (s : State) (f : JtagSt → JtagSt) : (modJtag s f).board = s.board := rfl
@[simp] theorem modJtag_cipher (s : State) (f : JtagSt → JtagSt) : (modJtag s f).cipher = s.cipher := rfl
@[simp] theorem modJtag_boot (s : State) (f : JtagSt → JtagSt) : (modJtag s f).boot = s.boot := rfl
@[simp] theorem modJtag_fw (s : State) (f : JtagSt → JtagSt) : (modJtag s f).fw = s.fw := rfl
@[simp] theorem modJtag_self (s : State) (f : JtagSt → JtagSt) : (modJtag s f).self = s.self := rfl
@[simp] theorem modJtag_power (s : State) (f : JtagSt → JtagSt) : (modJtag s f).power = s.power := rfl
@[simp] theorem modJtag_jtag (s : State) (f : JtagSt → JtagSt) : (modJtag s f).jtag = f s.jtag := rfl
@[simp] theorem modJtag_out (s : State) (f : JtagSt → JtagSt) : (modJtag s f).out = s.out := rfl

end Sys2Proof.Machine
end

