-- ==== Sys2Proof/Laws/Events.lean ====
section
/-! SUPPORT. What raising events, interrupts and error bits can do: they change the host's side of the state and nothing else. -/

namespace Sys2Proof.Machine

theorem HostOnly.refl (s : State) : HostOnly s s := rfl

theorem HostOnly.trans {a b c : State} (h : HostOnly a b) (k : HostOnly b c) : HostOnly a c := by
  unfold HostOnly at *
  rw [k, h]

theorem HostOnly.foldl {α : Type} (f : State → α → State) (l : List α) (s : State) (h : ∀ s x, HostOnly s (f s x)) :
    HostOnly s (l.foldl f s) := by
  induction l generalizing s with
  | nil => exact HostOnly.refl s
  | cons x r ih => exact HostOnly.trans (h s x) (ih (f s x))

theorem modFunc_hostOnly (s : State) (n : Nat) (f : Func → Func) : HostOnly s (modFunc s n f) := rfl

theorem hostWrite_hostOnly (s : State) (a : Nat) (d : List Byte) : HostOnly s (hostWrite s a d) := rfl

theorem fireVector_hostOnly (s : State) (f v : Nat) : HostOnly s (fireVector s f v) := by
  unfold fireVector
  dsimp only
  split
  · exact HostOnly.refl s
  · split <;> rfl

theorem putEvent_hostOnly (s : State) (f : Nat) (e : Event) : HostOnly s (putEvent s f e) := by
  unfold putEvent
  dsimp only
  split
  · exact HostOnly.trans (by rfl) (fireVector_hostOnly _ f _)
  · rfl

theorem setErr_hostOnly (s : State) (b : Nat) : HostOnly s (setErr s b) := by
  unfold setErr
  dsimp only
  split
  · exact HostOnly.refl s
  · split
    · rfl
    · exact HostOnly.trans (by rfl) (fireVector_hostOnly _ 0 63)

theorem fireErr_hostOnly (s : State) (b : Nat) : HostOnly s (fireErr s b) := by
  unfold fireErr
  split
  · exact HostOnly.refl s
  · exact fireVector_hostOnly s 0 63

theorem dropEvent_hostOnly (s : State) (f : Nat) : HostOnly s (dropEvent s f) :=
  HostOnly.trans (modFunc_hostOnly s f _) (setErr_hostOnly _ 11)

theorem flushLost_hostOnly (s : State) (f : Nat) : HostOnly s (flushLost s f) := by
  unfold flushLost
  dsimp only
  split
  · exact HostOnly.trans (putEvent_hostOnly s f _) (modFunc_hostOnly _ f _)
  · exact HostOnly.refl s

theorem sendEvent_hostOnly (s : State) (f : Nat) (e : Event) : HostOnly s (sendEvent s f e) := by
  unfold sendEvent
  split
  · exact HostOnly.refl s
  · split
    · exact HostOnly.trans (flushLost_hostOnly s f) (putEvent_hostOnly _ f e)
    · exact dropEvent_hostOnly s f

theorem raisePf_hostOnly (s : State) (code source : Nat) (items : List (Nat × Nat)) : HostOnly s (raisePf s code source items) :=
  sendEvent_hostOnly s 0 _

theorem raisePart_hostOnly (s : State) (p : Option Nat) (code source : Nat) (items : List (Nat × Nat)) :
    HostOnly s (raisePart s p code source items) :=
  HostOnly.foldl _ _ s (fun s f => sendEvent_hostOnly s f _)

theorem raiseAll_hostOnly (s : State) (code source : Nat) (items : List (Nat × Nat)) : HostOnly s (raiseAll s code source items) :=
  HostOnly.foldl _ _ s (fun s f => sendEvent_hostOnly s f _)

theorem raiseFunc_hostOnly (s : State) (f : Nat) (pf : Bool) (p : Option Nat) (code : Nat) (items : List (Nat × Nat)) :
    HostOnly s (raiseFunc s f pf p code items) := by
  unfold raiseFunc
  dsimp only
  split
  · exact HostOnly.trans (sendEvent_hostOnly s f _) (sendEvent_hostOnly _ 0 _)
  · exact sendEvent_hostOnly s f _

theorem raiseBench_hostOnly (s : State) (lb c st code : Nat) (more : List (Nat × Nat)) : HostOnly s (raiseBench s lb c st code more) :=
  raisePart_hostOnly s _ code _ _

theorem recordFreeze_hostOnly (s : State) (z : Freeze) : HostOnly s (recordFreeze s z) := by
  have h : HostOnly s (addFreeze s z) := by
    unfold addFreeze
    split <;> rfl
  unfold recordFreeze
  dsimp only
  refine HostOnly.trans ?_ (raisePart_hostOnly _ _ _ _ _)
  split
  · exact HostOnly.trans h (fireErr_hostOnly _ 10)
  · exact h

theorem longDone_hostOnly (s : State) (r : LongRef) (status : Nat) : HostOnly s (longDone s r status) := sendEvent_hostOnly s r.func _

end Sys2Proof.Machine
end

