-- ==== Sys2Proof/Laws/Links.lean ====
section
/-! SUPPORT. What sending can do: a frame or message, with its keys, ports and flows, changes what LinkOnly names and nothing else. -/

namespace Sys2Proof.Machine

theorem link_refl (s : State) : LinkOnly s s := rfl

theorem link_mk {s0 s : State} {h : HostSt} {o : List OutMsg} {b : BoardSt} {c : CipherSt} {n : Nat} (h0 : LinkOnly s0 s) :
    LinkOnly s0 { s with host := h, out := o, board := b, cipher := c, freeCtr := n } := by
  unfold LinkOnly at *
  rw [h0]

/-- What raising events changes is among it. -/
theorem HostOnly.link {s0 s t : State} (h : HostOnly s t) (h0 : LinkOnly s0 s) : LinkOnly s0 t := by
  rw [h]
  exact link_mk h0

theorem link_raisePf {s0 : State} (s : State) (code source : Nat) (items : List (Nat × Nat)) (h0 : LinkOnly s0 s) :
    LinkOnly s0 (raisePf s code source items) := (raisePf_hostOnly s code source items).link h0

theorem link_raisePart {s0 : State} (s : State) (p : Option Nat) (code source : Nat) (items : List (Nat × Nat)) (h0 : LinkOnly s0 s) :
    LinkOnly s0 (raisePart s p code source items) := (raisePart_hostOnly s p code source items).link h0

theorem link_ite {s0 : State} {c : Prop} [Decidable c] {a b : State} (ha : LinkOnly s0 a) (hb : LinkOnly s0 b) :
    LinkOnly s0 (if c then a else b) := by split <;> assumption

theorem link_ite_fst {s0 : State} {α : Type} {c : Prop} [Decidable c] {a b : State × α} (ha : LinkOnly s0 a.1) (hb : LinkOnly s0 b.1) :
    LinkOnly s0 (if c then a else b).1 := by split <;> assumption

theorem link_fst {s0 : State} {α : Type} {p : State × α} {s : State} {x : α} (e : p = (s, x)) (h : LinkOnly s0 p.1) : LinkOnly s0 s := by
  subst e; exact h

theorem link_foldl {s0 : State} {α : Type} {f : State → α → State} {l : List α} (hf : ∀ s x, LinkOnly s0 s → LinkOnly s0 (f s x))
    {s : State} (h : LinkOnly s0 s) : LinkOnly s0 (l.foldl f s) := by
  induction l generalizing s with
  | nil => exact h
  | cons x r ih => exact ih (hf s x h)

theorem link_cut {s0 s : State} {q : Prop} (h : LinkOnly s0 s) (k : LinkOnly s0 s → q) : q := k h

theorem link_bumpFree {s0 : State} (s : State) (h0 : LinkOnly s0 s) : LinkOnly s0 (bumpFree s) := link_mk h0

theorem link_emit {s0 : State} (s : State) (k : MsgKind) (dst : Nat) (args : List Nat) (d : List Byte) (h0 : LinkOnly s0 s) : LinkOnly s0 (emit s k dst args d) := link_mk h0

theorem link_modCipher {s0 : State} (s : State) (f : CipherSt → CipherSt) (h0 : LinkOnly s0 s) : LinkOnly s0 (modCipher s f) := link_mk h0

theorem link_modSlot {s0 : State} (s : State) (n : Nat) (f : KeySlot → KeySlot) (h0 : LinkOnly s0 s) : LinkOnly s0 (modSlot s n f) := link_mk h0

theorem link_raiseKey {s0 : State} (s : State) (code n : Nat) (h0 : LinkOnly s0 s) : LinkOnly s0 (raiseKey s code n) := link_raisePart _ _ _ _ _ h0

theorem link_newGeneration {s0 : State} (s : State) (n : Nat) (h0 : LinkOnly s0 s) : LinkOnly s0 (newGeneration s n) := by
  unfold newGeneration
  exact link_mk (link_mk (n := s.freeCtr + 1) (h := s.host) (o := s.out) (b := s.board) (c := s.cipher) h0)

theorem link_activateSlot {s0 : State} (s : State) (n : Nat) (h0 : LinkOnly s0 s) : LinkOnly s0 (activateSlot s n) := by
  unfold activateSlot
  exact link_newGeneration _ _ (link_modSlot _ _ _ h0)

theorem link_expireSlot {s0 : State} (s : State) (n : Nat) (h0 : LinkOnly s0 s) : LinkOnly s0 (expireSlot s n) := by
  unfold expireSlot
  repeat' first
    | with_reducible assumption
    | (intro x; clear_value x)
    | lift_lets
    | (with_reducible first | apply link_activateSlot | apply link_raiseKey | apply link_modSlot | apply link_ite)

theorem link_rekeyDue {s0 : State} (s : State) (n : Nat) (h0 : LinkOnly s0 s) : LinkOnly s0 (rekeyDue s n) := by
  unfold rekeyDue
  repeat' first
    | with_reducible assumption
    | (intro x; clear_value x)
    | lift_lets
    | (with_reducible first | apply link_raiseKey | apply link_modSlot | apply link_ite)

theorem link_issueNonce {s0 : State} (s : State) (n : Nat) (dir : Bool) (h0 : LinkOnly s0 s) : LinkOnly s0 (issueNonce s n dir).1 := by
  unfold issueNonce
  repeat' first
    | with_reducible assumption
    | (intro x
       first
         | (refine link_cut (s0 := s0) (s := x) ?_ ?_; rotate_left; clear_value x; intro _; rotate_left; dsimp -zeta only [x]; try clear x)
         | clear_value x)
    | lift_lets
    | (with_reducible first | apply link_expireSlot | apply link_rekeyDue | apply link_modSlot)
    | split

theorem link_sealSlot {s0 : State} (s : State) (n : Nat) (dir : Bool) (aad : List Byte → List Byte) (d : List Byte) (h0 : LinkOnly s0 s) :
    LinkOnly s0 (sealSlot s n dir aad d).1 := by
  unfold sealSlot
  repeat' first
    | with_reducible assumption
    | lift_lets
    | (with_reducible first | apply link_issueNonce | refine link_fst (by assumption) ?_)
    | split

theorem link_modPort {s0 : State} (s : State) (k : Nat) (f : BPort → BPort) (h0 : LinkOnly s0 s) : LinkOnly s0 (modPort s k f) := link_mk h0

theorem link_sendFlit {s0 : State} (s : State) (k : Nat) (sof : Bool) (payload : List Byte) (h0 : LinkOnly s0 s) : LinkOnly s0 (sendFlit s k sof payload) := by
  unfold sendFlit
  repeat' first
    | with_reducible assumption
    | (intro x
       first
         | (refine link_cut (s0 := s0) (s := x) ?_ ?_; rotate_left; clear_value x; intro _; rotate_left; dsimp -zeta only [x]; try clear x)
         | clear_value x)
    | lift_lets
    | (with_reducible first | apply link_modPort | apply link_emit | apply link_ite)

theorem link_sendOnPort {s0 : State} (s : State) (k : Nat) (frame : List Byte) (h0 : LinkOnly s0 s) : LinkOnly s0 (sendOnPort s k frame) := by
  unfold sendOnPort
  repeat' first
    | with_reducible assumption
    | lift_lets
    | with_reducible apply link_sendFlit
    | (with_reducible apply link_foldl; intro _ _ _)

theorem link_boardFrame {s0 : State} (s : State) (slot type tag : Nat) (d : List Byte) (h0 : LinkOnly s0 s) : LinkOnly s0 (boardFrame s slot type tag d) := by
  unfold boardFrame
  repeat' first
    | with_reducible assumption
    | lift_lets
    | (with_reducible first | apply link_sendOnPort | apply link_ite)
    | split

theorem link_setFlow {s0 : State} (s : State) (f : Flow) (h0 : LinkOnly s0 s) : LinkOnly s0 (setFlow s f) := link_mk h0

theorem link_putFrame {s0 : State} (s : State) (f : Flow) (h : HeldFrame) (h0 : LinkOnly s0 s) : LinkOnly s0 (putFrame s f h).1 := by
  unfold putFrame
  repeat' first
    | with_reducible assumption
    | (intro x; clear_value x)
    | lift_lets
    | (with_reducible first | apply link_emit | apply link_sealSlot | apply link_ite_fst | refine link_fst (by assumption) ?_)
    | split

theorem link_pumpFlow {s0 : State} (s : State) (peer chan tag fuel : Nat) (h0 : LinkOnly s0 s) : LinkOnly s0 (pumpFlow s peer chan tag fuel) := by
  induction fuel generalizing s with
  | zero => exact h0
  | succ k ih =>
    unfold pumpFlow
    repeat' first
      | with_reducible assumption
      | (intro x; clear_value x)
      | lift_lets
      | (with_reducible first | apply ih | apply link_putFrame | apply link_setFlow | refine link_fst (by assumption) ?_)
      | split

theorem link_siteFrame {s0 : State} (s : State) (peer type tag : Nat) (d : List Byte) (h0 : LinkOnly s0 s) : LinkOnly s0 (siteFrame s peer type tag d) := by
  unfold siteFrame
  repeat' first
    | with_reducible assumption
    | (intro x
       first
         | (refine link_cut (s0 := s0) (s := x) ?_ ?_; rotate_left; clear_value x; intro _; rotate_left; dsimp -zeta only [x]; try clear x)
         | clear_value x)
    | lift_lets
    | (with_reducible first | apply link_setFlow | apply link_pumpFlow)

theorem link_sendFrame {s0 : State} (s : State) (k : MsgKind) (dst : Nat) (tag : Nat) (args : List Nat) (d : List Byte) (h0 : LinkOnly s0 s) :
    LinkOnly s0 (sendFrame s k dst tag args d) := by
  unfold sendFrame
  repeat' first
    | with_reducible assumption
    | (intro x
       first
         | (refine link_cut (s0 := s0) (s := x) ?_ ?_; rotate_left; clear_value x; intro _; rotate_left; dsimp -zeta only [x]; try clear x)
         | clear_value x)
    | lift_lets
    | (with_reducible first | apply link_emit | apply link_boardFrame | apply link_siteFrame | apply link_ite)
    | (with_reducible apply link_foldl; intro _ _ _)

/-- Sending a message changes what LinkOnly names and nothing else. -/
theorem sendFrame_linkOnly (s : State) (k : MsgKind) (dst tag : Nat) (args : List Nat) (d : List Byte) : LinkOnly s (sendFrame s k dst tag args d) :=
  link_sendFrame s k dst tag args d (link_refl s)

end Sys2Proof.Machine
end

