-- ==== Sys2Proof/Laws/Tab.lean ====
section
/-! SUPPORT. Sparse tables and the accessors over them: an entry read after an update of it, and of another entry. -/

namespace Sys2Proof.Machine

/-- The entry that was set is found. -/
theorem Tab.find_set_same {α : Type} (t : Tab α) (k : Nat) (v : α) : Tab.find (Tab.set t k v) k = some v := by
  induction t with
  | nil => simp [Tab.set, Tab.find]
  | cons a r ih =>
    obtain ⟨i, w⟩ := a
    simp only [Tab.set]
    split
    · simp [Tab.find]
    · split
      · simp [Tab.find]
      · rename_i h1 h2; simp [Tab.find, ih]; intro h; exact absurd h.symm h2

/-- Every other entry is found as before. -/
theorem Tab.find_set_ne {α : Type} (t : Tab α) (k j : Nat) (v : α) (h : j ≠ k) : Tab.find (Tab.set t k v) j = Tab.find t j := by
  induction t with
  | nil => simp [Tab.set, Tab.find, Ne.symm h]
  | cons a r ih =>
    obtain ⟨i, w⟩ := a
    simp only [Tab.set]
    split
    · simp [Tab.find, Ne.symm h]
    · split
      · rename_i h1 h2; subst h2; simp [Tab.find, Ne.symm h]
      · simp only [Tab.find, ih]

@[simp] theorem Tab.get_set_same {α : Type} (d : α) (t : Tab α) (k : Nat) (v : α) : Tab.get d (Tab.set t k v) k = v := by
  simp [Tab.get, Tab.find_set_same]

theorem Tab.get_set_ne {α : Type} (d : α) (t : Tab α) (k j : Nat) (v : α) (h : j ≠ k) : Tab.get d (Tab.set t k v) j = Tab.get d t j := by
  simp [Tab.get, Tab.find_set_ne _ _ _ _ h]

@[simp] theorem Tab.get_mod_same {α : Type} (d : α) (t : Tab α) (k : Nat) (f : α → α) : Tab.get d (Tab.mod d t k f) k = f (Tab.get d t k) := by
  simp [Tab.mod]

theorem Tab.get_mod_ne {α : Type} (d : α) (t : Tab α) (k j : Nat) (f : α → α) (h : j ≠ k) : Tab.get d (Tab.mod d t k f) j = Tab.get d t j := by
  simp [Tab.mod, Tab.get_set_ne _ _ _ _ _ h]

/-! ## The accessors -/

@[simp] theorem getPart_modPart (s : State) (k : Nat) (f : Part → Part) : getPart (modPart s k f) k = f (getPart s k) := by simp [getPart, modPart]

theorem getPart_modPart_ne (s : State) (k j : Nat) (f : Part → Part) (h : j ≠ k) : getPart (modPart s k f) j = getPart s j := by
  simp [getPart, modPart, Tab.get_mod_ne _ _ _ _ _ h]

@[simp] theorem getJob_modJob (s : State) (k : Nat) (f : Job → Job) : getJob (modJob s k f) k = f (getJob s k) := by simp [getJob, modJob]

theorem getJob_modJob_ne (s : State) (k j : Nat) (f : Job → Job) (h : j ≠ k) : getJob (modJob s k f) j = getJob s j := by
  simp [getJob, modJob, Tab.get_mod_ne _ _ _ _ _ h]

@[simp] theorem getBench_modBench (s : State) (k : Nat) (f : Bench → Bench) : getBench (modBench s k f) k = f (getBench s k) := by simp [getBench, modBench]

theorem getBench_modBench_ne (s : State) (k j : Nat) (f : Bench → Bench) (h : j ≠ k) : getBench (modBench s k f) j = getBench s j := by
  simp [getBench, modBench, Tab.get_mod_ne _ _ _ _ _ h]

@[simp] theorem getFeed_modFeed (s : State) (k : Nat) (f : Feed → Feed) : getFeed (modFeed s k f) k = f (getFeed s k) := by simp [getFeed, modFeed]

theorem getFeed_modFeed_ne (s : State) (k j : Nat) (f : Feed → Feed) (h : j ≠ k) : getFeed (modFeed s k f) j = getFeed s j := by
  simp [getFeed, modFeed, Tab.get_mod_ne _ _ _ _ _ h]

@[simp] theorem getFunc_modFunc (s : State) (k : Nat) (f : Func → Func) : getFunc (modFunc s k f) k = f (getFunc s k) := by simp [getFunc, modFunc]

theorem getFunc_modFunc_ne (s : State) (k j : Nat) (f : Func → Func) (h : j ≠ k) : getFunc (modFunc s k f) j = getFunc s j := by
  simp [getFunc, modFunc, Tab.get_mod_ne _ _ _ _ _ h]

@[simp] theorem getPort_modPort (s : State) (k : Nat) (f : BPort → BPort) : getPort (modPort s k f) k = f (getPort s k) := by simp [getPort, modPort]

theorem getPort_modPort_ne (s : State) (k j : Nat) (f : BPort → BPort) (h : j ≠ k) : getPort (modPort s k f) j = getPort s j := by
  simp [getPort, modPort, Tab.get_mod_ne _ _ _ _ _ h]

@[simp] theorem getSite_modSite (s : State) (k : Nat) (f : SPort → SPort) : getSite (modSite s k f) k = f (getSite s k) := by simp [getSite, modSite]

theorem getSite_modSite_ne (s : State) (k j : Nat) (f : SPort → SPort) (h : j ≠ k) : getSite (modSite s k f) j = getSite s j := by
  simp [getSite, modSite, Tab.get_mod_ne _ _ _ _ _ h]

@[simp] theorem getStack_modStack (s : State) (k : Nat) (f : Stack → Stack) : getStack (modStack s k f) k = f (getStack s k) := by simp [getStack, modStack]

theorem getStack_modStack_ne (s : State) (k j : Nat) (f : Stack → Stack) (h : j ≠ k) : getStack (modStack s k f) j = getStack s j := by
  simp [getStack, modStack, Tab.get_mod_ne _ _ _ _ _ h]

@[simp] theorem getSlot_modSlot (s : State) (k : Nat) (f : KeySlot → KeySlot) : getSlot (modSlot s k f) k = f (getSlot s k) := by simp [getSlot, modSlot, modCipher]

theorem getSlot_modSlot_ne (s : State) (k j : Nat) (f : KeySlot → KeySlot) (h : j ≠ k) : getSlot (modSlot s k f) j = getSlot s j := by
  simp [getSlot, modSlot, modCipher, Tab.get_mod_ne _ _ _ _ _ h]

@[simp] theorem getConv_modConv (s : State) (j k : Nat) (f : Conv → Conv) : getConv (modConv s j k f) j k = f (getConv s j k) := by
  simp [getConv, modConv]

theorem getConv_modConv_ne (s : State) (j k j' k' : Nat) (f : Conv → Conv) (h : convKey j' k' ≠ convKey j k) :
    getConv (modConv s j k f) j' k' = getConv s j' k' := by
  simp [getConv, modConv, Tab.get_mod_ne _ _ _ _ _ h]

@[simp] theorem Bench.ctx_modCtx (b : Bench) (c : Nat) (f : BCtx → BCtx) : (b.modCtx c f).ctx c = f (b.ctx c) := by
  cases c <;> rfl

@[simp] theorem getCtx_modCtx (s : State) (lb c : Nat) (f : BCtx → BCtx) : getCtx (modCtx s lb c f) lb c = f (getCtx s lb c) := by
  simp [getCtx, modCtx]

theorem getCtx_modCtx_ne (s : State) (lb lb' c c' : Nat) (f : BCtx → BCtx) (h : lb' ≠ lb) : getCtx (modCtx s lb c f) lb' c' = getCtx s lb' c' := by
  simp [getCtx, modCtx, getBench_modBench_ne _ _ _ _ h]

@[simp] theorem getRing_modRing (s : State) (f r : Nat) (g : Ring → Ring) : getRing (modRing s f r g) f r = g (getRing s f r) := by
  simp only [getRing, modRing, getFunc_modFunc, Func.ring]
  split <;> rfl

theorem getRing_modRing_ne (s : State) (f f' r r' : Nat) (g : Ring → Ring) (h : f' ≠ f) : getRing (modRing s f r g) f' r' = getRing s f' r' := by
  simp [getRing, modRing, getFunc_modFunc_ne _ _ _ _ h]

@[simp] theorem getShard_modShard (s : State) (jk r : Nat) (f : ShardSt → ShardSt) : getShard (modShard s jk r f) jk r = f (getShard s jk r) := by
  simp [getShard, modShard]

theorem getShard_modShard_ne (s : State) (jk r r' : Nat) (f : ShardSt → ShardSt) (h : r' ≠ r) :
    getShard (modShard s jk r f) jk r' = getShard s jk r' := by
  simp [getShard, modShard, Tab.get_mod_ne _ _ _ _ _ h]

end Sys2Proof.Machine
end

