-- ==== Sys2Proof/WellFormed.lean ====
section
/-! DEFINITION. Well-formed commands: every operand lies in the range that the spec gives it. -/

namespace Sys2Proof

/-- Every operand lies in its range: logical benches below 576, contexts 0 and 1, CC registers below 64, jobs
(partition × 2 + context) below 8, conveyor indices below 4,096, and so on. -/
def Instr.wf (i : Instr) : Bool :=
  match i with
  | .perstDeassert slot => decide (slot < 8)
  | .perstAssert _ => true
  | .inputAuxStart mv => decide (mv < 2 ^ 32)
  | .inputAuxStop mv => decide (mv < 2 ^ 32)
  | .pwrEnRise => true
  | .conversionStart mv plate => decide (mv < 2 ^ 32 ∧ plate < 256)
  | .pwrEnFall => true
  | .pwrEnLowRelease => true
  | .railOutOfRegulation => true
  | .inputOutOfRange mv => decide (mv < 2 ^ 32)
  | .inputFaultStop mv => decide (mv < 2 ^ 32)
  | .thermtrip temp => decide (temp < 256)
  | .regPhaseFault phase => decide (phase < 96)
  | .governorTick g => decide (g.wf)
  | .coreCurrentTrip => true
  | .droopDetect face => decide (face < 4)
  | .clockRefLost => true
  | .refclkReturn => true
  | .wearBinHour => true
  | .coolantInletRange temp => decide (temp < 256)
  | .jtagBypass => true
  | .jtagIdcode => true
  | .jtagSamplePreload lands cells => decide (lands < 65536 ∧ cells < 65536)
  | .jtagExtest cells => decide (cells < 65536)
  | .jtagPrivateScan => true
  | .clearFaults => true
  | .statusWord => true
  | .statusInput => true
  | .statusTemperature => true
  | .readVin => true
  | .readIin => true
  | .readTemperature1 => true
  | .readTemperature2 => true
  | .readTemperature3 => true
  | .readPin => true
  | .pmbusRevision => true
  | .mfrId => true
  | .mfrModel => true
  | .mfrPowerCap write => decide (write.getD 0 < 65536)
  | .mfrGovState => true
  | .mfrWear => true
  | .mfrStackTemps => true
  | .mfrPhases => true
  | .mfrBoostEn write => decide (write.getD 0 < 256)
  | .pmbusUnsupported code => decide (code < 256)
  | .registerWrite func bar off _ val => decide (func < 8 ∧ bar < 6 ∧ off < 2 ^ 36 ∧ val < 2 ^ 64)
  | .errSummaryW1c val => decide (val < 2 ^ 64)
  | .cmdqDoorbellWrite func ring pi => decide (func < 8 ∧ ring < 2 ∧ pi < 2 ^ 16)
  | .ringEnableWrite func which val => decide (func < 8 ∧ which < 3 ∧ val < 2 ^ 64)
  | .cqHeadWrite func ring head => decide (func < 8 ∧ ring < 2 ∧ head < 2 ^ 16)
  | .evqHeadWrite func head _ => decide (func < 8 ∧ head < 2 ^ 16)
  | .evqLostW1c func val => decide (func < 8 ∧ val < 2 ^ 32)
  | .apertureWrite func val => decide (func < 8 ∧ val < 2 ^ 64)
  | .bar4Read func off (len, _) => decide (func < 8 ∧ off < 2 ^ 36 ∧ 0 < len ∧ len ≤ 4096)
  | .bar4Write func off (data, _) => decide (func < 8 ∧ off < 2 ^ 36 ∧ 0 < data.length ∧ data.length ≤ 4096)
  | .mpRingService func ring descs _ => decide (func < 8 ∧ ring < 2 ∧ ∀ d ∈ descs, d.length = 64)
  | .msixCoalTimer func queue => decide (func < 8 ∧ queue < 3)
  | .mpSwitched _ => true
  | .partResetRefusalReceive dst tag type _ => decide (dst < 2 ^ 32 ∧ tag < 2 ^ 32 ∧ type < 256)
  | .partResetFrameRetry => true
  | .jobClosedReceive src tag => decide (src < 8 ∧ tag < 2 ^ 32)
  | .psmIdentify func ring _ => decide (func < 8 ∧ ring < 2)
  | .psmPartConfig func ring _ => decide (func < 8 ∧ ring < 2)
  | .psmPageAssign func ring _ => decide (func < 8 ∧ ring < 2)
  | .psmPageRelease func ring _ => decide (func < 8 ∧ ring < 2)
  | .psmMasterThaw func ring _ => decide (func < 8 ∧ ring < 2)
  | .psmPartitionReset func ring _ => decide (func < 8 ∧ ring < 2)
  | .psmPathSet func ring _ => decide (func < 8 ∧ ring < 2)
  | .pathRemoveDone => true
  | .psmJobOpen func ring _ => decide (func < 8 ∧ ring < 2)
  | .psmWorkingsLoad func ring _ => decide (func < 8 ∧ ring < 2)
  | .psmJobRun func ring _ => decide (func < 8 ∧ ring < 2)
  | .psmJobStopBoundary func ring _ => decide (func < 8 ∧ ring < 2)
  | .jobStopBoundaryDone job => decide (job < 8)
  | .psmJobStopNow func ring _ => decide (func < 8 ∧ ring < 2)
  | .psmJobPause func ring _ => decide (func < 8 ∧ ring < 2)
  | .psmJobResume func ring _ => decide (func < 8 ∧ ring < 2)
  | .psmReplicaRemove func ring _ => decide (func < 8 ∧ ring < 2)
  | .psmReplicaReadmit func ring _ => decide (func < 8 ∧ ring < 2)
  | .psmReshard func ring _ => decide (func < 8 ∧ ring < 2)
  | .psmRoundPolicy func ring _ => decide (func < 8 ∧ ring < 2)
  | .psmSiteAdmit func ring _ => decide (func < 8 ∧ ring < 2)
  | .psmKeyInstall func ring _ => decide (func < 8 ∧ ring < 2)
  | .psmKeyInstallNext func ring _ => decide (func < 8 ∧ ring < 2)
  | .psmKeyActivate func ring _ => decide (func < 8 ∧ ring < 2)
  | .psmKeyErase func ring _ => decide (func < 8 ∧ ring < 2)
  | .psmKeyModuleKey func ring _ => decide (func < 8 ∧ ring < 2)
  | .psmCheckpointConfig func ring _ _ => decide (func < 8 ∧ ring < 2)
  | .psmCheckpointSave func ring _ _ => decide (func < 8 ∧ ring < 2)
  | .psmCheckpointRestore func ring _ _ => decide (func < 8 ∧ ring < 2)
  | .psmCheckpointDiscard func ring _ _ => decide (func < 8 ∧ ring < 2)
  | .psmCheckpointQuery func ring _ _ => decide (func < 8 ∧ ring < 2)
  | .psmExportShardExport func ring _ _ => decide (func < 8 ∧ ring < 2)
  | .psmExportShardImport func ring _ => decide (func < 8 ∧ ring < 2)
  | .psmCopyToDevice func ring _ => decide (func < 8 ∧ ring < 2)
  | .psmCopyToHost func ring _ => decide (func < 8 ∧ ring < 2)
  | .psmTelemetry func ring _ => decide (func < 8 ∧ ring < 2)
  | .psmSpareStatus func ring _ => decide (func < 8 ∧ ring < 2)
  | .psmSelftestPolicy func ring _ => decide (func < 8 ∧ ring < 2)
  | .psmFwChunk func ring _ => decide (func < 8 ∧ ring < 2)
  | .psmFwActivate func ring _ => decide (func < 8 ∧ ring < 2)
  | .fwActivateEnd _ => true
  | .fwDatagramReceive port mac _ => decide (port < 9 ∧ mac < 2 ^ 48)
  | .bootStepPower mv bad _ => decide (mv < 2 ^ 16 ∧ (∀ x ∈ bad, x < 96))
  | .bootStepClock locks ns _ => decide (ns < 2 ^ 32 ∧ (∀ x ∈ locks, x < 2))
  | .bootStepFuse _ _ _ _ => true
  | .bootStepRom _ _ => true
  | .bootStepImage _ _ => true
  | .bootStepMemory _ bad _ _ => decide (∀ x ∈ bad, x < 9)
  | .bootStepFaces badWires noTrain _ => decide ((∀ x ∈ badWires, x < 2 ^ 14) ∧ (∀ x ∈ noTrain, x < 8))
  | .bootStepBenchLoad _ bad _ => decide (∀ x ∈ bad, x < 640)
  | .bootStepBenchTest bad rows _ => decide ((∀ x ∈ bad, x < 640) ∧ (∀ x ∈ rows, x < 2 ^ 24))
  | .bootStepCipher bad _ _ => decide (∀ x ∈ bad, x < 13)
  | .bootStepBoard finds _ => decide (finds.length ≤ 7)
  | .bootStepSite fitted trained _ => decide ((∀ x ∈ fitted, x < 9) ∧ (∀ x ∈ trained, x < 9))
  | .bootStepTime _ => true
  | .timeFrameReceive v => decide (v < 2 ^ 64)
  | .bootStepReady _ => true
  | .alu lb ctx d a b fn => decide (lb < 576 ∧ ctx < 2 ∧ d < 64 ∧ a < 64 ∧ b < 64 ∧ fn < 256)
  | .addi lb ctx d a imm => decide (lb < 576 ∧ ctx < 2 ∧ d < 64 ∧ a < 64 ∧ imm < 16384)
  | .orsh lb ctx d imm => decide (lb < 576 ∧ ctx < 2 ∧ d < 64 ∧ imm < 16384)
  | .ld lb ctx d a imm ecc => decide (lb < 576 ∧ ctx < 2 ∧ d < 64 ∧ a < 64 ∧ imm < 16384 ∧ ecc < 3)
  | .st lb ctx d a imm => decide (lb < 576 ∧ ctx < 2 ∧ d < 64 ∧ a < 64 ∧ imm < 16384)
  | .beq lb ctx d a imm => decide (lb < 576 ∧ ctx < 2 ∧ d < 64 ∧ a < 64 ∧ imm < 16384)
  | .bne lb ctx d a imm => decide (lb < 576 ∧ ctx < 2 ∧ d < 64 ∧ a < 64 ∧ imm < 16384)
  | .blt lb ctx d a imm => decide (lb < 576 ∧ ctx < 2 ∧ d < 64 ∧ a < 64 ∧ imm < 16384)
  | .jmp lb ctx off => decide (lb < 576 ∧ ctx < 2 ∧ off < 67108864)
  | .mxe lb ctx a b fn => decide (lb < 576 ∧ ctx < 2 ∧ a < 64 ∧ b < 64 ∧ fn < 256)
  | .vse lb ctx a b => decide (lb < 576 ∧ ctx < 2 ∧ a < 64 ∧ b < 64)
  | .tput lb ctx a b (fn, _) => decide (lb < 576 ∧ ctx < 2 ∧ a < 64 ∧ b < 64 ∧ fn < 256)
  | .tputSlotGrant job conv => decide (job < 8 ∧ conv < 4096)
  | .tfree lb ctx fn => decide (lb < 576 ∧ ctx < 2 ∧ fn < 256)
  | .wait lb ctx fn => decide (lb < 576 ∧ ctx < 2 ∧ fn < 256)
  | .tend lb ctx => decide (lb < 576 ∧ ctx < 2)
  | .csrr lb ctx d imm => decide (lb < 576 ∧ ctx < 2 ∧ d < 64 ∧ imm < 16384)
  | .fence lb ctx => decide (lb < 576 ∧ ctx < 2)
  | .nop lb ctx => decide (lb < 576 ∧ ctx < 2)
  | .product lb ctx _ pathFault => decide (lb < 576 ∧ ctx < 2 ∧ ∀ n ∈ pathFault, n < 16)
  | .accStore lb ctx => decide (lb < 576 ∧ ctx < 2)
  | .accLoad lb ctx _ => decide (lb < 576 ∧ ctx < 2)
  | .accRelease lb ctx => decide (lb < 576 ∧ ctx < 2)
  | .vseStream lb ctx _ => decide (lb < 576 ∧ ctx < 2)
  | .tileLand job conv home word => decide (job < 8 ∧ conv < 4096 ∧ home < 1024 ∧ word < 32768)
  | .stealRequest victim thieves => decide (victim < 576 ∧ ∀ t ∈ thieves, t < 576)
  | .stealGrant thief => decide (thief < 576)
  | .stealRefusal thief => decide (thief < 576)
  | .stealTimeout thief => decide (thief < 576)
  | .lockstepSignature lb ctx => decide (lb < 576 ∧ ctx < 2)
  | .lockstepVote voter => decide (voter < 576)
  | .stepBoundary job => decide (job < 8)
  | .heldTaskRelease job => decide (job < 8)
  | .jobStepLimitStop job => decide (job < 8)
  | .benchFailed lb (cause, lost) => decide (lb < 576 ∧ 1 ≤ cause ∧ cause ≤ 6 ∧ ∀ w ∈ lost, w < 163840)
  | .benchSpared lb => decide (lb < 576)
  | .spdRowSpared lb (row, lost) => decide (lb < 576 ∧ row < 5120 ∧ ∀ w ∈ lost, w < 163840)
  | .boardTileReceive port tag conv words => decide (port < 7 ∧ tag < 2 ^ 32 ∧ conv < 4096 ∧ ∀ w ∈ words, w.1 < 65536 ∧ w.2.length = 64)
  | .feedWordReceive chan word payload => decide (chan < 4 ∧ word.length = 2 ∧ payload.length = 64)
  | .feedBufferDrain chan => decide (chan < 4)
  | .boardConvBind tag slot peerIndex index slots => decide (tag < 2 ^ 32 ∧ slot < 8 ∧ peerIndex < 64 ∧ index < 64 ∧ slots < 65536)
  | .convCreditReceive tag index => decide (tag < 2 ^ 32 ∧ index < 64)
  | .convHoldReceive tag index => decide (tag < 2 ^ 32 ∧ index < 64)
  | .convReleaseReceive tag index => decide (tag < 2 ^ 32 ∧ index < 64)
  | .memRead addr _ ecc => decide (addr < 2 ^ 46 ∧ addr % 64 = 0 ∧ ecc < 3)
  | .memWrite addr data _ cls => decide (addr % 2048 + data.length ≤ 2048 ∧ addr < 2 ^ 39 ∧ cls.getD 0 < 6)
  | .memAccWrite job addr _ _ => decide (job < 8 ∧ addr < 2 ^ 46)
  | .memPatrol stack _ ecc => decide (stack < 9 ∧ ecc < 3)
  | .stackFailed stack => decide (stack < 9)
  | .stackRebuilt stack => decide (stack < 8)
  | .layerCommit job layer => decide (job < 8 ∧ layer < 65536)
  | .contribReceive tag r _ => decide (tag < 2 ^ 32 ∧ r.wf)
  | .partialReceive tag r _ => decide (tag < 2 ^ 32 ∧ r.wf)
  | .reduceWindowClose job station chunk level node => decide (job < 8 ∧ station < 256 ∧ chunk < 65536 ∧ level < 16 ∧ node < 65536)
  | .reduceNodeDone job station chunk level node _ => decide (job < 8 ∧ station < 256 ∧ chunk < 65536 ∧ level < 16 ∧ node < 65536)
  | .resultReceive tag r => decide (tag < 2 ^ 32 ∧ r.wf)
  | .resultResend job _ => decide (job < 8)
  | .scaleReceive tag r => decide (tag < 2 ^ 32 ∧ r.wf)
  | .scaleAcceptReceive tag (tensor, shard) step replica => decide (tag < 2 ^ 32 ∧ tensor < 2 ^ 32 ∧ shard.length = 4 ∧ (∀ x ∈ shard, x < 65536) ∧ step < 2 ^ 32 ∧ replica < 65536)
  | .versionReceive tag r => decide (tag < 2 ^ 32 ∧ r.wf)
  | .stateReceive tag r => decide (tag < 2 ^ 32 ∧ r.wf)
  | .versionAckReceive tag r => decide (tag < 2 ^ 32 ∧ r.wf)
  | .tallyReceive tag r => decide (tag < 2 ^ 32 ∧ r.wf)
  | .refreshReceive tag r => decide (tag < 2 ^ 32 ∧ r.wf)
  | .reinstallTimeout job rank => decide (job < 8 ∧ rank < 65536)
  | .reinstallReceive tag r => decide (tag < 2 ^ 32 ∧ r.wf)
  | .ackTimeout job rank => decide (job < 8 ∧ rank < 65536)
  | .peerDownTimeout job replica port => decide (job < 8 ∧ replica < 65536 ∧ port.getD 0 < 7)
  | .replicaLostNotice tag replica step => decide (tag < 2 ^ 32 ∧ replica < 65536 ∧ step < 2 ^ 32)
  | .takeoverTimeout job rank => decide (job < 8 ∧ rank < 65536)
  | .ownerTakeoverNotice tag (tensor, shard) former owner => decide (tag < 2 ^ 32 ∧ tensor < 2 ^ 32 ∧ shard.length = 4 ∧ (∀ x ∈ shard, x < 65536) ∧ former < 65536 ∧ owner < 65536)
  | .pauseNoticeReceive tag cause _ site => decide (tag < 2 ^ 32 ∧ cause < 3 ∧ site < 65536)
  | .jobHeld job => decide (job < 8)
  | .reshardDrained job => decide (job < 8)
  | .drainedReceive tag epoch replica index => decide (tag < 2 ^ 32 ∧ epoch < 2 ^ 32 ∧ replica < 65536 ∧ index < 8)
  | .reshardSwitch tag epoch => decide (tag < 2 ^ 32 ∧ epoch < 2 ^ 32)
  | .roundHandoffDone job rank => decide (job < 8 ∧ rank < 65536)
  | .haulPacketSend job rank partner => decide (job < 8 ∧ rank < 65536 ∧ partner < 64)
  | .haulDiffReceive addr sport _ => decide (addr < 2 ^ 128 ∧ sport < 65536)
  | .haulCatchupReceive addr sport _ => decide (addr < 2 ^ 128 ∧ sport < 65536)
  | .haulBootAnchorReceive addr sport _ => decide (addr < 2 ^ 128 ∧ sport < 65536)
  | .haulBootMomentumReceive addr sport _ => decide (addr < 2 ^ 128 ∧ sport < 65536)
  | .haulParityReceive addr sport _ => decide (addr < 2 ^ 128 ∧ sport < 65536)
  | .haulAckReceive addr sport _ => decide (addr < 2 ^ 128 ∧ sport < 65536)
  | .haulKeepaliveReceive addr sport _ => decide (addr < 2 ^ 128 ∧ sport < 65536)
  | .haulRefuseReceive addr sport _ => decide (addr < 2 ^ 128 ∧ sport < 65536)
  | .haulAckDelayTimer job rank partner => decide (job < 8 ∧ rank < 65536 ∧ partner < 64)
  | .haulRtoExpire job rank partner seq => decide (job < 8 ∧ rank < 65536 ∧ partner < 64 ∧ seq < 2 ^ 64)
  | .keepaliveTimer job rank partner => decide (job < 8 ∧ rank < 65536 ∧ partner < 64)
  | .catchupTimeout job rank partner => decide (job < 8 ∧ rank < 65536 ∧ partner < 64)
  | .roundClose job rank => decide (job < 8 ∧ rank < 65536)
  | .roundStateAcceptReceive tag (tensor, shard) round replica => decide (tag < 2 ^ 32 ∧ tensor < 2 ^ 32 ∧ shard.length = 4 ∧ (∀ x ∈ shard, x < 65536) ∧ round < 2 ^ 32 ∧ replica < 65536)
  | .roundReadyReport tag site => decide (tag < 2 ^ 32 ∧ site < 65536)
  | .roundResume tag cause => decide (tag < 2 ^ 32 ∧ cause < 2)
  | .cipherEncryptOp slot _ _ _ _ => decide (slot < 1024)
  | .cipherDecryptOp slot nonce _ _ tag => decide (slot < 1024 ∧ nonce.length = 12 ∧ tag.length ≤ 16)
  | .keyPreviousErase slot => decide (slot < 1024)
  | .keyRekeyDue slot => decide (slot < 1024)
  | .keyExpired slot => decide (slot < 1024)
  | .cipherRngFault => true
  | .flitReceive port flit => decide (port < 7 ∧ flit.length = 512)
  | .flitNakReceive port fseq fack => decide (port < 7 ∧ fseq < 65536 ∧ fack < 65536)
  | .boardPortRetrain port _ => decide (port < 7)
  | .laneBerWindow port errs => decide (port < 7 ∧ errs.length = 18)
  | .laneSignalLoss port lane => decide (port < 7 ∧ lane < 18)
  | .stockpileFrameReceive src _ _ _ blk _ => decide (src < 8 ∧ blk.wf)
  | .siteFrameAckReceive _ chan _ _ map => decide (chan < 256 ∧ map < 2 ^ 64)
  | .siteFrameRetxTimer _ chan _ _ => decide (chan < 256)
  | .siteAckTimer _ chan _ _ => decide (chan < 256)
  | .sitePortLinkChange port _ => decide (port < 9)
  | .sitePortSpared port => decide (port < 9)
  | .pathNeed part utils _ => decide (part < 4 ∧ utils.length = 10)
  | .pathSurplus part utils => decide (part < 4 ∧ utils.length = 60)
  | .flowMoveRetxTimer _ chan _ => decide (chan < 256)
  | .arpNsRequestReceive port _ _ => decide (port < 9)
  | .pauseFrameReceive port => decide (port < 9)
  | .tsyncPulseDrive => true
  | .tsyncPulseReceive => true
  | .timekeeperChanged => true
  | .selftestTick _ => true
  | .benchWithdraw _ => true
  | .benchSliceDone outcome seg rows => decide (outcome < 3 ∧ seg < 16 ∧ ∀ r ∈ rows, r.1 < 20 ∧ r.2 < 258)
  | .cipherSliceDone outcome _ => decide (outcome < 3)
  | .linkSliceDone _ => true
  | .wireSpared wire _ _ => decide (wire < 2 ^ 14)
  | .engineSpared position => decide (position < 8)
  | .ckptSnapshot => true
  | .ckptReadDone => true
  | .ckptSaved _ => true
  | .ckptRestored outcome blocks => decide (outcome < 3 ∧ ∀ b ∈ blocks, b.wf)
  | .stockpileReducedNotice _ _ _ => true
  | .buddyPortReturn _ => true
  | .replicaReadmitNotice tag replica step => decide (tag < 2 ^ 32 ∧ replica < 65536 ∧ step < 2 ^ 32)
  | .stockpileRequestReceive src kind _ _ _ => decide (src < 8 ∧ kind < 6)
  | .rngHealthRestored => true
  | .boardPortReturnsToUp port => decide (port < 7)
  | .correctedCountRestart => true
  | .heldPerstDeassertion slot => decide (slot < 8)
  | .testLogicReset => true

end Sys2Proof
end

