-- ==== Sys2Proof/Tests/Slice0.lean ====
section
/-! SUPPORT. The model's own tests: a well-formed and an ill-formed command for each check, and for every statement with
hypotheses a state and operands that meet them. -/

namespace Sys2Proof.Tests

open Sys2Proof.Machine

set_option Elab.async false

/-- The state after an outcome; the reset state after a stop. -/
def after (o : Host.Outcome State Fault Refusal) : State := match o with | .next t => t | _ => State.reset

/-- The outcome is a next state. -/
def runs (o : Host.Outcome State Fault Refusal) : Bool := match o with | .next _ => true | _ => false

def z64 : List Byte := List.replicate 64 0
def zeroRec : Rec := ⟨0, [0, 0, 0, 0], 0, 0, 0, 0, 0, 0, 0, 0, 0, 0, 0, 0, 0, 0, []⟩
def badRec : Rec := { zeroRec with shard := [0] }
def zeroIo : HostIo := ⟨[], none, false⟩
def zeroGov : GovIn := ⟨0, 0, 0, 0, [0, 0, 0, 0], 0, List.replicate 9 0, 0⟩
def badGov : GovIn := { zeroGov with face := [] }
def zeroBlk : CkptBlock := ⟨0, 0, [], List.replicate 2048 0⟩
def badBlk : CkptBlock := ⟨0, 1, [], []⟩

/-- Each command breaks one check. -/
theorem test_wf_refuses_1 : ([
    .alu 576 0 0 0 0 0,
    .alu 0 2 0 0 0 0,
    .alu 0 0 64 0 0 0,
    .alu 0 0 0 64 0 0,
    .alu 0 0 0 0 64 0,
    .alu 0 0 0 0 0 256,
    .addi 576 0 0 0 0,
    .addi 0 2 0 0 0,
    .addi 0 0 64 0 0,
    .addi 0 0 0 64 0,
    .addi 0 0 0 0 16384,
    .orsh 576 0 0 0,
    .orsh 0 2 0 0,
    .orsh 0 0 64 0,
    .orsh 0 0 0 16384,
    .ld 576 0 0 0 0 0,
    .ld 0 2 0 0 0 0,
    .ld 0 0 64 0 0 0,
    .ld 0 0 0 64 0 0,
    .ld 0 0 0 0 16384 0,
    .ld 0 0 0 0 0 3,
    .st 576 0 0 0 0,
    .st 0 2 0 0 0,
    .st 0 0 64 0 0,
    .st 0 0 0 64 0,
    .st 0 0 0 0 16384,
    .beq 576 0 0 0 0,
    .beq 0 2 0 0 0,
    .beq 0 0 64 0 0,
    .beq 0 0 0 64 0,
    .beq 0 0 0 0 16384,
    .bne 576 0 0 0 0,
    .bne 0 2 0 0 0,
    .bne 0 0 64 0 0,
    .bne 0 0 0 64 0,
    .bne 0 0 0 0 16384,
    .blt 576 0 0 0 0,
    .blt 0 2 0 0 0,
    .blt 0 0 64 0 0,
    .blt 0 0 0 64 0,
    .blt 0 0 0 0 16384,
    .jmp 576 0 0,
    .jmp 0 2 0,
    .jmp 0 0 67108864,
    .mxe 576 0 0 0 0] : List Instr).all (fun i => !i.wf) = true := by decide +kernel

/-- Each command breaks one check. -/
theorem test_wf_refuses_2 : ([
    .mxe 0 2 0 0 0,
    .mxe 0 0 64 0 0,
    .mxe 0 0 0 64 0,
    .mxe 0 0 0 0 256,
    .vse 576 0 0 0,
    .vse 0 2 0 0,
    .vse 0 0 64 0,
    .vse 0 0 0 64,
    .tput 576 0 0 0 (0, []),
    .tput 0 2 0 0 (0, []),
    .tput 0 0 64 0 (0, []),
    .tput 0 0 0 64 (0, []),
    .tput 0 0 0 0 (256, []),
    .tputSlotGrant 8 0,
    .tputSlotGrant 0 4096,
    .tfree 576 0 0,
    .tfree 0 2 0,
    .tfree 0 0 256,
    .wait 576 0 0,
    .wait 0 2 0,
    .wait 0 0 256,
    .csrr 576 0 0 0,
    .csrr 0 2 0 0,
    .csrr 0 0 64 0,
    .csrr 0 0 0 16384,
    .fence 576 0,
    .fence 0 2,
    .nop 576 0,
    .nop 0 2,
    .stealRequest 576 [],
    .stealRequest 0 [576],
    .stealGrant 576,
    .stealRefusal 576,
    .stealTimeout 576,
    .lockstepSignature 576 0,
    .lockstepSignature 0 2,
    .lockstepVote 576,
    .benchFailed 576 (1, []),
    .benchFailed 0 (0, []),
    .benchFailed 0 (7, []),
    .benchFailed 0 (1, [163840]),
    .product 576 0 [] [],
    .product 0 2 [] [],
    .product 0 0 [] [16],
    .accStore 576 0,
    .accStore 0 2] : List Instr).all (fun i => !i.wf) = true := by decide +kernel

/-- Each command breaks one check. -/
theorem test_wf_refuses_3 : ([
    .accLoad 576 0 [],
    .accLoad 0 2 [],
    .accRelease 576 0,
    .accRelease 0 2,
    .vseStream 576 0 [],
    .vseStream 0 2 [],
    .memRead (2 ^ 46) 0 0,
    .memRead 32 0 0,
    .memRead 0 0 3,
    .memWrite 2047 [0, 0] false none,
    .memWrite (2 ^ 39) [] false none,
    .memWrite 0 [] false (some 6),
    .memAccWrite 8 0 0 [],
    .memAccWrite 0 (2 ^ 46) 0 [],
    .memPatrol 9 0 0,
    .memPatrol 0 0 3,
    .stackFailed 9,
    .stackRebuilt 8,
    .boardTileReceive 7 0 0 [],
    .boardTileReceive 0 (2 ^ 32) 0 [],
    .boardTileReceive 0 0 4096 [],
    .boardTileReceive 0 0 0 [(65536, z64)],
    .boardTileReceive 0 0 0 [(0, [])],
    .boardConvBind (2 ^ 32) 0 0 0 0,
    .boardConvBind 0 8 0 0 0,
    .boardConvBind 0 0 64 0 0,
    .boardConvBind 0 0 0 64 0,
    .boardConvBind 0 0 0 0 65536,
    .convCreditReceive (2 ^ 32) 0,
    .convCreditReceive 0 64,
    .convHoldReceive (2 ^ 32) 0,
    .convHoldReceive 0 64,
    .convReleaseReceive (2 ^ 32) 0,
    .convReleaseReceive 0 64,
    .feedWordReceive 4 [0, 0] z64,
    .feedWordReceive 0 [0] z64,
    .feedWordReceive 0 [0, 0] [],
    .feedBufferDrain 4,
    .spdRowSpared 576 (0, []),
    .spdRowSpared 0 (5120, []),
    .spdRowSpared 0 (0, [163840]),
    .contribReceive (2 ^ 32) zeroRec false,
    .contribReceive 0 badRec false,
    .partialReceive (2 ^ 32) zeroRec false,
    .partialReceive 0 badRec false,
    .reduceWindowClose 8 0 0 0 0] : List Instr).all (fun i => !i.wf) = true := by decide +kernel

/-- Each command breaks one check. -/
theorem test_wf_refuses_4 : ([
    .reduceWindowClose 0 256 0 0 0,
    .reduceWindowClose 0 0 65536 0 0,
    .reduceWindowClose 0 0 0 16 0,
    .reduceWindowClose 0 0 0 0 65536,
    .reduceNodeDone 8 0 0 0 0 [],
    .reduceNodeDone 0 256 0 0 0 [],
    .reduceNodeDone 0 0 65536 0 0 [],
    .reduceNodeDone 0 0 0 16 0 [],
    .reduceNodeDone 0 0 0 0 65536 [],
    .resultReceive (2 ^ 32) zeroRec,
    .resultReceive 0 badRec,
    .resultResend 8 [],
    .layerCommit 8 0,
    .layerCommit 0 65536,
    .scaleReceive (2 ^ 32) zeroRec,
    .scaleReceive 0 badRec,
    .scaleAcceptReceive (2 ^ 32) (0, [0, 0, 0, 0]) 0 0,
    .scaleAcceptReceive 0 ((2 ^ 32), [0, 0, 0, 0]) 0 0,
    .scaleAcceptReceive 0 (0, [0]) 0 0,
    .scaleAcceptReceive 0 (0, [0, 0, 0, 65536]) 0 0,
    .scaleAcceptReceive 0 (0, [0, 0, 0, 0]) (2 ^ 32) 0,
    .scaleAcceptReceive 0 (0, [0, 0, 0, 0]) 0 65536,
    .versionReceive (2 ^ 32) zeroRec,
    .versionReceive 0 badRec,
    .stateReceive (2 ^ 32) zeroRec,
    .stateReceive 0 badRec,
    .versionAckReceive (2 ^ 32) zeroRec,
    .versionAckReceive 0 badRec,
    .tallyReceive (2 ^ 32) zeroRec,
    .tallyReceive 0 badRec,
    .refreshReceive (2 ^ 32) zeroRec,
    .refreshReceive 0 badRec,
    .reinstallTimeout 8 0,
    .reinstallTimeout 0 65536,
    .reinstallReceive (2 ^ 32) zeroRec,
    .reinstallReceive 0 badRec,
    .ackTimeout 8 0,
    .ackTimeout 0 65536,
    .peerDownTimeout 8 0 none,
    .peerDownTimeout 0 65536 none,
    .peerDownTimeout 0 0 (some 7),
    .replicaLostNotice (2 ^ 32) 0 0,
    .replicaLostNotice 0 65536 0,
    .replicaLostNotice 0 0 (2 ^ 32),
    .takeoverTimeout 8 0,
    .takeoverTimeout 0 65536,
    .ownerTakeoverNotice (2 ^ 32) (0, [0, 0, 0, 0]) 0 0] : List Instr).all (fun i => !i.wf) = true := by decide +kernel

/-- Each command breaks one check. -/
theorem test_wf_refuses_5 : ([
    .ownerTakeoverNotice 0 ((2 ^ 32), [0, 0, 0, 0]) 0 0,
    .ownerTakeoverNotice 0 (0, [0]) 0 0,
    .ownerTakeoverNotice 0 (0, [0, 0, 0, 65536]) 0 0,
    .ownerTakeoverNotice 0 (0, [0, 0, 0, 0]) 65536 0,
    .ownerTakeoverNotice 0 (0, [0, 0, 0, 0]) 0 65536,
    .pauseNoticeReceive (2 ^ 32) 0 false 0,
    .pauseNoticeReceive 0 3 false 0,
    .pauseNoticeReceive 0 0 false 65536,
    .replicaReadmitNotice (2 ^ 32) 0 0,
    .replicaReadmitNotice 0 65536 0,
    .replicaReadmitNotice 0 0 (2 ^ 32),
    .keyPreviousErase 1024,
    .keyRekeyDue 1024,
    .keyExpired 1024,
    .cipherEncryptOp 1024 false [] [] false,
    .cipherDecryptOp 1024 (List.replicate 12 0) [] [] [],
    .cipherDecryptOp 0 [] [] [] [],
    .cipherDecryptOp 0 (List.replicate 12 0) [] [] (List.replicate 17 0),
    .roundHandoffDone 8 0,
    .roundHandoffDone 0 65536,
    .roundClose 8 0,
    .roundClose 0 65536,
    .roundStateAcceptReceive (2 ^ 32) (0, [0, 0, 0, 0]) 0 0,
    .roundStateAcceptReceive 0 ((2 ^ 32), [0, 0, 0, 0]) 0 0,
    .roundStateAcceptReceive 0 (0, [0]) 0 0,
    .roundStateAcceptReceive 0 (0, [0, 0, 0, 65536]) 0 0,
    .roundStateAcceptReceive 0 (0, [0, 0, 0, 0]) (2 ^ 32) 0,
    .roundStateAcceptReceive 0 (0, [0, 0, 0, 0]) 0 65536,
    .roundReadyReport (2 ^ 32) 0,
    .roundReadyReport 0 65536,
    .roundResume (2 ^ 32) 0,
    .roundResume 0 2,
    .haulDiffReceive (2 ^ 128) 0 [],
    .haulDiffReceive 0 65536 [],
    .haulCatchupReceive (2 ^ 128) 0 [],
    .haulCatchupReceive 0 65536 [],
    .haulBootAnchorReceive (2 ^ 128) 0 [],
    .haulBootAnchorReceive 0 65536 [],
    .haulBootMomentumReceive (2 ^ 128) 0 [],
    .haulBootMomentumReceive 0 65536 [],
    .haulParityReceive (2 ^ 128) 0 [],
    .haulParityReceive 0 65536 [],
    .haulAckReceive (2 ^ 128) 0 [],
    .haulAckReceive 0 65536 [],
    .haulKeepaliveReceive (2 ^ 128) 0 [],
    .haulKeepaliveReceive 0 65536 [],
    .haulRefuseReceive (2 ^ 128) 0 [],
    .haulRefuseReceive 0 65536 [],
    .haulPacketSend 8 0 0] : List Instr).all (fun i => !i.wf) = true := by decide +kernel

/-- Each command breaks one check. -/
theorem test_wf_refuses_6 : ([
    .haulPacketSend 0 65536 0,
    .haulPacketSend 0 0 64,
    .haulAckDelayTimer 8 0 0,
    .haulAckDelayTimer 0 65536 0,
    .haulAckDelayTimer 0 0 64,
    .keepaliveTimer 8 0 0,
    .keepaliveTimer 0 65536 0,
    .keepaliveTimer 0 0 64,
    .catchupTimeout 8 0 0,
    .catchupTimeout 0 65536 0,
    .catchupTimeout 0 0 64,
    .haulRtoExpire 8 0 0 0,
    .haulRtoExpire 0 65536 0 0,
    .haulRtoExpire 0 0 64 0,
    .haulRtoExpire 0 0 0 (2 ^ 64),
    .tend 576 0,
    .tend 0 2,
    .tileLand 8 0 0 0,
    .tileLand 0 4096 0 0,
    .tileLand 0 0 1024 0,
    .tileLand 0 0 0 32768,
    .stepBoundary 8,
    .heldTaskRelease 8,
    .jobStepLimitStop 8,
    .jobHeld 8,
    .jobStopBoundaryDone 8,
    .reshardDrained 8,
    .drainedReceive (2 ^ 32) 0 0 0,
    .drainedReceive 0 (2 ^ 32) 0 0,
    .drainedReceive 0 0 65536 0,
    .drainedReceive 0 0 0 8,
    .reshardSwitch (2 ^ 32) 0,
    .reshardSwitch 0 (2 ^ 32),
    .perstDeassert 8,
    .inputAuxStart (2 ^ 32),
    .inputAuxStop (2 ^ 32),
    .conversionStart (2 ^ 32) 0,
    .conversionStart 0 256,
    .inputOutOfRange (2 ^ 32),
    .inputFaultStop (2 ^ 32),
    .thermtrip 256,
    .regPhaseFault 96,
    .governorTick badGov,
    .droopDetect 4,
    .coolantInletRange 256] : List Instr).all (fun i => !i.wf) = true := by decide +kernel

/-- Each command breaks one check. -/
theorem test_wf_refuses_7 : ([
    .heldPerstDeassertion 8,
    .mfrPowerCap (some 65536),
    .mfrBoostEn (some 256),
    .pmbusUnsupported 256,
    .timeFrameReceive (2 ^ 64),
    .bootStepPower (2 ^ 16) [] 0,
    .bootStepPower 0 [96] 0,
    .bootStepClock [] (2 ^ 32) 0,
    .bootStepClock [2] 0 0,
    .bootStepMemory false [9] [] 0,
    .bootStepFaces [2 ^ 14] [] 0,
    .bootStepFaces [] [8] 0,
    .bootStepBenchLoad false [640] 0,
    .bootStepBenchTest [640] [] 0,
    .bootStepBenchTest [] [2 ^ 24] 0,
    .bootStepCipher [13] false 0,
    .bootStepBoard (List.replicate 8 ⟨false, 0, false, [], []⟩) 0,
    .bootStepSite [9] [] 0,
    .bootStepSite [] [9] 0,
    .registerWrite 8 0 0 0 0,
    .registerWrite 0 6 0 0 0,
    .registerWrite 0 0 (2 ^ 36) 0 0,
    .registerWrite 0 0 0 0 (2 ^ 64),
    .errSummaryW1c (2 ^ 64),
    .cmdqDoorbellWrite 8 0 0,
    .cmdqDoorbellWrite 0 2 0,
    .cmdqDoorbellWrite 0 0 (2 ^ 16),
    .ringEnableWrite 8 0 0,
    .ringEnableWrite 0 3 0,
    .ringEnableWrite 0 0 (2 ^ 64),
    .cqHeadWrite 8 0 0,
    .cqHeadWrite 0 2 0,
    .cqHeadWrite 0 0 (2 ^ 16),
    .evqHeadWrite 8 0 false,
    .evqHeadWrite 0 (2 ^ 16) false,
    .evqLostW1c 8 0,
    .evqLostW1c 0 (2 ^ 32),
    .apertureWrite 8 0,
    .apertureWrite 0 (2 ^ 64),
    .bar4Read 8 0 (1, []),
    .bar4Read 0 (2 ^ 36) (1, []),
    .bar4Read 0 0 (0, []),
    .bar4Read 0 0 (4097, []),
    .bar4Write 8 0 ([0], []),
    .bar4Write 0 (2 ^ 36) ([0], [])] : List Instr).all (fun i => !i.wf) = true := by decide +kernel

/-- Each command breaks one check. -/
theorem test_wf_refuses_8 : ([
    .bar4Write 0 0 ([], []),
    .bar4Write 0 0 ((List.replicate 4097 0), []),
    .mpRingService 8 0 [] false,
    .mpRingService 0 2 [] false,
    .mpRingService 0 0 [[]] false,
    .msixCoalTimer 8 0,
    .msixCoalTimer 0 3,
    .partResetRefusalReceive (2 ^ 32) 0 0 [],
    .partResetRefusalReceive 0 (2 ^ 32) 0 [],
    .partResetRefusalReceive 0 0 256 [],
    .jobClosedReceive 8 0,
    .jobClosedReceive 0 (2 ^ 32),
    .psmIdentify 8 0 zeroIo,
    .psmIdentify 0 2 zeroIo,
    .psmPartConfig 8 0 zeroIo,
    .psmPartConfig 0 2 zeroIo,
    .psmPageAssign 8 0 zeroIo,
    .psmPageAssign 0 2 zeroIo,
    .psmPageRelease 8 0 zeroIo,
    .psmPageRelease 0 2 zeroIo,
    .psmMasterThaw 8 0 zeroIo,
    .psmMasterThaw 0 2 zeroIo,
    .psmPartitionReset 8 0 zeroIo,
    .psmPartitionReset 0 2 zeroIo,
    .psmPathSet 8 0 zeroIo,
    .psmPathSet 0 2 zeroIo,
    .psmJobOpen 8 0 zeroIo,
    .psmJobOpen 0 2 zeroIo,
    .psmWorkingsLoad 8 0 zeroIo,
    .psmWorkingsLoad 0 2 zeroIo,
    .psmJobRun 8 0 zeroIo,
    .psmJobRun 0 2 zeroIo,
    .psmJobStopBoundary 8 0 zeroIo,
    .psmJobStopBoundary 0 2 zeroIo,
    .psmJobStopNow 8 0 zeroIo,
    .psmJobStopNow 0 2 zeroIo,
    .psmJobPause 8 0 zeroIo,
    .psmJobPause 0 2 zeroIo,
    .psmJobResume 8 0 zeroIo,
    .psmJobResume 0 2 zeroIo,
    .psmReplicaRemove 8 0 zeroIo,
    .psmReplicaRemove 0 2 zeroIo,
    .psmReplicaReadmit 8 0 zeroIo,
    .psmReplicaReadmit 0 2 zeroIo,
    .psmReshard 8 0 zeroIo] : List Instr).all (fun i => !i.wf) = true := by decide +kernel

/-- Each command breaks one check. -/
theorem test_wf_refuses_9 : ([
    .psmReshard 0 2 zeroIo,
    .psmRoundPolicy 8 0 zeroIo,
    .psmRoundPolicy 0 2 zeroIo,
    .psmSiteAdmit 8 0 zeroIo,
    .psmSiteAdmit 0 2 zeroIo,
    .psmKeyInstall 8 0 zeroIo,
    .psmKeyInstall 0 2 zeroIo,
    .psmKeyInstallNext 8 0 zeroIo,
    .psmKeyInstallNext 0 2 zeroIo,
    .psmKeyActivate 8 0 zeroIo,
    .psmKeyActivate 0 2 zeroIo,
    .psmKeyErase 8 0 zeroIo,
    .psmKeyErase 0 2 zeroIo,
    .psmKeyModuleKey 8 0 zeroIo,
    .psmKeyModuleKey 0 2 zeroIo,
    .psmCheckpointConfig 8 0 zeroIo ⟨false, 0, []⟩,
    .psmCheckpointConfig 0 2 zeroIo ⟨false, 0, []⟩,
    .psmCheckpointSave 8 0 zeroIo ⟨false, 0, []⟩,
    .psmCheckpointSave 0 2 zeroIo ⟨false, 0, []⟩,
    .psmCheckpointRestore 8 0 zeroIo ⟨false, 0, []⟩,
    .psmCheckpointRestore 0 2 zeroIo ⟨false, 0, []⟩,
    .psmCheckpointDiscard 8 0 zeroIo ⟨false, 0, []⟩,
    .psmCheckpointDiscard 0 2 zeroIo ⟨false, 0, []⟩,
    .psmCheckpointQuery 8 0 zeroIo ⟨false, 0, []⟩,
    .psmCheckpointQuery 0 2 zeroIo ⟨false, 0, []⟩,
    .stockpileFrameReceive 8 0 0 0 zeroBlk false,
    .stockpileFrameReceive 0 0 0 0 badBlk false,
    .ckptRestored 3 [],
    .ckptRestored 0 [badBlk],
    .stockpileRequestReceive 8 0 0 0 0,
    .stockpileRequestReceive 0 6 0 0 0,
    .psmExportShardExport 8 0 zeroIo false,
    .psmExportShardExport 0 2 zeroIo false,
    .psmExportShardImport 8 0 zeroIo,
    .psmExportShardImport 0 2 zeroIo,
    .psmCopyToDevice 8 0 (zeroIo, []),
    .psmCopyToDevice 0 2 (zeroIo, []),
    .psmCopyToHost 8 0 (zeroIo, []),
    .psmCopyToHost 0 2 (zeroIo, []),
    .psmTelemetry 8 0 zeroIo,
    .psmTelemetry 0 2 zeroIo,
    .psmSpareStatus 8 0 zeroIo,
    .psmSpareStatus 0 2 zeroIo,
    .psmSelftestPolicy 8 0 zeroIo,
    .psmSelftestPolicy 0 2 zeroIo] : List Instr).all (fun i => !i.wf) = true := by decide +kernel

/-- Each command breaks one check. -/
theorem test_wf_refuses_10 : ([
    .psmFwChunk 8 0 zeroIo,
    .psmFwChunk 0 2 zeroIo,
    .psmFwActivate 8 0 zeroIo,
    .psmFwActivate 0 2 zeroIo,
    .fwDatagramReceive 9 0 [],
    .fwDatagramReceive 0 (2 ^ 48) [],
    .flitReceive 7 (List.replicate 512 0),
    .flitReceive 0 [],
    .flitNakReceive 7 0 0,
    .flitNakReceive 0 65536 0,
    .flitNakReceive 0 0 65536,
    .boardPortRetrain 7 false,
    .laneBerWindow 7 (List.replicate 18 0),
    .laneBerWindow 0 [],
    .laneSignalLoss 7 0,
    .laneSignalLoss 0 18,
    .boardPortReturnsToUp 7,
    .siteFrameAckReceive 0 256 0 0 0,
    .siteFrameAckReceive 0 0 0 0 (2 ^ 64),
    .siteFrameRetxTimer 0 256 0 0,
    .siteAckTimer 0 256 0 [],
    .sitePortLinkChange 9 false,
    .sitePortSpared 9,
    .pathNeed 4 (List.replicate 10 0) 0,
    .pathNeed 0 [] 0,
    .pathSurplus 4 (List.replicate 60 0),
    .pathSurplus 0 [],
    .flowMoveRetxTimer 0 256 0,
    .arpNsRequestReceive 9 0 false,
    .pauseFrameReceive 9,
    .jtagSamplePreload 65536 0,
    .jtagSamplePreload 0 65536,
    .jtagExtest 65536,
    .benchSpared 576,
    .benchSliceDone 3 0 [],
    .benchSliceDone 0 16 [],
    .benchSliceDone 0 0 [(20, 0)],
    .benchSliceDone 0 0 [(0, 258)],
    .cipherSliceDone 3 0,
    .wireSpared (2 ^ 14) 0 0,
    .engineSpared 8] : List Instr).all (fun i => !i.wf) = true := by decide +kernel

/-- Commands at the low end of every range. -/
theorem test_wf_accepts_1 : ([
    .alu 0 0 0 0 0 0,
    .addi 0 0 0 0 0,
    .orsh 0 0 0 0,
    .ld 0 0 0 0 0 0,
    .st 0 0 0 0 0,
    .beq 0 0 0 0 0,
    .bne 0 0 0 0 0,
    .blt 0 0 0 0 0,
    .jmp 0 0 0,
    .mxe 0 0 0 0 0,
    .vse 0 0 0 0,
    .tput 0 0 0 0 (0, []),
    .tputSlotGrant 0 0,
    .tfree 0 0 0,
    .wait 0 0 0,
    .csrr 0 0 0 0,
    .fence 0 0,
    .nop 0 0,
    .stealRequest 0 [],
    .stealGrant 0,
    .stealRefusal 0,
    .stealTimeout 0,
    .lockstepSignature 0 0,
    .lockstepVote 0,
    .benchFailed 0 (1, []),
    .product 0 0 [] [],
    .accStore 0 0,
    .accLoad 0 0 [],
    .accRelease 0 0,
    .vseStream 0 0 [],
    .memRead 0 0 0,
    .memWrite 0 [] false none,
    .memAccWrite 0 0 0 [],
    .memPatrol 0 0 0,
    .stackFailed 0,
    .stackRebuilt 0,
    .boardTileReceive 0 0 0 [],
    .boardConvBind 0 0 0 0 0,
    .convCreditReceive 0 0,
    .convHoldReceive 0 0,
    .convReleaseReceive 0 0,
    .feedWordReceive 0 [0, 0] z64,
    .feedBufferDrain 0,
    .spdRowSpared 0 (0, []),
    .contribReceive 0 zeroRec false,
    .partialReceive 0 zeroRec false,
    .reduceWindowClose 0 0 0 0 0,
    .reduceNodeDone 0 0 0 0 0 [],
    .resultReceive 0 zeroRec,
    .resultResend 0 [],
    .layerCommit 0 0,
    .scaleReceive 0 zeroRec,
    .scaleAcceptReceive 0 (0, [0, 0, 0, 0]) 0 0,
    .versionReceive 0 zeroRec,
    .stateReceive 0 zeroRec,
    .versionAckReceive 0 zeroRec,
    .tallyReceive 0 zeroRec,
    .refreshReceive 0 zeroRec,
    .reinstallTimeout 0 0,
    .reinstallReceive 0 zeroRec] : List Instr).all Instr.wf = true := by decide +kernel

/-- Commands at the low end of every range. -/
theorem test_wf_accepts_2 : ([
    .ackTimeout 0 0,
    .peerDownTimeout 0 0 none,
    .replicaLostNotice 0 0 0,
    .takeoverTimeout 0 0,
    .ownerTakeoverNotice 0 (0, [0, 0, 0, 0]) 0 0,
    .pauseNoticeReceive 0 0 false 0,
    .replicaReadmitNotice 0 0 0,
    .keyPreviousErase 0,
    .keyRekeyDue 0,
    .keyExpired 0,
    .cipherEncryptOp 0 false [] [] false,
    .cipherDecryptOp 0 (List.replicate 12 0) [] [] [],
    .roundHandoffDone 0 0,
    .roundClose 0 0,
    .roundStateAcceptReceive 0 (0, [0, 0, 0, 0]) 0 0,
    .roundReadyReport 0 0,
    .roundResume 0 0,
    .haulDiffReceive 0 0 [],
    .haulCatchupReceive 0 0 [],
    .haulBootAnchorReceive 0 0 [],
    .haulBootMomentumReceive 0 0 [],
    .haulParityReceive 0 0 [],
    .haulAckReceive 0 0 [],
    .haulKeepaliveReceive 0 0 [],
    .haulRefuseReceive 0 0 [],
    .haulPacketSend 0 0 0,
    .haulAckDelayTimer 0 0 0,
    .keepaliveTimer 0 0 0,
    .catchupTimeout 0 0 0,
    .haulRtoExpire 0 0 0 0,
    .tend 0 0,
    .tileLand 0 0 0 0,
    .stepBoundary 0,
    .heldTaskRelease 0,
    .jobStepLimitStop 0,
    .jobHeld 0,
    .jobStopBoundaryDone 0,
    .reshardDrained 0,
    .drainedReceive 0 0 0 0,
    .reshardSwitch 0 0,
    .perstDeassert 0,
    .perstAssert false,
    .inputAuxStart 0,
    .inputAuxStop 0,
    .conversionStart 0 0,
    .inputOutOfRange 0,
    .inputFaultStop 0,
    .thermtrip 0,
    .regPhaseFault 0,
    .governorTick zeroGov,
    .droopDetect 0,
    .coolantInletRange 0,
    .heldPerstDeassertion 0,
    .mfrPowerCap none,
    .mfrBoostEn none,
    .pmbusUnsupported 0,
    .timeFrameReceive 0,
    .bootStepPower 0 [] 0,
    .bootStepClock [] 0 0,
    .bootStepFuse false false false 0] : List Instr).all Instr.wf = true := by decide +kernel

/-- Commands at the low end of every range. -/
theorem test_wf_accepts_3 : ([
    .bootStepRom false 0,
    .bootStepImage false 0,
    .bootStepMemory false [] [] 0,
    .bootStepFaces [] [] 0,
    .bootStepBenchLoad false [] 0,
    .bootStepBenchTest [] [] 0,
    .bootStepCipher [] false 0,
    .bootStepBoard [] 0,
    .bootStepSite [] [] 0,
    .bootStepTime 0,
    .bootStepReady 0,
    .registerWrite 0 0 0 0 0,
    .errSummaryW1c 0,
    .cmdqDoorbellWrite 0 0 0,
    .ringEnableWrite 0 0 0,
    .cqHeadWrite 0 0 0,
    .evqHeadWrite 0 0 false,
    .evqLostW1c 0 0,
    .apertureWrite 0 0,
    .bar4Read 0 0 (1, []),
    .bar4Write 0 0 ([0], []),
    .mpRingService 0 0 [] false,
    .msixCoalTimer 0 0,
    .partResetRefusalReceive 0 0 0 [],
    .jobClosedReceive 0 0,
    .psmIdentify 0 0 zeroIo,
    .psmPartConfig 0 0 zeroIo,
    .psmPageAssign 0 0 zeroIo,
    .psmPageRelease 0 0 zeroIo,
    .psmMasterThaw 0 0 zeroIo,
    .psmPartitionReset 0 0 zeroIo,
    .psmPathSet 0 0 zeroIo,
    .psmJobOpen 0 0 zeroIo,
    .psmWorkingsLoad 0 0 zeroIo,
    .psmJobRun 0 0 zeroIo,
    .psmJobStopBoundary 0 0 zeroIo,
    .psmJobStopNow 0 0 zeroIo,
    .psmJobPause 0 0 zeroIo,
    .psmJobResume 0 0 zeroIo,
    .psmReplicaRemove 0 0 zeroIo,
    .psmReplicaReadmit 0 0 zeroIo,
    .psmReshard 0 0 zeroIo,
    .psmRoundPolicy 0 0 zeroIo,
    .psmSiteAdmit 0 0 zeroIo,
    .psmKeyInstall 0 0 zeroIo,
    .psmKeyInstallNext 0 0 zeroIo,
    .psmKeyActivate 0 0 zeroIo,
    .psmKeyErase 0 0 zeroIo,
    .psmKeyModuleKey 0 0 zeroIo,
    .psmCheckpointConfig 0 0 zeroIo ⟨false, 0, []⟩,
    .psmCheckpointSave 0 0 zeroIo ⟨false, 0, []⟩,
    .psmCheckpointRestore 0 0 zeroIo ⟨false, 0, []⟩,
    .psmCheckpointDiscard 0 0 zeroIo ⟨false, 0, []⟩,
    .psmCheckpointQuery 0 0 zeroIo ⟨false, 0, []⟩,
    .stockpileFrameReceive 0 0 0 0 zeroBlk false,
    .ckptSaved false,
    .ckptRestored 0 [],
    .stockpileReducedNotice 0 0 [],
    .buddyPortReturn ⟨false, 0, []⟩,
    .stockpileRequestReceive 0 0 0 0 0] : List Instr).all Instr.wf = true := by decide +kernel

/-- Commands at the low end of every range. -/
theorem test_wf_accepts_4 : ([
    .psmExportShardExport 0 0 zeroIo false,
    .psmExportShardImport 0 0 zeroIo,
    .psmCopyToDevice 0 0 (zeroIo, []),
    .psmCopyToHost 0 0 (zeroIo, []),
    .psmTelemetry 0 0 zeroIo,
    .psmSpareStatus 0 0 zeroIo,
    .psmSelftestPolicy 0 0 zeroIo,
    .psmFwChunk 0 0 zeroIo,
    .psmFwActivate 0 0 zeroIo,
    .fwActivateEnd false,
    .fwDatagramReceive 0 0 [],
    .flitReceive 0 (List.replicate 512 0),
    .flitNakReceive 0 0 0,
    .boardPortRetrain 0 false,
    .laneBerWindow 0 (List.replicate 18 0),
    .laneSignalLoss 0 0,
    .boardPortReturnsToUp 0,
    .siteFrameAckReceive 0 0 0 0 0,
    .siteFrameRetxTimer 0 0 0 0,
    .siteAckTimer 0 0 0 [],
    .sitePortLinkChange 0 false,
    .sitePortSpared 0,
    .pathNeed 0 (List.replicate 10 0) 0,
    .pathSurplus 0 (List.replicate 60 0),
    .flowMoveRetxTimer 0 0 0,
    .arpNsRequestReceive 0 0 false,
    .pauseFrameReceive 0,
    .jtagSamplePreload 0 0,
    .jtagExtest 0,
    .mpSwitched false,
    .benchSpared 0,
    .selftestTick false,
    .benchWithdraw false,
    .benchSliceDone 0 0 [],
    .cipherSliceDone 0 0,
    .linkSliceDone [],
    .wireSpared 0 0 0,
    .engineSpared 0] : List Instr).all Instr.wf = true := by decide +kernel


theorem witness_idle : State.reset.pending = [] ∧ ({ State.reset with time := { State.reset.time with run := true } } : State).time.run = true
    ∧ ({ State.reset with time := { State.reset.time with run := true } } : State).time.slew = .none
    ∧ ({ State.reset with boot := { State.reset.boot with served := true } } : State).boot.served = true := by decide
/-- A module with its main domain on. -/
def onState : State := { State.reset with power := { State.reset.power with aux := true, pwrEn := true, conv := true, pgood := true, pgoodNs := 1000000 } }

theorem witness_power_on : onState.power.perst = true ∧ onState.power.conv = true ∧ onState.power.pgood = true ∧ 1000000 ≤ onState.power.pgoodNs
    ∧ onState.power.aux = true := by decide

theorem witness_power_early : ({ onState with power := { onState.power with pgoodNs := 999990, perstHeld := true } } : State).power.pgoodNs < 1000000
    ∧ ({ onState with power := { onState.power with perstHeld := true } } : State).power.perstHeld = true
    ∧ State.reset.power.conv = false ∧ State.reset.power.aux = false ∧ State.reset.power.pwrEn = false := by decide

/-- The edges of the input ranges: 58 V and 55 V, 64 V and 78 V, 60 V and 82 V, 45 °C and 110 °C. -/
theorem witness_power_edges :
    (after (exec (.inputAuxStart 58000) State.reset)).power = { State.reset.power with vin := 58000 }
    ∧ (58000 < 58001 ∧ 54999 < 55000) ∧ (59999 < 60000 ∧ 82000 < 82001)
    ∧ (let s : State := { State.reset with power := { State.reset.power with aux := true, pwrEn := true } }
       s.power.aux = true ∧ s.power.pwrEn = true ∧ s.power.conv = false ∧ s.power.faultPin = false ∧ s.power.tripPin = false
       ∧ mayConvert s 64000 44 = true ∧ mayConvert s 78000 44 = true ∧ mayConvert s 78001 44 = false ∧ mayConvert s 78000 45 = false) := by decide
theorem witness_governor : onState.power.conv = true ∧ State.reset.power.conv = false ∧ onState.power.op = 0 ∧ onState.power.vset ≤ 1
    ∧ ({ onState with power := { onState.power with op := 1 } } : State).power.op = 1
    ∧ ([95, 0, 0, 0] : List Nat).any (fun x => decide (95 ≤ x)) = true ∧ ([85, 85, 0, 0] : List Nat).all (fun x => decide (x ≤ 85)) = true := by decide

theorem witness_clock : (60000 ≤ 60000 ∧ 60000 < 64000) ∧ (78000 < 82000 ∧ 82000 ≤ 82000) ∧ (64000 ≤ 64000 ∧ 64000 ≤ 78000)
    ∧ onState.power.vset = 0 ∧ onState.power.k ≤ 1 ∧ 1 < ({ onState with power := { onState.power with k := 2 } } : State).power.k
    ∧ onState.power.holdover = false ∧ onState.power.coolant = none ∧ (14 < 15 ∧ 40 < 41)
    ∧ ({ onState with power := { onState.power with coolant := some 0 } } : State).power.coolant = some 0 ∧ onState.time.tb < 0 + 60000000000 := by decide

/-- 88 phases in service, phase 88 the lowest free one; every phase in service; 66 and 65 left. -/
theorem witness_phases :
    (let s : State := { onState with power := { onState.power with phases := List.range 88 } }
     5 ∈ s.power.phases ∧ 88 ∉ s.power.phases ∧ unusable s (unitKey 9 88) = false ∧ (∀ y, y < 88 → y ∈ s.power.phases) ∧ 89 ∉ s.power.phases)
    ∧ (let s : State := { onState with power := { onState.power with phases := List.range 96 } }
       5 ∈ s.power.phases ∧ (∀ y, y < 96 → y ∈ s.power.phases) ∧ 66 ≤ (s.power.phases.filter (· != 5)).length)
    ∧ (let s : State := { onState with power := { onState.power with phases := List.range 66 }, boot := { onState.boot with factory := (span 66 96).map (unitKey 9) } }
       5 ∈ s.power.phases ∧ (∀ y, y < 96 → y ∈ s.power.phases ∨ unusable s (unitKey 9 y) = true) ∧ (s.power.phases.filter (· != 5)).length < 66) := by
  decide +kernel

theorem witness_test_port : State.reset.power.perst = true ∧ ({ onState with power := { onState.power with perst := false } } : State).power.perst = false := by decide

theorem witness_pmbus : onState.power.aux = true ∧ State.reset.power.aux = false ∧ onState.power.stackTemps.length = 9
    ∧ onState.power.limit < 256 ∧ onState.power.k < 16 ∧ onState.power.vset < 3 ∧ ({ onState.power with k := 15, limit := 255, vset := 2 } : PowerSt).k < 16
    ∧ (999 < 1000 ∧ 2500 < 2501) ∧ (64000 ≤ 64000 ∧ 64000 ≤ 78000) ∧ onState.power.limit.testBit 1 = false ∧ 0x02 ∉ pmbusCodes := by decide
/-- A READY module whose functions 0 and 1 have one enabled ring, and the physical function an enabled event queue. -/
def hostState : State := { onState with
  boot := { onState.boot with served := true, ready := true, st := 0 }
  host := { onState.host with funcs := [
    (0, { Func.reset with ring0 := { Func.reset.ring0 with cfg := 0x41, pending := true, pi := 2 }, evqCfg := 0x50000000041 }),
    (1, { Func.reset with ring0 := { Func.reset.ring0 with cfg := 0x41 }, part := some 2 })] } }

/-- The state with one function replaced. -/
def withFunc (s : State) (f : Nat) (g : Func → Func) : State := modFunc s f g

theorem witness_mailbox : hostMay hostState 0 = true ∧ cfgEnable (getRing hostState 0 0).cfg = true ∧ cfgEnable (getRing hostState 0 1).cfg = false
    ∧ (getRing hostState 0 0).heldCq = [] ∧ (getRing hostState 0 0).fetched = [] ∧ (getFunc hostState 0).lostSince = 0
    ∧ hostMay hostState 1 = true ∧ cfgEnable (getFunc hostState 1).evqCfg = false ∧ hostMay State.reset 0 = false
    ∧ hostMay (withFunc hostState 1 (fun f => { f with frozen := true })) 1 = false := by decide

theorem witness_registers : hostState.boot.ready = true ∧ hostState.boot.served = true ∧ hostState.boot.halted = false ∧ (getFunc hostState 0).frozen = false := by decide

theorem witness_bar4 : bar4Open hostState 1 = true ∧ bar4Open State.reset 1 = false
    ∧ hostCause hostState 1 0 64 = some 0 ∧ meetsReset hostState 0 64 = false ∧ bar4Open hostState 0 = true
    ∧ (let s : State := { hostState with mem := { hostState.mem with pages := [(0, 0x8000 + 2 * 8192 + 4096)] } }
       hostCause s 1 0 64 = none ∧ hostCause s 0 (0x200000 - 64) 64 = none ∧ hostCause s 1 0 0x200001 = some 0)
    ∧ (let s : State := modPart { hostState with boot := { hostState.boot with phys := [(0, 0)] } } 2 (fun p => { p with rows := [0] })
       let t := withFunc s 1 (fun f => { f with aperture := 0x800000000000 })
       isWindow ((getFunc t 1).aperture.toNat + 0x11FFF8) = true ∧ hostCause t 1 0x80000011FFF8 8 = none ∧ meetsReset t 0x80000011FFF8 8 = false
         ∧ hostCause t 1 0x80000011FFF8 9 = some 3) := by decide +kernel

theorem witness_service : nextRing hostState = some (0, 0) ∧ (getRing hostState 0 0).ci = 0 ∧ (getRing hostState 0 0).pi = 2
    ∧ (∀ k, k < 2 → fieldLe ([[1, 0], [1, 0]].getD k []) 0 2 ∈ psmOpcodes) ∧ hostState.boot.st ≠ 3 ∧ nextRing hostState ≠ some (1, 0)
    ∧ (let s := withFunc hostState 0 (fun f => { f with evqCfg := 0x1000000000041, coal := ⟨1, 0⟩, msix := [(0, 64, 7, 0)] })
       let t : State := { s with time := { s.time with tb := 100 } }
       (getFunc t 0).coal.count ≠ 0 ∧ cfgCoalTime (getFunc t 0).evqCfg = 1 ∧ (getFunc t 0).coal.since + 100 * 1 ≤ t.time.tb
         ∧ Tab.get (0, 0, 1) (getFunc t 0).msix (cfgVector (getFunc t 0).evqCfg) = (64, 7, 0))
    ∧ (getFunc hostState 0).coal.count = 0 := by decide +kernel

theorem witness_event : Mem.wf hostState.host.hostMem = true ∧ Mem.wf hostState.mem.bytes = true ∧ hostState.power.holdover = false ∧ hostState.boot.halted = false ∧ evqRoom (getFunc hostState 0) = true
    ∧ cfgCoalCount (getFunc hostState 0).evqCfg > (getFunc hostState 0).coal.count + 1 ∧ (getFunc hostState 0).lostSince = 0
    ∧ cfgEnable (getFunc State.reset 0).evqCfg = false := by decide

/-- A descriptor with a code, at index 0. -/
def descOf (op : Nat) (params : List Byte) : Desc := ⟨op, 0, 0, 9, 0, 0, 0, 0, padTo 0 32 params, 0⟩

/-- The state with one fetched command at the front of the physical function's ring 0. -/
def fetchedState (d : Desc) : State := modRing hostState 0 0 (fun q => { q with pending := false, fetched := [d] })

theorem witness_course : (let s := fetchedState (descOf 1 [])
    (getRing s 0 0).fetched = [descOf 1 []] ∧ mayBegin s 0 0 = true ∧ ringTurn s 0 = true ∧ cfgEnable (getRing s 0 0).cfg = true
      ∧ (getRing s 0 0).heldCq = [] ∧ cqFull (getRing s 0 0) = false
      ∧ bit (descOf 1 []).flags 0 = false ∧ Mem.wf s.host.hostMem = true)
    ∧ rowPartConfig.pfOnly = true ∧ namedPart hostState 0 { descOf 1 [] with part := 4 } = none ∧ rowPartReset.scope = .part
    ∧ namedPart hostState 1 (descOf 1 []) = some 2 ∧ genericRefusal (fetchedState (descOf 0x0105 [])) 0 (descOf 0x0105 []) rowPartReset ⟨[], none, false⟩ = none
    ∧ (modPart hostState 2 (fun p => { p with resetting := true })).parts ≠ [] ∧ (0 < rowIdentify.outNeed ∨ 0 < 1) := by decide +kernel
/-- The command of a code at the front of the physical function's ring 0, with parameters. -/
def cmdState (op : Nat) (params : List Byte) : State := fetchedState (descOf op params)

theorem witness_part_config : (let d := descOf 0x0101 [0, 0, 0, 0, 0, 0, 0, 0, 3]
    let s := cmdState 0x0101 [0, 0, 0, 0, 0, 0, 0, 0, 3]
    Starts s rowPartConfig 0 0 zeroIo d ∧ d.par 0 1 < 4 ∧ partBusy s 0 = false ∧ bit (d.par 8 8) 0 = true ∧ (getPart s 0).keys = (d.par 2 2, d.par 0x14 2)
      ∧ d.par 1 1 = vfOf s 0 ∧ d.par 4 4 + d.par 0x10 4 ≤ 4194304) ∧ (getFunc hostState 3).part = none ∧ ringsIdle hostState 3 = true := by decide +kernel

theorem witness_pages : (let d := descOf 0x0102 [0, 1, 0, 0, 0, 0, 0, 0, 2]
    let s := cmdState 0x0102 [0, 1, 0, 0, 0, 0, 0, 0, 2]
    Starts s rowPageAssign 0 0 zeroIo d ∧ d.par 0 1 < 4 ∧ d.par 4 4 + d.par 8 4 ≤ partTop s / 0x200000 ∧ pageOwned (pageEntry s 0) = false)
    ∧ (let d := descOf 0x0103 [2, 0, 0, 0, 0, 0, 0, 0, 1]
       let s := cmdState 0x0103 [2, 0, 0, 0, 0, 0, 0, 0, 1]
       let t : State := { s with mem := { s.mem with pages := [(0, 0x8000 + 2 * 8192)] } }
       Starts t rowPageRelease 0 0 zeroIo d ∧ d.par 4 4 + d.par 8 4 ≤ partTop t / 0x200000 ∧ pageOwned (pageEntry t 0) = true ∧ pagePart (pageEntry t 0) = 2)
 := by decide +kernel

theorem witness_thaw : (let d := descOf 0x0104 [0]
    let s := cmdState 0x0104 [0]
    let z : Freeze := { cls := 0, source := 0x401, unit := 0, part := 2, cause := 0, access := 0, addr := 0, stamp := 0, jobTag := 0 }
    let t : State := { s with host := { s.host with freezes := [(0, z)] } }
    Starts t rowMasterThaw 0 0 zeroIo d ∧ d.par 0 1 = 0 ∧ t.host.freezeWait = [] ∧ z.source % 8192 = 0x400 + 1 ∧ 0x320 ≤ ({ z with cls := 4, source := 0x320 } : Freeze).source % 8192)
    ∧ (let d := { descOf 0x0105 [1] with part := 3 }
       let s := fetchedState d
       Starts s rowPartReset 0 0 zeroIo d ∧ s.host.freezes = [] ∧ s.host.freezeWait = [] ∧ d.par 0 1 = 1) := by decide +kernel

theorem witness_path_set : (let d := { descOf 0x0106 [] with inLen := 80 }
    let s := modSite (fetchedState d) 8 (fun p => { p with fitted := true })
    let io : HostIo := ⟨[1, 0, 0, 0, 0, 0, 0, 0, 0, 0, 0, 0, 0, 0, 0, 0, 8] ++ List.replicate 63 0, none, false⟩
    Starts s rowPathSet 0 0 io d ∧ d.inLen = io.buf.length ∧ fieldLe io.buf 0 1 = 1 ∧ fieldLe io.buf 4 4 = 0 ∧ fieldLe io.buf 16 1 = 8 ∧ (getSite s 8).fitted = true) := by decide +kernel

theorem witness_peers : (let s : State := { hostState with board := { hostState.board with leaving := some ([0], ⟨0, 0, 0, 0, 0⟩) } }
    s.board.leaving = some ([0], ⟨0, 0, 0, 0, 0⟩) ∧ pathQuiet s [0] = true) ∧ hostState.board.leaving = none
    ∧ (let s := modPort { hostState with time := { hostState.time with tb := 10000 }, board := { hostState.board with refused := [(1, 7, ⟨0, 7, [], 0, 0, 0⟩)] } } 0 (fun p => { p with st := .up })
       boardRoute s 1 7 = some (0, false) ∧ s.board.refused.length = 1 ∧ 0 + 10000 ≤ s.time.tb ∧ (getPort s 0).retrain = false ∧ (getPort s 0).replay.length < 4096
         ∧ 1 ≠ s.board.slotId ∧ (9999 < 0 + 10000))
    ∧ jobOfTag hostState 7 = none := by decide +kernel

theorem witness_standby : hostState.host.mpStandby = false ∧ unusable hostState (unitKey 8 1) = false ∧ hostState.boot.halted = false
    ∧ ({ hostState with host := { hostState.host with mpStandby := true } } : State).host.mpStandby = true := by decide +kernel
/-- A workings image of one forward station without conveyors (R38, R39, R56), with rounds of h steps. -/
def miniStation : List Byte := padTo 0 128 ([65] ++ List.replicate 31 0 ++ [1, 0, 0, 0xFF] ++ toLe 4 0 ++ toLe 4 64 ++ toLe 4 0xFFFFFFFF ++ toLe 8 1 ++ toLe 2 1)
def miniImage (h crc : Nat) : List Byte :=
  padTo 0 128 (toLe 4 0x494B5744 ++ toLe 2 1 ++ toLe 2 0x0A09 ++ toLe 4 384 ++ toLe 4 crc ++ toLe 8 0 ++ [0, 0] ++ toLe 2 1 ++ List.replicate 12 0
    ++ [(128, 128), (256, 0), (256, 0), (256, 0), (256, 64), (320, 0), (320, 64)].flatMap (fun (x : Nat × Nat) => toLe 4 x.1 ++ toLe 4 x.2))
    ++ miniStation ++ List.replicate 64 0 ++ padTo 0 64 (toLe 2 1 ++ toLe 2 h)
def plainImage : List Byte := miniImage 0 672989753
def roundImage : List Byte := miniImage 1 2651251273

/-- The same state with bench row 0 present and given to partition 0. -/
def withRow (s : State) : State := modPart { s with boot := { s.boot with phys := (List.range 9).map (fun n => (n, n)) } } 0 (fun p => { p with rows := [0], keys := (0, 4), ctxs := (0, 64) })
/-- A command of a code on a module whose partition 0 has one bench row and the primary job given. -/
def jobState (op : Nat) (params : List Byte) (inLen : Nat) (j : Job) : State :=
  withRow { fetchedState { descOf op params with inLen := inLen } with jobs := [(0, j)] }
/-- A loaded job of one image, at step 5, in one replica of one module. -/
def oneJob (im : List Byte) : Job := { Job.reset with phase := .loaded, image := some (parseImage im), start := 5, step := 5, tag := 7, members := [0, 1], policy := ⟨2, 0, 0, 1, 1, 1000, 1000000, 1000000⟩, cut := ⟨1, 0, 1, 0, 1, 0, 0, [0, 1, 2, 3, 4, 5, 6, 7]⟩ }
def runJob (im : List Byte) : Job := { oneJob im with phase := .running, stepOpen := true }
def cutBytes (epoch : Nat) : List Byte := padTo 0 32 ([1, 0, 1, 0, 1, 0, 0, 0] ++ toLe 4 epoch ++ [0, 1, 2, 3, 4, 5, 6, 7])

theorem witness_job_open :
    let b := [0, 0, 0, 0] ++ toLe 4 7 ++ toLe 4 5 ++ List.replicate 52 0 ++ padTo 0 32 (toLe 2 1 ++ toLe 2 0 ++ [0, 1] ++ toLe 2 1 ++ toLe 4 1000 ++ toLe 4 1000000 ++ toLe 4 1000000) ++ cutBytes 0 ++ List.replicate 32 0
    let d := { descOf 0x0201 [] with inLen := 160 }
    let s := jobState 0x0201 [] 160 Job.reset
    Starts s rowJobOpen 0 0 ⟨b, none, false⟩ d ∧ b.length = 160 ∧ namedPart s 0 d = some 0 ∧ partRows s 0 ≠ [] ∧ (getJob s 0).phase = .closed ∧ s.mem.failedLs = []
      ∧ jobPolicyBad s b = false ∧ cutBad s (parseCut (b.drop 0x60)) = false := by decide +kernel

theorem crcR_append (poly : Nat) (a b : List Byte) (c : Nat) : crcR poly (a ++ b) c = crcR poly b (crcR poly a c) := by
  simp [crcR, List.foldl_append]

/-- Part k of 48 bytes of the image of the check sequence. -/
def crcPart (k : Nat) : List Byte := ((putBytes plainImage 0xC [0, 0, 0, 0]).drop (48 * k)).take 48

theorem crc_parts : putBytes plainImage 0xC [0, 0, 0, 0] = crcPart 0 ++ (crcPart 1 ++ (crcPart 2 ++ (crcPart 3 ++ (crcPart 4 ++ (crcPart 5 ++ (crcPart 6 ++ crcPart 7)))))) := by
  decide +kernel

theorem crc_part_0 : crcR 0xEDB88320 (crcPart 0) 4294967295 = 3328158799 := by decide +kernel

theorem crc_part_1 : crcR 0xEDB88320 (crcPart 1) 3328158799 = 630049103 := by decide +kernel

theorem crc_part_2 : crcR 0xEDB88320 (crcPart 2) 630049103 = 3654927972 := by decide +kernel

theorem crc_part_3 : crcR 0xEDB88320 (crcPart 3) 3654927972 = 3257978737 := by decide +kernel

theorem crc_part_4 : crcR 0xEDB88320 (crcPart 4) 3257978737 = 2401502963 := by decide +kernel

theorem crc_part_5 : crcR 0xEDB88320 (crcPart 5) 2401502963 = 3780769970 := by decide +kernel

theorem crc_part_6 : crcR 0xEDB88320 (crcPart 6) 3780769970 = 3732067618 := by decide +kernel

theorem crc_part_7 : crcR 0xEDB88320 (crcPart 7) 3732067618 = 3621977542 := by decide +kernel

theorem crc_whole : crcR 0xEDB88320 (putBytes plainImage 0xC [0, 0, 0, 0]) 0xFFFFFFFF = 3621977542 := by
  rw [crc_parts, crcR_append, crcR_append, crcR_append, crcR_append, crcR_append, crcR_append, crcR_append, crc_part_0, crc_part_1, crc_part_2, crc_part_3,
    crc_part_4, crc_part_5, crc_part_6, crc_part_7]

theorem crc32_of (d : List Byte) (c : Nat) (h : crcR 0xEDB88320 d 0xFFFFFFFF = c) : crc32 d = c ^^^ 0xFFFFFFFF := by rw [← h]; rfl

/-- The check sequence of the image, as zlib computes it. -/
theorem test_image_crc : crc32 (putBytes plainImage 0xC [0, 0, 0, 0]) = 672989753 :=
  crc32_of _ _ crc_whole

theorem test_image_integrity : integrityBad plainImage = false := by
  unfold integrityBad
  rw [test_image_crc]
  decide +kernel

/-- An image passes the checks of R66 where it passes the others. -/
theorem image_passes (s : State) (p ctx : Nat) (d : List Byte) (hi : integrityBad d = false)
    (h : (headerBad d || limitBad d (parseImage d) || nameBad d (parseImage d) || (parseImage d).conveyors.any watermarkBad
      || placementBad s p (parseImage d) (getJob s (2 * p + (1 - ctx))).image || roleBad (parseImage d) ctx) = false) : imageRefusal s p ctx d = none := by
  simp only [Bool.or_eq_false_iff] at h
  simp [imageRefusal, hi, h]

theorem witness_job_load :
    let d := { descOf 0x0202 (toLe 4 384 ++ [0, 0]) with inLen := 384 }
    let s := jobState 0x0202 (toLe 4 384 ++ [0, 0]) 384 { oneJob plainImage with phase := .opened, image := none }
    Starts s rowLoad 0 0 ⟨plainImage, none, false⟩ d ∧ plainImage.length = 384 ∧ plainImage.take (d.par 0 4) = plainImage
      ∧ bindsBad s (parseImage plainImage) (parseBinds plainImage 384 0) = false ∧ epochBad (getJob s 0).cut (parseImage plainImage) = false := by decide +kernel

theorem witness_job_load_image : imageRefusal (jobState 0x0202 (toLe 4 384 ++ [0, 0]) 384 { oneJob plainImage with phase := .opened, image := none }) 0 0 plainImage = none :=
  image_passes _ _ _ _ test_image_integrity (by decide +kernel)

theorem witness_reshard_image : imageRefusal (jobState 0x0208 (toLe 4 1 ++ toLe 4 7 ++ toLe 4 384 ++ toLe 4 0) 416 (runJob plainImage)) 0 0 plainImage = none :=
  image_passes _ _ _ _ test_image_integrity (by decide +kernel)

theorem witness_job_run :
    let d := { descOf 0x0203 [0] with inLen := 0 }
    let s := jobState 0x0203 [0] 0 (oneJob plainImage)
    Starts s rowRun 0 0 zeroIo d ∧ namedPart s 0 d = some 0 ∧ d.par 0 1 ≤ 1 ∧ (getJob s 0).phase = .loaded ∧ restoring s 0 = false ∧ (parseImage plainImage).sched.roundSteps = 0 := by decide +kernel

theorem witness_job_stop :
    (let d := descOf 0x0204 [0, 0]
     let s := jobState 0x0204 [0, 0] 0 (runJob plainImage)
     Starts s rowStop 0 0 zeroIo d ∧ (getJob s 0).phase ≠ .closed ∧ (getJob s 0).reshard = none ∧ (getJob s 0).stopping = none)
    ∧ (let d := descOf 0x0204 [0, 1]
       let s := jobState 0x0204 [0, 1] 0 (runJob plainImage)
       Starts s rowStop 0 0 zeroIo d ∧ d.par 1 1 = 1)
    ∧ (let d := descOf 0x0205 [0]
       let s := jobState 0x0205 [0] 0 (runJob plainImage)
       Starts s rowPause 0 0 zeroIo d ∧ hasHold (getJob s 0) .hostPause = false ∧ (getJob s 0).holdAt = [] ∧ (getJob s 0).held = false)
    ∧ (let s := jobState 0x0206 [] 0 { runJob plainImage with held := true, holds := [.hostPause] }
       Starts s rowResume 0 0 zeroIo (descOf 0x0206 []) ∧ hasHold (getJob s 0) .hostPause = true)
    ∧ (let s := jobState 0 [] 0 { runJob plainImage with passEnd := [(0, 5 * 65536 + 1)], stopping := some ⟨0, 0, 0, 0, 0⟩ }
       (getJob s 0).stopping = some ⟨0, 0, 0, 0, 0⟩ ∧ tasksBefore s 0 6 = true ∧ nodesBefore (getJob s 0) 6 = true)
    ∧ (let s := jobState 0 [] 0 { runJob plainImage with passEnd := [(0, 5 * 65536 + 1)], holdAt := [(.hostPause, false)] }
       (getJob s 0).stopFrom = none ∧ (getJob s 0).holdAt.filter (holdDue (getJob s 0) 6) ≠ [] ∧ snapshotPoint s 0 6 = true)
    ∧ (let s := jobState 0 [] 0 (runJob plainImage)
       snapshotPoint s 0 6 = false ∧ tasksBefore s 0 6 = false) := by decide +kernel

theorem witness_replica_set :
    (let s := jobState 0x0207 [0, 0, 1, 0] 0 (runJob plainImage)
     Starts s rowReplicaSet 0 0 zeroIo (descOf 0x0207 [0, 0, 1, 0]) ∧ replicaBad (getJob s 0) true 1 7 = false ∧ 1 ∈ (getJob s 0).members)
    ∧ (let s := jobState 0x0207 [1, 0, 1, 0] 0 { runJob plainImage with members := [0] }
       Starts s rowReplicaSet 0 0 zeroIo (descOf 0x0207 [1, 0, 1, 0]) ∧ replicaBad (getJob s 0) false 1 7 = false ∧ 1 ≠ (getJob s 0).policy.replica)
    ∧ (let d := { descOf 0x0208 (toLe 4 1 ++ toLe 4 7 ++ toLe 4 384 ++ toLe 4 0) with inLen := 416 }
       let b := plainImage ++ cutBytes 1
       let s := jobState 0x0208 (toLe 4 1 ++ toLe 4 7 ++ toLe 4 384 ++ toLe 4 0) 416 (runJob plainImage)
       Starts s rowReshard 0 0 ⟨b, none, false⟩ d ∧ b.length = 416 ∧ b.take 384 = plainImage ∧ reshardDiffers (parseImage plainImage) (parseImage (b.take 384)) = false
         ∧ cutBad s (parseCut (b.drop 384)) = false ∧ (parseCut (b.drop 384)).epoch = 1 ∧ 5 + 2 ≤ d.par 4 4) := by decide +kernel

/-- A round policy of mode 0 without partners and with one address. -/
def policyBytes : List Byte := padTo 0 128 ([0, 0, 0, 0, 0, 1, 0, 0] ++ toLe 4 1000 ++ toLe 4 0 ++ toLe 4 0x3F800000 ++ List.replicate 28 0 ++ toLe 4 0 ++ toLe 2 1 ++ [0, 0]
  ++ toLe 8 0 ++ toLe 8 0 ++ toLe 4 0 ++ toLe 4 0x3F800000) ++ List.replicate 32 0

theorem witness_rounds :
    (let d := { descOf 0x0301 [] with inLen := 160 }
     let s := jobState 0x0301 [] 160 (oneJob roundImage)
     Starts s (rowRoundPolicy (frontMasters s 0 0)) 0 0 ⟨policyBytes, none, false⟩ d ∧ policyBytes.length = 160 ∧ roundRange (parsePolicy policyBytes 0) = true
       ∧ (masters (parseImage roundImage)).length = 0 ∧ contextsIn s 0 0 0 = true ∧ roundPassed s (getJob s 0) (parseImage roundImage) = false ∧ (getJob s 0).round.saved = none)
    ∧ (let b := [9, 2, 0, 0] ++ toLe 4 0 ++ toLe 4 1000 ++ toLe 4 0x3F800000 ++ List.replicate 48 0
       let d := { descOf 0x0302 [1] with inLen := 64 }
       let s := jobState 0x0302 [1] 64 { oneJob roundImage with round := { RoundSt.reset with policy := some (parsePolicy policyBytes 0) } }
       let t : State := { s with cipher := { s.cipher with slots := [(0, { KeySlot.reset with st := 1 })] } }
       Starts t (rowSiteAdmit (frontMasters t 0 0)) 0 0 ⟨b, none, false⟩ d ∧ b.length = 64 ∧ partnerRange (parsePartner (b.take 32) []) 2 = true ∧ keyInstalled t 0 0 = true) := by
  decide +kernel
/-- FIPS 197, C.3, and the inverse cipher on its result. -/
theorem test_aes_vector : aesEnc (roundKeys (List.range 32)) ((List.range 16).map (fun k => 17 * k)) = unpackBytes 16 0x8960494b9049fceabf456751cab7a28e
    ∧ aesDec (roundKeys (List.range 32)) (unpackBytes 16 0x8960494b9049fceabf456751cab7a28e) = (List.range 16).map (fun k => 17 * k) := by decide +kernel

/-- The table of the S-box holds the values of its definition, and the two tables are inverse to each other. -/
theorem test_sbox_tables : ∀ a, a < 256 → sbox a = sboxOf a ∧ invSbox (sbox a) = a := by decide +kernel

/-- RFC 3394, 4.6: 256 bits of key data under a 256-bit key. -/
theorem test_kw_vector : kwUnwrap 4 ((List.range 32).map (BitVec.ofNat 8)) (toBe 40 0x28C9F404C4B810F4CBCCB35CFB87F8263F5786E2D80ED326CBC7F0E71A99F43BFB988B9B7A02DD21)
    = some (toBe 32 0x00112233445566778899AABBCCDDEEFF000102030405060708090A0B0C0D0E0F) := by decide +kernel

/-- A module that names its own key 00 01 … 1F; partition 0 holds slots 0 to 3. -/
def keyState (op : Nat) (params : List Byte) (inLen : Nat) (k : KeySlot) : State :=
  let s := withRow (fetchedState { descOf op params with inLen := inLen })
  { s with cipher := { s.cipher with moduleKey := some ((List.range 32).map (BitVec.ofNat 8)), slots := [(3, k)] } }
/-- The key 64 65 … 83 for slot 3 of partition 0 with USE 1 and KEY_ID 0x12345678, wrapped. -/
def wrappedKey : List Byte := toBe 48 0x1266368a1769c35cfb3a0c0316575da6be135e391f8201cef586a8db0e907ff3af69982da2b2ce293d60df4755aba9dc
def unwrappedKey : List Byte := (span 100 32).map (BitVec.ofNat 8) ++ [3, 0, 0, 1, 0x78, 0x56, 0x34, 0x12]
def heldSlot : KeySlot := { KeySlot.reset with use := 1, part := 0, st := 1, cur := some (unwrappedKey.take 32, 7) }

theorem test_kw_install : kwUnwrap 5 ((List.range 32).map (BitVec.ofNat 8)) wrappedKey = some unwrappedKey := by decide +kernel

theorem witness_keys :
    (let d := { descOf 0x0303 [0, 1, 3, 0, 0] with inLen := 48 }
     let s := keyState 0x0303 [0, 1, 3, 0, 0] 48 { KeySlot.reset with part := 0 }
     Starts s (rowKey 48) 0 0 ⟨wrappedKey, none, false⟩ d ∧ wrappedKey.take 48 = wrappedKey ∧ wrapKey s = (List.range 32).map (BitVec.ofNat 8) ∧ namedPart s 0 d = some 0
       ∧ keySlotBad s ⟨0, 0, d, 0, wrappedKey⟩ = false
       ∧ keyStateBad s ⟨0, 0, d, 0, wrappedKey⟩ = false ∧ s.cipher.rngOk = true ∧ fieldLe unwrappedKey 0x20 2 = d.par 2 2 ∧ fieldLe unwrappedKey 0x22 1 = d.par 4 1
       ∧ fieldLe unwrappedKey 0x23 1 = d.par 1 1) := by decide +kernel

theorem witness_key_next :
    (let d := { descOf 0x0303 [1, 1, 3, 0, 0] with inLen := 48 }
     let s := keyState 0x0303 [1, 1, 3, 0, 0] 48 heldSlot
     Starts s (rowKey 48) 0 0 ⟨wrappedKey, none, false⟩ d ∧ (getSlot s 3).next = none ∧ (getSlot s 3).st = 1 ∧ keySlotBad s ⟨0, 0, d, 0, wrappedKey⟩ = false)
    ∧ (let d := { descOf 0x0303 [1, 1, 3, 0, 0] with inLen := 48 }
       let t := keyState 0x0303 [1, 1, 3, 0, 0] 48 { heldSlot with st := 2 }
       Starts t (rowKey 48) 0 0 ⟨wrappedKey, none, false⟩ d ∧ (getSlot t 3).next = none ∧ (getSlot t 3).st = 2) := by decide +kernel

theorem witness_key_others :
    (let d := descOf 0x0303 [2, 1, 3, 0, 0]
     let s := keyState 0x0303 [2, 1, 3, 0, 0] 0 { heldSlot with next := some ([], 8) }
     Starts s (rowKey 0) 0 0 zeroIo d ∧ keySlotBad s ⟨0, 0, d, 0, []⟩ = false ∧ (getSlot s 3).next ≠ none ∧ (getSlot s 3).st ≠ 0)
    ∧ Starts (keyState 0x0303 [3, 1, 3, 0, 0] 0 heldSlot) (rowKey 0) 0 0 zeroIo (descOf 0x0303 [3, 1, 3, 0, 0])
    ∧ Starts (keyState 0x0303 [4] 40 heldSlot) rowModuleKey 0 0
        ⟨toBe 40 0x28C9F404C4B810F4CBCCB35CFB87F8263F5786E2D80ED326CBC7F0E71A99F43BFB988B9B7A02DD21, none, false⟩ { descOf 0x0303 [4] with inLen := 40 }
    ∧ kwUnwrap 5 ((List.range 32).map (BitVec.ofNat 8)) (List.replicate 48 0) = none := by decide +kernel

theorem witness_key_life :
    (let s : State := { keyState 0 [] 0 { heldSlot with prev := some ([], 1) } with time := { hostState.time with tb := 60000000000 } }
     (getSlot s 3).prev ≠ none ∧ (getSlot s 3).activated + 60000000000 ≤ s.time.tb ∧ 59999999999 < (getSlot s 3).activated + 60000000000)
    ∧ (let s := keyState 0 [] 0 { heldSlot with sent := 2 ^ 31 }
       (getSlot s 3).st = 1 ∧ (getSlot s 3).due = false ∧ 2 ^ 31 ≤ (getSlot s 3).sent)
    ∧ (let s := keyState 0 [] 0 { heldSlot with sent := 2 ^ 32 }
       (getSlot s 3).next = none ∧ 2 ^ 32 ≤ (getSlot s 3).sent)
    ∧ (let s : State := { keyState 0 [] 0 { heldSlot with next := some ([], 2) } with time := { hostState.time with tb := 86400000000000 } }
       (getSlot s 3).next ≠ none ∧ (getSlot s 3).activated + 86400000000000 ≤ s.time.tb)
    ∧ hostState.cipher.rngOk = true ∧ ({ hostState with cipher := { hostState.cipher with rngOk := false } } : State).cipher.rngOk = false := by decide +kernel

/-- The Galois/Counter Mode specification, test case 14. -/
theorem test_gcm_vector : gcmSeal (List.replicate 32 0) (List.replicate 12 0) [] (List.replicate 16 0)
    = (toBe 16 0xcea7403d4d606b6e074ec5d3baf39d18, toBe 16 0xd0d1c8a799996bf0265b98b5d48ab919) := by decide +kernel

/-- SP 800-38A, F.2.5 and F.3.17: the first block of CBC and of CFB-128, from the keystream of a known counter block. -/
theorem test_store_round_trip : (let key := (List.range 32).map (BitVec.ofNat 8)
    let d := (List.range 32).map (BitVec.ofNat 8)
    [3, 4, 5].all (fun use => storeDec use key (List.replicate 12 7) (storeEnc use key (List.replicate 12 7) d) == d)) = true := by decide +kernel

theorem witness_cipher :
    (let s := keyState 0 [] 0 heldSlot
     pickCore s true = some (0, 0) ∧ isGcm (getSlot s 3).use = true ∧ (getSlot s 3).st = 1 ∧ genOver s (getSlot s 3) = false
       ∧ (getSlot s 3).cur = some (unwrappedKey.take 32, 7) ∧ pickCore s false = some (0, 0) ∧ keyFor (getSlot s 3) (bit 0 7) = some (unwrappedKey.take 32)
       ∧ keyFor (getSlot s 3) (bit 128 7) = none
       ∧ runs (exec (.cipherEncryptOp 3 false [1] [2, 3] false) s) = true ∧ pickCore (after (exec (.cipherEncryptOp 3 false [1] [2, 3] false) s)) false = some (0, 0)
       ∧ (after (exec (.cipherDecryptOp 3 (List.replicate 12 0) [] [] []) s)).cipher.reply.ok = false)
    ∧ (let s := keyState 0 [] 0 { heldSlot with use := 3 }
       pickCore s true = some (0, 0) ∧ 3 ≤ (getSlot s 3).use ∧ (getSlot s 3).use ≤ 5 ∧ genOver s (getSlot s 3) = false)
    ∧ (getSlot (keyState 0 [] 0 { heldSlot with st := 2 }) 3).st = 2 := by decide +kernel
/-- A buddy in slot 1 behind an UP port 0. -/
def buddyState (op : Nat) (params : List Byte) (j : Job) : State :=
  let s := jobState op params 0 j
  { s with board := { s.board with ports := [(0, { BPort.reset with st := .up })] } }
def freeAns : BuddyAns := ⟨false, 64, [(7, 0, 4, 2048)]⟩

theorem witness_ckpt_config : (let d := descOf 0x0401 [0, 0xFF, 1]
    let s := buddyState 0x0401 [0, 0xFF, 1] (oneJob plainImage)
    Starts s rowCkptConfig 0 0 zeroIo d ∧ d.par 0 1 = 0 ∧ s.board.slotId = 0 ∧ buddyReach s 1 = true ∧ carveBad s (d.par 2 1) = false) := by decide +kernel

theorem witness_ckpt_save : (let d := descOf 0x0401 [1]
    let s := buddyState 0x0401 [1] (oneJob plainImage)
    Starts s rowCkpt 0 0 zeroIo d ∧ namedPart s 0 d = some 0 ∧ s.stock.op = none ∧ buddySlot s = 1 ∧ buddyReach s 1 = true
      ∧ ckptSize (sectionSizes s 0 (parseImage plainImage)) ≤ freeAns.gib * 2 ^ 30) := by decide +kernel

theorem witness_ckpt_restore : (let s := buddyState 0x0401 [2] (oneJob plainImage)
    Starts s rowCkpt 0 0 zeroIo (descOf 0x0401 [2]) ∧ heldFor (getJob s 0) freeAns ≠ none ∧ (getJob s 0).phase ≠ .running)
    ∧ (let s := buddyState 0x0401 [3] (oneJob plainImage)
       Starts s rowCkpt 0 0 zeroIo (descOf 0x0401 [3]) ∧ heldFor (getJob s 0) freeAns ≠ none)
    ∧ (let s := buddyState 0x0401 [4] (oneJob plainImage)
       Starts s rowCkpt 0 0 zeroIo (descOf 0x0401 [4]))
    ∧ (let s := jobState 0x0401 [4] 0 (oneJob plainImage)
       Starts s rowCkpt 0 0 zeroIo (descOf 0x0401 [4]) ∧ buddyReach s (buddySlot s) = false) := by decide +kernel

def ckptOp (restore : Bool) (ph : SavePhase) : CkptOp := ⟨0, (7, 0), restore, false, ph, 6, 4096, ⟨0, 0, 0, 0, 0⟩⟩
def savingState (restore : Bool) (ph : SavePhase) (j : Job) : State :=
  let s := buddyState 0 [] j
  { s with stock := { s.stock with op := some (ckptOp restore ph), serves := some 1, held := [⟨1, 9, 0, 0, 0, 4096, false⟩, ⟨1, 8, 3, 2, 4096, 2048, true⟩] } }

theorem witness_ckpt_course :
    (let s := savingState false .waiting (oneJob plainImage)
     s.stock.op = some (ckptOp false .waiting) ∧ (getJob s 0).image = some (parseImage plainImage) ∧ (getJob s 0).phase ≠ .running)
    ∧ (let s := savingState false .waiting { runJob plainImage with held := true, holds := [.hostPause] }
       (getJob s 0).phase = .running ∧ (getJob s 0).held = true)
    ∧ (let s := savingState false .reading { runJob plainImage with held := true, holds := [.snapshot] }
       (getJob s 0).holds = [.snapshot] ∧ (getJob s 0).ingress = [])
    ∧ (savingState false .sent (oneJob plainImage)).stock.op = some (ckptOp false .sent) ∧ (savingState true .waiting (oneJob plainImage)).stock.op = some (ckptOp true .waiting)
    ∧ (hostState.stock.op = none) := by decide +kernel

theorem witness_stockpile :
    (let s := savingState false .waiting (oneJob plainImage)
     s.stock.held.find? (fun g => g.sender == 1 && g.tag == 9 && !g.complete) = some ⟨1, 9, 0, 0, 0, 4096, false⟩ ∧ s.stock.serves = some 1 ∧ zeroBlk.off + 2048 ≤ 4096
       ∧ 2048 + 2048 ≤ 4096 ∧ zeroBlk.data.length = 2048 ∧ Mem.wf s.mem.bytes = true
       ∧ stockBase s (s.stock.held.filter (fun h => h.complete || !(h.sender == 1 && h.tag == 9))) 2048 ≠ none
       ∧ s.stock.held.find? (fun g => g.sender == 1 && g.tag == 8 && g.complete && g.build == 3) = some ⟨1, 8, 3, 2, 4096, 2048, true⟩
       ∧ buddyReach s (buddySlot s) = true)
    ∧ buddyReach hostState (buddySlot hostState) = false := by decide +kernel
/-- The master of one FP32 block. -/
def masterEnt : TensorEnt := { id := 5, cls := 2, format := 1, block := 0, rounding := 0, layer := 0xFFFFFFFF, dims := [32, 32], shard := [0], epoch := 0, scale := 0x3F800000, offset := 0, buffer := 0 }
/-- An image with one master shard of one FP32 element block, tensor 5 at coordinates 0 of epoch 0, in a buffer at 0x200000. -/
def masterImage : Image := { parseImage plainImage with
  buffers := [⟨0x200000, 0x200000, 0, 0⟩]
  tensors := [masterEnt] }
def masterJob : Job := { oneJob plainImage with image := some masterImage, shardBase := 0x300000, owners := [(0, 1)] }
def storeKey : KeySlot := { heldSlot with use := 3 }
/-- A command of a code with its buffer lengths on a module with one master shard and a STORE_CTR key in slot 3. -/
def shardState (op : Nat) (params : List Byte) (inLen outLen : Nat) : State :=
  let s := withRow { fetchedState { descOf op params with inLen := inLen, outLen := outLen, outAddr := 0x10000 } with jobs := [(0, masterJob)] }
  { s with cipher := { s.cipher with slots := [(3, storeKey)] } }
def exportParams (a : Nat) : List Byte := [BitVec.ofNat 8 a, 0, 3, 0, 0, 0, 0, 0, 5, 0, 0, 0]

theorem witness_export : (let d := { descOf 0x0402 (exportParams 0) with outLen := 4160, outAddr := 0x10000 }
    let s := shardState 0x0402 (exportParams 0) 0 4160
    let c : Call := ⟨0, 0, d, 0, []⟩
    Starts s rowExport 0 0 zeroIo d ∧ namedPart s 0 d = some 0 ∧ pickCore s true ≠ none ∧ genOver s (getSlot s 3) = false ∧ shardRefusal s c false = none
      ∧ (shardNamed s c).map (fun x => x.2.2) = some 0 ∧ ((objectAreas masterImage masterEnt false).map Prod.snd).sum = 4096
      ∧ rdTagged s 0x200000 4096 = false ∧ bit d.flags 0 = false ∧ Mem.wf s.host.hostMem = true
      ∧ ((getRing s 0 0).cqBase.toNat / 4096 * 4096 + 32 * ((getRing s 0 0).cqWi % cfgSize (getRing s 0 0).cfg)) + 32 ≤ d.outAddr) := by decide +kernel

theorem crcBitsF_zero (w poly n : Nat) : crcBitsF w poly n 0 = 0 := by
  induction n with
  | zero => rfl
  | succ k ih => simp [crcBitsF, ih]

theorem crc64_zeros (n : Nat) : crc64 (List.replicate n 0) = 0 := by
  unfold crc64 crcF
  induction n with
  | zero => rfl
  | succ k ih => simpa [List.replicate_succ, crcBitsF_zero] using ih

theorem crc64_pad (n : Nat) : crc64 (padTo 0 n []) = 0 := by simpa [padTo] using crc64_zeros n

/-- An object of no bytes at version 5, whose master is all zeros. -/
def emptyObject (version tally : Nat) : List Byte := padTo 0 64 (toLe 4 0x48535844 ++ [3, 0, 0, 0] ++ List.replicate 16 0 ++ toLe 4 version ++ toLe 4 0 ++ toLe 8 0 ++ toLe 8 tally)

theorem witness_import : (let d := { descOf 0x0402 (exportParams 1) with inLen := 64, outAddr := 0x10000 }
    let s := shardState 0x0402 (exportParams 1) 64 0
    let c : Call := ⟨0, 0, d, 0, emptyObject 5 0⟩
    Starts s rowImport 0 0 ⟨emptyObject 5 0, none, false⟩ d ∧ shardRefusal s c false = none ∧ (emptyObject 5 0).length = 64 + fieldLe (emptyObject 5 0) 0x20 8
      ∧ keyFor (getSlot s 3) (bit ((((emptyObject 5 0).drop 0x30).headD 0).toNat) 7) = some (unwrappedKey.take 32) ∧ fieldLe (emptyObject 5 0) 0x18 4 = (getJob s 0).step
      ∧ fieldLe (emptyObject 4 0) 0x18 4 ≠ (getJob s 0).step ∧ storeDec 3 (unwrappedKey.take 32) (List.replicate 12 0) [] = [] ∧ tensorBytes masterEnt = 4096
      ∧ fieldLe (emptyObject 5 0) 0x28 8 = 0 ∧ fieldLe (emptyObject 5 1) 0x28 8 = 1 ∧ exchangeOf masterImage 1 masterEnt = none ∧ s.mem.failedLs = [] ∧ Mem.wf s.mem.bytes = true)
    ∧ crc64 (padTo 0 4096 (List.take 4096 [])) = 0 :=
  ⟨by decide +kernel, by rw [List.take_nil]; exact crc64_pad 4096⟩

def copyParams (dir a n : Nat) : List Byte := toLe 8 dir ++ toLe 8 a ++ toLe 8 n
/-- A copy command on a module whose page 1 belongs to partition 0. -/
def copyState (dir a n inLen outLen : Nat) : State :=
  let s := withRow (fetchedState { descOf 0x0403 (copyParams dir a n) with inLen := inLen, outLen := outLen, outAddr := 0x10000 })
  { s with mem := { s.mem with pages := [(1, 0x8000)] } }

theorem witness_copy :
    (let d := { descOf 0x0403 (copyParams 0 0x200040 64) with inLen := 64, outAddr := 0x10000 }
     let s := copyState 0 0x200040 64 64 0
     Starts s (rowCopy s 0) 0 0 ⟨z64, none, false⟩ d ∧ copyEngine s ≠ none ∧ copyHomeless s 0 = false ∧ hostCause s 0 0x200040 64 = none
       ∧ pageComp (pageEntry s 1) = false ∧ z64.length = d.inLen)
    ∧ (let d := { descOf 0x0403 (copyParams 1 0x200040 64) with outLen := 64, outAddr := 0x10000 }
       let s := copyState 1 0x200040 64 0 64
       Starts s (rowCopy s 0) 0 0 zeroIo d ∧ rdTagged s 0x200040 64 = false)
    ∧ (let d := { descOf 0x0403 (copyParams 0 0 64) with inLen := 64, outAddr := 0x10000 }
       let s := copyState 0 0 64 64 0
       Starts s (rowCopy s 0) 0 0 ⟨z64, none, false⟩ d ∧ copyEngine s = some 0 ∧ hostCause s 0 0 64 = some 0 ∧ meetsReset s 0 64 = false)
    ∧ (let s : State := { hostState with host := { hostState.host with copyFrozen := List.range 8 } }
       copyEngine s = none) := by decide +kernel

theorem witness_reports :
    (let d := { descOf 0x0501 (toLe 4 1 ++ toLe 4 0 ++ toLe 4 4) with outLen := 256, outAddr := 0x10000 }
     let s := fetchedState d
     let c : Call := ⟨0, 0, d, 0, []⟩
     Starts s rowTelemetry 0 0 zeroIo d ∧ namedPart s 0 d = some 0 ∧ d.par 0 1 = 1 ∧ d.par 4 4 + d.par 8 4 ≤ (teleRecords s c).length
       ∧ ((((teleRecords s c).drop 0).take 4).flatMap id).length = 256)
    ∧ (let d := { descOf 0x0502 [] with outLen := 192, outAddr := 0x10000 }
       Starts (fetchedState d) rowSpareStatus 0 0 zeroIo d)
    ∧ (let d := descOf 0x0503 ([0, 0] ++ toLe 2 100 ++ toLe 2 575)
       Starts (fetchedState d) rowSelftestPolicy 0 0 zeroIo d ∧ 100 ≤ d.par 2 2 ∧ d.par 4 2 ≤ 575)
    ∧ (let d := descOf 0x0503 ([0, 0] ++ toLe 2 99 ++ toLe 2 576)
       Starts (fetchedState d) rowSelftestPolicy 0 0 zeroIo d ∧ d.par 2 2 < 100 ∧ 575 < d.par 4 2 ∧ d.par 4 2 ≠ 0xFFFF) := by decide +kernel

/-- An image header of 512 B for an image of `size` bytes in `chunks` chunks. -/
def fwHeader (size chunks : Nat) : List Byte :=
  padTo 0 512 (toLe 4 0x57465350 ++ toLe 2 1 ++ toLe 2 0x0A09 ++ [0xB0, 0, 0, 0] ++ toLe 4 1 ++ toLe 8 size ++ toLe 4 chunks)
def fwState (op : Nat) (params : List Byte) (inLen : Nat) (g : FwSt → FwSt) : State :=
  let s := fetchedState { descOf op params with inLen := inLen }
  { s with fw := g s.fw }

theorem witness_firmware :
    (let d := { descOf 0x0504 [0] with inLen := 512 }
     let s := fwState 0x0504 [0] 512 (fun x => { x with hdr := some (fwHeader 512 1) })
     Starts s rowFwChunk 0 0 ⟨fwHeader 512 1, none, false⟩ d ∧ chunkRefusal s 0 (fwHeader 512 1) = none ∧ s.fw.hdr = some (padTo 0 512 ((fwHeader 512 1).take 512)))
    ∧ (let d := { descOf 0x0504 [0] with inLen := 512 }
       let s := fwState 0x0504 [0] 512 (fun x => x)
       Starts s rowFwChunk 0 0 ⟨fwHeader 512 1, none, false⟩ d ∧ chunkRefusal s 0 (fwHeader 512 1) = none ∧ s.fw.hdr = none ∧ chunkRefusal s 0 (fwHeader 511 1) ≠ none
         ∧ chunkRefusal s 1 (fwHeader 512 1) ≠ none)
    ∧ (let s := fwState 0x0505 [] 0 (fun x => { x with hdr := some (fwHeader 512 1), bitmap := [0] })
       Starts s rowFwActivate 0 0 zeroIo (descOf 0x0505 []) ∧ s.fw.op = none ∧ stagedChunks s = 1)
    ∧ (let s := fwState 0x0505 [] 0 (fun x => x)
       Starts s rowFwActivate 0 0 zeroIo (descOf 0x0505 []) ∧ stagedChunks s = 0) := by decide +kernel

/-- A staged image of five sections at 0x1000 to 0x5000; whether its signature holds is the configuration's. -/
def soundStage : Mem := Mem.write (Mem.write [] 0 (fwHeader 0x6000 1)) 0x100
  ((span 1 5).flatMap (fun n => padTo 0 16 (toLe 4 n ++ toLe 4 (4096 * n) ++ toLe 4 16)))
theorem witness_activate :
    (let s := fwState 0 [] 0 (fun x => { x with hdr := some (fwHeader 0x6000 1), stage := soundStage, op := some ⟨0, 0, 0, 0, 0⟩ })
     s.fw.op = some ⟨0, 0, 0, 0, 0⟩ ∧ sectionsOk s.fw.stage = true ∧ fwEncrypted (fwHeader 0x6000 1) = false ∧ s.boot.st ≠ 3
       ∧ sectionsOk (fwState 0 [] 0 (fun x => { x with stage := [] })).fw.stage = false) := by decide +kernel

/-- A datagram with the second piece, one byte, of a chunk of 8,193 bytes. -/
def datagram : List Byte :=
  let d := toBe 2 0x4757 ++ [1, 0] ++ toBe 4 0 ++ [1, 0, 0, 0] ++ (List.replicate 8 0) ++ toBe 2 1 ++ List.replicate 10 0 ++ [9]
  d ++ toBe 4 (crc32c d)

theorem witness_datagram :
    (let s := modSite { hostState with board := { hostState.board with peers := [(0, 77)] }, fw := { hostState.fw with hdr := some (fwHeader 8193 1) } } 0 (fun p => { p with entry := [0, 1] })
     datagramOk s 0 77 datagram = true ∧ s.fw.hdr = some (fwHeader 8193 1) ∧ s.fw.op = none ∧ pieceFits s datagram = true ∧ headerCode s.boot.floor (fwHeader 8193 1) = 0 ∧ s.fw.asm = []
       ∧ 8192 < chunkLen (fwHeader 8193 1) (fieldBe datagram 4 4) ∧ datagramOk s 0 76 datagram = false) := by decide +kernel
/-- A served module in which step n runs under a treatment. -/
def bootState (n t : Nat) : State := { onState with boot := { onState.boot with served := true, st := 1, step := n, treatment := t, passed := n } }

theorem witness_boot_attempts : bootStepOf (.bootStepPower 64000 [] 1) = some 0 ∧ bootStepOf (.bootStepReady 1) = some 13
    ∧ (bootState 0 0).boot.st = 1 ∧ (bootState 13 3).boot.treatment = 3 ∧ (bootState 13 0).boot.step = 13
    ∧ (let s : State := { bootState 0 0 with boot := { (bootState 0 0).boot with st := 0 } }
       goAllowed s 0 = true ∧ treatmentOf s 0 = 0 ∧ goAllowed s 1 = false)
    ∧ (let s : State := { bootState 3 0 with boot := { (bootState 3 0).boot with st := 2, ovr := 5 * 2 ^ 12 } }
       treatmentOf s 3 = 0)
    ∧ (let s : State := { bootState 3 0 with boot := { (bootState 3 0).boot with st := 2, copyA := { LogState.reset with fails := [(3, 2)] } } }
       goAllowed s 3 = true ∧ treatmentOf s 3 = 4) := by decide +kernel

theorem witness_boot_work : (List.range 14).all (fun n => decide ((bootState n 0).boot.st = 1 ∧ (bootState n 0).boot.step = n ∧ (bootState n 0).boot.treatment = 0)) = true
    ∧ (bootState 1 0).power.op ∈ [0] ∧ (bootState 1 0).power.op ∉ [1] ∧ 64000 ≤ 64000 ∧ 78000 < 78001
    ∧ fwSlotOk (bootState 3 0) (romSlot (bootState 3 0) false) = false
    ∧ (let s : State := { bootState 3 0 with fw := { (bootState 3 0).fw with hdrs := [0], slots := [(0, Mem.write [] 0 (fwHeader 512 1))] } }
       fwSlotOk s (romSlot s false) = true)
    ∧ lowestSlot (bootState 12 0) = true
    ∧ (let s := modPort { bootState 12 0 with board := { (bootState 12 0).board with slotId := 1 } } 0 (fun p => { p with st := .up })
       lowestSlot s = false) := by decide +kernel

/-- The end of a NORMAL attempt at step MEMORY, and of READY. -/
theorem test_boot_memory : (after (exec (.bootStepMemory true [] [] 7) (bootState 5 0))).boot.passed = 6 ∧ (after (exec (.bootStepReady 7) (bootState 13 0))).boot.ready = true := by
  decide +kernel
def timeState (tb : Nat) : State :=
  { State.reset with time := { State.reset.time with run := true, tb := tb, keeper := false, loadV := none, lastPulse := 0, lastDriven := 0, comp := 20 }, power := { State.reset.power with pgood := true } }
theorem witness_timeKeeper : (timeState 16777216).time.tb % 2 ^ 24 = 0 := rfl
theorem witness_timeSlew : ((timeState (83886110)).time.run = true ∧ ¬ ((timeState (83886110)).time.lastDriven = (timeState (83886110)).time.tb ∧ (timeState (83886110)).time.keeper = true))
    ∧ (timeState (83886110)).time.loadV = none ∧ (83886110 - 20 + 8388608) / 16777216 * 16777216 = 83886080
    ∧ (timeState (83886110)).boot.unlocked = false ∧ (timeState 0).power.holdNs ≤ 10000000000 := by decide +kernel
theorem test_timeSlewBack : (match exec .tsyncPulseReceive (timeState (83886110)) with | .next t => t.time.slew | _ => .none) = .back 10 := by decide +kernel
theorem witness_timeTakeover : lowestSlot (timeState 67108864) = true ∧ (timeState 67108864).time.lastPulse + 3 * 2 ^ 24 ≤ (timeState 67108864).time.tb
    ∧ (timeState 67108864).time.lastDriven = 0 ∧ (timeState 67108864).time.keeper = false := by decide
/-- A task of station 0 with one input and one output. -/
def ccTask : Task := ⟨0, 0, 1, 0, 1, 5, 0, 0, 0, 0, [⟨0, 2, 0, 9, false⟩], [1], 0, 0, false, (0, 0), []⟩
/-- A station with 64 B of code over the whole first bench row. -/
def ccStation : Station := ⟨[65], 1, 0, 0, 0xFF, 0, 64, 0xFFFFFFFF, 1, 0x1FF, [], []⟩
/-- A conveyor between stations of 64-word tiles. -/
def ccConv : ConvDesc := ⟨0, 0, 1, 0, 0, 0, 64, 64, 18, 9, 5, 0xFFFF, 1⟩
def ccImage : Image := { parseImage plainImage with stations := [ccStation], conveyors := [ccConv, ccConv] }
/-- Bench 0 runs a task of a job whose image has one station and two conveyors; X1 is 5, X2 is 16, and register 3 is poisoned. -/
def ccState : State :=
  modCtx (jobState 0 [] 0 { runJob plainImage with image := some ccImage }) 0 0
    (fun x => { x with running := some ccTask, x := [(1, 5), (2, 16), (3, 7)], xp := 8 })
theorem witness_ccRuns : CcRuns ccState 0 0 0 ccTask := by decide +kernel
theorem witness_ccRegs : xpois (getCtx ccState 0 0) 3 = true ∧ xpois (getCtx ccState 0 0) 1 = false ∧ (getCtx ccState 0 0).mxeQ = []
    ∧ (getCtx ccState 0 0).vseQ = [] ∧ (getCtx ccState 0 0).tputs = [] := by decide +kernel
theorem witness_ccLdSt : fenceWaits (getCtx ccState 0 0) = false ∧ (xreg (getCtx ccState 0 0) 2 + (BitVec.ofNat 14 16376).signExtend 64).toNat = 8
    ∧ ccState.convs = [] ∧ Mem.wf ccState.mem.bytes = true := by decide +kernel
theorem witness_ccTput : votingNow (getBench ccState 0) 0 = none ∧ convDescOf ccState 0 1 = some ccConv ∧ taskLockstep ccTask = false
    ∧ ccTask.outs.getD 0 0xFFFF = 1 ∧ (xreg (getCtx ccState 0 0) 2).toNat + 64 * (convWords ccConv - 1) ≤ 0x120000 := by decide +kernel
theorem witness_ccSend : maySend ccState 0 1 ccConv = true := by decide +kernel
theorem witness_ccFull : maySend (modConv ccState 0 1 (fun c => { c with slots := (List.range 18).map (fun n => ⟨n, 0, true, false, []⟩) })) 0 1 ccConv = false := by decide +kernel
theorem witness_ccFence : fenceWaits { getCtx ccState 0 0 with fence := 1, mxeQ := [⟨0, 0, 0, 0⟩] } = true := by decide
theorem witness_ccPc : 64 ≤ ({ getCtx ccState 0 0 with pc := 64 } : BCtx).pc.toNat := by decide +kernel
theorem witness_ccWait : (1 : Nat).testBit 0 = true ∧ ({ getCtx ccState 0 0 with mxeQ := [⟨0, 0, 0, 0⟩] } : BCtx).mxeQ ≠ [] := by decide +kernel
theorem test_aluMin : aluOp 0x0B 5 (-7) = some (-7) := by decide
theorem test_bltSigned : (getCtx (after (exec (.blt 0 0 1 2 4) ccState)) 0 0).pc = 16 := by decide +kernel

/-- Both queues of a bench full, and an address just past its window's region. -/
def ccFull : State := modCtx ccState 0 0 (fun x => { x with mxeQ := List.replicate 8 ⟨0, 0, 0, 0⟩, vseQ := List.replicate 8 ⟨0, [0, 0, 0, 0], 0⟩, fence := 1, x := [(2, 0x120000)] })
theorem witness_ccFullQueues : CcRuns ccFull 0 0 0 ccTask ∧ 8 ≤ (getCtx ccFull 0 0).mxeQ.length ∧ 8 ≤ (getCtx ccFull 0 0).vseQ.length ∧ fenceWaits (getCtx ccFull 0 0) = true := by
  decide +kernel
theorem witness_ccOutside : let s := modCtx ccState 0 0 (fun x => { x with x := [(2, 0x120000)] })
    CcRuns s 0 0 0 ccTask ∧ 0x120000 ≤ (xreg (getCtx s 0 0) 2 + (BitVec.ofNat 14 0).signExtend 64).toNat ∧ fenceWaits (getCtx s 0 0) = false
    ∧ 0x120000 < (xreg (getCtx s 0 0) 2).toNat + 64 * (convWords ccConv - 1) := by decide +kernel
/-- A task that has freed its input and sent its first tile before. -/
def ccAgain : Task := { ccTask with ins := [⟨0, 2, 0, 9, true⟩], sent := [0] }
theorem witness_ccAgain : let s := modCtx ccState 0 0 (fun x => { x with running := some ccAgain })
    CcRuns s 0 0 0 ccAgain ∧ ccAgain.ins[0]? = some ⟨0, 2, 0, 9, true⟩ ∧ unsettled s 0 0 ccAgain = false ∧ ccAgain.sent.contains (getCtx s 0 0).tputN = true := by decide +kernel
def mxeState (fn : Nat) : State := modCtx ccState 0 0 (fun x => { x with mxeQ := [⟨fn, 64, 0x3F800000, 0⟩], vseQ := [] })
/-- The first bytes of an operand block: WRITE or KEEP of M 1, N 1, K 0, FP32. -/
def prodBytes (keep : Bool) : List Byte := [if keep then 8 else 0, 0, 1, 1, 1, 0] ++ toLe 2 1 ++ toLe 2 1 ++ toLe 2 0
def prodState (keep : Bool) : State := applyCells (mxeState 0) (cellsOf (windowAddr 0 64) (putBytes (prodBytes keep ++ List.replicate 116 0) 0x20 (toLe 8 0x800000000400)) false)
theorem witness_mxeRuns : MxeRuns (mxeState 3) 0 0 0 ccTask ccStation ⟨3, 64, 0x3F800000, 0⟩ := by decide +kernel
theorem witness_product : let s := prodState false
    let p := parseProd (rdData s (windowAddr 0 64) 128)
    MxeRuns s 0 0 0 ccTask ccStation ⟨0, 64, 0x3F800000, 0⟩ ∧ prodFault p false = false ∧ firstViolation (ownCause s 0 0) (prodRanges p) = none ∧ p.outMode ≠ 2 ∧ p.way = 0 ∧ p.c.fmt = 1
    ∧ p.empty = true := by decide +kernel
theorem witness_productKeep : let s := prodState true
    let p := parseProd (rdData s (windowAddr 0 64) 128)
    prodFault p false = false ∧ firstViolation (ownCause s 0 0) (prodRanges p) = none ∧ p.outMode = 2 := by decide +kernel
theorem witness_productBad : prodFault (parseProd (List.replicate 128 0)) false = true := by decide +kernel
/-- Station code with one stream instruction, WR of IMM to slot S0, and a stream of one row and one column with FP32 slot S0. -/
def vseImage : Image := { ccImage with code := toLe 8 (0x20 * 2 ^ 56 + 0x1C * 2 ^ 44 + 0x3F800000) }
def vseBytes : List Byte :=
  putBytes (putBytes (List.replicate 384 0) 0 ([0, 0, 1, 0, 0, 0, 0, 0] ++ toLe 4 1 ++ toLe 4 1 ++ List.replicate 8 0 ++ [0xFF, 0xFF, 0])) 0x80
    (toLe 8 0x800000000400 ++ toLe 8 0 ++ toLe 4 4096 ++ [1, 0, 2, 0])
def vseState : State := applyCells (modJob (modCtx ccState 0 0 (fun x => { x with vseQ := [⟨64, [0, 0, 0, 0], 0⟩] })) 0 (fun j => { j with image := some vseImage }))
  (cellsOf (windowAddr 0 64) vseBytes false)
theorem witness_vseRuns : VseRuns vseState 0 0 0 ccTask ccStation vseImage ⟨64, [0, 0, 0, 0], 0⟩ := by decide +kernel
theorem witness_vseOk : let d := readStream (checkReads vseState 0 [(windowAddr 0 64, 384)]) (windowAddr 0 64)
    let p := programOf vseImage ccStation d
    streamOk d ccStation false p = true ∧ firstViolation (unitCause vseState 0) (streamRanges d) = none ∧ d.maskSlot = 0xFF ∧ d.mode = 0 ∧ p.length = 1
    ∧ p.map (fun i => (i.op, i.a, i.d)) = [(0x20, 0x1C, 0)] ∧ d.histEn = false ∧ vseState.mem.pages = [] := by decide +kernel
theorem witness_vseBad : streamOk (parseStream (List.replicate 384 0)) ccStation false [] = false := by decide +kernel
theorem witness_accWait : streamReadsAcc (applyCells vseState (cellsOf (windowAddr 0 64 + 0x96) [1, 1] false)) 0 64 = true := by decide +kernel
def grantState : State := modCtx ccState 0 0 (fun x => { x with tputs := [⟨1, 0, .waiting 0, []⟩] })
theorem witness_grant : maySend grantState 0 1 ccConv = true ∧ rotatePick 576 (getConv grantState 0 1).prodPtr (fun lb => partOfLb grantState lb == some (0 / 2) &&
    (getCtx grantState lb (0 % 2)).tputs.any (fun w => w.conv == 1 && (match w.phase with | .waiting _ => true | _ => false))) = some 0 := by decide +kernel
def landState : State := modConv (modCtx ccState 0 0 (fun x => { x with tputs := [⟨1, 0, .sending 32768, []⟩] })) 0 1 (fun c => { c with slots := [⟨1, 0, false, false, []⟩] })
theorem witness_land : (landState.benches.map Prod.fst).find? (fun lb => partOfLb landState lb == some (0 / 2) &&
    (getCtx landState lb (0 % 2)).tputs.any (fun w => w.conv == 1 && w.phase == .sending (1 * 32768 + 0))) = some 0 := by decide +kernel

def mxeAt (fn off : Nat) : State := modCtx ccState 0 0 (fun x => { x with mxeQ := [⟨fn, off, 0x3F800000, 0⟩], vseQ := [] })
theorem witness_mxeOutside : ([0, 1, 2].all (fun fn => decide (MxeRuns (mxeAt fn 0x11FFC0) 0 0 0 ccTask ccStation ⟨fn, 0x11FFC0, 0x3F800000, 0⟩
    ∧ MxeRuns (mxeAt fn 1) 0 0 0 ccTask ccStation ⟨fn, 1, 0x3F800000, 0⟩))) = true ∧ 0x120000 < 0x11FFC0 + 128 ∧ 1 % 64 ≠ 0 := by decide +kernel
/-- An operand block whose operand A lies in the window of another bench. -/
def prodElse : State := applyCells (mxeState 0) (cellsOf (windowAddr 0 64) (putBytes (prodBytes false ++ List.replicate 116 0) 0x20 (toLe 8 0x800000200400)) false)
theorem witness_productElse : let p := parseProd (rdData prodElse (windowAddr 0 64) 128)
    prodFault p false = false ∧ (firstViolation (ownCause prodElse 0 0) (prodRanges p)).isSome = true := by decide +kernel
def vseAt (off : Nat) : State := modCtx vseState 0 0 (fun x => { x with vseQ := [⟨off, [0, 0, 0, 0], 0⟩] })
theorem witness_vseOutside : VseRuns (vseAt 0x11FF00) 0 0 0 ccTask ccStation vseImage ⟨0x11FF00, [0, 0, 0, 0], 0⟩ ∧ 0x120000 < 0x11FF00 + 384
    ∧ VseRuns (vseAt 1) 0 0 0 ccTask ccStation vseImage ⟨1, [0, 0, 0, 0], 0⟩ := by decide +kernel
theorem witness_vseWaits : let s := modCtx (applyCells vseState (cellsOf (windowAddr 0 64 + 0x96) [1, 1] false)) 0 0 (fun x => { x with mxeQ := [⟨0, 0, 0, 0⟩], vseQ := [⟨64, [0, 0, 0, 0], 1⟩] })
    VseRuns s 0 0 0 ccTask ccStation vseImage ⟨64, [0, 0, 0, 0], 1⟩ ∧ streamReadsAcc s 0 64 = true ∧ (getCtx s 0 0).mxeQ.any (fun m => decide (m.seq < 1)) = true := by decide +kernel
def stealState : State :=
  modBench (modBench (modCtx ccState 1 0 (fun x => { x with queue := [ccTask, { ccTask with seq := 2 }, { ccTask with seq := 3 }], running := some { ccTask with seq := 1 } })) 1
    (fun b => { b with cache := [⟨0, 0, true, false⟩] })) 0 (fun b => { b with steal := some ⟨1, 0, 0, 0, .none⟩ })
theorem witness_stealGrantable : present stealState 1 = true ∧ (getBench stealState 1).failed = false ∧ benchIdle stealState 1 = false ∧ jobOf stealState 1 0 = some 0
    ∧ 2 ≤ readyCount stealState 0 1 0 ∧ (getBench stealState 0).steal = some ⟨1, 0, 0, 0, .none⟩ := by decide +kernel
theorem test_stealGrants : (getBench (after (exec (.stealRequest 1 [0]) stealState)) 0).steal = some ⟨1, 0, 0, 0, .granted { ccTask with seq := 3 }⟩ := by decide +kernel
theorem witness_stealFew : let s := modCtx stealState 1 0 (fun x => { x with queue := [ccTask] })
    readyCount s 0 1 0 < 2 ∧ benchIdle s 1 = false := by decide +kernel
theorem witness_stealGranted : let s := modBench ccState 0 (fun b => { b with steal := some ⟨1, 0, 0, 0, .granted ccTask⟩ })
    (getBench s 0).steal = some ⟨1, 0, 0, 0, .granted ccTask⟩ ∧ jobOf s 0 0 = some 0 := by decide +kernel
theorem witness_stealRefused : let s := modBench ccState 0 (fun b => { b with steal := some ⟨1, 0, 0, 0, .refused⟩ })
    (getBench s 0).steal = some ⟨1, 0, 0, 0, .refused⟩ ∧ jobOf s 0 0 = some 0 := by decide +kernel
def lockTask : Task := { ccTask with flags := 8 }
/-- Benches 0 and 1 are a pair of station 0 whose copies wait for their signatures. -/
def lockState (a b : List CWord) : State :=
  let put := fun (s : State) (lb : Nat) (w : List CWord) => modCtx s lb 0 (fun x => { x with running := some lockTask, tputs := [⟨1, 0, .signing, w⟩], tputN := 1 })
  modJob (put (put ccState 0 a) 1 b) 0 (fun j => { j with pairs := [(0, [(0, 1)])] })
theorem witness_lockEqual : let s := lockState [(192, [1])] [(192, [1])]
    jobOf s 0 0 = some 0 ∧ (getCtx s 0 0).running = some lockTask ∧ pairOf (getJob s 0) 0 0 = some 1 ∧ firstSigning (getCtx s 0 0) = some 0
    ∧ signingAt (getCtx s 0 0) 0 = some 0 ∧ signingAt (getCtx s 1 0) 0 = some 0 := by decide +kernel
theorem witness_lockDiffer : signature [(192, [1])] ≠ signature [(192, [2])] ∧ chooseVoter (lockState [(192, [1])] [(192, [2])]) 0 0 0 1 = some 2 := by decide +kernel
/-- Bench 2 has run the vote's copy. -/
def voteState (w a b : List CWord) : State :=
  modBench (modCtx (lockState a b) 2 0 (fun x => { x with running := some lockTask, tputs := [⟨1, 0, .signing, w⟩] })) 2
    (fun b => { b with votes := [⟨0, 1, 0, 2, 0, lockTask⟩] })
theorem witness_vote : let s := voteState [(192, [1])] [(192, [1])] [(192, [2])]
    votingNow (getBench s 2) 0 = some ⟨0, 1, 0, 2, 0, lockTask⟩ ∧ signingAt (getCtx s 2 0) 0 = some 0 ∧ present s 1 = true ∧ (getBench s 1).failed = false
    ∧ partOfLb s 1 = some 0 ∧ present s 0 = true ∧ (getBench s 0).failed = false ∧ partOfLb s 0 = some 0 := by decide +kernel
theorem witness_voteLow : signature [(192, [2])] ≠ signature [(192, [1])] ∧ signature [(192, [3])] ≠ signature [(192, [1])] ∧ signature [(192, [3])] ≠ signature [(192, [2])] := by
  decide +kernel
theorem witness_benchFailed : present ccState 0 = true ∧ (getBench ccState 0).failed = false ∧ partOfLb ccState 0 = some 0 ∧ present ccState 9 = false := by decide +kernel
def failedState : State := modBench ccState 0 (fun b => { b with failed := true, cause := 1 })
theorem witness_spared : Tab.find failedState.boot.phys 0 = some 0 ∧ spareFor failedState 0 0 = some 9 := by decide +kernel
theorem witness_absent : spareFor (modBoot failedState (fun b => { b with pbOut := [9] ++ (List.range 10).map (· + 10) })) 0 0 = none := by decide +kernel
theorem witness_row : let s := modBench (jobState 0 [] 0 (runJob plainImage)) 0 (fun b => { b with rowDue := [⟨5, 0, 0, true⟩] })
    (getBench s 0).rowDue.find? (fun z => z.row == 5) = some ⟨5, 0, 0, true⟩ ∧ rowMayGo s 0 ⟨5, 0, 0, true⟩ = true ∧ rowMayGo s 0 ⟨5, 0, 0, false⟩ = false ∧ bankFull s ((Tab.find s.boot.phys 0).getD 0) (5 / 256) = false := by decide +kernel
theorem witness_rowFull : let s := modBoot ccState (fun b => { b with factory := [unitKey 1 1, unitKey 1 2] })
    bankFull s 0 (5 / 256) = true := by decide +kernel
theorem witness_tend : workDone (getCtx ccState 0 0) 7 = true ∧ votingNow (getBench ccState 0) 0 = none ∧ partnerTask ccState 0 0 ccTask = none
    ∧ isTree ccStation = false ∧ ccStation.kind = 1 ∧ taskKeep ccTask = false ∧ taskCont ccTask = false := by decide +kernel
theorem witness_tendWaits : workDone { getCtx ccState 0 0 with mxeQ := [⟨0, 0, 0, 0⟩] } 7 = false := by decide +kernel
theorem witness_boundary : mayAdvance (modJob (modCtx (modBench ccState 0 (fun b => { b with cache := [⟨0, 0, true, false⟩] })) 0 0 (fun x => { x with queue := [{ ccTask with step := 6 }] })) 0
    (fun j => { j with image := some { ccImage with stations := [{ ccStation with layer := 0xFFFFFFFF }] } })) 0 = true := by decide +kernel
theorem witness_limit : let s := modJob (jobState 0 [] 0 (runJob plainImage)) 0 (fun j => { j with step := 0xFFFFFFFD, image := some { ccImage with stations := [] } })
    (getJob s 0).phase = .running ∧ (getJob s 0).stepOpen = true ∧ (getJob s 0).probe = none ∧ lastStep (getJob s 0) ≤ (getJob s 0).step
    ∧ drainedBefore s 0 ((getJob s 0).step + 1) = true ∧ roundsQuiet s 0 ((getJob s 0).step + 1) = true := by decide +kernel

/-- A pair whose copies differ on a module without a third bench. -/
def lockAlone : State := modBoot (lockState [(192, [1])] [(192, [2])]) (fun b => { b with phys := [(0, 0), (1, 1)] })
theorem witness_noVoter : chooseVoter lockAlone 0 0 0 1 = none ∧ firstSigning (getCtx lockAlone 0 0) = some 0 ∧ signingAt (getCtx lockAlone 1 0) 0 = some 0
    ∧ lockAlone.benches.all (fun e => e.2.votes.isEmpty) = true := by decide +kernel
/-- Both copies of a lockstep task at their end. -/
def lockEnd : State :=
  modJob (modCtx (modCtx ccState 0 0 (fun x => { x with running := some lockTask })) 1 0 (fun x => { x with running := some lockTask })) 0 (fun j => { j with pairs := [(0, [(0, 1)])] })
theorem witness_lockEnd : CcRuns lockEnd 0 0 0 lockTask ∧ workDone (getCtx lockEnd 0 0) 7 = true ∧ votingNow (getBench lockEnd 0) 0 = none
    ∧ partnerTask lockEnd 0 0 lockTask = some lockTask := by decide +kernel
/-- The same partition with conveyors from and to a board port, and one that a feed channel serves. -/
def endImage : Image := { ccImage with conveyors := [{ ccConv with producer := 0xFFFF, ext := 0x80 }, { ccConv with consumer := 0xFFFF, ext := 0x81 }, { ccConv with producer := 0xFFFF, ext := 0x42 }] }
def endState : State := jobState 0 [] 0 { runJob plainImage with image := some endImage }
theorem witness_boardTile : boardFrozen endState 0 7 = false ∧ tagResetting endState 7 = false ∧ boardConv endState 0 0 = some 0 ∧ jobOfTag endState 7 = some 0 ∧ (convDescOf endState 0 0).isSome = true
    ∧ isIncoming { ccConv with producer := 0xFFFF, ext := 0x80 } = true ∧ (getConv endState 0 0).broken = false ∧ jobOfTag endState 8 = none
    ∧ (pickSlot endState 0 0 { ccConv with producer := 0xFFFF, ext := 0x80 }).isSome = true := by decide +kernel
theorem witness_boardTileNoSlot : let s := modConv endState 0 0 (fun c => { c with lostLbs := List.range 9 })
    pickSlot s 0 0 { ccConv with producer := 0xFFFF, ext := 0x80 } = none ∧ (getConv s 0 0).rxSlot = none := by decide +kernel
theorem witness_framing : parityOk (0, List.replicate 64 0) = true ∧ framedOk ccConv [(0, List.replicate 64 0)] = false ∧ parityOk (256, List.replicate 64 0) = false
    ∧ (getJob endState 0).phase ≠ .closed := by decide +kernel
theorem witness_bind : let s := modConv endState 0 1 (fun c => { c with peer := some (1, 0) })
    boardConv s 0 1 = some 1 ∧ isOutgoing { ccConv with consumer := 0xFFFF, ext := 0x81 } = true ∧ isIncoming { ccConv with consumer := 0xFFFF, ext := 0x81 } = false
    ∧ (getConv s 0 1).peer = some (1, 0) ∧ (getConv s 0 1).bound = false ∧ (getConv s 0 1).broken = false := by decide +kernel
theorem witness_bound : (getConv (modConv endState 0 1 (fun c => { c with bound := true })) 0 1).bound = true := by decide +kernel
theorem witness_feed : feedConv endState 2 = some (0, 2) ∧ feedConv endState 3 = none ∧ (getFeed endState 2).frozen = false ∧ (getFeed endState 2).discarding = false
    ∧ (getFeed endState 2).buf.length < 4096 := by decide +kernel
theorem witness_feedFull : 4096 ≤ (getFeed { endState with feeds := [(2, { Feed.reset with buf := List.replicate 4096 (64, []) })] } 2).buf.length := by
  show 4096 ≤ (List.replicate 4096 ((64, []) : Nat × List Byte)).length
  exact Nat.le_of_eq List.length_replicate.symm
/-- The incoming conveyor while a tile arrives into the slot at home p. -/
def arriving (p : Nat × Nat) (l : List (Nat × List Byte)) : State := modConv endState 0 0 (fun c => { c with rxSlot := some p, partialRx := l, slots := [⟨p.1, p.2, false, false, []⟩] })
theorem witness_arriving : (getConv (arriving (0x3FF, 5) []) 0 0).rxSlot = some (0x3FF, 5)
    ∧ ownsRange (arriving (0x3FF, 5) []) 0 (slotAddr (arriving (0x3FF, 5) []) 0 { ccConv with producer := 0xFFFF, ext := 0x80 } 0x3FF 5) (64 * convWords ccConv) = false
    ∧ metaEnd 0 = false ∧ metaEnd 64 = true ∧ 2 < convWords ccConv := by decide +kernel
theorem witness_resetTag : tagResetting (modPart endState 0 (fun p => { p with resetting := true })) 7 = true
    ∧ (let s : State := { endState with board := { endState.board with resetTags := [9] } }
       jobOfTag s 9 = none ∧ s.board.resetTags.contains 9 = true ∧ tagResetting s 9 = false) := by decide +kernel
theorem witness_feedWays : (getFeed (modFeed endState 2 (fun f => { f with frozen := true })) 2).frozen = true
    ∧ (let s := modConv (modFeed endState 2 (fun f => { f with buf := [(64, [])] })) 0 2 (fun c => { c with lostLbs := List.range 9 })
       pickSlot s 0 2 { ccConv with producer := 0xFFFF, ext := 0x42 } = none ∧ (getFeed s 2).slot = none ∧ (getFeed s 2).buf ≠ []) := by decide +kernel
theorem witness_ownPlain : partOfAddr { endState with mem := { endState.mem with pages := [(0, 0x8000)] } } 64 = some 0 := by decide +kernel
theorem witness_feedDrain : let s := modFeed endState 2 (fun f => { f with buf := [(64, [])], slot := some (0, 0) })
    (getFeed s 2).buf ≠ [] ∧ (getFeed s 2).slot = some (0, 0) ∧ metaEnd 64 = true := by decide +kernel
theorem witness_memRead : plainAddr 64 / 64 * 64 < memTop ∧ wrongBlocks State.reset 64 64 = [] ∧ stackDown State.reset 64 = false ∧ memTop ≤ plainAddr (2 ^ 43) / 64 * 64 := by decide +kernel
theorem witness_acc : aliasOf (2 ^ 44 + 64) = 1 ∧ plainAddr (2 ^ 44 + 64) = 64 ∧ aliasOf (3 * 2 ^ 44) = 3 ∧ rdTagged State.reset 64 4 = false ∧ blockState State.reset 64 = .plain := by decide +kernel
theorem witness_stack : (getStack State.reset 3).failed = false ∧ lsOfPhys State.reset 8 = none ∧ (let s : State := { State.reset with mem := { State.reset.mem with failedLs := [3], spare := some 8, stackMap := [0, 1, 2, 3, 4, 5, 6, 7] } }
    s.mem.spare = some 8 ∧ 3 ∈ s.mem.failedLs ∧ 3 < s.mem.stackMap.length ∧ stackDown s 0x3000 = true) := by decide +kernel
theorem witness_wrongSize : let s : State := { State.reset with mem := { State.reset.mem with blocks := [(1, .coded 1)] } }
    2048 < memTop ∧ stackDown s 2048 = false ∧ blockState s 2048 = .coded 1 ∧ expandBlock 1 (Mem.read s.mem.bytes 2048 64) = none := by decide +kernel
/-- A job whose one tensor, and whose stations, leave layer 0 quiet: a commit of step 5 may run. -/
def commitState : State :=
  let im := { ccImage with stations := [], conveyors := [], tensors := [⟨1, 0, 3, 0, 0, 0, [32, 32], [0, 0, 0, 0], 0, 0, 0, 0⟩] }
  wrLe (modJob (jobState 0 [] 0 { runJob plainImage with image := some im }) 0 (fun j => { j with numBase := 0x100000 })) (0x100000 + 0x24) 4 4
theorem witness_commit : commitStepOf commitState 0 0 = some 5 ∧ (getJob commitState 0).probe = none ∧ commitStepOf commitState 0 1 = none
    ∧ layerRec (getJob commitState 0) 0 = 0x100000 := by decide +kernel
theorem witness_commitRecord : PlainMem commitState 0x100000 128 := by decide +kernel
theorem witness_commitProbe : let s := modJob commitState 0 (fun j => { j with probe := some 0, image := (j.image.map (fun im => { im with tensors := im.tensors ++ (im.tensors.map (fun t => { t with id := 2, layer := 1 })) })) })
    commitStepOf s 0 0 = some 5 ∧ (getJob s 0).probe ≠ none ∧ ((getJob s 0).image.map layersOf) = some [0, 1] ∧ 1 ∉ (getJob s 0).probeSeen.1 := by decide +kernel
theorem witness_lossRules : bit (rdLe (wr1 commitState (0x100000 + 4) 2) (0x100000 + 4) 1) 1 = true ∧ bit (rdLe commitState (0x100000 + 4) 1) 1 = false
    ∧ rdLe commitState (0x100000 + 8) 2 ≤ rdLe commitState (0x100000 + 0xA) 2 + 1 ∧ rdLe (wrLe commitState (0x100000 + 8) 2 5) (0x100000 + 0xA) 2 + 1 < rdLe (wrLe commitState (0x100000 + 8) 2 5) (0x100000 + 8) 2 := by decide +kernel
def gradEnt : TensorEnt := ⟨5, 3, 3, 0, 0, 0, [32, 32], [0, 0, 0, 0], 0, 0, 0, 0⟩
def gradMaster : TensorEnt := ⟨7, 2, 1, 0, 0, 0, [32, 32], [0, 0, 0, 0], 0, 0, 0, 0⟩
def exchangeStation : Station := ⟨[65], 6, 0, 0, 0xFF, 0, 64, 0, 1, 0x1FF, [], [0, 0, 0, 0] ++ toLe 4 5 ++ toLe 4 7 ++ toLe 4 0⟩
def updateStation : Station := ⟨[66], 7, 0, 1, 0xFF, 0, 64, 0, 1, 0x1FF, [], toLe 4 7 ++ toLe 4 5 ++ padTo 0 0x20 []⟩
def gradImage : Image := { ccImage with stations := [exchangeStation, updateStation], conveyors := [], tensors := [gradEnt, gradMaster], buffers := [⟨0x200000, 0x200000, 0, 0⟩] }
/-- The node (1, 0) of chunk 0 at station 0. -/
def nodeTen : NodeId := ⟨0, 0, 1, 0⟩
/-- Its chunk of step 5, open since stamp 0 in a set of two replicas. -/
def openNd : RNode := { newNode nodeTen 5 false with opened := some 0, buffered := true }
/-- A running job of replica 0 in a set of two, whose gradient's layer 0 has records at 0x100000 and 0x110000. -/
def gradJob (nodes : List RNode) : Job :=
  let j := runJob plainImage
  { j with image := some gradImage, numBase := 0x100000, stepBase := 0x110000, shardBase := 0x300000, members := [0, 1], replicaMap := [[0], [1]],
           policy := { j.policy with replica := 0, replicas := 2, windowNs := 1000 }, nodes := nodes }
def gradState (nodes : List RNode) (f : Job → Job) : State := modJob (jobState 0 [] 0 (gradJob nodes)) 0 f
def gradRec : Rec := { zeroRec with tensor := 5, epoch := (gradJob []).cut.epoch, step := 5, node := 1, sender := 1, count := 1, gblocks := 1, data := List.replicate 513 0 }
def gradIn (child : Nat) : RInput := ⟨child, child, 5, true, false, 1, 0, false, 0, [], []⟩
theorem witness_routes : Routes (gradState [openNd] id) 7 gradRec 0 0 gradImage exchangeStation gradEnt ∧ gradRec.data.length = 513 * gradRec.gblocks
    ∧ gradRec.data.length ≠ 1025 * gradRec.gblocks ∧ jobOfTag State.reset 7 = none := by decide +kernel
theorem witness_partialFits : ({ gradRec with data := List.replicate 1025 0 } : Rec).data.length = 1025 * gradRec.gblocks ∧ (List.replicate 1025 (0 : Byte)).length ≠ 513 * gradRec.gblocks := by decide +kernel
theorem witness_inputWaits : openChunk (getJob (gradState [] id) 0) nodeTen 5 = none ∧ findNode (getJob (gradState [openNd] id) 0) nodeTen 5 false = some openNd
    ∧ openChunk (getJob (gradState [openNd] id) 0) nodeTen 5 = some openNd ∧ (let ms := setFor (getJob (gradState [openNd] id) 0) 5
      1 ∈ expectedChildren ms nodeTen ∧ childHost ms nodeTen 1 = some 1)
    ∧ gradRec.epoch < (getJob (gradState [] (fun j => { j with cut := { j.cut with epoch := j.cut.epoch + 1 } })) 0).cut.epoch := by decide +kernel
theorem witness_inputIn : openNd.opened = some 0 ∧ openNd.step = gradRec.step ∧ openNd.forwarded = false ∧ openNd.probe = bit gradRec.flags 2
    ∧ max 0 0 < nodeClose (getJob (gradState [openNd] id) 0) openNd ∧ nodeClose (getJob (gradState [openNd] id) 0) openNd ≤ max 1000 0 := by decide +kernel
theorem test_inputIncluded : ((findNode (getJob (after (exec (.contribReceive 7 { gradRec with gblocks := 0, data := [] } false) (gradState [{ openNd with inputs := [gradIn 0] }] id))) 0) nodeTen 5 false).map
    (fun nd => (nd.inputs.map (·.child), nd.forwarded))) = some ([0, 1], true) := by decide +kernel
theorem test_inputFolded : let s := gradState [{ openNd with forwarded := true, inputs := [gradIn 0] }] (fun j => { j with policy := { j.policy with late := 0 } })
    let u := after (exec (.contribReceive 7 { gradRec with gblocks := 0, data := [] } false) s)
    ((findNode (getJob u 0) nodeTen 6 false).map (fun nd => nd.folds.map (·.folded))) = some [true] ∧ rdLe u (0x110000 + 0x10) 4 = 1 := by decide +kernel
theorem witness_counter : PlainMem (gradState [] id) (0x110000 + 0x10) 4 ∧ stepRec (getJob (gradState [] id) 0) 0 = 0x110000 := by decide +kernel
def closingState (ins : List RInput) : State :=
  let s := gradState [{ openNd with inputs := ins }] (fun j => { j with policy := { j.policy with missLimit := 2 } })
  { s with time := { s.time with tb := 1000 } }
theorem witness_windowCloses : let s := closingState [gradIn 0]
    let nd := { openNd with inputs := [gradIn 0] }
    gradOf s 0 0 = some (gradImage, exchangeStation, gradEnt) ∧ findNode (getJob s 0) nodeTen 5 false = some nd ∧ nodeClose (getJob s 0) nd ≤ now s
    ∧ nodeFull (getJob s 0) nd = false ∧ nodeFull (getJob s 0) { nd with inputs := [gradIn 1, gradIn 0] } = true
    ∧ (expectedChildren (setFor (getJob s 0) 5) nodeTen).filter (fun x => !(nd.inputs.any (fun i => i.child == x))) = [1] ∧ nodeHost (setFor (getJob s 0) 5) 0 1 = some 1
    ∧ Tab.get 0 (getJob s 0).misses 1 / 256 ≠ 5 ∧ 1 < (getJob s 0).policy.missLimit := by decide +kernel
theorem witness_twoChildren : (gradIn 0).child = 0 ∧ (gradIn 1).child = 1 ∧ (gradIn 0).count ≠ 0 ∧ (0 : Nat) < 256 * 1 := by decide
/-- Four replicas; replica 2 hosts node (1, 1), whose parent lies at replica 0. -/
def lowState : State := gradState [{ openNd with id := ⟨0, 0, 1, 1⟩, forwarded := true }] (fun j =>
  { j with members := [0, 1, 2, 3], replicaMap := [[0], [1], [2], [3]], policy := { j.policy with replica := 2, replicas := 4 } })
theorem witness_nodeUp : gradOf lowState 0 0 = some (gradImage, exchangeStation, gradEnt) ∧ findNode (getJob lowState 0) ⟨0, 0, 1, 1⟩ 5 false = some { openNd with id := ⟨0, 0, 1, 1⟩, forwarded := true }
    ∧ 1 < treeDepth (getJob lowState 0).policy.replicas ∧ nodeHost (setFor (getJob lowState 0) 5) 2 0 = some 0 ∧ 0 ≠ (getJob lowState 0).policy.replica := by decide +kernel
theorem witness_resultFor : ResultFor (gradState [] id) 7 gradRec 0 0 gradImage exchangeStation gradMaster :=
  ⟨by decide +kernel, by decide +kernel, ⟨0, by decide +kernel⟩, by decide +kernel⟩
/-- A layer of two shards, so that one header does not complete it. -/
def twoImage : Image := { gradImage with
  tensors := [gradEnt, gradMaster, { gradEnt with id := 6 }, { gradMaster with id := 8 }]
  stations := [exchangeStation, { exchangeStation with params := [0, 0, 0, 0] ++ toLe 4 6 ++ toLe 4 8 ++ toLe 4 0 }] }
theorem witness_resultHeader : let s := gradState [] (fun j => { j with image := some twoImage })
    ResultFor s 7 gradRec 0 0 twoImage exchangeStation gradMaster ∧ gradRec.epoch = (getJob s 0).cut.epoch
    ∧ (ownerHere s (getJob s 0) 0 || standbyHere s (getJob s 0) 0) = false
    ∧ (resultOf (getJob s 0) 0 5).held = [] ∧ 0 + 1 ≠ layerChunks twoImage 0 :=
  ⟨⟨by decide +kernel, by decide +kernel, ⟨0, by decide +kernel⟩, by decide +kernel⟩, by decide +kernel, by decide +kernel, by decide +kernel, by decide +kernel⟩
theorem witness_resultHeld : let s := gradState [] (fun j => { j with results := [(5, ⟨5, 0, 0, 0, 0, [(0, 0)]⟩)] })
    (0, 0) ∈ (resultOf (getJob s 0) 0 gradRec.step).held
    ∧ (ownerHere s (getJob s 0) 0 || standbyHere s (getJob s 0) 0) = false := by decide +kernel
/-- The owner of the shard, with both commit slots holding c. -/
def ownerState (c : Nat) : State := wrLe (wrLe (wrLe (gradState [] id) (0x300000 + 0xE) 1 1) (0x300000 + 0x18) 4 c) (0x300000 + 0x1C) 4 c
theorem witness_resultLands : let s := ownerState 0xFFFFFFFF
    ownerHere s (getJob s 0) 0 = true ∧ commitStep s (getJob s 0) 0 5 = noStep ∧ (commitSlot gradImage gradMaster 5).isSome = true
    ∧ PlainMem s (shardAddr (getJob s 0) 0 + 0x18 + 4 * (5 % 2)) 4 ∧ pageComp (pageEntry s 1) = false ∧ gradRec.data ≠ [] := by decide +kernel
theorem witness_resultRefused : let s := ownerState 3
    commitStep s (getJob s 0) 0 5 ≠ noStep ∧ commitStep s (getJob s 0) 0 5 ≠ 5 := by decide +kernel
theorem witness_resend : let s := { gradState [] (fun j => { j with heldResults := [⟨1, 0, List.replicate 64 0, 0⟩] }) with time := { State.reset.time with tb := 10000 } }
    (getJob s 0).heldResults = [⟨1, 0, List.replicate 64 0, 0⟩] ∧ 0 + 10000 ≤ now s ∧ 1 ≠ (getJob s 0).policy.replica ∧ ¬ (now State.reset ≥ 10000) := by decide +kernel

/-- The ways an input meets its node: another kind of node, a child already there, no buffer, and forwarded with a newer chunk or without. -/
theorem witness_inputWays : let fw : RNode := { openNd with forwarded := true }
    openChunk (getJob (gradState [{ openNd with probe := true }] id) 0) nodeTen 5 = some { openNd with probe := true } ∧ formsProbe (getJob (gradState [] id) 0) = false
    ∧ openChunk (getJob (gradState [{ openNd with inputs := [gradIn 1] }] id) 0) nodeTen 5 = some { openNd with inputs := [gradIn 1] } ∧ (gradIn 1).child = 1
    ∧ openChunk (getJob (gradState [{ openNd with buffered := false }] id) 0) nodeTen 5 = some { openNd with buffered := false }
    ∧ openChunk (getJob (gradState [fw, { openNd with step := 7 }] id) 0) nodeTen 5 = some fw ∧ 5 + 1 < 7
    ∧ (gradState [fw] id).jobs.length = 1 ∧ 1 ∉ expectedChildren (setFor (getJob (gradState [openNd] (fun j => { j with members := [0] })) 0) 5) nodeTen := by decide +kernel
theorem witness_otherImage : tensorByCoords ccImage gradRec.tensor gradRec.shard = none ∧ tensorByCoords gradImage gradRec.tensor gradRec.shard = some gradEnt
    ∧ gradRec.epoch < (getJob (gradState [] (fun j => { j with cut := { j.cut with epoch := j.cut.epoch + 1 } })) 0).cut.epoch
    ∧ (getJob (gradState [] (fun j => { j with image := some ccImage })) 0).image.bind (fun im => gradNamed im gradRec) = none := by decide +kernel
/-- A record for shard 7, chunk 0, version v, with payload. -/
def shardRec (v : Nat) (d : List Byte) : Rec := { zeroRec with tensor := 7, epoch := (gradJob []).cut.epoch, version := v, sender := 1, data := d }
/-- Replica 0 with a shard record of the given flags, chunk version 5 and VERSION 5; replica 1 is its standby or owner. -/
def holderState (flags : Nat) (f : Job → Job) : State :=
  wrLe (wrLe (wrLe (wrLe (wrLe (gradState [] f) (0x300000 + 0xE) 1 flags) (0x300000 + 4) 4 0x10001) (0x300000 + 8) 4 5) (0x300000 + 0x10) 8 0x310000) 0x310000 4 5
theorem witness_names : Names (holderState 0 id) 7 (shardRec 6 []) 0 0 gradImage gradMaster ∧ ownerHere (holderState 0 id) (getJob (holderState 0 id) 0) 0 = false
    ∧ standbyHere (holderState 0 id) (getJob (holderState 0 id) 0) 0 = false ∧ rejoins (getJob (holderState 0 id) 0) = false ∧ (getJob (holderState 0 id) 0).reshard = none := by decide +kernel
theorem witness_scale : let s := holderState 2 id
    Names s 7 (shardRec 5 (List.replicate 12 1)) 0 0 gradImage gradMaster ∧ PlainMem s (shardAddr (getJob s 0) 0 + 0x2C) 12 ∧ standbyHere s (getJob s 0) 0 = true := by decide +kernel
theorem witness_scaleRejoin : let s := holderState 0 (fun j => { j with cold := true, owners := [(1, 2)] })
    standbyHere s (getJob s 0) 0 = false ∧ rejoins (getJob s 0) = true := by decide +kernel
theorem witness_scaleAccept : let s := holderState 1 id
    jobOfTag s 7 = some 0 ∧ (getJob s 0).image.bind (fun im => masterOf im 7 [0, 0, 0, 0]) = some (gradMaster, 0) ∧ ownerHere s (getJob s 0) 0 = true ∧ shardStandby s (getJob s 0) 0 = 1 := by decide +kernel
theorem witness_ingress : let s := holderState 0 id
    (getJob s 0).ingress = [] ∧ snapshotReads s 0 = false ∧ tallyFirst s 0 0 0 6 gradMaster = false ∧ chunkVersion s (getJob s 0) 0 0 = 5
    ∧ partsBytes (versionTensors gradImage gradMaster) 0 = 4096 ∧ (getShard s 0 0).asked = false := by decide +kernel
theorem witness_ingressLength : (shardRec 6 (List.replicate 4096 0)).data.length = 4096 := List.length_replicate ..
theorem witness_ingressBusy : tallyFirst (holderState 0 (fun j => { j with start := 4, policy := { j.policy with tallyEvery := 5 } })) 0 0 0 6 gradMaster = true := by decide +kernel
theorem witness_ingressStandby : let s := holderState 2 (fun j => { j with ingress := [{ shardRec 6 [] with kind := 4 }] })
    standbyHere s (getJob s 0) 0 = true ∧ snapshotReads s 0 = false ∧ tallyFirst s 0 0 0 6 gradMaster = false ∧ chunkVersion s (getJob s 0) 0 0 = 5
    ∧ recShard s 0 { shardRec 6 [] with kind := 4 } = some (gradImage, gradMaster, 0) := by decide +kernel
def refreshRec : Rec := { shardRec 5 (List.replicate 4096 0) with flags := 2 }
theorem witness_refresh : let s := holderState 0 id
    Names s 7 (shardRec 5 []) 0 0 gradImage gradMaster ∧ roundAwaited s 0 0 5 gradImage gradMaster = none ∧ (getJob s 0).torn = [] ∧ (shardRec 5 []).chunk + 1 = chunkCount gradMaster
    ∧ chunkVersion s (getJob s 0) 0 0 = 5 ∧ bit refreshRec.flags 1 = true ∧ refreshRec.data.length = partsBytes (versionTensors gradImage gradMaster ++ stateTensors gradImage gradMaster) 0
    ∧ chunkVersion (writeParts s 0 gradImage (versionTensors gradImage gradMaster) 0 refreshRec.data) (getJob s 0) 0 0 = 5 := by decide +kernel
theorem witness_refreshTakes : let s := holderState 0 id
    chunkVersion (wrLe (setRoles (writeParts s 0 gradImage (versionTensors gradImage gradMaster) 0 refreshRec.data) 0 0 false true) (shardAddr (getJob s 0) 0 + 6) 2 0) (getJob s 0) 0 0 = 5 := by decide +kernel
def roundedImage : Image := { gradImage with sched := { gradImage.sched with roundSteps := 5 } }
theorem witness_refreshRecord : snapshotReads (holderState 2 id) 0 = false ∧ standbyHere (holderState 2 id) (getJob (holderState 2 id) 0) 0 = true := by decide +kernel
theorem witness_acks : let s := holderState 1 id
    Names s 7 (shardRec 6 []) 0 0 gradImage gradMaster ∧ ownerHere s (getJob s 0) 0 = true ∧ PlainMem s (shardAddr (getJob s 0) 0) 64 := by decide +kernel
theorem witness_tally : let s := holderState 1 id
    Names s 7 { shardRec 6 [] with tally := 1 } 0 0 gradImage gradMaster ∧ rdLe s (shardAddr (getJob s 0) 0 + 0x28) 4 = 0 ∧ rdLe s (shardAddr (getJob s 0) 0 + 0x20) 8 ≠ 1 := by decide +kernel
theorem witness_reinstall : let s := holderState 0 (fun j => { j with step := 6, policy := { j.policy with ackNs := 0 } })
    (getJob s 0).image = some gradImage ∧ masterAt gradImage 0 = some gradMaster ∧ (getJob s 0).phase = .running ∧ ownerHere s (getJob s 0) 0 = false
    ∧ shardVersion s (getJob s 0) 0 < 7 ∧ ((getShard s 0 0).lastVersion).getD (getJob s 0).stepStart + (getJob s 0).policy.ackNs ≤ now s := by decide +kernel
theorem witness_reinstallOld : let s := holderState 0 (fun j => { j with cut := { j.cut with epoch := j.cut.epoch + 1 }, oldImage := some (gradImage, [], j.cut.epoch) })
    jobOfTag s 7 = some 0 ∧ (shardRec 5 []).epoch < (getJob s 0).cut.epoch ∧ (getJob s 0).oldImage = some (gradImage, [], (shardRec 5 []).epoch)
    ∧ tensorByCoords gradImage 7 [0, 0, 0, 0] = some gradMaster ∧ gradMaster.cls = 2 := by decide +kernel
theorem witness_ackTimeout : let s := holderState 1 (fun j => { j with shards := [(0, { ShardSt.reset with lastSent := some 0 })], policy := { j.policy with ackNs := 0 } })
    (getShard s 0 0).lastSent = some 0 ∧ ownerHere s (getJob s 0) 0 = true ∧ unacked s 0 0 = [1] ∧ 0 + (getJob s 0).policy.ackNs ≤ now s
    ∧ (getShard s 0 0).resent = false ∧ chunkCount gradMaster = 1 := by decide +kernel
theorem witness_ackTimeoutAgain : let s := holderState 1 (fun j => { j with shards := [(0, { ShardSt.reset with lastSent := some 0, resent := true })], policy := { j.policy with ackNs := 0 } })
    (getShard s 0 0).resent = true ∧ 0 + 2 * (getJob s 0).policy.ackNs ≤ now s ∧ unacked s 0 0 = [1] := by decide +kernel
theorem witness_ackTimeoutWait : let s := { holderState 1 (fun j => { j with shards := [(0, { ShardSt.reset with lastSent := some 0, resent := true })], policy := { j.policy with ackNs := 100 } }) with time := { State.reset.time with tb := 150 } }
    0 + (getJob s 0).policy.ackNs ≤ now s ∧ now s < 0 + 2 * (getJob s 0).policy.ackNs ∧ unacked s 0 0 = [1] := by decide +kernel
def lossState (f : Job → Job) : State := { holderState 0 f with time := { State.reset.time with tb := 1000000 }, board := { State.reset.board with ports := [(1, { BPort.reset with downSince := some 0 })] } }
theorem witness_peerDown : let s := lossState id
    (getJob s 0).phase ≠ .closed ∧ pathsDown s 0 (moduleOf (getJob s 0) 1) (some 1) = true ∧ 1 ∈ (getJob s 0).members ∧ 1 ∉ (getJob s 0).lostSeen ∧ 5 ∉ (getJob s 0).members
    ∧ pathsDown s 0 1 (some 2) = false := by decide +kernel
theorem witness_lostAgain : let s := lossState (fun j => { j with lostSeen := [1], changes := [(1, false, 7)] })
    jobOfTag s 7 = some 0 ∧ 1 ∈ (getJob s 0).members ∧ 1 ∈ (getJob s 0).lostSeen := by decide +kernel
theorem test_lossEarliest : (getJob (after (exec (.replicaLostNotice 7 1 6) (lossState (fun j => { j with lostSeen := [1], changes := [(1, false, 7)] })))) 0).changes = [(1, false, 6)] := by decide +kernel
theorem witness_readmit : let s := lossState id
    jobOfTag s 7 = some 0 ∧ (1 : Nat) ≠ (getJob s 0).policy.replica ∧ (0 : Nat) = (getJob s 0).policy.replica ∧ (getJob s 0).image = some gradImage ∧ held gradImage = [(gradMaster, 0)] := by decide +kernel
theorem witness_takeover : let s := { wrLe (holderState 2 (fun j => { j with shards := [(0, { ShardSt.reset with landed := [(0, 0)] })], policy := { j.policy with takeoverNs := 100 } })) (0x300000 + 0x1C) 4 5
        with time := { State.reset.time with tb := 100 } }
    (getJob s 0).image = some gradImage ∧ masterAt gradImage 0 = some gradMaster ∧ standbyHere s (getJob s 0) 0 = true
    ∧ ∃ c ∈ (getShard s 0 0).landed, c.2 + (getJob s 0).policy.takeoverNs ≤ now s ∧ commitStep s (getJob s 0) 0 (chunkVersion s (getJob s 0) 0 c.1) = chunkVersion s (getJob s 0) 0 c.1 :=
  ⟨by decide +kernel, by decide +kernel, by decide +kernel, (0, 0), by decide +kernel, by decide +kernel, by decide +kernel⟩
theorem witness_takeoverNotice : let s := holderState 2 id
    jobOfTag s 7 = some 0 ∧ (getJob s 0).image.bind (fun im => masterOf im 7 [0, 0, 0, 0]) = some (gradMaster, 0) ∧ PlainMem s (shardAddr (getJob s 0) 0) 64 ∧ ownerHere s (getJob s 0) 0 = false
    ∧ ownerHere (holderState 1 id) (getJob s 0) 0 = true ∧ (getJob (holderState 1 id) 0).round.policy = none := by decide +kernel
theorem witness_pauseNotice : let s := holderState 0 id
    hasHold (getJob s 0) .hostPause = false ∧ (getJob s 0).holdAt = [] ∧ (getJob s 0).held = false ∧ hasHold (getJob s 0) .divergence = false
    ∧ hasHold (getJob s 0) .lost = false ∧ (getJob s 0).reshard = none ∧ hasHold (getJob (holderState 0 (fun j => { j with held := true, holds := [.hostPause] })) 0) .hostPause = true
    ∧ (getJob (holderState 0 (fun j => { j with held := true })) 0).held = true := by decide +kernel
/-- A pending re-shard to epoch 2 at step 6. -/
def pendingReshard (im : Image) (drained : Bool) : Reshard := ⟨2, 6, im, { (gradJob []).cut with epoch := 2 }, [(0, 1)], drained, [], ⟨0, 0, 0, 0, 0⟩, none, 0xFFFFFFFF⟩
def bareImage : Image := { gradImage with stations := [], tensors := [] }
theorem witness_drained : let s := holderState 0 (fun j => { j with reshard := some (pendingReshard bareImage false), image := some bareImage })
    (getJob s 0).reshard = some (pendingReshard bareImage false) ∧ reshardReady s 0 (pendingReshard bareImage false) = true ∧ coordinatorAt (getJob s 0) 6 = 0
    ∧ moduleOf (getJob s 0) 0 = 0 ∧ (pendingReshard bareImage false).missing = none := by decide +kernel
theorem witness_drainedOther : let s := holderState 0 (fun j => { j with reshard := some (pendingReshard bareImage true), replicaMap := [[5], [1]], members := [1] })
    coordinatorAt (getJob s 0) 6 ≠ moduleOf (getJob s 0) 0 ∧ (pendingReshard bareImage true).sentTo ≠ coordinatorAt (getJob s 0) 6 := by decide +kernel
theorem witness_drains : let x : Reshard := { pendingReshard bareImage true with drains := [(0, 0)] }
    let s := holderState 0 (fun j => { j with reshard := some x })
    jobOfTag s 7 = some 0 ∧ (1, 0) ∉ x.drains ∧ coordinatorAt (getJob s 0) 6 = moduleOf (getJob s 0) (getJob s 0).policy.replica
    ∧ (drainSet (getJob s 0) x.step).flatMap (fun q => (modulesOf (getJob s 0) q).map (fun k => (q, k))) = [(0, 0), (1, 0)] := by decide +kernel
theorem witness_switch : let s := holderState 0 (fun j => { j with reshard := some (pendingReshard bareImage true) })
    jobOfTag s 7 = some 0 ∧ (getJob s 0).image = some gradImage ∧ (getJob s 0).round.policy = none ∧ (getJob s 0).nodes = [] ∧ held bareImage = [] ∧ (getJob s 0).ahead = [] := by decide +kernel
theorem witness_switchAsks : let x := pendingReshard gradImage true
    let s := holderState 0 (fun j => { j with reshard := some x, owners := [(1, 2)] })
    held x.image = [(gradMaster, 0)] ∧ oldRanks gradImage x.image gradMaster = some [0] ∧ masterAt gradImage 0 = some gradMaster ∧ chunkCount gradMaster = 1
    ∧ ((getJob s 0).owners.getD 0 (0xFFFF, 0xFFFF)).1 = 1 ∧ 1 ∈ ackers (getJob s 0) ∧ 1 ≠ (getJob s 0).policy.replica
    ∧ ownerHere s (getJob s 0) 0 = false ∧ standbyHere s (getJob s 0) 0 = false ∧ ownerHere (holderState 1 id) (getJob (holderState 1 id) 0) 0 = true := by decide +kernel
theorem witness_switchLost : oldRanks gradImage { gradImage with tensors := [gradEnt, { gradMaster with shard := [1, 0, 0, 0] }] } { gradMaster with shard := [1, 0, 0, 0] } = none := by decide +kernel
def roundStation : Station := ⟨[67], 6, 0, 0, 0xFF, 0, 64, 0, 1, 0x1FF, [], [1, 0, 0, 0] ++ toLe 4 7 ++ toLe 4 9 ++ toLe 4 0 ++ toLe 4 0 ++ toLe 4 0 ++ toLe 4 0⟩
def anchorEnt : TensorEnt := { gradMaster with id := 9, cls := 1, offset := 0x10000 }
def outerImage : Image := { gradImage with stations := [exchangeStation, updateStation, roundStation], tensors := [gradEnt, gradMaster, anchorEnt], sched := { gradImage.sched with roundSteps := 6 } }
/-- Site 1 with one valid partner, site 2, whose links are trusted. -/
def outerPartner : Partner := ⟨2, 1, 0, 0, 1000, 0x3F800000, [0]⟩
def outerPolicy : RoundPolicy := ⟨1, 0, 2, 0, 4, 0, 1, 50, 0, [0x3F800000], 0, 0x400000, 0x410000, 0, 0x3F800000, [outerPartner], [(0x0A000001, 4791, 2, 1)]⟩
/-- The owner of the shard in round state st of round 3, its haul context in state c. -/
def outerState (st c : Nat) (f : Job → Job) : State :=
  let s := holderState 1 (fun j => f { j with image := some outerImage, round := { j.round with policy := some outerPolicy } })
  wrLe (wrLe (wrLe s (0x410000 + 4) 1 st) (0x410000 + 8) 4 3) (ctxRecord 0) 1 c
theorem witness_handoff : let s := outerState 1 1 (fun j => { j with round := { j.round with shards := [(0, { RoundShard.reset with formed := [0] })] } })
    roundParts s 0 0 = some (outerImage, gradMaster, 2, roundStation) ∧ shardPolicy (getJob s 0) 0 = some outerPolicy ∧ roundState s (getJob s 0) 0 = 1
    ∧ (getRShard (getJob s 0) 0).formed.length = chunkCount gradMaster ∧ PlainMem s (roundShard (getJob s 0) 0) 64 ∧ now s < 2 ^ 64
    ∧ (∀ q ∈ partnersOf (getJob s 0) 0, ctxState (wrLe s (roundShard (getJob s 0) 0 + 5) 1 (getRShard (getJob s 0) 0).lam) (getJob s 0) 0 q.2 ≠ 3)
    ∧ xSpoil outerImage roundStation = none := by decide +kernel
theorem witness_handoffNot : roundState (outerState 0 1 id) (getJob (outerState 0 1 id) 0) 0 ≠ 1 := by decide +kernel
theorem witness_close : let s := { outerState 2 1 id with time := { State.reset.time with tb := 50 } }
    roundParts s 0 0 = some (outerImage, gradMaster, 2, roundStation) ∧ shardPolicy (getJob s 0) 0 = some outerPolicy ∧ roundState s (getJob s 0) 0 = 2
    ∧ rdLe s (roundShard (getJob s 0) 0 + 0x10) 8 + outerPolicy.waitNs ≤ now s := by decide +kernel
theorem witness_closeEarly : let s := outerState 2 1 id
    ((partnersOf (getJob s 0) 0).filter (expectedAt s (getJob s 0) outerImage outerPolicy 0 3)).all (fun q => (haulStamp (getHaul (getJob s 0) 0 q.2) 1 3).isSome) = false
    ∧ now s < rdLe s (roundShard (getJob s 0) 0 + 0x10) 8 + outerPolicy.waitNs ∧ roundOf s (getJob s 0) 0 = 3 ∧ roundState s (getJob s 0) 0 = 2 := by decide +kernel
theorem witness_accept : let s := outerState 5 1 id
    jobOfTag s 7 = some 0 ∧ (getJob s 0).image = some outerImage ∧ masterOf outerImage 7 [0, 0, 0, 0] = some (gradMaster, 0) ∧ roundParts s 0 0 = some (outerImage, gradMaster, 2, roundStation)
    ∧ roundState s (getJob s 0) 0 = 5 ∧ roundOf s (getJob s 0) 0 = 3 ∧ shardStandby s (getJob s 0) 0 = 1 ∧ ownerHere s (getJob s 0) 0 = true
    ∧ (getRShard (getJob s 0) 0).pause = false ∧ (∀ q ∈ partnersOf (getJob s 0) 0, bit q.1.flags 1 = false) ∧ PlainMem s (roundShard (getJob s 0) 0) 64 := by decide +kernel
theorem test_acceptLocal : let s := outerState 5 1 id
    let u := after (exec (.roundStateAcceptReceive 7 (7, [0, 0, 0, 0]) 3 1) s)
    (roundState u (getJob s 0) 0, roundOf u (getJob s 0) 0) = (0, 4) := by decide +kernel
theorem witness_ready : let s := outerState 6 1 id
    jobOfTag s 7 = some 0 ∧ coordinatorOf (getJob s 0) = thisModule (getJob s 0) ∧ (∀ p ∈ insertNat (getJob s 0).round.pausers 4, p ∈ insertNat (getJob s 0).round.reports 4) := by decide +kernel
theorem witness_readyOther : let s := outerState 6 1 (fun j => { j with members := [1], round := { j.round with pausers := [9] } })
    coordinatorOf (getJob s 0) ≠ thisModule (getJob s 0) ∧ 9 ∈ insertNat (getJob s 0).round.pausers 4 ∧ 9 ∉ insertNat (getJob s 0).round.reports 4 := by decide +kernel
theorem witness_resume : (getJob (outerState 6 1 id) 0).image ≠ none ∧ jobOfTag (outerState 6 1 (fun j => { j with image := none })) 7 = some 0
    ∧ (getJob (outerState 6 1 (fun j => { j with image := none })) 0).image = none := by decide +kernel
/-- A packet of site 2 to site 1 in cleartext, with its CRC. -/
def haulPkt (ty seq seg len round : Nat) (body : List Byte) : List Byte :=
  let h := pktHeader false true 2 1 0 gradMaster (gradJob []).cut.epoch ⟨ty, false, 2, round, 0, seq, seg, len, []⟩ [] ++ body ++ List.replicate 16 0
  h ++ toLe 4 (crc32c h)
def haulState (c : Nat) (f : HaulCtx → HaulCtx) : State := modHaul (outerState 0 c id) 0 0 0 f
theorem witness_haulWrong : packetOf (.haulDiffReceive 0 0 (haulPkt 2 0 0 0 0 [])) = some (1, 0, 0, haulPkt 2 0 0 0 0 []) ∧ fieldBe (haulPkt 2 0 0 0 0 []) 3 1 = 2
    ∧ findCtxs State.reset (haulPkt 2 0 0 0 0 []) = [] ∧ (haulPkt 2 0 0 0 0 []).length = 84 := by decide +kernel
theorem witness_concerns : Concerns (haulState 1 id) 1 (haulPkt 1 0 0 9000 3 []) 0 0 0 outerPartner outerPolicy := by decide +kernel
theorem witness_concernsFields : let d := haulPkt 1 0 0 9000 3 []
    crc32c (d.take (d.length - 4)) = fieldLe d (d.length - 4) 4 ∧ fieldBe d 0 2 = 0x474E ∧ fieldBe d 2 1 = 2 ∧ fieldBe d 6 1 = outerPolicy.site
    ∧ fieldBe d 0x14 4 = (getJob (haulState 1 id) 0).cut.epoch ∧ ctxState (haulState 1 id) (getJob (haulState 1 id) 0) 0 0 = 1 ∧ bit (fieldBe d 4 1) 7 = true
    ∧ ctxState (haulState 0 id) (getJob (haulState 0 id) 0) 0 0 = 0 := by decide +kernel
theorem witness_concernsEpochs : let d := haulPkt 1 0 0 9000 3 []
    let s := modJob (haulState 1 id) 0 (fun j => { j with cut := { j.cut with epoch := j.cut.epoch + 1 } })
    fieldBe d 0x14 4 < (getJob s 0).cut.epoch ∧ Concerns s 1 d 0 0 0 outerPartner outerPolicy := by decide +kernel
theorem witness_badCrc : let d := (haulPkt 1 0 0 9000 3 []).take 80 ++ [0, 0, 0, 0]
    Concerns (haulState 1 id) 1 d 0 0 0 outerPartner outerPolicy ∧ crc32c (d.take (d.length - 4)) ≠ fieldLe d (d.length - 4) 4 := by decide +kernel
theorem witness_ctxCount : PlainMem (haulState 1 id) (jobCtx (getJob (haulState 1 id) 0) 0 0 + 0x3A) 2 := by decide +kernel
/-- The state after the checks of a cleartext packet. -/
def checked (s : State) (d : List Byte) : State := (checkPkt s d).1
theorem arrives_of (s : State) (n : Nat) (d body : List Byte) (h : fieldBe d 3 1 = n) (hb : (checkPkt s d).2 = some (0, 0, 0, body))
    (h1 : shardPolicy (getJob (checked s d) 0) 0 = some outerPolicy) (h2 : (partnersOf (getJob (checked s d) 0) 0)[0]? = some (outerPartner, 0))
    (h3 : ctxState (checked s d) (getJob (checked s d) 0) 0 0 ≠ 2) (h4 : (parseHdr d).inc = rdLe (checked s d) (jobCtx (getJob (checked s d) 0) 0 0 + 8) 4) :
    Arrives s n d 0 0 0 outerPartner outerPolicy (checked s d) body :=
  ⟨h, by rw [← hb]; rfl, h1, h2, h3, .inr h4⟩
theorem witness_data : let s := haulState 1 id
    Arrives s 1 (haulPkt 1 0 0 9000 3 []) 0 0 0 outerPartner outerPolicy (checked s (haulPkt 1 0 0 9000 3 [])) [] :=
  arrives_of _ _ _ _ (by decide +kernel) (by decide +kernel) (by decide +kernel) (by decide +kernel) (by decide +kernel) (by decide +kernel)
theorem witness_dataFresh : let t := checked (haulState 1 id) (haulPkt 1 0 0 9000 3 [])
    seqFate (rdLe t (ctxRecord 0 + 0x28) 8) (rdLe t (ctxRecord 0 + 0x30) 8) (parseHdr (haulPkt 1 0 0 9000 3 [])).seq = .fresh ∧ 1 < segCount 9000
    ∧ PlainMem t (ctxRecord 0 + 0x28) 16 ∧ jobCtx (getJob t 0) 0 0 = ctxRecord 0 ∧ (getHaul (getJob t 0) 0 0).anySeq = false ∧ (getHaul (getJob t 0) 0 0).recvs = [] ∧ (getHaul (getJob t 0) 0 0).parity = []
    ∧ (getHaul (getJob t 0) 0 0).ackDue.1 < 3 := by decide +kernel
theorem witness_dataFates : seqFate 0 0 65 = .beyond ∧ seqFate 1 0 0 = .duplicate ∧ seqFate 0 1 1 = .duplicate ∧ seqFate 0 0 64 = .fresh := by decide
theorem test_dataKept : let u := after (exec (.haulDiffReceive 0 0 (haulPkt 1 0 0 9000 3 [])) (haulState 1 id))
    ((getHaul (getJob u 0) 0 0).recvs.map (fun v => v.seqs), rdLe u (ctxRecord 0 + 0x28) 8) = ([[(0, 0)]], 1) := by decide +kernel
theorem witness_catchup : let s := haulState 1 id
    let t := checked s (haulPkt 2 0 0 9000 3 [])
    Arrives s 2 (haulPkt 2 0 0 9000 3 []) 0 0 0 outerPartner outerPolicy t []
    ∧ ctxState (setRx (modHaul t 0 0 0 (fun x => { x with heard := now t })) (ctxRecord 0) 1 0) (getJob t 0) 0 0 = 1 :=
  ⟨arrives_of _ _ _ _ (by decide +kernel) (by decide +kernel) (by decide +kernel) (by decide +kernel) (by decide +kernel) (by decide +kernel), by decide +kernel⟩
theorem witness_bootTypes : (packetOf (.haulBootAnchorReceive 0 0 (haulPkt 3 0 0 9000 3 []))).map (·.1) = some 3 ∧ (packetOf (.haulBootMomentumReceive 0 0 (haulPkt 4 0 0 9000 3 []))).map (·.1) = some 4
    ∧ fieldBe (haulPkt 3 0 0 9000 3 []) 3 1 = 3 ∧ fieldBe (haulPkt 4 0 0 9000 3 []) 3 1 = 4 := by decide +kernel
theorem witness_boot : let s := haulState 4 id
    Arrives s 3 (haulPkt 3 0 0 9000 3 []) 0 0 0 outerPartner outerPolicy (checked s (haulPkt 3 0 0 9000 3 [])) []
    ∧ Arrives s 4 (haulPkt 4 0 0 9000 3 []) 0 0 0 outerPartner outerPolicy (checked s (haulPkt 4 0 0 9000 3 [])) [] :=
  ⟨arrives_of _ _ _ _ (by decide +kernel) (by decide +kernel) (by decide +kernel) (by decide +kernel) (by decide +kernel) (by decide +kernel),
   arrives_of _ _ _ _ (by decide +kernel) (by decide +kernel) (by decide +kernel) (by decide +kernel) (by decide +kernel) (by decide +kernel)⟩
theorem witness_parity : let s := haulState 1 (fun x => { x with recvs := [newRecv 1 3 0 9000] })
    let d := haulPkt 5 0 0 9000 3 []
    Arrives s 5 d 0 0 0 outerPartner outerPolicy (checked s d) [] ∧ (getHaul (getJob (checked s d) 0) 0 0).parity = [] :=
  ⟨arrives_of _ _ _ _ (by decide +kernel) (by decide +kernel) (by decide +kernel) (by decide +kernel) (by decide +kernel) (by decide +kernel), by decide +kernel⟩
/-- Segments 0 and 1 of a haul under numbers 0 and 1; number 1 is missing. -/
def holdsOne : HaulCtx := { HaulCtx.reset with recvs := [{ newRecv 1 3 0 8200 with segs := [(0, [1])], seqs := [(0, 0)] }] }
theorem witness_parityRebuilds : (rebuilt holdsOne 1 0 ⟨3, 8200, 0, 2, 0, [3]⟩).map (fun x => (x.1, x.2.1, x.2.2.1)) = some (1, 1, 1) ∧ seqFate 1 0 1 = .fresh
    ∧ rebuilt holdsOne 1 0 ⟨3, 8200, 0, 3, 0, [3]⟩ = none ∧ missingOf 1 0 ⟨3, 8200, 0, 3, 0, [3]⟩ = [1, 2] := by decide +kernel
theorem witness_olderEpoch : let d := haulPkt 1 0 0 9000 3 []
    let s := modJob (haulState 1 id) 0 (fun j => { j with image := some { outerImage with tensors := [] }, oldImage := some (outerImage, [], 0), cut := { j.cut with epoch := j.cut.epoch + 1 } })
    findCtxs s d = [] ∧ olderEpoch s d = some 0 ∧ snapshotReads s 0 = false ∧ 84 ≤ d.length := by decide +kernel
def ackBody : List Byte := toLe 8 1 ++ toLe 8 0
theorem witness_ack : let s := haulState 1 (fun x => { x with flight := [⟨0, (0, 3, 0), 0, 0, 1, false, 9⟩], sends := [{ newSend 0 3 0 0 9000 with next := 1, seq0 := 0 }] })
    let d := haulPkt 6 0 0 0 0xFFFFFFFF ackBody
    let t := checked s d
    Arrives s 6 d 0 0 0 outerPartner outerPolicy t ackBody ∧ (getHaul (getJob t 0) 0 0).flight = [⟨0, (0, 3, 0), 0, 0, 1, false, 9⟩]
    ∧ covers (fieldLe ackBody 0 8) (fieldLe ackBody 8 8) 0 = true ∧ (insertNat [] (0 - 0)).length < segCount 9000 ∧ PlainMem t (ctxRecord 0) 64
    ∧ (parseHdr d).round = 0xFFFFFFFF ∧ partnerRec (getJob t 0) 0 + 32 ≤ ctxRecord 0 :=
  ⟨arrives_of _ _ _ _ (by decide +kernel) (by decide +kernel) (by decide +kernel) (by decide +kernel) (by decide +kernel) (by decide +kernel), by decide +kernel, by decide, by decide,
   by decide +kernel, by decide +kernel, by decide +kernel⟩
theorem witness_keepalive : let s := haulState 3 id
    let d := haulPkt 7 0 0 0 2 []
    Arrives s 7 d 0 0 0 outerPartner outerPolicy (checked s d) [] ∧ PlainMem (checked s d) (ctxRecord 0) 64 ∧ roundRec (getJob (checked s d) 0) + 2112 ≤ ctxRecord 0 :=
  ⟨arrives_of _ _ _ _ (by decide +kernel) (by decide +kernel) (by decide +kernel) (by decide +kernel) (by decide +kernel) (by decide +kernel), by decide +kernel, by decide +kernel⟩
theorem witness_refuse : let s := haulState 3 (fun x => { x with own := some (2, [], []) })
    let d := haulPkt 8 0 0 0 2 []
    Arrives s 8 d 0 0 0 outerPartner outerPolicy (checked s d) [] ∧ ctxState (checked s d) (getJob (checked s d) 0) 0 0 = 3
    ∧ (getHaul (getJob (checked s d) 0) 0 0).own = some (2, [], []) ∧ (2 : Nat) = (parseHdr d).round :=
  ⟨arrives_of _ _ _ _ (by decide +kernel) (by decide +kernel) (by decide +kernel) (by decide +kernel) (by decide +kernel) (by decide +kernel), by decide +kernel, by decide +kernel, by decide +kernel⟩
theorem witness_oldIncarnation : let s := wrLe (haulState 1 id) (ctxRecord 0 + 8) 4 2
    let d := haulPkt 7 0 0 0 2 []
    (parseHdr d).inc < rdLe (checked s d) (ctxRecord 0 + 8) 4 ∧ (checkPkt s d).2 = some (0, 0, 0, []) ∧ ctxState (checked s d) (getJob (checked s d) 0) 0 0 = 1 := by decide +kernel
/-- One haul of two segments waits, in a ROUND_BUF of zeros. -/
def sendState (tx : Nat) : State := wrLe (haulState 1 (fun x => { x with sends := [newSend 0 3 0 0 64] })) (ctxRecord 0 + 0x18) 8 tx
theorem witness_send : let s := sendState 0
    (getJob s 0).phase = .running ∧ snapshotReads s 0 = false ∧ ctxState s (getJob s 0) 0 0 = 1 ∧ (getRtt (getJob s 0) 0).paced ≤ now s
    ∧ shardPolicy (getJob s 0) 0 = some outerPolicy ∧ bit outerPolicy.flags 1 = false ∧ (getHaul (getJob s 0) 0 0).sends = [newSend 0 3 0 0 64]
    ∧ (0 : Nat) < segCount 64 ∧ rdLe s (ctxRecord 0 + 0x18) 8 - rdLe s (ctxRecord 0 + 0x20) 8 = 0 ∧ (haulSegment s (getJob s 0) 0 (newSend 0 3 0 0 64) 0).isSome = true := by decide +kernel
theorem witness_sendLeaves : let s := sendState 0
    let w := sendPkt s 0 0 0 (dataPkt (newSend 0 3 0 0 64) 0 0 (List.replicate 40 0))
    haulSegment s (getJob s 0) 0 (newSend 0 3 0 0 64) 0 = some (List.replicate 40 0) ∧ w.isSome = true
    ∧ w.map (fun w => (getHaul (getJob w 0) 0 0).sends) = some [newSend 0 3 0 0 64] ∧ w.map (fun w => (getHaul (getJob w 0) 0 0).flight) = some [] := by decide +kernel
theorem witness_sendFull : rdLe (sendState 64) (ctxRecord 0 + 0x18) 8 - rdLe (sendState 64) (ctxRecord 0 + 0x20) 8 = 64 := by decide +kernel
def flightState : State :=
  { haulState 1 (fun x => { x with sends := [{ newSend 0 3 0 0 64 with seq0 := 0, next := 1 }], flight := [⟨0, (0, 3, 0), 0, 0, 0, false, 1000⟩], ackDue := (1, 0) }) with time := { State.reset.time with tb := 100000 } }
theorem witness_rto : let s := flightState
    let w := sendPkt s 0 0 0 (dataPkt { newSend 0 3 0 0 64 with seq0 := 0, next := 1 } 0 0 (List.replicate 40 0))
    snapshotReads s 0 = false ∧ (getHaul (getJob s 0) 0 0).flight = [⟨0, (0, 3, 0), 0, 0, 0, false, 1000⟩] ∧ 0 + 1000 ≤ now s
    ∧ haulSegment s (getJob s 0) 0 { newSend 0 3 0 0 64 with seq0 := 0, next := 1 } 0 = some (List.replicate 40 0)
    ∧ w.map (fun w => (getHaul (getJob w 0) 0 0).flight) = some [⟨0, (0, 3, 0), 0, 0, 0, false, 1000⟩] := by decide +kernel
theorem witness_ackDelay : (getHaul (getJob flightState 0) 0 0).ackDue = (1, 0) ∧ 0 + 100000 ≤ now flightState ∧ snapshotReads flightState 0 = false := by decide +kernel
def longState (c : Nat) : State := { haulState c id with time := { State.reset.time with tb := 10000000000 } }
theorem witness_keepaliveTimer : let s := longState 2
    (getJob s 0).round.policy ≠ none ∧ ctxState s (getJob s 0) 0 0 = 2 ∧ (getHaul (getJob s 0) 0 0).kept + 1000000000 ≤ now s ∧ snapshotReads s 0 = false := by decide +kernel
theorem witness_catchupTimeout : let s := longState 3
    ctxState s (getJob s 0) 0 0 = 3 ∧ (getHaul (getJob s 0) 0 0).heard + 10000000000 ≤ now s ∧ (getJob s 0).image.bind (fun im => masterAt im 0) = some gradMaster
    ∧ (partnersOf (getJob s 0) 0)[0]? = some (outerPartner, 0) ∧ PlainMem s (jobCtx (getJob s 0) 0 0) 64 ∧ roundShard (getJob s 0) 0 + 64 ≤ jobCtx (getJob s 0) 0 0 := by decide +kernel
def portState (f : BPort → BPort) : State := modPort onState 0 (fun p => f { p with st := .up, lanes := List.range 16, spare := [16, 17] })
/-- A flit with the CRC of its first 504 bytes. -/
def flitOf (fseq fack type flags : Nat) (payload : List Byte) : List Byte := flitBytes fseq fack type flags payload
theorem witness_portDead : carries (getPort State.reset 0) = false ∧ carries (getPort (portState id) 0) = true ∧ (getPort (portState (fun p => { p with retrain := true })) 0).retrain = true := by decide +kernel
theorem witness_flitBad : let p := getPort (portState id) 0
    ([] : List Byte).length ≠ 512 ∧ p.naked = false ∧ p.fails < 7 ∧ (getPort (portState (fun p => { p with fails := 7 })) 0).fails = 7
    ∧ (getPort (portState (fun p => { p with naked := true })) 0).naked = true ∧ fieldBe ([1, 1] : List Byte) 0 2 ≠ p.rxNext := by decide +kernel
theorem flit_sound (fseq fack type flags : Nat) (payload : List Byte) (h : (toBe 2 fseq ++ toBe 2 fack ++ toBe 1 type ++ toBe 1 flags ++ [0, 0] ++ padTo 0 496 payload).length = 504) :
    (flitOf fseq fack type flags payload).take 0x1F8 = toBe 2 fseq ++ toBe 2 fack ++ toBe 1 type ++ toBe 1 flags ++ [0, 0] ++ padTo 0 496 payload := by
  unfold flitOf flitBytes
  simp only
  rw [List.take_append_of_le_length (by omega), List.take_of_length_le (by omega)]
/-- The zero flit is sound: its CRC is 0, and it is an IDLE flit. -/
theorem witness_flitIdle : (List.replicate 512 (0 : Byte)).length = 512 ∧ crc64 ((List.replicate 512 (0 : Byte)).take 0x1F8) = 0 ∧ fieldBe (List.replicate 512 (0 : Byte)) 0x1F8 8 = 0
    ∧ fieldBe (List.replicate 512 (0 : Byte)) 4 1 = 0 := by
  refine ⟨List.length_replicate .., ?_, by decide +kernel, by decide +kernel⟩
  rw [List.take_replicate]; exact crc64_zeros _
theorem witness_nak : (getPort (portState (fun p => { p with replay := [(4, []), (5, [])] })) 0).retrain = false
    ∧ ((getPort (ackFlits (portState (fun p => { p with replay := [(4, []), (5, [])] })) 0 4) 0).replay.map Prod.fst) = [5] := by decide +kernel
theorem witness_retrain : let s := portState (fun p => { p with retrain := true, marked := [3] })
    carries (getPort s 0) = true ∧ (getPort s 0).retrain = true ∧ (getPort s 0).trainFails < 2 ∧ (getPort s 0).marked = [3] ∧ (getPort s 0).spare = [16, 17] ∧ s.self.link ≠ some 0
    ∧ 2 ≤ (getPort (portState (fun p => { p with retrain := true, trainFails := 2 })) 0).trainFails ∧ (getPort (portState (fun p => { p with retrain := true })) 0).marked = [] := by decide +kernel
theorem witness_ber : let s := portState (fun p => { p with overs := [(2, 1)] })
    (getPort s 0).lanes.Nodup ∧ 2 ∈ (getPort s 0).lanes ∧ belowLimit s.boot.qual.2 36 (10 ^ 12) = false ∧ belowLimit s.boot.qual.2 36 0 = true ∧ 1 ≤ Tab.get 0 (getPort s 0).overs 2 := by decide +kernel
theorem witness_returns : let s := modPort onState 0 (fun p => { p with st := .down })
    (getPort s 0).st = .down ∧ 16 ≤ ((List.range 18).filter (fun l => !unusable s (unitKey 4 (laneUnit 0 l)))).length := by decide +kernel
def flowState (h : List HeldFrame) : State := { hostState with board := { hostState.board with flows := [{ newFlow 9 0 7 with unacked := h }] }, time := { hostState.time with tb := 200000 } }
theorem witness_siteAck : let s := flowState [⟨0, 3, [], 0, 0, 0⟩]
    s.board.flows.find? (sameFlow 9 0 7) = some { newFlow 9 0 7 with unacked := [⟨0, 3, [], 0, 0, 0⟩] } ∧ (0 : Nat) ≠ notSent ∧ (∀ f ∈ s.board.flows, sameFlow 9 0 8 f = false) := by decide +kernel
theorem witness_siteRetx : let s := flowState [⟨0, 3, [], 0, 8, 0⟩]
    let f := getFlow s 9 0 7
    f.unacked = [⟨0, 3, [], 0, 8, 0⟩] ∧ f.down = false ∧ 0 + 200000 ≤ now s ∧ s.board.flows.find? (sameFlow 9 0 7) = some f := by decide +kernel
/-- The job of tag 7 is open, and its partition has no cipher slot: the frame is lost on its way, and the retry counts. -/
theorem witness_siteResend : let s := { gradState [] id with board := { State.reset.board with flows := [{ newFlow 9 0 7 with unacked := [⟨0, 3, [], 0, 1, 0⟩] }] }, time := { State.reset.time with tb := 200000 } }
    let f := getFlow s 9 0 7
    (putFrame s f ⟨0, 3, [], 0, 1, f.port⟩).2 = true ∧ getFlow (putFrame s f ⟨0, 3, [], 0, 1, f.port⟩).1 9 0 7 = f ∧ f.down = false ∧ 0 + 200000 ≤ now s := by decide +kernel
theorem witness_siteWaits : (putFrame (flowState [⟨0, 3, [], 0, 1, 0⟩]) (getFlow (flowState [⟨0, 3, [], 0, 1, 0⟩]) 9 0 7) ⟨0, 3, [], 0, 1, 0⟩).2 = false := by decide +kernel
/-- Site port 2 serves position 2 for partition 0, and is up. -/
def pathState (h : List HeldFrame) : State :=
  modSite (flowState h) 2 (fun p => { p with st := .up, fitted := true, serves := some 2, entry := padTo 0 64 [0, 1, 1] })
theorem witness_flowMove : let s := pathState [⟨0, 3, [], notSent, 0, 5⟩]
    flowPort s ((jobOfTag s 7).getD 0 / 2) 9 0 = some 2 ∧ (getFlow s 9 0 7).port ∉ pathSet s 0 ∧ portAt s (getFlow s 9 0 7).port = none ∧ (getFlow s 9 0 7).unacked ≠ []
    ∧ flowPort State.reset 0 9 0 = none := by decide +kernel
theorem test_ackTimer : let u := after (exec (.siteAckTimer 9 0 7 [0, 1, 3]) (flowState []))
    ((getFlow u 9 0 7).rxBase, (getFlow u 9 0 7).rxHeld) = (2, [3]) := by decide +kernel
theorem witness_linkChange : (getSite (pathState []) 2).fitted = true ∧ (getSite (pathState []) 2).st = .up ∧ (getSite State.reset 2).fitted = false
    ∧ (getSite (modSite { pathState [] with board := { (pathState []).board with flows := [] } } 2 (fun p => { p with st := .down })) 2).st = .down := by decide +kernel
theorem witness_siteSpared : let s := modSite (modSite { hostState with time := { hostState.time with tb := 10000000000 } } 2 (fun p => { p with st := .down, serves := some 2, downSince := some 0 })) 8 (fun p => { p with st := .up, trained := true, serves := none })
    (getSite s 2).serves = some 2 ∧ (getSite s 2).downSince = some 0 ∧ (getSite s 2).st = .down ∧ 0 + 10000000000 ≤ now s ∧ (getSite s 8).trained = true ∧ (getSite s 8).st = .up
    ∧ (getSite s 8).serves = none ∧ s.board.flows = [] ∧ s.self.link ≠ some 15 := by decide +kernel
theorem witness_watch : (∀ u ∈ List.replicate 10 91, 90 < u) ∧ (∀ u ∈ List.replicate 60 29, u < 30)
    ∧ 2 ≤ (pathSet (modSite (pathState []) 3 (fun p => { p with st := .up, fitted := true, serves := some 3, entry := padTo 0 64 [0, 1, 1] })) 0).length := by decide +kernel
theorem witness_arp : let s := modSite onState 1 (fun p => { p with st := .up, entry := padTo 0 64 ([0, 2] ++ List.replicate 0x22 0 ++ [10, 0, 0, 1]) })
    (getSite s 1).entry ≠ [] ∧ bit (fieldLe (getSite s 1).entry 1 1) 1 = true ∧ fieldBe (getSite s 1).entry 0x24 4 = 0x0A000001 := by decide +kernel
def testState (f : SelfSt → SelfSt) : State := modSelf { ccState with boot := { ccState.boot with ready := true }, time := { ccState.time with tb := 2000000000000 } } f
theorem witness_tick : let s := testState (fun x => { x with nextTick := some 1, flags := 3 })
    s.self.nextTick = some 1 ∧ 1 ≤ now s ∧ s.self.slice = none ∧ s.self.line = none ∧ s.self.reqs = [] ∧ nextUnit s 0 = some 0 ∧ lbOfPb s 0 = some 0
    ∧ lbOfPb (modBoot s (fun b => { b with phys := [] })) 0 = none ∧ nextUnit (modBoot s (fun b => { b with phys := [] })) 0 = some 0 := by decide +kernel
theorem witness_tickCipher : let s := testState (fun x => { x with nextTick := some 1, flags := 9 })
    let s := { s with cipher := { s.cipher with place := [(4, 0)], spare := some 12 } }
    s.cipher.testing = none ∧ s.boot.cipherSkip = false ∧ s.cipher.testDue = [] ∧ nextUnit s 1 = some 0 ∧ s.cipher.place.find? (fun e => e.2 == 0) = some (4, 0) := by decide +kernel
theorem witness_tickLink : let s := testState (fun x => { x with nextTick := some 1, flags := 17 })
    let s := { s with board := { s.board with slotId := 0 } }
    let p := modPort s 0 (fun p => { p with st := .up, spare := [16] })
    nextUnit p 2 = some 0 ∧ p.self.link = none ∧ nextUnit s 2 = some 7 := by decide +kernel
theorem witness_sweepOver : let s := testState (fun x => { x with cipher := { x.cipher with next := 13 } })
    (getSweep s 1).next ≠ 0 ∧ nextUnit s 1 = none := by decide +kernel
theorem witness_withdraw : let s := modCtx (testState (fun x => { x with line := some (0, 2000000000000, true) })) 0 0 (fun x => { x with running := none })
    s.self.slice = none ∧ lbOfPb s 0 = some 0 ∧ mayWithdraw s 0 true = true ∧ now s ≤ 2000000000000 + s.self.interval * 1000000
    ∧ mayWithdraw (testState (fun x => { x with line := some (0, 2000000000000, true) })) 0 true = false := by decide +kernel
theorem witness_sliceDone : let s := testState (fun x => { x with slice := some (0, some 0), parts := 6 })
    s.self.slice = some (0, some 0) ∧ bit s.self.parts 1 = true := by decide +kernel
theorem witness_cipherDone : let s := { testState id with cipher := { State.reset.cipher with testing := some (0, 4), place := [(4, 12)] } }
    s.cipher.testing = some (0, 4) ∧ Tab.find s.cipher.place 4 = some 12 := by decide +kernel
theorem witness_linkDone : let s := modPort (testState (fun x => { x with link := some 0 })) 0 (fun p => { p with spare := [16, 17] })
    s.self.link = some 0 ∧ 16 ∈ (getPort s 0).spare := by decide +kernel
theorem witness_wire : let s := testState id
    belowLimit s.boot.qual.2 36 (10 ^ 12) = false ∧ wireServes s 5 = some 5 ∧ (spareWires s 0).find? (fun x => x / 1024 == 0) = some 512 ∧ s.self.link ≠ some 7
    ∧ belowLimit s.boot.qual.2 36 0 = true := by decide +kernel
theorem witness_engine : let s := modBoot (testState id) (fun b => { b with engines := [(0, 0), (1, 1)] })
    Tab.find s.boot.engines 1 = some 1 ∧ freeEngines s = [2, 3, 4, 5, 6, 7, 8, 9] ∧ Tab.find s.boot.engines 5 = none := by decide +kernel
theorem witness_restart : let s := testState (fun x => { x with counted := 0, flags := 1 })
    s.boot.ready = true ∧ bit s.self.flags 1 = false ∧ bit s.self.flags 2 = false ∧ 1280000000000 ≤ now s - s.self.counted := by decide +kernel
theorem witness_step_keeps : MemCanon hostState ∧ ∃ t, step { hostState with pending := [.memPatrol 0 0 0] } = .next t := by
  exact ⟨by unfold MemCanon; decide +kernel, _, rfl⟩

end Sys2Proof.Tests
end

section
/-! PROOF. A CODED block that is wrong in size: what a reader of its bytes and of its lines receives (R86, R260). -/

namespace Sys2Proof.Machine

/-! ## Addresses of working memory -/

theorem isWindow_eq_false_of_lt_memTop {a : Nat} (h : a < memTop) : isWindow a = false := by
  have hw : ¬ winBase ≤ a := by
    unfold memTop at h
    unfold winBase
    omega
  simp [isWindow, hw]

/-- Working memory lies below the alias bits. -/
theorem plainAddr_of_lt_memTop {a : Nat} (h : a < memTop) : plainAddr a = a := by
  have halias : bits a 45 44 = 0 := by
    unfold memTop at h
    unfold bits
    omega
  simp [plainAddr, isWindow_eq_false_of_lt_memTop h, halias]

theorem blockState_congr {s : State} {a b : Nat} (h : a / 2048 = b / 2048) : blockState s a = blockState s b := by
  simp only [blockState, h]

/-! ## Raising a memory event -/

theorem raiseMem_hostOnly (s : State) (code a : Nat) : HostOnly s (raiseMem s code a) := by
  unfold raiseMem
  dsimp only
  split
  · exact raisePart_hostOnly s _ code _ _
  · exact raiseAll_hostOnly s code _ _

@[simp] theorem raiseMem_mem (s : State) (code a : Nat) : (raiseMem s code a).mem = s.mem := by
  have h : raiseMem s code a = { s with host := (raiseMem s code a).host } := raiseMem_hostOnly s code a
  rw [h]

/-! ## Reading several bytes -/

@[simp] theorem rdData_length (s : State) (a n : Nat) : (rdData s a n).length = n := by
  simp [rdData, rdBytes]

/-- One tagged byte tags the whole read. -/
theorem rdTagged_of_rdByte {s : State} {a n k : Nat} (hk : k < n) (h : (rdByte s (a + k)).2 = true) : rdTagged s a n = true :=
  List.any_eq_true.mpr ⟨rdByte s (a + k), List.mem_map.mpr ⟨k, List.mem_range.mpr hk, rfl⟩, h⟩

/-! ## The wrong block -/

/-- The block of working memory at `b` is CODED in `n` sectors that do not expand to the declared size (R260). -/
structure WrongBlock (s : State) (b n : Nat) : Prop where
  aligned : b % 2048 = 0
  inMem : b < memTop
  coded : blockState s b = .coded n
  wrong : expandBlock n (Mem.read s.mem.bytes b (64 * n)) = none

/-- Only the memory decides whether a block is wrong. -/
theorem WrongBlock.of_mem_eq {s u : State} {b n : Nat} (h : WrongBlock s b n) (hm : u.mem = s.mem) : WrongBlock u b n where
  aligned := h.aligned
  inMem := h.inMem
  coded := by simpa only [blockState, hm] using h.coded
  wrong := by simpa only [hm] using h.wrong

theorem WrongBlock.byte_lt_memTop {s : State} {b n k : Nat} (h : WrongBlock s b n) (hk : k < 2048) : b + k < memTop := by
  obtain ⟨ha, hm, -, -⟩ := h
  unfold memTop at *
  omega

/-- R86: every byte of a wrong block reaches its reader with a poison tag, whether or not its stack is in service. -/
theorem WrongBlock.rdByte_tagged {s : State} {b n k : Nat} (h : WrongBlock s b n) (hk : k < 2048) : (rdByte s (b + k)).2 = true := by
  have hblock : (b + k) / 2048 * 2048 = b := by
    have := h.aligned
    omega
  have hcoded : blockState s (b + k) = .coded n := by
    have := h.aligned
    rw [blockState_congr (b := b) (by omega), h.coded]
  unfold rdByte
  rw [isWindow_eq_false_of_lt_memTop (h.byte_lt_memTop hk), hcoded]
  dsimp only
  rw [hblock, h.wrong]
  cases stackDown s (b + k) <;> simp

/-- A line of a wrong block meets that block and no other. -/
theorem WrongBlock.wrongBlocks_line {s : State} {b n k : Nat} (h : WrongBlock s b n) (hk : k < 32) :
    wrongBlocks s (b + 64 * k) 64 = [b] := by
  have ha := h.aligned
  have hcount : (b + 64 * k + 64 + 2047) / 2048 - (b + 64 * k) / 2048 = 1 := by omega
  have hblock : (b + 64 * k) / 2048 * 2048 = b := by omega
  unfold wrongBlocks
  rw [isWindow_eq_false_of_lt_memTop (h.byte_lt_memTop (by omega)), hcount]
  simp [List.range_one, hblock, h.coded, h.wrong]

theorem WrongBlock.noteSizes_line {s : State} {b n k : Nat} (h : WrongBlock s b n) (hk : k < 32) :
    noteSizes s (b + 64 * k) 64 = raiseMem s 0x0370 b := by
  unfold noteSizes
  rw [h.wrongBlocks_line hk, List.foldl_cons, List.foldl_nil]

/-- A clean read of a line of a wrong block raises COMP_SIZE with the block's address and replies with poison. -/
theorem WrongBlock.doMemRead_line {s : State} {b n k : Nat} (h : WrongBlock s b n) (hk : k < 32) (row : Nat) :
    doMemRead (b + 64 * k) row 0 s =
      { raiseMem s 0x0370 b with mem := { s.mem with reply := (rdData (raiseMem s 0x0370 b) (b + 64 * k) 64, true) } } := by
  have hlt : b + 64 * k < memTop := h.byte_lt_memTop (by omega)
  have hline : plainAddr (b + 64 * k) / 64 * 64 = b + 64 * k := by
    have := h.aligned
    rw [plainAddr_of_lt_memTop hlt]
    omega
  have hclean : lineEcc s (b + 64 * k) row 0 = s := by simp [lineEcc]
  have htag : rdTagged (raiseMem s 0x0370 b) (b + 64 * k) 64 = true :=
    rdTagged_of_rdByte (k := 0) (by omega)
      ((h.of_mem_eq (raiseMem_mem s 0x0370 b)).rdByte_tagged (k := 64 * k) (by omega))
  simp only [doMemRead, hline, if_neg (Nat.not_le.mpr hlt), hclean, h.noteSizes_line hk, htag, raiseMem_mem]

theorem exec_memRead (addr row ecc : Nat) (s : State) : exec (.memRead addr row ecc) s = .next (doMemRead addr row ecc s) := rfl

/-- Settles O47: both clauses rest on the block alone, for any byte of a wrong block is tagged and any line of it meets just
that block; raising the event leaves the memory that the reply is then read from. -/
theorem wrongSizeBlock : Obligations.WrongSizeBlock := by
  unfold Obligations.WrongSizeBlock
  intro s b n ha hm _ hcoded hwrong
  have h : WrongBlock s b n := ⟨ha, hm, hcoded, hwrong⟩
  refine ⟨fun k hk => h.rdByte_tagged hk, fun k row hk => ?_⟩
  refine ⟨rdData (raiseMem s 0x0370 b) (b + 64 * k) 64, rdData_length _ _ _, ?_⟩
  rw [exec_memRead, h.doMemRead_line hk]

end Sys2Proof.Machine
end

section
/-! PROOF. The codes of FP4 and T2 and the E8M0 scales: the values they stand for, and the scale of a block of zeros (R133, R134, R137). -/

namespace Sys2Proof.Machine

/-! ## The rational number of a value -/

theorem two_ne_zero_rat : (2 : Rat) ≠ 0 := by decide

/-- Scaling a value is multiplication by the power of two. -/
theorem Val.asRat_scale (v : Val) (k : Int) : (v.scale k).asRat = v.asRat.map (· * 2 ^ k) := by
  cases v with
  | fin neg m e => simp only [Val.scale, Val.asRat, Option.map_some, Rat.zpow_add two_ne_zero_rat, Rat.mul_assoc]
  | poison | nan | inf neg => rfl

/-! ## The tables of codes -/

/-- R133: bit 3 is the sign, bits 2 and 1 the exponent of bias 1, bit 0 the mantissa; exponent 0 holds the subnormals. -/
theorem codeVal_fp4_table :
    [0, 1, 2, 3, 4, 5, 6, 7, 8, 9, 10, 11, 12, 13, 14, 15].map (codeVal 7) =
      [.fin false 0 (-1), .fin false 1 (-1), .fin false 2 (-1), .fin false 3 (-1), .fin false 2 0, .fin false 3 0, .fin false 2 1, .fin false 3 1,
        .fin true 0 (-1), .fin true 1 (-1), .fin true 2 (-1), .fin true 3 (-1), .fin true 2 0, .fin true 3 0, .fin true 2 1, .fin true 3 1] := by
  decide

theorem asRat_codeVal_fp4_table :
    [0, 1, 2, 3, 4, 5, 6, 7, 8, 9, 10, 11, 12, 13, 14, 15].map (fun c => (codeVal 7 c).asRat) =
      [0, 1 / 2, 1, 3 / 2, 2, 3, 4, 6, 0, -(1 / 2), -1, -(3 / 2), -2, -3, -4, -6].map some := by
  calc _ = ([0, 1, 2, 3, 4, 5, 6, 7, 8, 9, 10, 11, 12, 13, 14, 15].map (codeVal 7)).map Val.asRat := rfl
    _ = _ := by
      rw [codeVal_fp4_table]
      decide +kernel

/-- R134: the three codes of T2 that are not poison. -/
theorem asRat_codeVal_t2_table : [0, 1, 3].map (fun c => (codeVal 8 c).asRat) = [some 0, some 1, some (-1)] := by
  calc _ = [Val.zero, .fin false 1 0, .fin true 1 0].map Val.asRat := rfl
    _ = _ := by decide +kernel

/-! ## Scales -/

theorem scaleExp_of_le {c : Nat} (h : c ≤ 0xFE) : scaleExp c = some ((c : Int) - 127) := by
  rw [scaleExp, if_neg (by omega)]

theorem elemVal_of_scaleExp {f sc : Nat} {k : Int} (x : Nat) (hf : isNarrow f = true) (hs : scaleExp sc = some k) :
    elemVal f x sc = (codeVal f x).scale k := by
  simp [elemVal, hf, hs]

theorem elemVal_poisonScale {f : Nat} (x : Nat) (hf : isNarrow f = true) : elemVal f x 0xFF = .poison := by
  simp [elemVal, hf, scaleExp]

/-- R137: under scale byte `c` an element whose code stands for 1 has the scale's own value. -/
theorem asRat_elemVal_of_unit {f x c : Nat} (hf : isNarrow f = true) (hx : (codeVal f x).asRat = some 1) (hc : c ≤ 0xFE) :
    (elemVal f x c).asRat = some ((2 : Rat) ^ ((c : Int) - 127)) := by
  rw [elemVal_of_scaleExp x hf (scaleExp_of_le hc), Val.asRat_scale, hx, Option.map_some, Rat.one_mul]

theorem asRat_codeVal_fp4_two : (codeVal 7 2).asRat = some 1 := by
  rw [show codeVal 7 2 = .fin false 2 (-1) by decide]
  decide +kernel

/-! ## A block of zeros -/

/-- Every place of the block is +0. -/
def AllZero (l : List Val) : Prop := ∀ v ∈ l, v = Val.zero

theorem AllZero.map {l : List Val} {g : Val → Val} (h : AllZero l) (hg : g Val.zero = Val.zero) : AllZero (l.map g) :=
  List.forall_mem_map.mpr fun v hv => by rw [h v hv, hg]

theorem AllZero.padTo_zero {l : List Val} (h : AllZero l) (n : Nat) : AllZero (padTo Val.zero n l) := by
  intro v hv
  rcases List.mem_append.mp hv with hv | hv
  · exact h v (List.mem_of_mem_take hv)
  · exact List.eq_of_mem_replicate hv

theorem AllZero.amaxVal_eq_zero {l : List Val} (h : AllZero l) : amaxVal l = Val.zero := by
  induction l with
  | nil => rfl
  | cons v l ih =>
    obtain ⟨rfl, hl⟩ := List.forall_mem_cons.mp h
    exact ih hl

theorem AllZero.hasNonfinite_eq_false {l : List Val} (h : AllZero l) : hasNonfinite l = false := by
  refine List.any_eq_false.mpr fun v hv => ?_
  rw [h v hv]
  simp [Val.zero]

theorem AllZero.hasPoison_eq_false {l : List Val} (h : AllZero l) : hasPoison l = false := by
  refine List.any_eq_false.mpr fun v hv => ?_
  rw [h v hv]
  decide

/-- The pairwise tree of R150 adds +0 and +0 to +0 at each level. -/
theorem AllZero.pairUp_zero {l : List Val} (h : AllZero l) : AllZero (pairUp l) := by
  induction l using pairUp.induct with
  | case1 a b r ih =>
    obtain ⟨rfl, hbr⟩ := List.forall_mem_cons.mp h
    obtain ⟨rfl, hr⟩ := List.forall_mem_cons.mp hbr
    exact List.forall_mem_cons.mpr ⟨by decide, ih hr⟩
  | case2 l hl =>
    rw [pairUp]
    · exact h
    · exact hl

theorem AllZero.treeSum24_eq_zero {l : List Val} (h : AllZero l) (fuel : Nat) : treeSum24 l fuel = Val.zero := by
  induction fuel generalizing l with
  | zero =>
    cases l with
    | nil => rfl
    | cons v l => exact h v List.mem_cons_self
  | succ k ih => exact ih h.pairUp_zero

theorem AllZero.writeNarrow_scale {vs : List (Val × RoundMode)} (h : AllZero (vs.map Prod.fst)) (f : Nat) : (writeNarrow f vs).scale = 0 := by
  simp [writeNarrow, h.amaxVal_eq_zero, h.hasNonfinite_eq_false, h.hasPoison_eq_false, narrowScale, Val.zero]

theorem AllZero.writeT2_scale {vs : List Val} (h : AllZero vs) (n : Nat) : (writeT2 n vs).scale = 0 := by
  have hpad := h.padTo_zero n
  simp only [writeT2, hpad.hasNonfinite_eq_false]
  rw [(hpad.map ?_).treeSum24_eq_zero]
  · rfl
  · decide

theorem AllZero.writeBlock_scale {vs : List (Val × RoundMode)} (h : AllZero (vs.map Prod.fst)) (f b : Nat) : (writeBlock f b vs).scale = 0 := by
  unfold writeBlock
  split
  · exact h.writeT2_scale _
  · exact h.writeNarrow_scale f

/-- Settles O46: the two tables by the codes' own values; the scale of byte `c` through FP4 code 2, which stands for 1, and +0 as the
largest magnitude (FP8, FP4) and as the sum of magnitudes (T2) of a block of zeros. -/
theorem formatCodes : Obligations.FormatCodes := by
  unfold Obligations.FormatCodes
  refine ⟨asRat_codeVal_fp4_table, by decide, by decide, asRat_codeVal_t2_table, rfl, fun c hc => ⟨?_, ?_⟩, fun f x hf => elemVal_poisonScale x hf, ?_⟩
  · exact asRat_elemVal_of_unit rfl asRat_codeVal_fp4_two hc
  · exact Rat.ne_of_gt (Rat.zpow_pos (by decide))
  · intro f b vs _ hz
    exact AllZero.writeBlock_scale (List.forall_mem_map.mpr hz) f b

end Sys2Proof.Machine
end
